-- ==== Sys2Proof/Word.lean ====
section
/-! DEFINITION. The word types of the device (R14) and their plainest arithmetic. -/

namespace Sys2Proof

/-- A byte of memory. -/
abbrev Byte := BitVec 8

/-- A 64-bit scalar register, lane, system register or generic pointer. -/
abbrev Word := BitVec 64

/-- The sixteen 64-bit lanes of a vector register (R133). -/
abbrev Lanes := Vector Word 16

/-- Keys of a physical cluster: die × 248 + physical quad × 4 + position (R329, R331). -/
abbrev ClusterKey := Nat

/-- Keys of a physical core: cluster key × 8 + physical core of the cluster. -/
abbrev CoreKey := Nat

end Sys2Proof
end

