-- ==== Sys2Proof/Config.lean ====
section
/-! DEFINITION. What the spec leaves open and a program can meet: the free values. None has a body, so nothing can be proved of a value. The counter `fresh` of State numbers the draws. -/

namespace Sys2Proof.Config

/-- DESIGN CHOICE (log 5). The 64-bit value drawn at position n, where an effect is stated and its value is not. -/
opaque freeWord : Nat → Word

/-- DESIGN CHOICE (log 7). The ML-DSA-44 signature under the package's identity key of the digest of a quote (R418); the key is the part's own secret. -/
opaque mlDsaSign : List Byte → List Byte

/-- DESIGN CHOICE (log 7). The bytes of the two certificates of R418 that manufacture and the fused secret fix, serial number, public key and signature: key kind (1 root, 2 identity), MEAS0 at its derivation, byte index. -/
opaque certificateByte : Nat → List Byte → Nat → Byte

/-- DESIGN CHOICE (log 8). The bytes of the configuration record that PCSIG digests (R388): the spec lists its fields and not their encoding. Arguments: the firmware's security version, the logical quads in use of each die in service, the fitted memory in GiB of the eight stacks and the sixteen ports, PCTL.SLATE. -/
opaque configRecord : Nat → List (List Nat) → List Nat → Bool → List Byte

end Sys2Proof.Config
end

