-- ==== Sys2Proof/Syntax.lean ====
section
/-! DEFINITION. The instruction set: one constructor for each row of spec/opcode_table.json. A row with an instruction word (R56) carries its fields (R57 to R61); a row that is a step of the device (spec/95) carries the agent that acts and what reaches it from outside. -/

namespace Sys2Proof

/-- A 6-bit scalar specifier in a source position: w0 to w31, o0 to o7, l0 to l3 (R59). -/
abbrev SReg := Fin 44

/-- A 6-bit scalar specifier in a destination position: w0 to w31, o0 to o7 (R59). -/
abbrev DReg := Fin 40

/-- A 5-bit w-register number, a memory base (R58). -/
abbrev WReg := Fin 32

/-- A 5-bit vector specifier: v0 to v15, vl0, vl1 (R60). -/
abbrev VSrc := Fin 18

/-- A vector destination v0 to v15 (R60). -/
abbrev VReg := Fin 16

/-- A mask register m0 to m7 (R60). -/
abbrev MReg := Fin 8

/-- The lookahead field .la0 to .la15 (R62). -/
abbrev La := Fin 16

/-- An exact accumulator, xa0 or xa1. -/
abbrev XAcc := Fin 2

/-- The eight integer types of R19 (TY of format R). -/
inductive IntTy where
  | s8 | s16 | s32 | s64 | n8 | n16 | n32 | n64
  deriving DecidableEq, Repr

/-- The destination level (R21). -/
inductive Level where
  | both | main | last
  deriving DecidableEq, Repr

/-- The four rounding modes (R36). -/
inductive Mode where
  | rne | rtz | rup | rdn
  deriving DecidableEq, Repr

/-- The rounding position: a mode, or .dyn, which takes the mode from fcsr (R21). -/
inductive Rnd where
  | mode (m : Mode)
  | dyn
  deriving DecidableEq, Repr

/-- The scalar floating-point types (FT of format R.f). -/
inductive FTy where
  | f64 | f32 | bf16
  deriving DecidableEq, Repr

/-- The one-bit floating-point type field: .f64 or .f32. -/
inductive FTy2 where
  | f64 | f32
  deriving DecidableEq, Repr

/-- The vector types (VT of R58). -/
inductive VTy where
  | f64 | f32 | s64 | n64 | s32 | n32
  deriving DecidableEq, Repr

/-- The sixteen type codes of R66, in code order. -/
inductive TyCode where
  | s8 | s16 | s32 | s64 | n8 | n16 | n32 | n64 | f64 | f32 | bf16 | e4m3 | e5m2 | e2m1 | e8m0 | ps2
  deriving DecidableEq, Repr

/-- The scopes (SC, FS of R58). -/
inductive Scope where
  | st | co | cl | di | pk | dm
  deriving DecidableEq, Repr

/-- The kinds of FENCE (R174): .a, .r, .f. -/
inductive FenceKind where
  | acq | rel | full
  deriving DecidableEq, Repr

/-- Vector element widths (EW of R58). -/
inductive EWid where
  | n8 | n16 | n32 | n64
  deriving DecidableEq, Repr

/-- Integer types of the atomics (TY of format M.a). -/
inductive ATy where
  | s64 | s32
  deriving DecidableEq, Repr

/-- Types of RADD and RADDS (R425). -/
inductive RTy where
  | s64 | s32 | f64 | f32
  deriving DecidableEq, Repr

/-- An event operand (R181): a scalar register holding the handle, or an index of the image's event table. -/
inductive EvRef where
  | reg (r : SReg)
  | sym (x : Fin 64)
  deriving DecidableEq, Repr

/-- A home of events (R297). -/
inductive Home where
  | cluster (c : ClusterKey)
  | die (d : Nat)
  | package
  deriving DecidableEq, Repr

/-- The atomic operations that reach a home (R171). -/
inductive AtomOp where
  | add | min | max | xchg | cas
  deriving DecidableEq, Repr

/-- What a packet asks of its target (R425, R163): the one-sided operations, the plain accesses in window 0x9, whether a store of n bytes would be accepted (R165), a write of the bytes of an aligned 8-byte word that a mask names (R190), and a report for a server of the target (R441), words 0 to 11 of its record. -/
inductive PacketOp where
  | write | read (n : Nat) | radd (t : RTy) (x : Word)
  | load (n : Nat) | store | atomic (op : AtomOp) (wide : Bool) (x cmp : Word) | fadd (wide : Bool) (x : Word)
  | accept (n : Nat)
  | masked (m : BitVec 8)
  | detAdd (wide : Bool) (x : Word) (desc : Nat) (rank win seq : Nat) | sig
  | foldClose (desc win : Nat)
  | report (words : List Word)
  deriving DecidableEq, Repr

/-- A packet of the fabric (R423): its source, port sequence, group handle and key, the operation it belongs to, the target address and the payload. -/
structure Packet where
  src : Nat
  port : Nat
  seq : Nat
  handle : BitVec 16
  key : Word
  opId : Nat
  total : Nat
  sigVa : Option Nat
  op : PacketOp
  va : Nat
  data : List Byte
  deriving DecidableEq, Repr

/-- An access of the host through BAR4 (R404), or a read of a register: BAR0 offsets, and from 2^29 on those of the command window (R403). -/
inductive HostAccess where
  | read (pa n : Nat)
  | write (pa : Nat) (bytes : List Byte)
  | fetchAdd (pa : Nat) (wide : Bool) (x : Word)
  | swap (pa : Nat) (wide : Bool) (x : Word)
  | cas (pa : Nat) (wide : Bool) (cmp x : Word)
  | register (off : Nat)
  deriving DecidableEq, Repr

/-- What comes back from another package for a pending access (R446): the values of its elements in ascending lane (none for a store), or the lane, cause and detail that ended it. -/
inductive FarReply where
  | values (ws : List Word)
  | failed (lane cause detail : Nat)
  deriving DecidableEq, Repr

/-- The answer of a target to a packet (R432): performed, or the cause and detail of the check that failed. -/
inductive AckReply where
  | performed
  | failed (cause detail : Nat)
  deriving DecidableEq, Repr

/-- One strand position the DCC chooses (R377): physical core, bind position, workspace offset. -/
structure Position where
  core : CoreKey
  pos : Fin 2
  wsp : Nat
  deriving DecidableEq, Repr

/-- One event slot the DCC chooses (R370): event-table index, home, slot. -/
structure SlotChoice where
  entry : Nat
  home : Home
  slot : Nat
  deriving DecidableEq, Repr

/-- The blocks that are tested (R414). store: 0 scratchpad, 1 cluster SRAM, 2 accumulator store, 3 scale memory. -/
inductive Block where
  | sramBank (c : ClusterKey) (core bank store : Nat)
  | gdLane (link : Nat) (dir : Fin 2) (lane : Nat)
  | gfLane (port : Nat) (dir : Fin 2) (lane : Nat)
  | slice (c : ClusterKey) (s : Nat)
  | core (k : CoreKey)
  deriving DecidableEq, Repr

/-- The errors that start a test (R413, R415). -/
inductive ErrKind where
  | corrected | uncorrectable | hang
  deriving DecidableEq, Repr

/-- How a targeted test ends (R415). -/
inductive TestResult where
  | pass | failSpare | failNoSpare
  deriving DecidableEq, Repr

/-- A firmware image as the boot ROM reads it (R416): bytes, signature, root key, whether that key's digest is the fused one, security version and fused counter, and the digest of the firmware's configuration. -/
structure Firmware where
  bytes : List Byte
  sig : List Byte
  key : List Byte
  keyFused : Bool
  svn : Nat
  counter : Nat
  confDigest : List Byte
  deriving DecidableEq, Repr

/-- The instruction set. -/
inductive Instr where
  /-- R99. -/
  | add (d : DReg) (a b : SReg) (t : IntTy) (p : Level)
  /-- R99. -/
  | sub (d : DReg) (a b : SReg) (t : IntTy) (p : Level)
  /-- R99. -/
  | mul (d : DReg) (a b : SReg) (t : IntTy) (p : Level)
  /-- R99. -/
  | mulh (d : DReg) (a b : SReg) (t : IntTy) (p : Level)
  /-- R99. -/
  | mulhn (d : DReg) (a b : SReg) (t : IntTy) (p : Level)
  /-- R99. -/
  | and (d : DReg) (a b : SReg) (t : IntTy) (p : Level)
  /-- R99. -/
  | or (d : DReg) (a b : SReg) (t : IntTy) (p : Level)
  /-- R99. -/
  | xor (d : DReg) (a b : SReg) (t : IntTy) (p : Level)
  /-- R99. -/
  | shl (d : DReg) (a b : SReg) (t : IntTy) (p : Level)
  /-- R99. -/
  | shr (d : DReg) (a b : SReg) (t : IntTy) (p : Level)
  /-- R99. -/
  | sha (d : DReg) (a b : SReg) (t : IntTy) (p : Level)
  /-- R99. -/
  | rol (d : DReg) (a b : SReg) (t : IntTy) (p : Level)
  /-- R99. -/
  | clz (d : DReg) (a : SReg) (t : IntTy) (p : Level)
  /-- R99. -/
  | ctz (d : DReg) (a : SReg) (t : IntTy) (p : Level)
  /-- R99. -/
  | popc (d : DReg) (a : SReg) (t : IntTy) (p : Level)
  /-- R99. -/
  | min (d : DReg) (a b : SReg) (t : IntTy) (p : Level)
  /-- R99. -/
  | max (d : DReg) (a b : SReg) (t : IntTy) (p : Level)
  /-- R99. -/
  | minn (d : DReg) (a b : SReg) (t : IntTy) (p : Level)
  /-- R99. -/
  | maxn (d : DReg) (a b : SReg) (t : IntTy) (p : Level)
  /-- R99. -/
  | slt (d : DReg) (a b : SReg) (t : IntTy) (p : Level)
  /-- R99. -/
  | sltn (d : DReg) (a b : SReg) (t : IntTy) (p : Level)
  /-- R100. -/
  | sel (d : DReg) (a b : SReg) (p : Level)
  /-- R104. -/
  | addi (d : DReg) (a : SReg) (i : BitVec 11) (p : Level)
  /-- R104. -/
  | andi (d : DReg) (a : SReg) (i : BitVec 11) (p : Level)
  /-- R104. -/
  | ori (d : DReg) (a : SReg) (i : BitVec 11) (p : Level)
  /-- R104. -/
  | xori (d : DReg) (a : SReg) (i : BitVec 11) (p : Level)
  /-- R105. -/
  | li (d : DReg) (i : BitVec 17) (p : Level)
  /-- R105. -/
  | lih (d : DReg) (i : BitVec 17) (p : Level)
  /-- R102. -/
  | lea (d : DReg) (a b : SReg) (p : Level)
  /-- R102. -/
  | leaX2 (d : DReg) (a b : SReg) (p : Level)
  /-- R102. -/
  | leaX4 (d : DReg) (a b : SReg) (p : Level)
  /-- R102. -/
  | leaX8 (d : DReg) (a b : SReg) (p : Level)
  /-- R103. -/
  | chk (a b : SReg)
  /-- R106. -/
  | div (d : DReg) (a b : SReg) (h : La)
  /-- R106. -/
  | divn (d : DReg) (a b : SReg) (h : La)
  /-- R106. -/
  | rem (d : DReg) (a b : SReg) (h : La)
  /-- R106. -/
  | remn (d : DReg) (a b : SReg) (h : La)
  /-- R106. -/
  | divS32 (d : DReg) (a b : SReg) (h : La)
  /-- R106. -/
  | divnN32 (d : DReg) (a b : SReg) (h : La)
  /-- R106. -/
  | remS32 (d : DReg) (a b : SReg) (h : La)
  /-- R106. -/
  | remnN32 (d : DReg) (a b : SReg) (h : La)
  /-- R141. -/
  | fsqrt (d : DReg) (a : SReg) (f : FTy) (r : Rnd) (h : La)
  /-- R141. -/
  | fdiv (d : DReg) (a b : SReg) (f : FTy2) (r : Rnd) (h : La)
  /-- R157. -/
  | easgn (d : DReg) (x : XAcc) (h : La)
  /-- R157. -/
  | earnd (d : DReg) (x : XAcc) (r : Rnd) (h : La)
  /-- R157. -/
  | easts (d : DReg) (x : XAcc) (h : La)
  /-- R362. -/
  | halloc (d : DReg) (a b : SReg) (h : La)
  /-- R362. -/
  | hfree (a b : SReg) (h : La)
  /-- R351. -/
  | foldmark (a : SReg) (h : La)
  /-- R107. -/
  | beq (a b : SReg) (o : BitVec 13)
  /-- R107. -/
  | bne (a b : SReg) (o : BitVec 13)
  /-- R107. -/
  | blt (a b : SReg) (o : BitVec 13)
  /-- R107. -/
  | bge (a b : SReg) (o : BitVec 13)
  /-- R107. -/
  | bltn (a b : SReg) (o : BitVec 13)
  /-- R107. -/
  | bgen (a b : SReg) (o : BitVec 13)
  /-- R108. -/
  | bz (a : SReg) (o : BitVec 19)
  /-- R108. -/
  | bnz (a : SReg) (o : BitVec 19)
  /-- R109. -/
  | j (o : BitVec 25)
  /-- R109. -/
  | call (o : BitVec 25)
  /-- R110. -/
  | jr (a : SReg)
  /-- R110. -/
  | ret
  /-- R110. -/
  | callr (a : SReg)
  /-- R113. -/
  | loop (a : SReg) (n : BitVec 12)
  /-- R114. -/
  | loopi (a : WReg) (b c : SReg) (n : BitVec 7)
  /-- R116: the bank whose loop end is due. -/
  | loopEnd (k : CoreKey) (b : Fin 2)
  /-- R119. -/
  | nop
  /-- R120. -/
  | trap (n : BitVec 6)
  /-- R121. -/
  | eret
  /-- R122. -/
  | swapw (a : SReg)
  /-- R123. -/
  | phase
  /-- R124. -/
  | retire
  /-- R125. -/
  | snap
  /-- R126. -/
  | waitt (a : SReg)
  /-- R127. -/
  | rds (d : DReg) (i : BitVec 11) (p : Level)
  /-- R128. -/
  | wrs (a : SReg) (i : BitVec 11)
  /-- R166. -/
  | ldS8 (d : DReg) (b : WReg) (o : BitVec 7) (h : La)
  /-- R166. -/
  | ldN8 (d : DReg) (b : WReg) (o : BitVec 7) (h : La)
  /-- R166. -/
  | ldS16 (d : DReg) (b : WReg) (o : BitVec 7) (h : La)
  /-- R166. -/
  | ldN16 (d : DReg) (b : WReg) (o : BitVec 7) (h : La)
  /-- R166. -/
  | ldS32 (d : DReg) (b : WReg) (o : BitVec 7) (h : La)
  /-- R166. -/
  | ldN32 (d : DReg) (b : WReg) (o : BitVec 7) (h : La)
  /-- R166. -/
  | ldD (d : DReg) (b : WReg) (o : BitVec 7) (h : La)
  /-- R167. -/
  | stB (s : SReg) (b : WReg) (o : BitVec 12)
  /-- R167. -/
  | stH (s : SReg) (b : WReg) (o : BitVec 12)
  /-- R167. -/
  | stW (s : SReg) (b : WReg) (o : BitVec 12)
  /-- R167. -/
  | stD (s : SReg) (b : WReg) (o : BitVec 12)
  /-- R169. -/
  | vld (d : VReg) (e : EWid) (b : WReg) (x : BitVec 6) (k : MReg) (h : La)
  /-- R169. -/
  | vlds (d : VReg) (e : EWid) (b : WReg) (x : SReg) (k : MReg) (h : La)
  /-- R169. -/
  | vldx (d : VReg) (e : EWid) (b : WReg) (x : VSrc) (k : MReg) (h : La)
  /-- R169. -/
  | vst (s : VSrc) (e : EWid) (b : WReg) (x : BitVec 6) (k : MReg)
  /-- R169. -/
  | vstx (s : VSrc) (e : EWid) (b : WReg) (x : VSrc) (k : MReg)
  /-- R171. -/
  | aadd (d : DReg) (c : SReg) (b : WReg) (t : ATy) (s : Scope) (h : La)
  /-- R171. -/
  | amin (d : DReg) (c : SReg) (b : WReg) (t : ATy) (s : Scope) (h : La)
  /-- R171. -/
  | amax (d : DReg) (c : SReg) (b : WReg) (t : ATy) (s : Scope) (h : La)
  /-- R171. -/
  | axchg (d : DReg) (c : SReg) (b : WReg) (t : ATy) (s : Scope) (h : La)
  /-- R171. -/
  | acas (d : DReg) (c : SReg) (b : WReg) (t : ATy) (s : Scope) (h : La)
  /-- R171. -/
  | afadd (d : DReg) (c : SReg) (b : WReg) (t : FTy2) (s : Scope) (h : La)
  /-- R172. -/
  | afaddDet (d : DReg) (c : SReg) (b : WReg) (t : FTy2) (h : La)
  /-- R175. -/
  | fence (k : FenceKind) (s : Scope)
  /-- R136. -/
  | fadd (d : DReg) (a b : SReg) (f : FTy) (r : Rnd) (p : Level)
  /-- R136. -/
  | fsub (d : DReg) (a b : SReg) (f : FTy) (r : Rnd) (p : Level)
  /-- R136. -/
  | fmul (d : DReg) (a b : SReg) (f : FTy) (r : Rnd) (p : Level)
  /-- R136. -/
  | ffma (d : DReg) (a b : SReg) (f : FTy) (r : Rnd) (p : Level)
  /-- R136. -/
  | ffms (d : DReg) (a b : SReg) (f : FTy) (r : Rnd) (p : Level)
  /-- R137. -/
  | fmin (d : DReg) (a b : SReg) (f : FTy) (p : Level)
  /-- R137. -/
  | fmax (d : DReg) (a b : SReg) (f : FTy) (p : Level)
  /-- R138. -/
  | fcmpEq (d : DReg) (a b : SReg) (f : FTy) (p : Level)
  /-- R138. -/
  | fcmpNe (d : DReg) (a b : SReg) (f : FTy) (p : Level)
  /-- R138. -/
  | fcmpLt (d : DReg) (a b : SReg) (f : FTy) (p : Level)
  /-- R138. -/
  | fcmpLe (d : DReg) (a b : SReg) (f : FTy) (p : Level)
  /-- R138. -/
  | fcmpUn (d : DReg) (a b : SReg) (f : FTy) (p : Level)
  /-- R139. -/
  | fclass (d : DReg) (a : SReg) (f : FTy) (p : Level)
  /-- R140. -/
  | fsgnCp (d : DReg) (a b : SReg) (f : FTy) (p : Level)
  /-- R140. -/
  | fsgnNg (d : DReg) (a b : SReg) (f : FTy) (p : Level)
  /-- R140. -/
  | fsgnXr (d : DReg) (a b : SReg) (f : FTy) (p : Level)
  /-- R143. -/
  | fcvt (d : DReg) (a : SReg) (s t : TyCode) (r : Rnd)
  /-- R153. -/
  | mand (d a b : MReg)
  /-- R153. -/
  | mor (d a b : MReg)
  /-- R153. -/
  | mxor (d a b : MReg)
  /-- R153. -/
  | mnot (d a : MReg)
  /-- R153. -/
  | mpop (d : DReg) (a : MReg) (p : Level)
  /-- R154. -/
  | bmany (a : MReg) (o : BitVec 19)
  /-- R154. -/
  | bmall (a : MReg) (o : BitVec 19)
  /-- R145. -/
  | vadd (d : VReg) (a b : VSrc) (k : MReg) (t : VTy) (r : Rnd) (p : Level)
  /-- R145. -/
  | vsub (d : VReg) (a b : VSrc) (k : MReg) (t : VTy) (r : Rnd) (p : Level)
  /-- R145. -/
  | vmul (d : VReg) (a b : VSrc) (k : MReg) (t : VTy) (r : Rnd) (p : Level)
  /-- R149. -/
  | vdiv (d : VReg) (a b : VSrc) (k : MReg) (f : FTy2) (r : Rnd) (h : La)
  /-- R145. -/
  | vmin (d : VReg) (a b : VSrc) (k : MReg) (t : VTy) (p : Level)
  /-- R145. -/
  | vmax (d : VReg) (a b : VSrc) (k : MReg) (t : VTy) (p : Level)
  /-- R145. -/
  | vand (d : VReg) (a b : VSrc) (k : MReg) (t : VTy) (p : Level)
  /-- R145. -/
  | vor (d : VReg) (a b : VSrc) (k : MReg) (t : VTy) (p : Level)
  /-- R145. -/
  | vxor (d : VReg) (a b : VSrc) (k : MReg) (t : VTy) (p : Level)
  /-- R145. -/
  | vshl (d : VReg) (a b : VSrc) (k : MReg) (t : VTy) (p : Level)
  /-- R145. -/
  | vshr (d : VReg) (a b : VSrc) (k : MReg) (t : VTy) (p : Level)
  /-- R146. -/
  | vcmpEq (d : MReg) (a b : VSrc) (k : MReg) (t : VTy)
  /-- R146. -/
  | vcmpNe (d : MReg) (a b : VSrc) (k : MReg) (t : VTy)
  /-- R146. -/
  | vcmpLt (d : MReg) (a b : VSrc) (k : MReg) (t : VTy)
  /-- R146. -/
  | vcmpLe (d : MReg) (a b : VSrc) (k : MReg) (t : VTy)
  /-- R146. -/
  | vcmpUn (d : MReg) (a b : VSrc) (k : MReg) (t : VTy)
  /-- R147. -/
  | vsel (d : VReg) (a b : VSrc) (k : MReg) (p : Level)
  /-- R150. -/
  | vbcast (s : SReg) (v : VReg) (k : MReg) (t : VTy) (p : Level)
  /-- R150. -/
  | vext (s : DReg) (v : VSrc) (n : Fin 16) (t : VTy) (p : Level)
  /-- R150. -/
  | vins (s : SReg) (v : VReg) (n : Fin 16) (t : VTy) (p : Level)
  /-- R147. -/
  | vshuf (d : VReg) (a b : VSrc) (k : MReg) (p : Level)
  /-- R47. -/
  | vredAdd (s : DReg) (v : VSrc) (r : Rnd) (k : MReg) (t : VTy) (p : Level)
  /-- R47. -/
  | vredMin (s : DReg) (v : VSrc) (k : MReg) (t : VTy) (p : Level)
  /-- R47. -/
  | vredMax (s : DReg) (v : VSrc) (k : MReg) (t : VTy) (p : Level)
  /-- R151. -/
  | vcvt (d : VReg) (a : VSrc) (s t : TyCode) (k : MReg) (r : Rnd)
  /-- R149. -/
  | vsqrt (d : VReg) (a : VSrc) (k : MReg) (f : FTy2) (r : Rnd) (h : La)
  /-- R145. -/
  | vabs (d : VReg) (a : VSrc) (k : MReg) (t : VTy) (p : Level)
  /-- R145. -/
  | vneg (d : VReg) (a : VSrc) (k : MReg) (t : VTy) (p : Level)
  /-- R145. -/
  | viota (d : VReg) (k : MReg) (t : VTy) (p : Level)
  /-- R155. -/
  | eamac (x : XAcc) (a b : SReg) (f : FTy2) (h : La)
  /-- R155. -/
  | eamacNg (x : XAcc) (a b : SReg) (f : FTy2) (h : La)
  /-- R155. -/
  | eamac3 (x : XAcc) (a b c : SReg) (f : FTy2) (h : La)
  /-- R155. -/
  | eamac3Ng (x : XAcc) (a b c : SReg) (f : FTy2) (h : La)
  /-- R156. -/
  | eaclr (x : XAcc)
  /-- R156. -/
  | eaadd (x s : XAcc) (h : La)
  /-- R156. -/
  | eaaddNg (x s : XAcc) (h : La)
  /-- R233: the fields are read in the classes that the bound image gives. -/
  | xop (s : Fin 8) (d a b : BitVec 6) (h : La)
  /-- R229. -/
  | xcfg (s : Fin 8) (b : WReg) (h : La)
  /-- R231. -/
  | xdrop (s : Fin 8) (h : La)
  /-- R183. -/
  | offer (d : DReg) (e : EvRef) (a : SReg)
  /-- R185. -/
  | choose (d : DReg)
  /-- R185. -/
  | poll (d : DReg)
  /-- R186. -/
  | withdraw (d : DReg)
  /-- R187. -/
  | evjoin (e : EvRef)
  /-- R187. -/
  | evleave (e : EvRef)
  /-- R188. -/
  | evbind (d : DReg) (e : EvRef) (a : SReg)
  /-- R188. -/
  | evbindU (e : EvRef) (a : SReg)
  /-- R242. -/
  | rqpush (d : DReg) (v a : SReg)
  /-- R243. -/
  | rqpop (d t : DReg) (a : SReg)
  /-- R249. -/
  | qpushSl (d : DReg) (a : WReg) (s : Fin 4)
  /-- R249. -/
  | qpushGth (d : DReg) (a : WReg)
  /-- R249. -/
  | qpushCpy (d : DReg) (a : WReg)
  /-- R252. -/
  | qstat (d : DReg) (a : WReg)
  /-- R267. -/
  | mgang (d : DReg) (a : WReg)
  /-- R343. -/
  | fuse (d : DReg) (a : WReg)
  /-- R347. -/
  | unfuse (d : DReg)
  /-- R427. -/
  | rwr (d s : WReg) (n : SReg)
  /-- R427. -/
  | rwrs (d s : WReg) (n : SReg) (g : WReg)
  /-- R428. -/
  | rrd (d s : WReg) (n : SReg) (g : WReg)
  /-- R429. -/
  | radd (d : WReg) (n : SReg) (t : RTy)
  /-- R354. -/
  | raddDetF64 (d : WReg) (n : SReg)
  /-- R354. -/
  | raddDetF32 (d : WReg) (n : SReg)
  /-- R429. -/
  | radds (d : WReg) (n : SReg) (g : WReg) (t : RTy)
  /-- R148. -/
  | vfma (r : Mode) (d : VReg) (a b c : VSrc) (k : MReg) (p : Level) (f : FTy2)
  /-- R148. -/
  | vfms (r : Mode) (d : VReg) (a b c : VSrc) (k : MReg) (p : Level) (f : FTy2)
  /-- R67. -/
  | illegal (w : BitVec 32)
  /-- R272: the next chunk of the running gang whose member 0 is command i. -/
  | mmaBb (c : ClusterKey) (i : Nat)
  /-- R272: the next chunk of the running gang whose member 0 is command i. -/
  | mmaE4 (c : ClusterKey) (i : Nat)
  /-- R272: the next chunk of the running gang whose member 0 is command i. -/
  | mmaE5 (c : ClusterKey) (i : Nat)
  /-- R272: the next chunk of the running gang whose member 0 is command i. -/
  | mmaDd (c : ClusterKey) (i : Nat)
  /-- R272: the next chunk of the running gang whose member 0 is command i. -/
  | mmaF4 (c : ClusterKey) (i : Nat)
  /-- R272: the next chunk of the running gang whose member 0 is command i. -/
  | mmaP8 (c : ClusterKey) (i : Nat)
  /-- R272: the next chunk of the running gang whose member 0 is command i. -/
  | mmaPi (c : ClusterKey) (i : Nat)
  /-- R273: the next step of the running command i. -/
  | mzero (c : ClusterKey) (i : Nat)
  /-- R274: the next step of the running command i. -/
  | mdrain (c : ClusterKey) (i : Nat)
  /-- R275: the next step of the running command i. -/
  | mswap (c : ClusterKey) (i : Nat)
  /-- R277: the next step of the running command i. -/
  | mscale (c : ClusterKey) (i : Nat)
  /-- R276: the next step of the running command i. -/
  | msts (c : ClusterKey) (i : Nat)
  /-- R287: the next step of the running command i. -/
  | qinit (c : ClusterKey) (i : Nat)
  /-- R288: the next step of the running command i. -/
  | qacc (c : ClusterKey) (i : Nat)
  /-- R289: the next step of the running command i. -/
  | qapl (c : ClusterKey) (i : Nat)
  /-- R289: the next step of the running command i. -/
  | qaplt (c : ClusterKey) (i : Nat)
  /-- R289: the next step of the running command i. -/
  | qapr (c : ClusterKey) (i : Nat)
  /-- R289: the next step of the running command i. -/
  | qaprt (c : ClusterKey) (i : Nat)
  /-- R290: the next step of the running command i. -/
  | qrcp (c : ClusterKey) (i : Nat)
  /-- R293: the next step of the running command i. -/
  | qsave (c : ClusterKey) (i : Nat)
  /-- R293: the next step of the running command i. -/
  | qload (c : ClusterKey) (i : Nat)
  /-- R255: the next step of the running command i. -/
  | gthr (c : ClusterKey) (i : Nat)
  /-- R255: the next step of the running command i. -/
  | cpy (c : ClusterKey) (i : Nat)
  /-- R255: the next step of the running command i. -/
  | cpy2d (c : ClusterKey) (i : Nat)
  /-- R255: the next step of the running command i. -/
  | fill (c : ClusterKey) (i : Nat)
  /-- R247. -/
  | commandLaunch (c : ClusterKey) (q : Fin 6)
  /-- R74. -/
  | commandCompletion (c : ClusterKey) (i : Nat)
  /-- R251. -/
  | commandStop (c : ClusterKey) (i : Nat)
  /-- R345. -/
  | fusedStageStep (d pq : Nat) (j : Fin 16)
  /-- R348. -/
  | fusionFault (d pq : Nat) (j : Fin 16) (cause : Nat)
  /-- R207. -/
  | longLatencyWriteback (k : CoreKey) (b : Fin 2) (n : Nat) (far : Option FarReply)
  /-- R164. -/
  | storeAcceptance (k : CoreKey) (b : Fin 2) (far : Option FarReply)
  /-- R93: the bank whose trap is due. -/
  | trapEntry (k : CoreKey) (b : Fin 2)
  /-- R303: the homes whose boundary this is. -/
  | resolution (homes : List Home)
  /-- R310: the n-th delivery owed. -/
  | eventDelivery (n : Nat)
  /-- R9. -/
  | ceruleanTick
  /-- R440: the oldest waiting report. -/
  | faultReport
  /-- R95. -/
  | resume (tag : BitVec 16) (sid ptr : Word)
  /-- R95. -/
  | skip (tag : BitVec 16) (sid ptr : Word)
  /-- R95. -/
  | kill (tag : BitVec 16) (sid ptr : Word)
  /-- R95. -/
  | edit (tag : BitVec 16) (sid : Word) (pairs : List (Nat × Word))
  /-- R251. -/
  | discard (tag : BitVec 16) (sid ptr : Word)
  /-- R313: a strand, by its launch and index. -/
  | stallFlag (ln : BitVec 16) (lid : BitVec 32)
  /-- R314: the probe of a home takes a strand's flag. -/
  | probe (h : Home) (ln : BitVec 16) (lid : BitVec 32)
  /-- R314. -/
  | probeRecheck (h : Home)
  /-- R217. -/
  | hang (k : CoreKey) (selfCheck : Bool)
  /-- R384. -/
  | remap (k : CoreKey)
  /-- R383. -/
  | migration (k : CoreKey) (b : Fin 2) (dest : Position)
  /-- R379. -/
  | swapThreshold (k : CoreKey)
  /-- R379. -/
  | timeSlice (k : CoreKey)
  /-- R378. -/
  | create (c : ClusterKey) (slot : Fin 16) (ln : BitVec 16) (lid : BitVec 32) (wsp : BitVec 18)
  /-- R378. -/
  | restore (c : ClusterKey) (slot : Fin 16) (ln : BitVec 16) (lid : BitVec 32) (wsp : BitVec 18)
  /-- R378. -/
  | unbind (c : ClusterKey) (slot : Fin 16)
  /-- R378. -/
  | makeActive (c : ClusterKey) (slot : Fin 16)
  /-- R213. -/
  | spill (k : CoreKey)
  /-- R213: bad is a line whose read met an uncorrectable error. -/
  | restoreComplete (k : CoreKey) (bad : Option Nat)
  /-- R236. -/
  | reload (k : CoreKey) (b : Fin 2) (s : Fin 8)
  /-- R365. -/
  | recordAccept (q : Fin 16)
  /-- R366. -/
  | claimTimeout (q : Fin 16)
  /-- R376. -/
  | admission (q : Fin 16) (ln : BitVec 16) (places : List Position) (slots : List SlotChoice)
  /-- R378. -/
  | lstart (ln : BitVec 16)
  /-- R378. -/
  | launchStart
  /-- R380. -/
  | launchCompletion (ln : BitVec 16)
  /-- R381. -/
  | launchReport (q : Fin 16)
  /-- R356: the group whose descriptor lies at this physical address. -/
  | windowClose (desc : Nat)
  /-- R260. -/
  | stepTimeout (c : ClusterKey)
  /-- R259. -/
  | stop (c : ClusterKey) (scope : BitVec 2)
  /-- R259. -/
  | run (c : ClusterKey)
  /-- R312. -/
  | rtick (c : ClusterKey)
  /-- R260. -/
  | step (c : ClusterKey) (score : Fin 8)
  /-- R258. -/
  | externalDebugPin (c : ClusterKey) (scope : BitVec 2)
  /-- R410. -/
  | arm
  /-- R411. -/
  | host
  /-- R410. -/
  | ivoryPin
  /-- R411. -/
  | ivoryLatch
  /-- R338. -/
  | tinv (d : Nat) (v : Word)
  /-- R338. -/
  | tstatDone (d : Nat)
  /-- R333. -/
  | translationWalk (d : Nat) (sp : BitVec 20) (va : Nat)
  /-- R327. -/
  | crossbarMessage (d out : Nat) (reply : Bool) (inputs : List Nat)
  /-- R390. -/
  | flitReplay (l : Fin 4) (ok : Bool)
  /-- R391. -/
  | retrain (l : Fin 4) (spare : Bool)
  /-- R391. -/
  | retrainComplete (l : Fin 4)
  /-- R392. -/
  | retrainAttemptFail (l : Fin 4)
  /-- R389. -/
  | up (l : Fin 4)
  /-- R389. -/
  | rt (l : Fin 4)
  /-- R436. -/
  | packetIngress (p : Packet)
  /-- R423. -/
  | packetAck (port seq : Nat) (r : AckReply)
  /-- R423. -/
  | packetResend (port seq : Nat)
  /-- R427. -/
  | remoteSignalUpdate (src opId : Nat)
  /-- R428. -/
  | rrdReply (opId off : Nat) (bytes : List Byte)
  /-- R439. -/
  | syncMessage (off : BitVec 32) (inSync : Bool)
  /-- R404. -/
  | hostAccess (a : HostAccess)
  /-- R405. -/
  | lqdb (q : Fin 16) (v : Word)
  /-- R405. -/
  | hcompWrite (v : Word)
  /-- R364. -/
  | lqcfgWrite (q : Fin 16) (v : Word)
  /-- R239. -/
  | rcfgWrite (c : ClusterKey) (i : Fin 16) (v : Word)
  /-- R407. -/
  | jcfgWrite (v : Word)
  /-- R397. -/
  | pctlWrite (v : Word)
  /-- R450. -/
  | fctlWrite (v : Word)
  /-- R216. -/
  | fen (k : CoreKey)
  /-- R437. -/
  | groupEntryWrite (g : Fin 256) (i : Fin 16) (v : Word)
  /-- R449: the BAR0 offset of R386. -/
  | registerWrite (off : Nat) (v : Word)
  /-- R416: the image in the mailbox, and the memory fitted on the CXL ports in GiB. -/
  | loadFirmware (f : Firmware) (fit : List Nat)
  /-- R417: the new image key, the owner key's signature over it, and the owner's public key. -/
  | installImageKey (key sig owner : List Byte)
  /-- R418. -/
  | attest (nonce : List Byte)
  /-- R417. -/
  | setOwnerKeyDigest (digest : List Byte)
  /-- R416: the image in the flash, and the memory fitted on the CXL ports in GiB. -/
  | boot (f : Firmware) (fit : List Nat)
  /-- R414. -/
  | selfTest (b : Block) (e : ErrKind)
  /-- R393. -/
  | patrolScrub (pa : Nat) (e : ErrKind)
  /-- R419. -/
  | powerWindow (avg : BitVec 12) (tj tin : BitVec 8)
  /-- R419. -/
  | thermalTrip
  /-- R450. -/
  | galrilFPortUp (j : Fin 36)
  /-- R422. -/
  | galrilFPortDown (j : Fin 36)
  /-- R395. -/
  | cxlLinkUp (p : Fin 16) (fitg : Nat) (ide : Bool)
  /-- R394. -/
  | cxlLinkDown (p : Fin 16)
  /-- R413. -/
  | selfTestResult (b : Block) (r : TestResult)
  deriving DecidableEq, Repr

end Sys2Proof
end

