-- ==== Sys2Proof/WellFormed.lean ====
section
/-! DEFINITION. When an instruction is well formed: what the spec asks of the fields of one word together (R61, R65, R99, R115, R135, R144, R150), and the ranges of the agents that a step of the device names. -/

namespace Sys2Proof

/-- The type tokens that MULH, MIN, MAX and SLT allow (R99). -/
def IntTy.isSigned : IntTy → Bool
  | .s8 | .s16 | .s32 | .s64 => true
  | .n8 | .n16 | .n32 | .n64 => false

/-- An integer lane type. -/
def VTy.isInt : VTy → Bool
  | .f64 | .f32 => false
  | .s64 | .n64 | .s32 | .n32 => true

/-- The types VABS and VNEG allow (R144). -/
def VTy.hasSign : VTy → Bool
  | .f64 | .f32 | .s64 | .s32 => true
  | .n64 | .n32 => false

/-- R61: with .last, the destination names w0 or v0. -/
def lastOk (p : Level) (d : Nat) : Bool := !decide (p = .last) || d == 0

/-- R135, R101: SEL, FFMA and FFMS do not allow .last. -/
def notLast (p : Level) : Bool := !decide (p = .last)

/-- R144, R150: the rounding position exists for the floating-point types only. -/
def rndOk (t : VTy) (r : Rnd) : Bool := !t.isInt || decide (r = .mode .rne)

/-- A physical cluster of the package: 4 dies of 62 physical quads of 4 (R329). -/
def clusterKeyOk (c : ClusterKey) : Bool := decide (c < 992)

/-- A physical core of the package. -/
def coreKeyOk (k : CoreKey) : Bool := decide (k < 7936)

/-- A command identity of the model: positive. -/
def commandOk (c : ClusterKey) (i : Nat) : Bool := clusterKeyOk c && decide (0 < i)

/-- A home of events that the package has (R297). -/
def Home.ok : Home → Bool
  | .cluster c => clusterKeyOk c
  | .die d => decide (d < 4)
  | .package => true

/-- Fields of one instruction that the spec ties together, and the agents a device step may name. -/
def Instr.wf : Instr → Bool
  | .add d _ _ _ p | .sub d _ _ _ p | .mul d _ _ _ p => lastOk p d.val
  | .mulh d _ _ t p => t.isSigned && lastOk p d.val
  | .mulhn d _ _ t p => !t.isSigned && lastOk p d.val
  | .and d _ _ _ p | .or d _ _ _ p | .xor d _ _ _ p => lastOk p d.val
  | .shl d _ _ _ p | .shr d _ _ _ p | .sha d _ _ _ p | .rol d _ _ _ p => lastOk p d.val
  | .clz d _ _ p | .ctz d _ _ p | .popc d _ _ p => lastOk p d.val
  | .min d _ _ t p | .max d _ _ t p | .slt d _ _ t p => t.isSigned && lastOk p d.val
  | .minn d _ _ t p | .maxn d _ _ t p | .sltn d _ _ t p => !t.isSigned && lastOk p d.val
  | .sel _ _ _ p => notLast p
  | .addi d _ _ p | .andi d _ _ p | .ori d _ _ p | .xori d _ _ p => lastOk p d.val
  | .li d _ p | .lih d _ p => lastOk p d.val
  | .lea d _ _ p | .leaX2 d _ _ p | .leaX4 d _ _ p | .leaX8 d _ _ p => lastOk p d.val
  | .jr a => a.val != 31
  | .loop _ n => n != 0
  | .loopi a _ _ n => a.val != 0 && n != 0
  | .rds d i p => sysNumber i.toNat && lastOk p d.val
  | .wrs _ i => sysWritable i.toNat
  | .fadd d _ _ _ _ p | .fsub d _ _ _ _ p | .fmul d _ _ _ _ p => lastOk p d.val
  | .ffma _ _ _ _ _ p | .ffms _ _ _ _ _ p => notLast p
  | .fmin d _ _ _ p | .fmax d _ _ _ p => lastOk p d.val
  | .fcmpEq d _ _ _ p | .fcmpNe d _ _ _ p | .fcmpLt d _ _ _ p | .fcmpLe d _ _ _ p
  | .fcmpUn d _ _ _ p => lastOk p d.val
  | .fclass d _ _ p => lastOk p d.val
  | .fsgnCp d _ _ _ p | .fsgnNg d _ _ _ p | .fsgnXr d _ _ _ p => lastOk p d.val
  | .mpop d _ p => lastOk p d.val
  | .vadd d _ _ _ t r p | .vsub d _ _ _ t r p | .vmul d _ _ _ t r p =>
      rndOk t r && lastOk p d.val
  | .vmin d _ _ _ _ p | .vmax d _ _ _ _ p => lastOk p d.val
  | .vand d _ _ _ t p | .vor d _ _ _ t p | .vxor d _ _ _ t p => t.isInt && lastOk p d.val
  | .vshl d _ _ _ t p | .vshr d _ _ _ t p => t.isInt && lastOk p d.val
  | .vcmpUn _ _ _ _ t => !t.isInt
  | .vsel d _ _ _ p | .vshuf d _ _ _ p => lastOk p d.val
  | .vbcast _ v _ _ p | .vins _ v _ _ p => lastOk p v.val
  | .vext d _ _ _ p => lastOk p d.val
  | .vredAdd d _ r _ t p => rndOk t r && lastOk p d.val
  | .vredMin d _ _ _ p | .vredMax d _ _ _ p => lastOk p d.val
  | .vabs d _ _ t p | .vneg d _ _ t p => t.hasSign && lastOk p d.val
  | .viota d _ _ p => lastOk p d.val
  | .vfma _ d _ _ _ _ p _ | .vfms _ d _ _ _ _ p _ => lastOk p d.val
  | .loopEnd k _ | .trapEntry k _ | .migration k _ _ => coreKeyOk k
  | .hang k _ | .remap k | .swapThreshold k | .timeSlice k | .spill k | .restoreComplete k _
  | .reload k _ _ | .fen k | .longLatencyWriteback k _ _ _ | .storeAcceptance k _ _ => coreKeyOk k
  | .mmaBb c i | .mmaE4 c i | .mmaE5 c i | .mmaDd c i | .mmaF4 c i | .mmaP8 c i | .mmaPi c i
  | .mzero c i | .mdrain c i | .mswap c i | .mscale c i | .msts c i
  | .qinit c i | .qacc c i | .qapl c i | .qaplt c i | .qapr c i | .qaprt c i | .qrcp c i
  | .qsave c i | .qload c i | .gthr c i | .cpy c i | .cpy2d c i | .fill c i
  | .commandCompletion c i | .commandStop c i => commandOk c i
  | .commandLaunch c _ | .create c _ _ _ _ | .restore c _ _ _ _ | .unbind c _ | .makeActive c _
  | .stepTimeout c | .stop c _ | .run c | .rtick c | .step c _ | .externalDebugPin c _
  | .rcfgWrite c _ _ => clusterKeyOk c
  | .fusedStageStep d pq _ | .fusionFault d pq _ _ => decide (d < 4) && decide (pq < 62)
  | .resolution hs => hs.all Home.ok
  | .probe h _ _ | .probeRecheck h => h.ok
  | .tinv d _ | .tstatDone d | .translationWalk d _ _ | .crossbarMessage d _ _ _ => decide (d < 4)
  | .packetResend port _ | .packetAck port _ _ => decide (port < 36)
  | .chk _ _ | .div _ _ _ _ | .divn _ _ _ _ | .rem _ _ _ _ | .remn _ _ _ _ | .divS32 _ _ _ _
  | .divnN32 _ _ _ _ | .remS32 _ _ _ _ | .remnN32 _ _ _ _ | .fsqrt _ _ _ _ _ | .fdiv _ _ _ _ _ _
  | .easgn _ _ _ | .earnd _ _ _ _ | .easts _ _ _ | .halloc _ _ _ _ | .hfree _ _ _ | .foldmark _ _
  | .beq _ _ _ | .bne _ _ _ | .blt _ _ _ | .bge _ _ _ | .bltn _ _ _ | .bgen _ _ _ | .bz _ _ | .bnz _ _
  | .j _ | .call _ | .ret | .callr _ | .nop | .trap _ | .eret | .swapw _ | .phase | .retire | .snap
  | .waitt _ | .ldS8 _ _ _ _ | .ldN8 _ _ _ _ | .ldS16 _ _ _ _ | .ldN16 _ _ _ _ | .ldS32 _ _ _ _
  | .ldN32 _ _ _ _ | .ldD _ _ _ _ | .stB _ _ _ | .stH _ _ _ | .stW _ _ _ | .stD _ _ _ | .vld _ _ _ _ _ _
  | .vlds _ _ _ _ _ _ | .vldx _ _ _ _ _ _ | .vst _ _ _ _ _ | .vstx _ _ _ _ _ | .aadd _ _ _ _ _ _
  | .amin _ _ _ _ _ _ | .amax _ _ _ _ _ _ | .axchg _ _ _ _ _ _ | .acas _ _ _ _ _ _ | .afadd _ _ _ _ _ _
  | .afaddDet _ _ _ _ _ | .fence _ _ | .fcvt _ _ _ _ _ | .mand _ _ _ | .mor _ _ _ | .mxor _ _ _ | .mnot _ _
  | .bmany _ _ | .bmall _ _ | .vdiv _ _ _ _ _ _ _ | .vcmpEq _ _ _ _ _ | .vcmpNe _ _ _ _ _
  | .vcmpLt _ _ _ _ _ | .vcmpLe _ _ _ _ _ | .vcvt _ _ _ _ _ _ | .vsqrt _ _ _ _ _ _ | .eamac _ _ _ _ _
  | .eamacNg _ _ _ _ _ | .eamac3 _ _ _ _ _ _ | .eamac3Ng _ _ _ _ _ _ | .eaclr _ | .eaadd _ _ _
  | .eaaddNg _ _ _ | .xop _ _ _ _ _ | .xcfg _ _ _ | .xdrop _ _ | .offer _ _ _ | .choose _ | .poll _
  | .withdraw _ | .evjoin _ | .evleave _ | .evbind _ _ _ | .evbindU _ _ | .rqpush _ _ _ | .rqpop _ _ _
  | .qpushSl _ _ _ | .qpushGth _ _ | .qpushCpy _ _ | .qstat _ _ | .mgang _ _ | .fuse _ _ | .unfuse _
  | .rwr _ _ _ | .rwrs _ _ _ _ | .rrd _ _ _ _ | .radd _ _ _ | .raddDetF64 _ _ | .raddDetF32 _ _
  | .radds _ _ _ _ | .faultReport | .stallFlag _ _ | .resume _ _ _ | .skip _ _ _ | .kill _ _ _ | .edit _ _ _ | .discard _ _ _
  | .eventDelivery _ | .recordAccept _ | .claimTimeout _ | .admission _ _ _ _ | .lstart _ | .launchStart
  | .launchCompletion _ | .launchReport _ | .windowClose _ | .arm | .host | .ivoryPin | .ivoryLatch
  | .flitReplay _ _ | .retrain _ _ | .retrainComplete _ | .retrainAttemptFail _ | .up _ | .rt _
  | .packetIngress _ | .remoteSignalUpdate _ _ | .rrdReply _ _ _ | .syncMessage _ _ | .ceruleanTick
  | .hostAccess _ | .lqdb _ _ | .hcompWrite _ | .lqcfgWrite _ _ | .jcfgWrite _ | .pctlWrite _ | .fctlWrite _
  | .groupEntryWrite _ _ _ | .registerWrite _ _ | .loadFirmware _ _ | .installImageKey _ _ _ | .attest _
  | .setOwnerKeyDigest _ | .boot _ _ | .selfTest _ _ | .patrolScrub _ _ | .powerWindow _ _ _ | .thermalTrip
  | .illegal _ | .galrilFPortUp _ | .galrilFPortDown _ | .cxlLinkUp _ _ _ | .cxlLinkDown _
  | .selfTestResult _ _ => true
where
  /-- The numbers of R82's table. -/
  sysNumber (n : Nat) : Bool :=
    decide (n ≤ 8) || n == 0x10 || n == 0x11 || n == 0x20 || (decide (0x30 ≤ n) && decide (n ≤ 0x36))
      || (decide (0x40 ≤ n) && decide (n ≤ 0x4F)) || (decide (0x80 ≤ n) && decide (n ≤ 0xBF))
  /-- The numbers WRS may name (R82, R128). -/
  sysWritable (n : Nat) : Bool :=
    n == 0x20 || n == 0x30 || n == 0x33 || n == 0x34 || n == 0x35

end Sys2Proof
end

