-- ==== Sys2Proof/Decode.lean ====
section
/-! DEFINITION. The decoder (R56 to R68, the checks of R67 in their order), written in the arithmetic of naturals, and the encoder, from the same tables. -/

namespace Sys2Proof

/-- What a decoding gives: the instruction, or the number of the check of R67 that the word fails. -/
abbrev Dec (α : Type) := Except Nat α

/-- Bits [lo+len−1 : lo] of a word. -/
def fld (w lo len : Nat) : Nat := w / 2 ^ lo % 2 ^ len

/-- Checks that hold, or the number of the check that fails. -/
def need (b : Bool) (e : Nat) : Dec Unit := if b then .ok () else .error e

/-- A code of a selector or modifier field, reserved codes failing check 3. -/
def code {α : Type} (o : Option α) : Dec α :=
  match o with
  | some a => .ok a
  | none => .error 3

/-- A field that an entry fixes, whose format gives it reserved codes: those fail check 3, before the fixed value of check 4 (R67). -/
def coded {α : Type} (o : Option α) : Dec Unit := need o.isSome 3

/-- A field that is fixed at 0, check 4. -/
def zero (n : Nat) : Dec Unit := need (n == 0) 4

/-- R59, a source specifier. -/
def dSreg (n : Nat) : Dec SReg := if h : n < 44 then .ok ⟨n, h⟩ else .error 2

/-- R59, a destination specifier. -/
def dDreg (n : Nat) : Dec DReg := if h : n < 40 then .ok ⟨n, h⟩ else .error 2

/-- A source specifier position that an entry fixes. DEDUCED (log 46): a reserved specifier in it fails check 2, as in any specifier field, before the fixed value of check 4. -/
def fixS (n : Nat) : Dec Unit := need (decide (n < 44)) 2

/-- A destination specifier position that an entry fixes (log 46). -/
def fixD (n : Nat) : Dec Unit := need (decide (n < 40)) 2

/-- A vector specifier position that an entry fixes (log 46). -/
def fixV (n : Nat) : Dec Unit := need (decide (n < 18)) 2

/-- A w-register number in a field of any width. -/
def dWreg (n : Nat) : Dec WReg := if h : n < 32 then .ok ⟨n, h⟩ else .error 2

/-- R60, a vector source. -/
def dVsrc (n : Nat) : Dec VSrc := if h : n < 18 then .ok ⟨n, h⟩ else .error 2

/-- R60, a vector destination in a field of any width. -/
def dVreg (n : Nat) : Dec VReg := if h : n < 16 then .ok ⟨n, h⟩ else .error 2

/-- A mask number, a 3-bit field. -/
def fMreg (n : Nat) : MReg := Fin.ofNat 8 n

/-- The LA field, 4 bits. -/
def fLa (n : Nat) : La := Fin.ofNat 16 n

/-- TY of format R (R58). -/
def fIntTy (n : Nat) : IntTy :=
  match n with
  | 0 => .s8 | 1 => .s16 | 2 => .s32 | 3 => .s64 | 4 => .n8 | 5 => .n16 | 6 => .n32 | _ => .n64

def IntTy.code : IntTy → Nat
  | .s8 => 0 | .s16 => 1 | .s32 => 2 | .s64 => 3 | .n8 => 4 | .n16 => 5 | .n32 => 6 | .n64 => 7

/-- DL (R58). -/
def cLevel (n : Nat) : Option Level :=
  match n with
  | 0 => some .both | 1 => some .main | 2 => some .last | _ => none

def Level.code : Level → Nat
  | .both => 0 | .main => 1 | .last => 2

/-- The four modes of R36. -/
def fMode (n : Nat) : Mode :=
  match n with
  | 0 => .rne | 1 => .rtz | 2 => .rup | _ => .rdn

def Mode.code : Mode → Nat
  | .rne => 0 | .rtz => 1 | .rup => 2 | .rdn => 3

/-- RM of three bits (R58). -/
def cRnd (n : Nat) : Option Rnd :=
  match n with
  | 0 => some (.mode .rne) | 1 => some (.mode .rtz) | 2 => some (.mode .rup) | 3 => some (.mode .rdn)
  | 4 => some .dyn | _ => none

def Rnd.code : Rnd → Nat
  | .mode m => m.code
  | .dyn => 4

/-- FT of format R.f (R58). -/
def cFTy (n : Nat) : Option FTy :=
  match n with
  | 0 => some .f64 | 1 => some .f32 | 2 => some .bf16 | _ => none

def FTy.code : FTy → Nat
  | .f64 => 0 | .f32 => 1 | .bf16 => 2

/-- The one-bit FT (R58). -/
def fFTy2 (n : Nat) : FTy2 := if n = 0 then .f64 else .f32

def FTy2.code : FTy2 → Nat
  | .f64 => 0 | .f32 => 1

/-- VT (R58). -/
def cVTy (n : Nat) : Option VTy :=
  match n with
  | 0 => some .f64 | 1 => some .f32 | 2 => some .s64 | 3 => some .n64 | 4 => some .s32 | 5 => some .n32
  | _ => none

def VTy.code : VTy → Nat
  | .f64 => 0 | .f32 => 1 | .s64 => 2 | .n64 => 3 | .s32 => 4 | .n32 => 5

/-- The type codes of R66. -/
def cTyCode (n : Nat) : Option TyCode :=
  match n with
  | 0 => some .s8 | 1 => some .s16 | 2 => some .s32 | 3 => some .s64
  | 4 => some .n8 | 5 => some .n16 | 6 => some .n32 | 7 => some .n64
  | 8 => some .f64 | 9 => some .f32 | 10 => some .bf16 | 11 => some .e4m3
  | 12 => some .e5m2 | 13 => some .e2m1 | 14 => some .e8m0 | 15 => some .ps2
  | _ => none

def TyCode.code : TyCode → Nat
  | .s8 => 0 | .s16 => 1 | .s32 => 2 | .s64 => 3 | .n8 => 4 | .n16 => 5 | .n32 => 6 | .n64 => 7
  | .f64 => 8 | .f32 => 9 | .bf16 => 10 | .e4m3 => 11 | .e5m2 => 12 | .e2m1 => 13 | .e8m0 => 14
  | .ps2 => 15

/-- SC and FS (R58). -/
def cScope (n : Nat) : Option Scope :=
  match n with
  | 0 => some .st | 1 => some .co | 2 => some .cl | 3 => some .di | 4 => some .pk | 5 => some .dm
  | _ => none

def Scope.code : Scope → Nat
  | .st => 0 | .co => 1 | .cl => 2 | .di => 3 | .pk => 4 | .dm => 5

/-- The kind of FENCE (R174). -/
def cFence (n : Nat) : Option FenceKind :=
  match n with
  | 0 => some .acq | 1 => some .rel | 2 => some .full | _ => none

def FenceKind.code : FenceKind → Nat
  | .acq => 0 | .rel => 1 | .full => 2

/-- EW (R58). -/
def fEWid (n : Nat) : EWid :=
  match n with
  | 0 => .n8 | 1 => .n16 | 2 => .n32 | _ => .n64

def EWid.code : EWid → Nat
  | .n8 => 0 | .n16 => 1 | .n32 => 2 | .n64 => 3

/-- TY of format M.a (R58). -/
def fATy (n : Nat) : ATy := if n = 0 then .s64 else .s32

def ATy.code : ATy → Nat
  | .s64 => 0 | .s32 => 1

/-- F of RADD and RADDS (R425). -/
def cRTy (n : Nat) : Option RTy :=
  match n with
  | 0 => some .s64 | 1 => some .s32 | 2 => some .f64 | 3 => some .f32 | _ => none

def RTy.code : RTy → Nat
  | .s64 => 0 | .s32 => 1 | .f64 => 2 | .f32 => 3

/-- HM and HX (R58, R181): bit 6 is HM. -/
def dEvRef (n : Nat) : Dec EvRef :=
  if n < 64 then (dSreg n).map .reg else .ok (.sym (Fin.ofNat 64 (n - 64)))

def EvRef.code : EvRef → Nat
  | .reg r => r.val
  | .sym x => 64 + x.val

/-- DL with its destination number (R61): a reserved code fails check 3, .last with another destination check 4. -/
def dLevel (dl d : Nat) : Dec Level := do
  let p ← code (cLevel dl)
  need (lastOk p d) 4
  return p

/-- Format R with three specifiers and a type (R98): the selector's root and the types it allows. -/
def decR (w : Nat) (root : Option (DReg → SReg → SReg → IntTy → Level → Instr))
    (allow : IntTy → Bool) : Dec Instr := do
  let d ← dDreg (fld w 19 6)
  let a ← dSreg (fld w 13 6)
  let b ← dSreg (fld w 7 6)
  let f ← code root
  need (allow (fIntTy (fld w 4 3))) 3
  let p ← dLevel (fld w 0 2) d.val
  return f d a b (fIntTy (fld w 4 3)) p

/-- CLZ, CTZ and POPC: RB is fixed at 0. -/
def decBits (w : Nat) (root : Option (DReg → SReg → IntTy → Level → Instr)) : Dec Instr := do
  let d ← dDreg (fld w 19 6)
  let a ← dSreg (fld w 13 6)
  fixS (fld w 7 6)
  let f ← code root
  let p ← code (cLevel (fld w 0 2))
  zero (fld w 7 6)
  need (lastOk p d.val) 4
  return f d a (fIntTy (fld w 4 3)) p

/-- SEL (R100). -/
def decSel (w : Nat) : Dec Instr := do
  let d ← dDreg (fld w 19 6)
  let a ← dSreg (fld w 13 6)
  let b ← dSreg (fld w 7 6)
  let p ← code (cLevel (fld w 0 2))
  need (notLast p) 3
  need (fld w 4 3 == 3) 4
  return .sel d a b p

/-- LEA (R102). -/
def decLea (w : Nat) (f : DReg → SReg → SReg → Level → Instr) : Dec Instr := do
  let d ← dDreg (fld w 19 6)
  let a ← dSreg (fld w 13 6)
  let b ← dSreg (fld w 7 6)
  let p ← dLevel (fld w 0 2) d.val
  need (fld w 4 3 == 3) 4
  return f d a b p

/-- CHK (R103). -/
def decChk (w : Nat) : Dec Instr := do
  let a ← dSreg (fld w 13 6)
  let b ← dSreg (fld w 7 6)
  fixD (fld w 19 6)
  coded (cLevel (fld w 0 2))
  zero (fld w 19 6)
  need (fld w 4 3 == 3) 4
  zero (fld w 0 4)
  return .chk a b

/-- Format I with an immediate (R104). -/
def decI (w : Nat) (f : DReg → SReg → BitVec 11 → Level → Instr) : Dec Instr := do
  let d ← dDreg (fld w 19 6)
  let a ← dSreg (fld w 13 6)
  let p ← dLevel (fld w 0 2) d.val
  return f d a (BitVec.ofNat 11 (fld w 2 11)) p

/-- Format I.w (R105). -/
def decIw (w : Nat) (f : DReg → BitVec 17 → Level → Instr) : Dec Instr := do
  let d ← dDreg (fld w 19 6)
  let p ← dLevel (fld w 0 2) d.val
  return f d (BitVec.ofNat 17 (fld w 2 17)) p

/-- Format L with three specifiers (R106). -/
def decL (w : Nat) (f : DReg → SReg → SReg → La → Instr) : Dec Instr := do
  let d ← dDreg (fld w 19 6)
  let a ← dSreg (fld w 13 6)
  let b ← dSreg (fld w 7 6)
  return f d a b (fLa (fld w 0 4))

/-- FSQRT (R141). -/
def decFsqrt (w : Nat) : Dec Instr := do
  let d ← dDreg (fld w 19 6)
  let a ← dSreg (fld w 13 6)
  let f ← code (cFTy (fld w 11 2))
  let r ← code (cRnd (fld w 8 3))
  zero (fld w 7 1)
  zero (fld w 4 3)
  return .fsqrt d a f r (fLa (fld w 0 4))

/-- FDIV (R141): a reserved rounding code in F fails check 4 (R142). DEDUCED (log 9). -/
def decFdiv (w : Nat) (t : FTy2) : Dec Instr := do
  let d ← dDreg (fld w 19 6)
  let a ← dSreg (fld w 13 6)
  let b ← dSreg (fld w 7 6)
  match cRnd (fld w 4 3) with
  | some r => return .fdiv d a b t r (fLa (fld w 0 4))
  | none => .error 4

/-- EASGN, EARND and EASTS (R157). -/
def decEard (w : Nat) : Dec Instr := do
  let d ← dDreg (fld w 19 6)
  fixS (fld w 13 6)
  match fld w 4 3 with
  | 0 => do
    need (fld w 13 6 < 2) 4
    zero (fld w 7 6)
    return .easgn d (Fin.ofNat 2 (fld w 13 6)) (fLa (fld w 0 4))
  | 1 => do
    let r ← code (cRnd (fld w 10 3))
    need (fld w 13 6 < 2) 4
    zero (fld w 7 3)
    return .earnd d (Fin.ofNat 2 (fld w 13 6)) r (fLa (fld w 0 4))
  | 2 => do
    need (fld w 13 6 < 2) 4
    zero (fld w 7 6)
    return .easts d (Fin.ofNat 2 (fld w 13 6)) (fLa (fld w 0 4))
  | _ => .error 3

/-- HALLOC (R362). -/
def decHalloc (w : Nat) : Dec Instr := do
  let d ← dDreg (fld w 19 6)
  let a ← dSreg (fld w 13 6)
  let b ← dSreg (fld w 7 6)
  zero (fld w 4 3)
  return .halloc d a b (fLa (fld w 0 4))

/-- HFREE: RD is fixed at 0, check 4 (R362). -/
def decHfree (w : Nat) : Dec Instr := do
  let a ← dSreg (fld w 13 6)
  let b ← dSreg (fld w 7 6)
  zero (fld w 19 6)
  zero (fld w 4 3)
  return .hfree a b (fLa (fld w 0 4))

/-- FOLDMARK: RD and RB are fixed at 0, check 4 (R351). -/
def decFoldmark (w : Nat) : Dec Instr := do
  let a ← dSreg (fld w 13 6)
  zero (fld w 19 6)
  zero (fld w 7 6)
  zero (fld w 4 3)
  return .foldmark a (fLa (fld w 0 4))

/-- Format B (R107). -/
def decB (w : Nat) (f : SReg → SReg → BitVec 13 → Instr) : Dec Instr := do
  let a ← dSreg (fld w 19 6)
  let b ← dSreg (fld w 13 6)
  return f a b (BitVec.ofNat 13 (fld w 0 13))

/-- Format B.z (R108). -/
def decBz (w : Nat) (f : SReg → BitVec 19 → Instr) : Dec Instr := do
  let a ← dSreg (fld w 19 6)
  return f a (BitVec.ofNat 19 (fld w 0 19))

/-- JR and RET (R110): RET is JR with RA = 31. -/
def decJr (w : Nat) : Dec Instr := do
  let a ← dSreg (fld w 19 6)
  zero (fld w 0 19)
  return if a.val = 31 then .ret else .jr a

/-- CALLR (R110). -/
def decCallr (w : Nat) : Dec Instr := do
  let a ← dSreg (fld w 19 6)
  zero (fld w 0 19)
  return .callr a

/-- LOOP (R113, R115). -/
def decLoop (w : Nat) : Dec Instr := do
  let a ← dSreg (fld w 19 6)
  need (fld w 7 12 != 0) 3
  zero (fld w 0 7)
  return .loop a (BitVec.ofNat 12 (fld w 7 12))

/-- LOOPI (R114, R115). -/
def decLoopi (w : Nat) : Dec Instr := do
  let a ← dWreg (fld w 19 6)
  need (a.val != 0) 2
  let b ← dSreg (fld w 13 6)
  let c ← dSreg (fld w 7 6)
  need (fld w 0 7 != 0) 3
  return .loopi a b c (BitVec.ofNat 7 (fld w 0 7))

/-- The SYS group (R118). -/
def decSys (w : Nat) : Dec Instr := do
  fixD (fld w 19 6)
  let a ← dSreg (fld w 13 6)
  need (fld w 8 5 < 8) 3
  coded (cLevel (fld w 0 2))
  zero (fld w 19 6)
  zero (fld w 0 2)
  match fld w 8 5 with
  | 1 => do zero (fld w 13 6); return .trap (BitVec.ofNat 6 (fld w 2 6))
  | 3 => do zero (fld w 2 6); return .swapw a
  | 7 => do zero (fld w 2 6); return .waitt a
  | n => do
    zero (fld w 13 6)
    zero (fld w 2 6)
    match n with
    | 0 => return .nop
    | 2 => return .eret
    | 4 => return .phase
    | 5 => return .retire
    | _ => return .snap

/-- RDS (R127). -/
def decRds (w : Nat) : Dec Instr := do
  let d ← dDreg (fld w 19 6)
  fixS (fld w 13 6)
  need (Instr.wf.sysNumber (fld w 2 11)) 3
  let p ← code (cLevel (fld w 0 2))
  zero (fld w 13 6)
  need (lastOk p d.val) 4
  return .rds d (BitVec.ofNat 11 (fld w 2 11)) p

/-- WRS (R128). -/
def decWrs (w : Nat) : Dec Instr := do
  let a ← dSreg (fld w 13 6)
  fixD (fld w 19 6)
  need (Instr.wf.sysWritable (fld w 2 11)) 3
  coded (cLevel (fld w 0 2))
  zero (fld w 19 6)
  zero (fld w 0 2)
  return .wrs a (BitVec.ofNat 11 (fld w 2 11))

/-- The scalar loads (R166). -/
def decLd (w : Nat) : Dec Instr := do
  let d ← dDreg (fld w 19 6)
  let b ← dWreg (fld w 14 5)
  let o := BitVec.ofNat 7 (fld w 4 7)
  let h := fLa (fld w 0 4)
  match fld w 11 3 with
  | 0 => return .ldS8 d b o h
  | 1 => return .ldN8 d b o h
  | 2 => return .ldS16 d b o h
  | 3 => return .ldN16 d b o h
  | 4 => return .ldS32 d b o h
  | 5 => return .ldN32 d b o h
  | 6 => return .ldD d b o h
  | _ => .error 3

/-- The scalar stores (R167). -/
def decSt (w : Nat) : Dec Instr := do
  let s ← dSreg (fld w 19 6)
  let b ← dWreg (fld w 14 5)
  let o := BitVec.ofNat 12 (fld w 0 12)
  match fld w 12 2 with
  | 0 => return .stB s b o
  | 1 => return .stH s b o
  | 2 => return .stW s b o
  | _ => return .stD s b o

/-- VLD (R168). -/
def decVld (w : Nat) : Dec Instr := do
  let d ← dVreg (fld w 21 4)
  let b ← dWreg (fld w 14 5)
  zero (fld w 4 1)
  return .vld d (fEWid (fld w 19 2)) b (BitVec.ofNat 6 (fld w 8 6)) (fMreg (fld w 5 3)) (fLa (fld w 0 4))

/-- VLDS (R168). -/
def decVlds (w : Nat) : Dec Instr := do
  let d ← dVreg (fld w 21 4)
  let b ← dWreg (fld w 14 5)
  let x ← dSreg (fld w 8 6)
  zero (fld w 4 1)
  return .vlds d (fEWid (fld w 19 2)) b x (fMreg (fld w 5 3)) (fLa (fld w 0 4))

/-- VLDX (R168). -/
def decVldx (w : Nat) : Dec Instr := do
  let d ← dVreg (fld w 21 4)
  let b ← dWreg (fld w 14 5)
  let x ← dVsrc (fld w 8 5)
  zero (fld w 13 1)
  zero (fld w 4 1)
  return .vldx d (fEWid (fld w 19 2)) b x (fMreg (fld w 5 3)) (fLa (fld w 0 4))

/-- VST (R168). -/
def decVst (w : Nat) : Dec Instr := do
  let s ← dVsrc (fld w 20 5)
  let b ← dWreg (fld w 13 5)
  zero (fld w 0 4)
  return .vst s (fEWid (fld w 18 2)) b (BitVec.ofNat 6 (fld w 7 6)) (fMreg (fld w 4 3))

/-- VSTX (R168). -/
def decVstx (w : Nat) : Dec Instr := do
  let s ← dVsrc (fld w 20 5)
  let b ← dWreg (fld w 13 5)
  let x ← dVsrc (fld w 7 5)
  zero (fld w 12 1)
  zero (fld w 0 4)
  return .vstx s (fEWid (fld w 18 2)) b x (fMreg (fld w 4 3))

/-- The integer atomics (R170). -/
def decMa (w : Nat) (f : DReg → SReg → WReg → ATy → Scope → La → Instr) : Dec Instr := do
  let d ← dDreg (fld w 19 6)
  let c ← dSreg (fld w 13 6)
  let b ← dWreg (fld w 8 5)
  let s ← code (cScope (fld w 4 3))
  return f d c b (fATy (fld w 7 1)) s (fLa (fld w 0 4))

/-- AFADD (R170). -/
def decAfadd (w : Nat) : Dec Instr := do
  let d ← dDreg (fld w 19 6)
  let c ← dSreg (fld w 13 6)
  let b ← dWreg (fld w 8 5)
  let s ← code (cScope (fld w 4 3))
  return .afadd d c b (fFTy2 (fld w 7 1)) s (fLa (fld w 0 4))

/-- AFADD.det (R170, R173): the scope is .dm. -/
def decAfaddDet (w : Nat) : Dec Instr := do
  let d ← dDreg (fld w 19 6)
  let c ← dSreg (fld w 13 6)
  let b ← dWreg (fld w 8 5)
  need (fld w 4 3 == 5) 3
  return .afaddDet d c b (fFTy2 (fld w 7 1)) (fLa (fld w 0 4))

/-- FENCE (R174). -/
def decFence (w : Nat) : Dec Instr := do
  let k ← code (cFence (fld w 5 2))
  let s ← code (cScope (fld w 2 3))
  zero (fld w 7 18)
  zero (fld w 0 2)
  return .fence k s

/-- FADD, FSUB and FMUL (R135). -/
def decRf (w : Nat) (f : DReg → SReg → SReg → FTy → Rnd → Level → Instr) : Dec Instr := do
  let d ← dDreg (fld w 19 6)
  let a ← dSreg (fld w 13 6)
  let b ← dSreg (fld w 7 6)
  let t ← code (cFTy (fld w 5 2))
  let r ← code (cRnd (fld w 2 3))
  let p ← dLevel (fld w 0 2) d.val
  return f d a b t r p

/-- FFMA and FFMS (R135): .last is not allowed. -/
def decFfma (w : Nat) (f : DReg → SReg → SReg → FTy → Rnd → Level → Instr) : Dec Instr := do
  let d ← dDreg (fld w 19 6)
  let a ← dSreg (fld w 13 6)
  let b ← dSreg (fld w 7 6)
  let t ← code (cFTy (fld w 5 2))
  let r ← code (cRnd (fld w 2 3))
  let p ← code (cLevel (fld w 0 2))
  need (notLast p) 3
  return f d a b t r p

/-- FMIN, FMAX, FCMP and FSGN (R135): RM is a selector. -/
def decRfSel (w : Nat) (root : Option (DReg → SReg → SReg → FTy → Level → Instr)) : Dec Instr := do
  let d ← dDreg (fld w 19 6)
  let a ← dSreg (fld w 13 6)
  let b ← dSreg (fld w 7 6)
  let f ← code root
  let t ← code (cFTy (fld w 5 2))
  let p ← dLevel (fld w 0 2) d.val
  return f d a b t p

/-- FCLASS (R135). -/
def decFclass (w : Nat) : Dec Instr := do
  let d ← dDreg (fld w 19 6)
  let a ← dSreg (fld w 13 6)
  fixS (fld w 7 6)
  let t ← code (cFTy (fld w 5 2))
  coded (cRnd (fld w 2 3))
  let p ← code (cLevel (fld w 0 2))
  zero (fld w 7 6)
  zero (fld w 2 3)
  need (lastOk p d.val) 4
  return .fclass d a t p

/-- FCVT (R143). -/
def decFcvt (w : Nat) : Dec Instr := do
  let d ← dDreg (fld w 19 6)
  let a ← dSreg (fld w 13 6)
  let s ← code (cTyCode (fld w 8 5))
  let t ← code (cTyCode (fld w 3 5))
  let r ← code (cRnd (fld w 0 3))
  return .fcvt d a s t r

/-- MAND, MOR, MXOR and MNOT: DL is fixed at 0, check 4 (R153). -/
def decMlogic (w : Nat) : Dec Instr := do
  zero (fld w 22 3)
  zero (fld w 0 11)
  let d := fMreg (fld w 19 3)
  let a := fMreg (fld w 16 3)
  let b := fMreg (fld w 13 3)
  match fld w 11 2 with
  | 0 => return .mand d a b
  | 1 => return .mor d a b
  | 2 => return .mxor d a b
  | _ => do
    zero (fld w 13 3)
    return .mnot d a

/-- MPOP (R153). -/
def decMpop (w : Nat) : Dec Instr := do
  let d ← dDreg (fld w 19 6)
  let p ← code (cLevel (fld w 0 2))
  zero (fld w 2 14)
  need (lastOk p d.val) 4
  return .mpop d (fMreg (fld w 16 3)) p

/-- BMANY and BMALL (R154). -/
def decBm (w : Nat) (f : MReg → BitVec 19 → Instr) : Dec Instr := do
  zero (fld w 19 3)
  return f (fMreg (fld w 22 3)) (BitVec.ofNat 19 (fld w 0 19))

/-- VADD, VSUB and VMUL (R144): no rounding position with an integer type. -/
def decV (w : Nat) (f : VReg → VSrc → VSrc → MReg → VTy → Rnd → Level → Instr) : Dec Instr := do
  let d ← dVreg (fld w 21 4)
  let a ← dVsrc (fld w 16 5)
  let b ← dVsrc (fld w 11 5)
  let t ← code (cVTy (fld w 5 3))
  let r ← code (cRnd (fld w 2 3))
  need (rndOk t r) 3
  let p ← dLevel (fld w 0 2) d.val
  return f d a b (fMreg (fld w 8 3)) t r p

/-- The roots of format V whose RM field is a selector (R144), with the types they allow. -/
def decVSel (w : Nat) (root : Option (VReg → VSrc → VSrc → MReg → VTy → Level → Instr))
    (allow : VTy → Bool) : Dec Instr := do
  let d ← dVreg (fld w 21 4)
  let a ← dVsrc (fld w 16 5)
  let b ← dVsrc (fld w 11 5)
  let f ← code root
  let t ← code (cVTy (fld w 5 3))
  need (allow t) 3
  let p ← dLevel (fld w 0 2) d.val
  return f d a b (fMreg (fld w 8 3)) t p

/-- VCMP (R146): VD[24] and DL are 0. -/
def decVcmp (w : Nat) (root : Option (MReg → VSrc → VSrc → MReg → VTy → Instr)) (un : Bool) :
    Dec Instr := do
  let a ← dVsrc (fld w 16 5)
  let b ← dVsrc (fld w 11 5)
  let f ← code root
  let t ← code (cVTy (fld w 5 3))
  need (!un || !t.isInt) 3
  coded (cLevel (fld w 0 2))
  zero (fld w 24 1)
  zero (fld w 0 2)
  return f (fMreg (fld w 21 3)) a b (fMreg (fld w 8 3)) t

/-- VSEL and VSHUF (R147): no type position. -/
def decVMove (w : Nat) (f : VReg → VSrc → VSrc → MReg → Level → Instr) : Dec Instr := do
  let d ← dVreg (fld w 21 4)
  let a ← dVsrc (fld w 16 5)
  let b ← dVsrc (fld w 11 5)
  coded (cVTy (fld w 5 3))
  need (fld w 2 3 == 0) 3
  let p ← dLevel (fld w 0 2) d.val
  need (fld w 5 3 == 2) 4
  return f d a b (fMreg (fld w 8 3)) p

/-- VABS and VNEG (R144): VB is 0. -/
def decVsign (w : Nat) (root : Option (VReg → VSrc → MReg → VTy → Level → Instr)) : Dec Instr := do
  let d ← dVreg (fld w 21 4)
  let a ← dVsrc (fld w 16 5)
  fixV (fld w 11 5)
  let f ← code root
  let t ← code (cVTy (fld w 5 3))
  need t.hasSign 3
  let p ← code (cLevel (fld w 0 2))
  zero (fld w 11 5)
  need (lastOk p d.val) 4
  return f d a (fMreg (fld w 8 3)) t p

/-- VIOTA (R144). -/
def decViota (w : Nat) : Dec Instr := do
  let d ← dVreg (fld w 21 4)
  fixV (fld w 16 5)
  fixV (fld w 11 5)
  let t ← code (cVTy (fld w 5 3))
  need (fld w 2 3 == 0) 3
  let p ← code (cLevel (fld w 0 2))
  zero (fld w 11 10)
  need (lastOk p d.val) 4
  return .viota d (fMreg (fld w 8 3)) t p

/-- VDIV (R149). -/
def decVdiv (w : Nat) : Dec Instr := do
  let d ← dVreg (fld w 21 4)
  let a ← dVsrc (fld w 16 5)
  let b ← dVsrc (fld w 11 5)
  let r ← code (cRnd (fld w 4 3))
  return .vdiv d a b (fMreg (fld w 8 3)) (fFTy2 (fld w 7 1)) r (fLa (fld w 0 4))

/-- VSQRT (R149). -/
def decVsqrt (w : Nat) : Dec Instr := do
  let d ← dVreg (fld w 21 4)
  let a ← dVsrc (fld w 16 5)
  fixV (fld w 11 5)
  let r ← code (cRnd (fld w 4 3))
  zero (fld w 11 5)
  return .vsqrt d a (fMreg (fld w 8 3)) (fFTy2 (fld w 7 1)) r (fLa (fld w 0 4))

/-- VBCAST (R150). -/
def decVbcast (w : Nat) : Dec Instr := do
  let s ← dSreg (fld w 19 6)
  let v ← dVreg (fld w 14 5)
  let t ← code (cVTy (fld w 4 3))
  let p ← code (cLevel (fld w 0 2))
  need (fld w 2 2 != 3) 3
  zero (fld w 10 4)
  zero (fld w 2 2)
  need (lastOk p v.val) 4
  return .vbcast s v (fMreg (fld w 7 3)) t p

/-- VEXT (R150). -/
def decVext (w : Nat) : Dec Instr := do
  let s ← dDreg (fld w 19 6)
  let v ← dVsrc (fld w 14 5)
  let t ← code (cVTy (fld w 4 3))
  let p ← code (cLevel (fld w 0 2))
  need (fld w 2 2 != 3) 3
  zero (fld w 7 3)
  zero (fld w 2 2)
  need (lastOk p s.val) 4
  return .vext s v (Fin.ofNat 16 (fld w 10 4)) t p

/-- VINS (R150). -/
def decVins (w : Nat) : Dec Instr := do
  let s ← dSreg (fld w 19 6)
  let v ← dVreg (fld w 14 5)
  let t ← code (cVTy (fld w 4 3))
  let p ← code (cLevel (fld w 0 2))
  need (fld w 2 2 != 3) 3
  zero (fld w 7 3)
  zero (fld w 2 2)
  need (lastOk p v.val) 4
  return .vins s v (Fin.ofNat 16 (fld w 10 4)) t p

/-- VRED (R150): rounding only for .add of a floating-point type. -/
def decVred (w : Nat) : Dec Instr := do
  let s ← dDreg (fld w 19 6)
  let v ← dVsrc (fld w 14 5)
  let t ← code (cVTy (fld w 4 3))
  let k := fMreg (fld w 7 3)
  match fld w 2 2 with
  | 0 => do
    let r ← code (cRnd (fld w 10 3))
    need (rndOk t r) 3
    let p ← code (cLevel (fld w 0 2))
    zero (fld w 13 1)
    need (lastOk p s.val) 4
    return .vredAdd s v r k t p
  | 1 => do
    need (fld w 10 3 == 0) 3
    let p ← code (cLevel (fld w 0 2))
    zero (fld w 13 1)
    need (lastOk p s.val) 4
    return .vredMin s v k t p
  | 2 => do
    need (fld w 10 3 == 0) 3
    let p ← code (cLevel (fld w 0 2))
    zero (fld w 13 1)
    need (lastOk p s.val) 4
    return .vredMax s v k t p
  | _ => .error 3

/-- VCVT (R151). -/
def decVcvt (w : Nat) : Dec Instr := do
  let d ← dVreg (fld w 21 4)
  let a ← dVsrc (fld w 16 5)
  let s ← code (cTyCode (fld w 11 5))
  let t ← code (cTyCode (fld w 6 5))
  let r ← code (cRnd (fld w 0 3))
  return .vcvt d a s t (fMreg (fld w 3 3)) r

/-- EAMAC (R155). -/
def decEamac (w : Nat) (f : XAcc → SReg → SReg → FTy2 → La → Instr) : Dec Instr := do
  let a ← dSreg (fld w 17 6)
  let b ← dSreg (fld w 11 6)
  fixS (fld w 5 6)
  zero (fld w 5 6)
  return f (Fin.ofNat 2 (fld w 24 1)) a b (fFTy2 (fld w 4 1)) (fLa (fld w 0 4))

/-- EAMAC3 (R155). -/
def decEamac3 (w : Nat) (f : XAcc → SReg → SReg → SReg → FTy2 → La → Instr) : Dec Instr := do
  let a ← dSreg (fld w 17 6)
  let b ← dSreg (fld w 11 6)
  let c ← dSreg (fld w 5 6)
  return f (Fin.ofNat 2 (fld w 24 1)) a b c (fFTy2 (fld w 4 1)) (fLa (fld w 0 4))

/-- EACLR and EAADD (R156). -/
def decEagen (w : Nat) : Dec Instr := do
  fixS (fld w 17 6)
  fixS (fld w 11 6)
  fixS (fld w 5 6)
  let x : XAcc := Fin.ofNat 2 (fld w 24 1)
  if fld w 4 1 = 0 then do
    zero (fld w 5 19)
    zero (fld w 0 4)
    return .eaclr x
  else do
    need (fld w 17 6 < 2) 4
    zero (fld w 5 12)
    if fld w 23 1 = 0 then return .eaadd x (Fin.ofNat 2 (fld w 17 6)) (fLa (fld w 0 4))
    else return .eaaddNg x (Fin.ofNat 2 (fld w 17 6)) (fLa (fld w 0 4))

/-- XOP: its specifier checks depend on the binding (R234). -/
def decXop (w : Nat) : Dec Instr :=
  .ok (.xop (Fin.ofNat 8 (fld w 22 3)) (BitVec.ofNat 6 (fld w 16 6)) (BitVec.ofNat 6 (fld w 10 6))
    (BitVec.ofNat 6 (fld w 4 6)) (fLa (fld w 0 4)))

/-- XCFG (R228). -/
def decXcfg (w : Nat) : Dec Instr := do
  let b ← dWreg (fld w 17 5)
  zero (fld w 4 13)
  return .xcfg (Fin.ofNat 8 (fld w 22 3)) b (fLa (fld w 0 4))

/-- XDROP (R228). -/
def decXdrop (w : Nat) : Dec Instr := do
  zero (fld w 4 18)
  return .xdrop (Fin.ofNat 8 (fld w 22 3)) (fLa (fld w 0 4))

/-- OFFER and EVBIND (R181). -/
def decOffer (w : Nat) (f : DReg → EvRef → SReg → Instr) : Dec Instr := do
  let d ← dDreg (fld w 19 6)
  let e ← dEvRef (fld w 12 7)
  let a ← dSreg (fld w 6 6)
  return f d e a

/-- CHOOSE, POLL and WITHDRAW (R181). -/
def decChoose (w : Nat) (f : DReg → Instr) : Dec Instr := do
  let d ← dDreg (fld w 19 6)
  let _ ← dEvRef (fld w 12 7)
  fixS (fld w 6 6)
  need (fld w 0 6 == 0) 3
  zero (fld w 6 13)
  return f d

/-- EVJOIN and EVLEAVE (R181). -/
def decEvjoin (w : Nat) (f : EvRef → Instr) : Dec Instr := do
  let e ← dEvRef (fld w 12 7)
  fixD (fld w 19 6)
  fixS (fld w 6 6)
  need (fld w 0 6 == 0) 3
  zero (fld w 19 6)
  zero (fld w 6 6)
  return f e

/-- EVBIND and EVBIND.u (R181). -/
def decEvbind (w : Nat) : Dec Instr :=
  match fld w 0 6 with
  | 0 => decOffer w .evbind
  | 1 => do
    let e ← dEvRef (fld w 12 7)
    let a ← dSreg (fld w 6 6)
    fixD (fld w 19 6)
    zero (fld w 19 6)
    return .evbindU e a
  | _ => do
    let _ ← decOffer w .evbind
    .error 3

/-- OFFER: a nonzero F fails check 3 (R181). -/
def decOffer0 (w : Nat) : Dec Instr := do
  let i ← decOffer w .offer
  need (fld w 0 6 == 0) 3
  return i

/-- RQPUSH (R241). -/
def decRqpush (w : Nat) : Dec Instr := do
  let d ← dDreg (fld w 19 6)
  let v ← dSreg (fld w 12 6)
  let a ← dSreg (fld w 6 6)
  zero (fld w 18 1)
  zero (fld w 0 6)
  return .rqpush d v a

/-- RQPOP (R241). -/
def decRqpop (w : Nat) : Dec Instr := do
  let d ← dDreg (fld w 19 6)
  let t ← dDreg (fld w 12 6)
  let a ← dSreg (fld w 6 6)
  zero (fld w 18 1)
  zero (fld w 0 6)
  return .rqpop d t a

/-- QPUSH: HM and HX are fixed at 0, check 4 (R248). -/
def decQpush (w : Nat) : Dec Instr := do
  let d ← dDreg (fld w 19 6)
  let a ← dWreg (fld w 6 6)
  need (fld w 0 6 < 6) 3
  zero (fld w 12 7)
  if fld w 0 6 < 4 then return .qpushSl d a (Fin.ofNat 4 (fld w 0 6))
  else if fld w 0 6 = 4 then return .qpushGth d a
  else return .qpushCpy d a

/-- QSTAT (R248). -/
def decQstat (w : Nat) : Dec Instr := do
  let d ← dDreg (fld w 19 6)
  let a ← dWreg (fld w 6 6)
  need (fld w 0 6 == 0) 3
  zero (fld w 12 7)
  return .qstat d a

/-- MGANG and FUSE: HM, HX and F are fixed at 0, check 4 (R267, R343). -/
def decGang (w : Nat) (f : DReg → WReg → Instr) : Dec Instr := do
  let d ← dDreg (fld w 19 6)
  let a ← dWreg (fld w 6 6)
  zero (fld w 0 6)
  zero (fld w 12 7)
  return f d a

/-- UNFUSE: HM, HX, RA and F are fixed at 0, check 4 (R347). -/
def decUnfuse (w : Nat) : Dec Instr := do
  let d ← dDreg (fld w 19 6)
  zero (fld w 0 19)
  return .unfuse d

/-- RWR (R425): a nonzero F fails check 3 (R426). -/
def decRwr (w : Nat) : Dec Instr := do
  let d ← dWreg (fld w 20 5)
  let s ← dWreg (fld w 15 5)
  let n ← dSreg (fld w 9 6)
  need (fld w 0 4 == 0) 3
  zero (fld w 4 5)
  return .rwr d s n

/-- RWRS and RRD (R425). -/
def decRwrs (w : Nat) (f : WReg → WReg → SReg → WReg → Instr) : Dec Instr := do
  let d ← dWreg (fld w 20 5)
  let s ← dWreg (fld w 15 5)
  let n ← dSreg (fld w 9 6)
  let g ← dWreg (fld w 4 5)
  need (fld w 0 4 == 0) 3
  return f d s n g

/-- RADD (R425). -/
def decRadd (w : Nat) : Dec Instr := do
  let d ← dWreg (fld w 20 5)
  let n ← dSreg (fld w 9 6)
  let t ← code (cRTy (fld w 0 4))
  zero (fld w 15 5)
  zero (fld w 4 5)
  return .radd d n t

/-- RADD.det (R354, R65). -/
def decRaddDet (w : Nat) : Dec Instr := do
  let d ← dWreg (fld w 20 5)
  let n ← dSreg (fld w 9 6)
  need (fld w 0 4 < 2) 3
  zero (fld w 15 5)
  zero (fld w 4 5)
  if fld w 0 4 = 0 then return .raddDetF64 d n else return .raddDetF32 d n

/-- RADDS (R425). -/
def decRadds (w : Nat) : Dec Instr := do
  let d ← dWreg (fld w 20 5)
  let n ← dSreg (fld w 9 6)
  let g ← dWreg (fld w 4 5)
  let t ← code (cRTy (fld w 0 4))
  zero (fld w 15 5)
  return .radds d n g t

/-- VFMA and VFMS (R148). -/
def decV4 (w : Nat) (f : Mode → VReg → VSrc → VSrc → VSrc → MReg → Level → FTy2 → Instr) :
    Dec Instr := do
  let d ← dVreg (fld w 21 4)
  let a ← dVsrc (fld w 16 5)
  let b ← dVsrc (fld w 11 5)
  let c ← dVsrc (fld w 6 5)
  let p ← dLevel (fld w 1 2) d.val
  return f (fMode (fld w 25 2)) d a b c (fMreg (fld w 3 3)) p (fFTy2 (fld w 0 1))

/-- The major opcode map (R64, R65). Unallocated opcodes fail check 1. -/
def decodeOpc (opc w : Nat) : Dec Instr :=
  let sb := fld w 2 2
  let rm := fld w 2 3
  match opc with
  | 0x01 => decR w (match sb with | 0 => some .add | 1 => some .sub | 2 => some .mul | _ => none) fun _ => true
  | 0x02 => decR w (match sb with | 0 => some .mulh | 1 => some .mulhn | _ => none)
      fun t => if sb = 0 then t.isSigned else !t.isSigned
  | 0x03 => decR w (match sb with | 0 => some .and | 1 => some .or | 2 => some .xor | _ => none) fun _ => true
  | 0x04 => decR w (match sb with | 0 => some .shl | 1 => some .shr | 2 => some .sha | _ => some .rol)
      fun _ => true
  | 0x05 => decBits w (match sb with | 0 => some .clz | 1 => some .ctz | 2 => some .popc | _ => none)
  | 0x06 => decR w (match sb with | 0 => some .min | 1 => some .max | 2 => some .minn | _ => some .maxn)
      fun t => if sb < 2 then t.isSigned else !t.isSigned
  | 0x07 =>
    if sb = 2 then decSel w
    else decR w (match sb with | 0 => some .slt | 1 => some .sltn | _ => none)
      fun t => if sb = 0 then t.isSigned else !t.isSigned
  | 0x08 => decI w .addi
  | 0x09 => decI w .andi
  | 0x0A => decI w .ori
  | 0x0B => decI w .xori
  | 0x0C => decIw w .li
  | 0x0D => decIw w .lih
  | 0x0E => decLea w (match sb with | 0 => .lea | 1 => .leaX2 | 2 => .leaX4 | _ => .leaX8)
  | 0x0F => decChk w
  | 0x10 => decL w (match fld w 4 3 with
      | 0 => .div | 1 => .divn | 2 => .rem | 3 => .remn
      | 4 => .divS32 | 5 => .divnN32 | 6 => .remS32 | _ => .remnN32)
  | 0x11 => decFsqrt w
  | 0x12 => decFdiv w .f64
  | 0x13 => decFdiv w .f32
  | 0x14 => decEard w
  | 0x15 => decHalloc w
  | 0x16 => decHfree w
  | 0x17 => decFoldmark w
  | 0x18 => decB w .beq
  | 0x19 => decB w .bne
  | 0x1A => decB w .blt
  | 0x1B => decB w .bge
  | 0x1C => decB w .bltn
  | 0x1D => decB w .bgen
  | 0x1E => decBz w .bz
  | 0x1F => decBz w .bnz
  | 0x20 => .ok (.j (BitVec.ofNat 25 (fld w 0 25)))
  | 0x21 => .ok (.call (BitVec.ofNat 25 (fld w 0 25)))
  | 0x22 => decJr w
  | 0x23 => decCallr w
  | 0x24 => decLoop w
  | 0x25 => decLoopi w
  | 0x26 => decSys w
  | 0x27 => decRds w
  | 0x28 => decWrs w
  | 0x29 => decLd w
  | 0x2A => decSt w
  | 0x2B => decVld w
  | 0x2C => decVlds w
  | 0x2D => decVldx w
  | 0x2E => decVst w
  | 0x2F => decVstx w
  | 0x30 => decMa w .aadd
  | 0x31 => decMa w .amin
  | 0x32 => decMa w .amax
  | 0x33 => decMa w .axchg
  | 0x34 => decMa w .acas
  | 0x35 => decAfadd w
  | 0x36 => decAfaddDet w
  | 0x37 => decFence w
  | 0x38 => decRf w .fadd
  | 0x39 => decRf w .fsub
  | 0x3A => decRf w .fmul
  | 0x3B => decFfma w .ffma
  | 0x3C => decFfma w .ffms
  | 0x3D => decRfSel w (match rm with | 0 => some .fmin | 1 => some .fmax | _ => none)
  | 0x3E => decRfSel w (match rm with
      | 0 => some .fcmpEq | 1 => some .fcmpNe | 2 => some .fcmpLt | 3 => some .fcmpLe | 4 => some .fcmpUn
      | _ => none)
  | 0x3F => decFclass w
  | 0x40 => decRfSel w (match rm with | 0 => some .fsgnCp | 1 => some .fsgnNg | 2 => some .fsgnXr | _ => none)
  | 0x41 => decFcvt w
  | 0x42 => decMlogic w
  | 0x43 => decMpop w
  | 0x44 => decBm w .bmany
  | 0x45 => decBm w .bmall
  | 0x48 => decV w .vadd
  | 0x49 => decV w .vsub
  | 0x4A => decV w .vmul
  | 0x4B => decVdiv w
  | 0x4C => decVSel w (match rm with | 0 => some .vmin | 1 => some .vmax | _ => none) fun _ => true
  | 0x4D => decVSel w (match rm with | 0 => some .vand | 1 => some .vor | 2 => some .vxor | _ => none) VTy.isInt
  | 0x4E => decVSel w (match rm with | 0 => some .vshl | 1 => some .vshr | _ => none) VTy.isInt
  | 0x4F => decVcmp w (match rm with
      | 0 => some .vcmpEq | 1 => some .vcmpNe | 2 => some .vcmpLt | 3 => some .vcmpLe | 4 => some .vcmpUn
      | _ => none) (rm == 4)
  | 0x50 => decVMove w .vsel
  | 0x51 => decVbcast w
  | 0x52 => decVext w
  | 0x53 => decVins w
  | 0x54 => decVMove w .vshuf
  | 0x55 => decVred w
  | 0x56 => decVcvt w
  | 0x57 => decVsqrt w
  | 0x58 => decVsign w (match rm with | 0 => some .vabs | 1 => some .vneg | _ => none)
  | 0x59 => decViota w
  | 0x5A => decEamac w (if fld w 23 1 = 0 then .eamac else .eamacNg)
  | 0x5B => decEamac3 w (if fld w 23 1 = 0 then .eamac3 else .eamac3Ng)
  | 0x5C => decEagen w
  | 0x5D => decXop w
  | 0x5E => decXcfg w
  | 0x5F => decXdrop w
  | 0x60 => decOffer0 w
  | 0x61 => decChoose w .choose
  | 0x62 => decChoose w .poll
  | 0x63 => decChoose w .withdraw
  | 0x64 => decEvjoin w .evjoin
  | 0x65 => decEvjoin w .evleave
  | 0x66 => decEvbind w
  | 0x67 => decRqpush w
  | 0x68 => decRqpop w
  | 0x69 => decQpush w
  | 0x6A => decQstat w
  | 0x6B => decGang w .mgang
  | 0x6C => decGang w .fuse
  | 0x6D => decUnfuse w
  | 0x70 => decRwr w
  | 0x71 => decRwrs w .rwrs
  | 0x72 => decRwrs w .rrd
  | 0x73 => decRadd w
  | 0x74 => decRaddDet w
  | 0x75 => decRadds w
  | 0x78 => decV4 w .vfma
  | 0x79 => decV4 w .vfma
  | 0x7A => decV4 w .vfma
  | 0x7B => decV4 w .vfma
  | 0x7C => decV4 w .vfms
  | 0x7D => decV4 w .vfms
  | 0x7E => decV4 w .vfms
  | 0x7F => decV4 w .vfms
  | _ => .error 1

/-- What a 32-bit word decodes to, or the check of R67 that it fails. -/
def decodeNat (w : Nat) : Dec Instr := decodeOpc (fld w 25 7) w

/-- The instruction a fetched word stands for: a word that is no instruction is the row ILLEGAL (R67, R68). -/
def decode (w : BitVec 32) : Instr :=
  match decodeNat w.toNat with
  | .ok i => i
  | .error _ => .illegal w

/-- The word that four bytes of memory hold, lowest address first (R14, R56). -/
def wordOfBytes : List Byte → Option (BitVec 32)
  | [b0, b1, b2, b3] => some (BitVec.ofNat 32 (b0.toNat + 256 * b1.toNat + 65536 * b2.toNat + 16777216 * b3.toNat))
  | _ => none

/-- The four bytes of a word as memory holds them (R14). -/
def bytesOfWord (w : Nat) : List Byte :=
  [BitVec.ofNat 8 (w % 256), BitVec.ofNat 8 (w / 256 % 256), BitVec.ofNat 8 (w / 65536 % 256),
    BitVec.ofNat 8 (w / 16777216 % 256)]

/-- The instruction of the opcode table's word w: one 32-bit word, laid out little-endian and decoded as the fetch does. None where a check of R67 refuses it. -/
def decodeTableWord (nbits w : Nat) : Option Instr :=
  if nbits ≤ 32 then
    match wordOfBytes (bytesOfWord w) with
    | some v =>
      match decodeNat v.toNat with
      | .ok i => some i
      | .error _ => none
    | none => none
  else none

/-! The encoder: each format places its fields as R57 lists them. -/

def enR (opc d a b ty sb dl : Nat) : Nat :=
  opc * 33554432 + d * 524288 + a * 8192 + b * 128 + ty * 16 + sb * 4 + dl
def enRf (opc d a b ft rm dl : Nat) : Nat :=
  opc * 33554432 + d * 524288 + a * 8192 + b * 128 + ft * 32 + rm * 4 + dl
def enRc (opc d a sf df rm : Nat) : Nat :=
  opc * 33554432 + d * 524288 + a * 8192 + sf * 256 + df * 8 + rm
def enI (opc d a imm dl : Nat) : Nat := opc * 33554432 + d * 524288 + a * 8192 + imm * 4 + dl
def enIs (opc a fn arg : Nat) : Nat := opc * 33554432 + a * 8192 + fn * 256 + arg * 4
def enIw (opc d imm dl : Nat) : Nat := opc * 33554432 + d * 524288 + imm * 4 + dl
def enM (d b lw off la : Nat) : Nat := 0x29 * 33554432 + d * 524288 + b * 16384 + lw * 2048 + off * 16 + la
def enMa (opc d rb ba ty sc la : Nat) : Nat :=
  opc * 33554432 + d * 524288 + rb * 8192 + ba * 256 + ty * 128 + sc * 16 + la
def enMv (opc d ew ba x mk la : Nat) : Nat :=
  opc * 33554432 + d * 2097152 + ew * 524288 + ba * 16384 + x * 256 + mk * 32 + la
def enS (s ba sw off : Nat) : Nat := 0x2A * 33554432 + s * 524288 + ba * 16384 + sw * 4096 + off
def enSv (opc s ew ba x mk : Nat) : Nat :=
  opc * 33554432 + s * 1048576 + ew * 262144 + ba * 8192 + x * 128 + mk * 16
def enB (opc a b disp : Nat) : Nat := opc * 33554432 + a * 524288 + b * 8192 + disp
def enBz (opc a disp : Nat) : Nat := opc * 33554432 + a * 524288 + disp
def enBm (opc m disp : Nat) : Nat := opc * 33554432 + m * 4194304 + disp
def enL (opc d a b f la : Nat) : Nat :=
  opc * 33554432 + d * 524288 + a * 8192 + b * 128 + f * 16 + la
def enV (opc d a b mk vt rm dl : Nat) : Nat :=
  opc * 33554432 + d * 2097152 + a * 65536 + b * 2048 + mk * 256 + vt * 32 + rm * 4 + dl
def enVl (opc d a b mk ft rm la : Nat) : Nat :=
  opc * 33554432 + d * 2097152 + a * 65536 + b * 2048 + mk * 256 + ft * 128 + rm * 16 + la
def enVs (opc sr vr ln mk vt op dl : Nat) : Nat :=
  opc * 33554432 + sr * 524288 + vr * 16384 + ln * 1024 + mk * 128 + vt * 16 + op * 4 + dl
def enVc (d a sf df mk rm : Nat) : Nat :=
  0x56 * 33554432 + d * 2097152 + a * 65536 + sf * 2048 + df * 64 + mk * 8 + rm
def enVm (opc d ma mb mf dl : Nat) : Nat :=
  opc * 33554432 + d * 524288 + ma * 65536 + mb * 8192 + mf * 2048 + dl
def enV4 (ng rm d a b c mk dl ft : Nat) : Nat :=
  (0x78 + ng * 4 + rm) * 33554432 + d * 2097152 + a * 65536 + b * 2048 + c * 64 + mk * 8 + dl * 2 + ft
def enE (opc d h a f : Nat) : Nat := opc * 33554432 + d * 524288 + h * 4096 + a * 64 + f
def enEf (opc da sa ln sg f : Nat) : Nat :=
  opc * 33554432 + da * 1048576 + sa * 32768 + ln * 512 + sg * 16 + f
def enX (s d a b la : Nat) : Nat :=
  0x5D * 33554432 + s * 4194304 + d * 65536 + a * 1024 + b * 16 + la
def enXc (opc s b la : Nat) : Nat := opc * 33554432 + s * 4194304 + b * 131072 + la
def enXe (opc x ng a b c f la : Nat) : Nat :=
  opc * 33554432 + x * 16777216 + ng * 8388608 + a * 131072 + b * 2048 + c * 32 + f * 16 + la

/-- The word of an instruction (R57 to R66); none for a step of the device, which has no word. -/
def encode : Instr → Option Nat
  | .add d a b t p => some (enR 1 d.val a.val b.val t.code 0 p.code)
  | .sub d a b t p => some (enR 1 d.val a.val b.val t.code 1 p.code)
  | .mul d a b t p => some (enR 1 d.val a.val b.val t.code 2 p.code)
  | .mulh d a b t p => some (enR 2 d.val a.val b.val t.code 0 p.code)
  | .mulhn d a b t p => some (enR 2 d.val a.val b.val t.code 1 p.code)
  | .and d a b t p => some (enR 3 d.val a.val b.val t.code 0 p.code)
  | .or d a b t p => some (enR 3 d.val a.val b.val t.code 1 p.code)
  | .xor d a b t p => some (enR 3 d.val a.val b.val t.code 2 p.code)
  | .shl d a b t p => some (enR 4 d.val a.val b.val t.code 0 p.code)
  | .shr d a b t p => some (enR 4 d.val a.val b.val t.code 1 p.code)
  | .sha d a b t p => some (enR 4 d.val a.val b.val t.code 2 p.code)
  | .rol d a b t p => some (enR 4 d.val a.val b.val t.code 3 p.code)
  | .clz d a t p => some (enR 5 d.val a.val 0 t.code 0 p.code)
  | .ctz d a t p => some (enR 5 d.val a.val 0 t.code 1 p.code)
  | .popc d a t p => some (enR 5 d.val a.val 0 t.code 2 p.code)
  | .min d a b t p => some (enR 6 d.val a.val b.val t.code 0 p.code)
  | .max d a b t p => some (enR 6 d.val a.val b.val t.code 1 p.code)
  | .minn d a b t p => some (enR 6 d.val a.val b.val t.code 2 p.code)
  | .maxn d a b t p => some (enR 6 d.val a.val b.val t.code 3 p.code)
  | .slt d a b t p => some (enR 7 d.val a.val b.val t.code 0 p.code)
  | .sltn d a b t p => some (enR 7 d.val a.val b.val t.code 1 p.code)
  | .sel d a b p => some (enR 7 d.val a.val b.val 3 2 p.code)
  | .addi d a i p => some (enI 8 d.val a.val i.toNat p.code)
  | .andi d a i p => some (enI 9 d.val a.val i.toNat p.code)
  | .ori d a i p => some (enI 10 d.val a.val i.toNat p.code)
  | .xori d a i p => some (enI 11 d.val a.val i.toNat p.code)
  | .li d i p => some (enIw 12 d.val i.toNat p.code)
  | .lih d i p => some (enIw 13 d.val i.toNat p.code)
  | .lea d a b p => some (enR 14 d.val a.val b.val 3 0 p.code)
  | .leaX2 d a b p => some (enR 14 d.val a.val b.val 3 1 p.code)
  | .leaX4 d a b p => some (enR 14 d.val a.val b.val 3 2 p.code)
  | .leaX8 d a b p => some (enR 14 d.val a.val b.val 3 3 p.code)
  | .chk a b => some (enR 15 0 a.val b.val 3 0 0)
  | .div d a b h => some (enL 16 d.val a.val b.val 0 h.val)
  | .divn d a b h => some (enL 16 d.val a.val b.val 1 h.val)
  | .rem d a b h => some (enL 16 d.val a.val b.val 2 h.val)
  | .remn d a b h => some (enL 16 d.val a.val b.val 3 h.val)
  | .divS32 d a b h => some (enL 16 d.val a.val b.val 4 h.val)
  | .divnN32 d a b h => some (enL 16 d.val a.val b.val 5 h.val)
  | .remS32 d a b h => some (enL 16 d.val a.val b.val 6 h.val)
  | .remnN32 d a b h => some (enL 16 d.val a.val b.val 7 h.val)
  | .fsqrt d a f r h => some (enL 17 d.val a.val (f.code * 16 + r.code * 2) 0 h.val)
  | .fdiv d a b f r h => some (enL (18 + f.code) d.val a.val b.val r.code h.val)
  | .easgn d x h => some (enL 20 d.val x.val 0 0 h.val)
  | .earnd d x r h => some (enL 20 d.val x.val (r.code * 8) 1 h.val)
  | .easts d x h => some (enL 20 d.val x.val 0 2 h.val)
  | .halloc d a b h => some (enL 21 d.val a.val b.val 0 h.val)
  | .hfree a b h => some (enL 22 0 a.val b.val 0 h.val)
  | .foldmark a h => some (enL 23 0 a.val 0 0 h.val)
  | .beq a b o => some (enB 24 a.val b.val o.toNat)
  | .bne a b o => some (enB 25 a.val b.val o.toNat)
  | .blt a b o => some (enB 26 a.val b.val o.toNat)
  | .bge a b o => some (enB 27 a.val b.val o.toNat)
  | .bltn a b o => some (enB 28 a.val b.val o.toNat)
  | .bgen a b o => some (enB 29 a.val b.val o.toNat)
  | .bz a o => some (enBz 30 a.val o.toNat)
  | .bnz a o => some (enBz 31 a.val o.toNat)
  | .j o => some (0x20 * 33554432 + o.toNat)
  | .call o => some (0x21 * 33554432 + o.toNat)
  | .jr a => some (enBz 0x22 a.val 0)
  | .ret => some (enBz 0x22 31 0)
  | .callr a => some (enBz 0x23 a.val 0)
  | .loop a n => some (enBz 0x24 a.val (n.toNat * 128))
  | .loopi a b c n => some (enB 0x25 a.val b.val (c.val * 128 + n.toNat))
  | .nop => some (enIs 0x26 0 0 0)
  | .eret => some (enIs 0x26 0 2 0)
  | .phase => some (enIs 0x26 0 4 0)
  | .retire => some (enIs 0x26 0 5 0)
  | .snap => some (enIs 0x26 0 6 0)
  | .trap n => some (enIs 0x26 0 1 n.toNat)
  | .swapw a => some (enIs 0x26 a.val 3 0)
  | .waitt a => some (enIs 0x26 a.val 7 0)
  | .rds d i p => some (enI 0x27 d.val 0 i.toNat p.code)
  | .wrs a i => some (enI 0x28 0 a.val i.toNat 0)
  | .ldS8 d b o h => some (enM d.val b.val 0 o.toNat h.val)
  | .ldN8 d b o h => some (enM d.val b.val 1 o.toNat h.val)
  | .ldS16 d b o h => some (enM d.val b.val 2 o.toNat h.val)
  | .ldN16 d b o h => some (enM d.val b.val 3 o.toNat h.val)
  | .ldS32 d b o h => some (enM d.val b.val 4 o.toNat h.val)
  | .ldN32 d b o h => some (enM d.val b.val 5 o.toNat h.val)
  | .ldD d b o h => some (enM d.val b.val 6 o.toNat h.val)
  | .stB s b o => some (enS s.val b.val 0 o.toNat)
  | .stH s b o => some (enS s.val b.val 1 o.toNat)
  | .stW s b o => some (enS s.val b.val 2 o.toNat)
  | .stD s b o => some (enS s.val b.val 3 o.toNat)
  | .vld d e b x k h => some (enMv 0x2B d.val e.code b.val x.toNat k.val h.val)
  | .vlds d e b x k h => some (enMv 0x2C d.val e.code b.val x.val k.val h.val)
  | .vldx d e b x k h => some (enMv 0x2D d.val e.code b.val x.val k.val h.val)
  | .vst s e b x k => some (enSv 0x2E s.val e.code b.val x.toNat k.val)
  | .vstx s e b x k => some (enSv 0x2F s.val e.code b.val x.val k.val)
  | .aadd d c b t s h => some (enMa 48 d.val c.val b.val t.code s.code h.val)
  | .amin d c b t s h => some (enMa 49 d.val c.val b.val t.code s.code h.val)
  | .amax d c b t s h => some (enMa 50 d.val c.val b.val t.code s.code h.val)
  | .axchg d c b t s h => some (enMa 51 d.val c.val b.val t.code s.code h.val)
  | .acas d c b t s h => some (enMa 52 d.val c.val b.val t.code s.code h.val)
  | .afadd d c b t s h => some (enMa 53 d.val c.val b.val t.code s.code h.val)
  | .afaddDet d c b t h => some (enMa 0x36 d.val c.val b.val t.code 5 h.val)
  | .fence k s => some (0x37 * 33554432 + k.code * 32 + s.code * 4)
  | .fadd d a b f r p => some (enRf 56 d.val a.val b.val f.code r.code p.code)
  | .fsub d a b f r p => some (enRf 57 d.val a.val b.val f.code r.code p.code)
  | .fmul d a b f r p => some (enRf 58 d.val a.val b.val f.code r.code p.code)
  | .ffma d a b f r p => some (enRf 59 d.val a.val b.val f.code r.code p.code)
  | .ffms d a b f r p => some (enRf 60 d.val a.val b.val f.code r.code p.code)
  | .fmin d a b f p => some (enRf 61 d.val a.val b.val f.code 0 p.code)
  | .fmax d a b f p => some (enRf 61 d.val a.val b.val f.code 1 p.code)
  | .fcmpEq d a b f p => some (enRf 62 d.val a.val b.val f.code 0 p.code)
  | .fcmpNe d a b f p => some (enRf 62 d.val a.val b.val f.code 1 p.code)
  | .fcmpLt d a b f p => some (enRf 62 d.val a.val b.val f.code 2 p.code)
  | .fcmpLe d a b f p => some (enRf 62 d.val a.val b.val f.code 3 p.code)
  | .fcmpUn d a b f p => some (enRf 62 d.val a.val b.val f.code 4 p.code)
  | .fclass d a f p => some (enRf 0x3F d.val a.val 0 f.code 0 p.code)
  | .fsgnCp d a b f p => some (enRf 0x40 d.val a.val b.val f.code 0 p.code)
  | .fsgnNg d a b f p => some (enRf 0x40 d.val a.val b.val f.code 1 p.code)
  | .fsgnXr d a b f p => some (enRf 0x40 d.val a.val b.val f.code 2 p.code)
  | .fcvt d a s t r => some (enRc 0x41 d.val a.val s.code t.code r.code)
  | .mand d a b => some (enVm 0x42 d.val a.val b.val 0 0)
  | .mor d a b => some (enVm 0x42 d.val a.val b.val 1 0)
  | .mxor d a b => some (enVm 0x42 d.val a.val b.val 2 0)
  | .mnot d a => some (enVm 0x42 d.val a.val 0 3 0)
  | .mpop d a p => some (enVm 0x43 d.val a.val 0 0 p.code)
  | .bmany a o => some (enBm 0x44 a.val o.toNat)
  | .bmall a o => some (enBm 0x45 a.val o.toNat)
  | .vadd d a b k t r p => some (enV 72 d.val a.val b.val k.val t.code r.code p.code)
  | .vsub d a b k t r p => some (enV 73 d.val a.val b.val k.val t.code r.code p.code)
  | .vmul d a b k t r p => some (enV 74 d.val a.val b.val k.val t.code r.code p.code)
  | .vdiv d a b k f r h => some (enVl 0x4B d.val a.val b.val k.val f.code r.code h.val)
  | .vmin d a b k t p => some (enV 76 d.val a.val b.val k.val t.code 0 p.code)
  | .vmax d a b k t p => some (enV 76 d.val a.val b.val k.val t.code 1 p.code)
  | .vand d a b k t p => some (enV 77 d.val a.val b.val k.val t.code 0 p.code)
  | .vor d a b k t p => some (enV 77 d.val a.val b.val k.val t.code 1 p.code)
  | .vxor d a b k t p => some (enV 77 d.val a.val b.val k.val t.code 2 p.code)
  | .vshl d a b k t p => some (enV 78 d.val a.val b.val k.val t.code 0 p.code)
  | .vshr d a b k t p => some (enV 78 d.val a.val b.val k.val t.code 1 p.code)
  | .vcmpEq d a b k t => some (enV 79 d.val a.val b.val k.val t.code 0 0)
  | .vcmpNe d a b k t => some (enV 79 d.val a.val b.val k.val t.code 1 0)
  | .vcmpLt d a b k t => some (enV 79 d.val a.val b.val k.val t.code 2 0)
  | .vcmpLe d a b k t => some (enV 79 d.val a.val b.val k.val t.code 3 0)
  | .vcmpUn d a b k t => some (enV 79 d.val a.val b.val k.val t.code 4 0)
  | .vsel d a b k p => some (enV 0x50 d.val a.val b.val k.val 2 0 p.code)
  | .vbcast s v k t p => some (enVs 0x51 s.val v.val 0 k.val t.code 0 p.code)
  | .vext s v n t p => some (enVs 0x52 s.val v.val n.val 0 t.code 0 p.code)
  | .vins s v n t p => some (enVs 0x53 s.val v.val n.val 0 t.code 0 p.code)
  | .vshuf d a b k p => some (enV 0x54 d.val a.val b.val k.val 2 0 p.code)
  | .vredAdd s v r k t p => some (enVs 0x55 s.val v.val r.code k.val t.code 0 p.code)
  | .vredMin s v k t p => some (enVs 0x55 s.val v.val 0 k.val t.code 1 p.code)
  | .vredMax s v k t p => some (enVs 0x55 s.val v.val 0 k.val t.code 2 p.code)
  | .vcvt d a s t k r => some (enVc d.val a.val s.code t.code k.val r.code)
  | .vsqrt d a k f r h => some (enVl 0x57 d.val a.val 0 k.val f.code r.code h.val)
  | .vabs d a k t p => some (enV 0x58 d.val a.val 0 k.val t.code 0 p.code)
  | .vneg d a k t p => some (enV 0x58 d.val a.val 0 k.val t.code 1 p.code)
  | .viota d k t p => some (enV 0x59 d.val 0 0 k.val t.code 0 p.code)
  | .eamac x a b f h => some (enXe 0x5A x.val 0 a.val b.val 0 f.code h.val)
  | .eamacNg x a b f h => some (enXe 0x5A x.val 1 a.val b.val 0 f.code h.val)
  | .eamac3 x a b c f h => some (enXe 0x5B x.val 0 a.val b.val c.val f.code h.val)
  | .eamac3Ng x a b c f h => some (enXe 0x5B x.val 1 a.val b.val c.val f.code h.val)
  | .eaclr x => some (enXe 0x5C x.val 0 0 0 0 0 0)
  | .eaadd x s h => some (enXe 0x5C x.val 0 s.val 0 0 1 h.val)
  | .eaaddNg x s h => some (enXe 0x5C x.val 1 s.val 0 0 1 h.val)
  | .xop s d a b h => some (enX s.val d.toNat a.toNat b.toNat h.val)
  | .xcfg s b h => some (enXc 0x5E s.val b.val h.val)
  | .xdrop s h => some (enXc 0x5F s.val 0 h.val)
  | .offer d e a => some (enE 0x60 d.val e.code a.val 0)
  | .choose d => some (enE 97 d.val 0 0 0)
  | .poll d => some (enE 98 d.val 0 0 0)
  | .withdraw d => some (enE 99 d.val 0 0 0)
  | .evjoin e => some (enE 0x64 0 e.code 0 0)
  | .evleave e => some (enE 0x65 0 e.code 0 0)
  | .evbind d e a => some (enE 0x66 d.val e.code a.val 0)
  | .evbindU e a => some (enE 0x66 0 e.code a.val 1)
  | .rqpush d v a => some (enE 0x67 d.val v.val a.val 0)
  | .rqpop d t a => some (enE 0x68 d.val t.val a.val 0)
  | .qpushSl d a s => some (enE 0x69 d.val 0 a.val s.val)
  | .qpushGth d a => some (enE 0x69 d.val 0 a.val 4)
  | .qpushCpy d a => some (enE 0x69 d.val 0 a.val 5)
  | .qstat d a => some (enE 0x6A d.val 0 a.val 0)
  | .mgang d a => some (enE 0x6B d.val 0 a.val 0)
  | .fuse d a => some (enE 0x6C d.val 0 a.val 0)
  | .unfuse d => some (enE 0x6D d.val 0 0 0)
  | .rwr d s n => some (enEf 0x70 d.val s.val n.val 0 0)
  | .rwrs d s n g => some (enEf 0x71 d.val s.val n.val g.val 0)
  | .rrd d s n g => some (enEf 0x72 d.val s.val n.val g.val 0)
  | .radd d n t => some (enEf 0x73 d.val 0 n.val 0 t.code)
  | .raddDetF64 d n => some (enEf 0x74 d.val 0 n.val 0 0)
  | .raddDetF32 d n => some (enEf 0x74 d.val 0 n.val 0 1)
  | .radds d n g t => some (enEf 0x75 d.val 0 n.val g.val t.code)
  | .vfma r d a b c k p f => some (enV4 0 r.code d.val a.val b.val c.val k.val p.code f.code)
  | .vfms r d a b c k p f => some (enV4 1 r.code d.val a.val b.val c.val k.val p.code f.code)
  | .illegal w => some (w.toNat)
  | .loopEnd _ _ | .mmaBb _ _ | .mmaE4 _ _ | .mmaE5 _ _ | .mmaDd _ _ | .mmaF4 _ _ | .mmaP8 _ _ | .mmaPi _ _
  | .mzero _ _ | .mdrain _ _ | .mswap _ _ | .mscale _ _ | .msts _ _ | .qinit _ _ | .qacc _ _ | .qapl _ _
  | .qaplt _ _ | .qapr _ _ | .qaprt _ _ | .qrcp _ _ | .qsave _ _ | .qload _ _ | .gthr _ _ | .cpy _ _
  | .cpy2d _ _ | .fill _ _ | .commandLaunch _ _ | .commandCompletion _ _ | .commandStop _ _
  | .fusedStageStep _ _ _ | .fusionFault _ _ _ _ | .longLatencyWriteback _ _ _ _ | .storeAcceptance _ _ _
  | .trapEntry _ _ | .faultReport | .resume _ _ _ | .skip _ _ _ | .kill _ _ _ | .edit _ _ _ | .discard _ _ _
  | .resolution _ | .eventDelivery _ | .stallFlag _ _ | .probe _ _ _ | .probeRecheck _ | .hang _ _
  | .remap _ | .migration _ _ _ | .swapThreshold _ | .timeSlice _ | .create _ _ _ _ _ | .restore _ _ _ _ _
  | .unbind _ _ | .makeActive _ _ | .spill _ | .restoreComplete _ _ | .reload _ _ _ | .recordAccept _
  | .claimTimeout _ | .admission _ _ _ _ | .lstart _ | .launchStart | .launchCompletion _ | .launchReport _
  | .windowClose _ | .stepTimeout _ | .stop _ _ | .run _ | .rtick _ | .step _ _ | .externalDebugPin _ _
  | .arm | .host | .ivoryPin | .ivoryLatch | .tinv _ _ | .tstatDone _ | .translationWalk _ _ _
  | .crossbarMessage _ _ _ _ | .flitReplay _ _ | .retrain _ _ | .retrainComplete _ | .retrainAttemptFail _
  | .up _ | .rt _ | .packetIngress _ | .packetAck _ _ _ | .packetResend _ _ | .remoteSignalUpdate _ _
  | .rrdReply _ _ _ | .syncMessage _ _ | .ceruleanTick | .hostAccess _ | .lqdb _ _ | .hcompWrite _
  | .lqcfgWrite _ _ | .rcfgWrite _ _ _ | .jcfgWrite _ | .pctlWrite _ | .fctlWrite _ | .fen _
  | .groupEntryWrite _ _ _ | .registerWrite _ _ | .loadFirmware _ _ | .installImageKey _ _ _ | .attest _
  | .setOwnerKeyDigest _ | .boot _ _ | .selfTest _ _ | .patrolScrub _ _ | .powerWindow _ _ _ | .thermalTrip
  | .galrilFPortUp _ | .galrilFPortDown _ | .cxlLinkUp _ _ _ | .cxlLinkDown _ | .selfTestResult _ _ => none

end Sys2Proof
end

