-- ==== Sys2Proof/Machine/Float.lean ====
section
/-! DEFINITION. Number formats, rounding, exact sums and conversions (R31 to R47): a value is an exact dyadic number, an operation computes exactly, and one function rounds. -/

namespace Sys2Proof


/-- The sticky flags in the bit order of fcsr[5:0] (R39): IV, OF, UF, NX, SAT, DZ. -/
abbrev Flags := BitVec 6

def fNone : Flags := 0
def fIV : Flags := 1
def fOF : Flags := 2
def fUF : Flags := 4
def fNX : Flags := 8
def fSAT : Flags := 16
def fDZ : Flags := 32

/-- How a format uses its top codes (R32). -/
inductive Specials where
  | ieee      -- infinities and NaNs
  | oneNan    -- E4M3: S.1111.111 only
  | finite    -- E2M1: every code is finite
  deriving DecidableEq, Repr

/-- A floating-point format with a sign: exponent bits, significand bits (R31). -/
structure Fmt where
  eb : Nat
  mb : Nat
  sp : Specials
  deriving DecidableEq, Repr

def fmtF64 : Fmt := ⟨11, 52, .ieee⟩
def fmtF32 : Fmt := ⟨8, 23, .ieee⟩
def fmtBf16 : Fmt := ⟨8, 7, .ieee⟩
def fmtE5m2 : Fmt := ⟨5, 2, .ieee⟩
def fmtE4m3 : Fmt := ⟨4, 3, .oneNan⟩
def fmtE2m1 : Fmt := ⟨2, 1, .finite⟩

def FTy.fmt : FTy → Fmt
  | .f64 => fmtF64 | .f32 => fmtF32 | .bf16 => fmtBf16

def FTy2.fmt : FTy2 → Fmt
  | .f64 => fmtF64 | .f32 => fmtF32

/-- The width of a format in bits. -/
def Fmt.width (f : Fmt) : Nat := 1 + f.eb + f.mb

/-- The bias (R31). -/
def Fmt.bias (f : Fmt) : Nat := 2 ^ (f.eb - 1) - 1

/-- The exponent of the least significant bit of a subnormal value. -/
def Fmt.qmin (f : Fmt) : Int := 1 - (f.bias : Int) - f.mb

/-- The pattern of the largest finite value, without sign (R31). -/
def Fmt.maxPat (f : Fmt) : Nat :=
  match f.sp with
  | .ieee => (2 ^ f.eb - 1) * 2 ^ f.mb - 1
  | .oneNan => 2 ^ (f.eb + f.mb) - 2
  | .finite => 2 ^ (f.eb + f.mb) - 1

/-- The pattern of +infinity, for a format that has one. -/
def Fmt.infPat (f : Fmt) : Nat := (2 ^ f.eb - 1) * 2 ^ f.mb

/-- The default NaN (R33); a format without NaNs has none, and E2M1 delivers +0 (R41). -/
def Fmt.nanPat (f : Fmt) : Nat :=
  match f.sp with
  | .ieee => (2 ^ f.eb - 1) * 2 ^ f.mb + 2 ^ (f.mb - 1)
  | .oneNan => 2 ^ (f.eb + f.mb) - 1
  | .finite => 0

/-- The sign bit's weight. -/
def Fmt.signPat (f : Fmt) (neg : Bool) : Nat := if neg then 2 ^ (f.eb + f.mb) else 0

/-- A value: a NaN (signalling or quiet), an infinity, or (−1)^neg × m × 2^e exactly. -/
inductive FVal where
  | nan (signalling : Bool)
  | inf (neg : Bool)
  | fin (neg : Bool) (m : Nat) (e : Int)
  deriving DecidableEq, Repr

def FVal.isNan : FVal → Bool
  | .nan _ => true
  | _ => false

def FVal.isInf : FVal → Bool
  | .inf _ => true
  | _ => false

def FVal.isZero : FVal → Bool
  | .fin _ m _ => m == 0
  | _ => false

def FVal.neg? : FVal → Bool
  | .nan _ => false
  | .inf s => s
  | .fin s _ _ => s

/-- The value with the other sign. -/
def FVal.negate : FVal → FVal
  | .nan s => .nan s
  | .inf s => .inf (!s)
  | .fin s m e => .fin (!s) m e

/-- IV of reading a signalling NaN (R33, R38). -/
def FVal.readFlag : FVal → Flags
  | .nan true => fIV
  | _ => fNone

/-- The value that a pattern of the format's width encodes (R32). -/
def Fmt.read (f : Fmt) (x : Nat) : FVal :=
  let s := x / 2 ^ (f.eb + f.mb) % 2 == 1
  let e := x / 2 ^ f.mb % 2 ^ f.eb
  let m := x % 2 ^ f.mb
  if f.sp == .ieee && e == 2 ^ f.eb - 1 then
    if m == 0 then .inf s else .nan (m / 2 ^ (f.mb - 1) == 0)
  else if f.sp == .oneNan && x % 2 ^ (f.eb + f.mb) == 2 ^ (f.eb + f.mb) - 1 then .nan false
  else if e == 0 then .fin s m f.qmin
  else .fin s (m + 2 ^ f.mb) (f.qmin + (e : Int) - 1)

/-- The number of bits of a natural number. -/
def bitSize (m : Nat) : Nat := if m = 0 then 0 else Nat.log2 m + 1

/-- Whether rounding takes the neighbour of larger magnitude (R36): the remainder r of a division by d, r ≠ 0. -/
def roundsUp (mode : Mode) (neg odd : Bool) (r d : Nat) : Bool :=
  match mode with
  | .rne => decide (d < 2 * r) || (2 * r == d && odd)
  | .rtz => false
  | .rup => !neg
  | .rdn => neg

/-- m × 2^e rounded to a multiple of 2^q, as that multiple, with whether it is exact (R36). -/
def roundAt (mode : Mode) (neg : Bool) (m : Nat) (e q : Int) : Nat × Bool :=
  if q ≤ e then (m * 2 ^ (e - q).toNat, true)
  else
    let d := 2 ^ (q - e).toNat
    let k := m / d
    let r := m % d
    if r = 0 then (k, true)
    else (if roundsUp mode neg (k % 2 == 1) r d then k + 1 else k, false)

/-- What an overflow delivers (R36). -/
def overflowPat (f : Fmt) (mode : Mode) (neg : Bool) : Nat :=
  match f.sp with
  | .ieee =>
    match mode with
    | .rne => f.infPat
    | .rtz => f.maxPat
    | .rup => if neg then f.maxPat else f.infPat
    | .rdn => if neg then f.infPat else f.maxPat
  | .oneNan => f.maxPat
  | .finite => f.maxPat

/-- RoundTo of (−1)^neg × m × 2^e, m ≠ 0: the pattern and the flags OF, UF and NX (R36, R38). Tininess and overflow are judged after rounding with an unbounded exponent. -/
def roundFin (f : Fmt) (mode : Mode) (neg : Bool) (m : Nat) (e : Int) : Nat × Flags :=
  let qu : Int := e + bitSize m - 1 - f.mb
  let q := max qu f.qmin
  let (k, exact) := roundAt mode neg m e q
  let pat := ((q - f.qmin).toNat) * 2 ^ f.mb + k
  if f.maxPat < pat then (f.signPat neg + overflowPat f mode neg, fOF ||| fNX)
  else
    let (ku, _) := roundAt mode neg m e qu
    let tiny := qu < f.qmin && decide (ku < 2 ^ (f.qmin + f.mb - qu).toNat)
    (f.signPat neg + pat,
      if exact then fNone else if tiny then fUF ||| fNX else fNX)

/-- The pattern of a value in a format, rounded, with its flags (R36, R41): a NaN gives the default NaN, an infinity one where the format has it. -/
def Fmt.deliver (f : Fmt) (mode : Mode) (v : FVal) : Nat × Flags :=
  match v with
  | .nan _ => (f.nanPat, fNone)
  | .inf s =>
    match f.sp with
    | .ieee => (f.signPat s + f.infPat, fNone)
    | .oneNan => (f.signPat s + f.maxPat, fOF ||| fNX)
    | .finite => (f.signPat s + f.maxPat, fOF ||| fNX)
  | .fin s m e => if m = 0 then (f.signPat s, fNone) else roundFin f mode s m e

/-- Adds the flags that the operation raised before rounding. -/
def withFlags (fl : Flags) (r : Nat × Flags) : Nat × Flags := (r.1, fl ||| r.2)

/-! Exact results (R37, R38). -/

/-- A product of factors: IV when a factor signals or when a zero meets an infinity, even beside a NaN (R38). -/
def mulAll (l : List FVal) : FVal × Flags :=
  let fl := l.foldl (fun a v => a ||| v.readFlag) fNone
  let zeroInf := l.any FVal.isZero && l.any FVal.isInf
  let s := l.foldl (fun a v => a != v.neg?) false
  if zeroInf then (.nan false, fl ||| fIV)
  else if l.any FVal.isNan then (.nan false, fl)
  else if l.any FVal.isInf then (.inf s, fl)
  else
    (l.foldl (fun a v => match a, v with
        | .fin t m e, .fin _ m' e' => .fin t (m * m') (e + e')
        | a, _ => a) (.fin s 1 0), fl)

/-- The least exponent of the finite terms. -/
def minExp : List FVal → Option Int
  | [] => none
  | .fin _ _ e :: l =>
    match minExp l with
    | some e' => some (min e e')
    | none => some e
  | _ :: l => minExp l

/-- A finite term in units of 2^e0. -/
def unitsOf (e0 : Int) : FVal → Int
  | .fin s m e => let u : Int := m * 2 ^ (e - e0).toNat; if s then -u else u
  | _ => 0

/-- ExactSum (R37, R46): infinities of both signs raise IV even beside a NaN; the sign of an exact zero follows R37. -/
def sumAll (mode : Mode) (l : List FVal) : FVal × Flags :=
  let pinf := l.any fun v => v == .inf false
  let ninf := l.any fun v => v == .inf true
  if pinf && ninf then (.nan false, fIV)
  else if l.any FVal.isNan then (.nan false, fNone)
  else if pinf then (.inf false, fNone)
  else if ninf then (.inf true, fNone)
  else
    let e0 := (minExp l).getD 0
    let t := l.foldl (fun a v => a + unitsOf e0 v) (0 : Int)
    if t = 0 then
      if l.all (fun v => v.isZero && v.neg?) && !l.isEmpty then (.fin true 0 0, fNone)
      else if l.all (fun v => v.isZero && !v.neg?) then (.fin false 0 0, fNone)
      else (.fin (decide (mode = .rdn)) 0 0, fNone)
    else (.fin (decide (t < 0)) t.natAbs e0, fNone)

/-- a + b in a format (R136). -/
def fAdd (f : Fmt) (mode : Mode) (a b : Nat) : Nat × Flags :=
  let x := f.read a
  let y := f.read b
  let (v, fl) := sumAll mode [x, y]
  withFlags (x.readFlag ||| y.readFlag ||| fl) (f.deliver mode v)

/-- a − b, the addition of −b (R37). -/
def fSub (f : Fmt) (mode : Mode) (a b : Nat) : Nat × Flags :=
  let x := f.read a
  let y := (f.read b).negate
  let (v, fl) := sumAll mode [x, y]
  withFlags (x.readFlag ||| y.readFlag ||| fl) (f.deliver mode v)

/-- a × b (R136). -/
def fMul (f : Fmt) (mode : Mode) (a b : Nat) : Nat × Flags :=
  let (v, fl) := mulAll [f.read a, f.read b]
  withFlags fl (f.deliver mode v)

/-- a × b + c with one rounding; 0 × ∞ raises IV whatever c holds (R136, R148). -/
def fFma (f : Fmt) (mode : Mode) (a b c : Nat) (negC : Bool) : Nat × Flags :=
  let z := if negC then (f.read c).negate else f.read c
  let (p, fl) := mulAll [f.read a, f.read b]
  let (v, fl') := sumAll mode [p, z]
  withFlags (fl ||| z.readFlag ||| fl') (f.deliver mode v)

/-- The integer square root by bits, most significant first. -/
def isqrtLoop (n : Nat) : Nat → Nat → Nat
  | 0, r => r
  | b + 1, r =>
    let c := r + 2 ^ b
    isqrtLoop n b (if c * c ≤ n then c else r)

/-- ⌊√n⌋. -/
def isqrt (n : Nat) : Nat := isqrtLoop n (bitSize n / 2 + 1) 0

/-- a / b (R141): the quotient is formed to 68 bits or more with a sticky bit below them, which rounds as the exact quotient does. -/
def fDiv (f : Fmt) (mode : Mode) (a b : Nat) : Nat × Flags :=
  let x := f.read a
  let y := f.read b
  let fl := x.readFlag ||| y.readFlag
  let s := x.neg? != y.neg?
  match x, y with
  | .nan _, _ => (f.nanPat, fl)
  | _, .nan _ => (f.nanPat, fl)
  | .inf _, .inf _ => (f.nanPat, fl ||| fIV)
  | .inf _, .fin _ _ _ => f.deliver mode (.inf s)
  | .fin _ _ _, .inf _ => f.deliver mode (.fin s 0 0)
  | .fin _ m e, .fin _ m' e' =>
    if m' = 0 then
      if m = 0 then (f.nanPat, fl ||| fIV) else withFlags fDZ (f.deliver mode (.inf s))
    else
      let sh := 68 + bitSize m'
      let n := m * 2 ^ sh
      f.deliver mode (.fin s (2 * (n / m') + (if n % m' = 0 then 0 else 1)) (e - e' - sh - 1))

/-- √a (R141). -/
def fSqrt (f : Fmt) (mode : Mode) (a : Nat) : Nat × Flags :=
  match f.read a with
  | .nan s => (f.nanPat, (FVal.nan s).readFlag)
  | .inf true => (f.nanPat, fIV)
  | .inf false => f.deliver mode (.inf false)
  | .fin s m e =>
    if m = 0 then f.deliver mode (.fin s 0 0)
    else if s then (f.nanPat, fIV)
    else
      let sh : Nat := if (e - 140) % 2 = 0 then 140 else 141
      let n := m * 2 ^ sh
      let r := isqrt n
      f.deliver mode (.fin false (2 * r + (if r * r = n then 0 else 1)) ((e - sh) / 2 - 1))

/-- a < b on non-NaN values, −0 equal to +0. -/
def fLt (x y : FVal) : Bool :=
  match x, y with
  | .nan _, _ => false
  | _, .nan _ => false
  | .inf s, .inf t => s && !t
  | .inf s, .fin _ _ _ => s
  | .fin _ _ _, .inf t => !t
  | x, y => let e0 := (minExp [x, y]).getD 0; decide (unitsOf e0 x < unitsOf e0 y)

/-- a = b on non-NaN values, −0 equal to +0. -/
def fEq (x y : FVal) : Bool := !x.isNan && !y.isNan && !fLt x y && !fLt y x

/-- FMIN and FMAX (R137): the operand's own bits; −0 orders below +0; a NaN gives way to the other operand. -/
def fMinMax (f : Fmt) (wantMax : Bool) (a b : Nat) : Nat × Flags :=
  let x := f.read a
  let y := f.read b
  let fl := x.readFlag ||| y.readFlag
  if x.isNan then (if y.isNan then f.nanPat else b, fl)
  else if y.isNan then (a, fl)
  else
    let aLess := fLt x y || (fEq x y && x.neg? && !y.neg?)
    (if aLess != wantMax then a else b, fl)

/-- The conditions of FCMP and VCMP (R138). -/
inductive Cond where
  | eq | ne | lt | le | un
  deriving DecidableEq, Repr

/-- R138: whether the condition holds, and IV. -/
def fCmp (f : Fmt) (c : Cond) (a b : Nat) : Bool × Flags :=
  let x := f.read a
  let y := f.read b
  let sig := x.readFlag ||| y.readFlag
  let anyNan := x.isNan || y.isNan
  match c with
  | .eq => (fEq x y, sig)
  | .ne => (!fEq x y, sig)
  | .lt => (fLt x y, if anyNan then fIV else fNone)
  | .le => (!anyNan && !fLt y x, if anyNan then fIV else fNone)
  | .un => (anyNan, sig)

/-- FCLASS (R139): the one bit set. -/
def fClassBit (f : Fmt) (a : Nat) : Nat :=
  match f.read a with
  | .nan true => 8
  | .nan false => 9
  | .inf true => 0
  | .inf false => 7
  | .fin s m _ =>
    if m = 0 then (if s then 3 else 4)
    else if m < 2 ^ f.mb then (if s then 2 else 5)
    else if s then 1 else 6

/-- FSGN (R140): which sign bit the result takes. -/
inductive SignSel where
  | copy | invert | xor
  deriving DecidableEq, Repr

/-- FSGN: the magnitude bits of a with a sign bit from the selector (R140). -/
def fSign (f : Fmt) (s : SignSel) (a b : Nat) : Nat :=
  let w := 2 ^ (f.eb + f.mb)
  let sa := a / w % 2 == 1
  let sb := b / w % 2 == 1
  a % w + f.signPat (match s with | .copy => sb | .invert => !sb | .xor => sa != sb)

/-! E8M0 and PS2 (R32, R34, R42, R43). -/

/-- The value of an E8M0 code (R32). DESIGN CHOICE (log 70): the NaN 0xFF is quiet. -/
def e8m0Read (x : Nat) : FVal := if x = 255 then .nan false else .fin false 1 ((x : Int) - 127)

/-- Conversion to E8M0 (R42). -/
def toE8m0 (mode : Mode) (v : FVal) : Nat × Flags :=
  match v with
  | .nan _ => (255, fIV)
  | .inf true => (255, fIV)
  | .inf false => (254, fOF ||| fNX)
  | .fin s m e =>
    if m = 0 then (0, fUF ||| fNX)
    else if s then (255, fIV)
    else
      let l := bitSize m - 1
      let k : Int := e + l
      let pow := m == 2 ^ l
      let up := match mode with
        | .rne => decide (3 * 2 ^ l < 2 * m) || (2 * m == 3 * 2 ^ l && (k + 127) % 2 != 0)
        | .rtz => false
        | .rup => !pow
        | .rdn => false
      let r := if up then k + 1 else k
      if 127 < r then (254, fOF ||| fNX)
      else if r < -127 then (0, fUF ||| fNX)
      else ((r + 127).toNat, if pow then fNone else fNX)

/-- One term of a PS2 weight, in units of 2^−6 (R34). -/
def ps2Term (t : Nat) : Int :=
  let u : Int := if t % 8 = 7 then 0 else ((2 ^ (6 - t % 8) : Nat) : Int)
  if t / 8 % 2 = 1 then -u else u

/-- A PS2 weight in units of 2^−6. -/
def ps2Units (x : Nat) : Int := ps2Term (x / 16) + ps2Term (x % 16)

/-- The value of a PS2 byte (R34). DESIGN CHOICE (log 59): a byte whose value is 0 reads as +0; the spec gives it no sign. -/
def ps2Read (x : Nat) : FVal := .fin (decide (ps2Units x < 0)) (ps2Units x).natAbs (-6)

/-- The nibble of a term: sign and shift. -/
def ps2Nib (neg : Bool) (shift : Nat) : Nat := (if neg then 8 else 0) + shift

/-- The pairs of shifts (a no greater than b) that R34 allows a canonical two-term value. -/
def ps2Shifts : List (Nat × Nat) :=
  (List.range 7).flatMap fun a => ((List.range 7).filter fun b => decide (a ≤ b)).map fun b => (a, b)

/-- The canonical encoding of a magnitude in units of 2^−6, where R34's set has it. -/
def ps2Canon (neg : Bool) (mag : Nat) : Option Nat :=
  if mag = 0 then some 0x77
  else
    match (List.range 7).find? fun e => mag == 2 ^ (6 - e) with
    | some e => some (16 * ps2Nib neg e + 7)
    | none =>
      match ps2Shifts.find? fun p => mag == 2 ^ (6 - p.1) + 2 ^ (6 - p.2) with
      | some p => some (16 * ps2Nib neg p.1 + ps2Nib neg p.2)
      | none =>
        match ps2Shifts.find? fun p => mag == 2 ^ (6 - p.1) - 2 ^ (6 - p.2) with
        | some p => some (16 * ps2Nib neg p.1 + ps2Nib (!neg) p.2)
        | none => none

/-- The nearest magnitude of the set at or below n, counting down. -/
def ps2Down : Nat → Nat
  | 0 => 0
  | n + 1 => if (ps2Canon false (n + 1)).isSome then n + 1 else ps2Down n

/-- The nearest magnitude of the set at or above n, within d steps. -/
def ps2Up : Nat → Nat → Nat
  | 0, n => n
  | d + 1, n => if (ps2Canon false n).isSome then n else ps2Up d (n + 1)

/-- Conversion to PS2 (R43). -/
def toPs2 (mode : Mode) (v : FVal) : Nat × Flags :=
  match v with
  | .nan _ => (0x77, fIV)
  | .inf s => (if s then 0x88 else 0x00, fOF ||| fNX)
  | .fin s m e =>
    let x := m * 2 ^ (e + 6).toNat
    let d := 2 ^ (-(e + 6)).toNat
    if 128 * d < x then (if s then 0x88 else 0x00, fOF ||| fNX)
    else
      let lo := ps2Down (x / d)
      let hi := ps2Up 128 ((x + d - 1) / d)
      let exact := lo * d == x
      let up := match mode with
        | .rne => decide ((hi + lo) * d < 2 * x)
        | .rtz => false
        | .rup => !s
        | .rdn => s
      let mag := if exact then lo else if up then hi else lo
      ((ps2Canon s mag).getD 0x77, if exact then fNone else fNX)

/-! Conversions (R41 to R44, R143). -/

/-- The width of a type in bits (R133). -/
def TyCode.width : TyCode → Nat
  | .s8 => 8 | .s16 => 16 | .s32 => 32 | .s64 => 64
  | .n8 => 8 | .n16 => 16 | .n32 => 32 | .n64 => 64
  | .f64 => 64 | .f32 => 32 | .bf16 => 16
  | .e4m3 => 8 | .e5m2 => 8 | .e2m1 => 4 | .e8m0 => 8 | .ps2 => 8

/-- The floating-point format of a type that has one. -/
def TyCode.fmt? : TyCode → Option Fmt
  | .f64 => some fmtF64 | .f32 => some fmtF32 | .bf16 => some fmtBf16
  | .e4m3 => some fmtE4m3 | .e5m2 => some fmtE5m2 | .e2m1 => some fmtE2m1
  | .s8 | .s16 | .s32 | .s64 | .n8 | .n16 | .n32 | .n64 | .e8m0 | .ps2 => none

/-- Signed integer types. -/
def TyCode.signed : TyCode → Bool
  | .s8 | .s16 | .s32 | .s64 => true
  | _ => false

/-- Integer types. -/
def TyCode.isInt : TyCode → Bool
  | .s8 | .s16 | .s32 | .s64 | .n8 | .n16 | .n32 | .n64 => true
  | _ => false

/-- An n-bit pattern read as two's complement. -/
def signedOf (n x : Nat) : Int := if x < 2 ^ (n - 1) then (x : Int) else (x : Int) - 2 ^ n

/-- The integer an integer type reads from a pattern of its width. -/
def TyCode.intOf (t : TyCode) (x : Nat) : Int := if t.signed then signedOf t.width x else x

/-- An exact integer as a value. -/
def FVal.ofInt (i : Int) : FVal := .fin (decide (i < 0)) i.natAbs 0

/-- The value of a pattern under a type (R32, R34, R35). -/
def TyCode.read (t : TyCode) (x : Nat) : FVal :=
  match t.fmt? with
  | some f => f.read x
  | none => if t = .e8m0 then e8m0Read x else if t = .ps2 then ps2Read x else .ofInt (t.intOf x)

/-- The least value of an integer type. -/
def intMin (n : Nat) (signed : Bool) : Int := if signed then -(2 ^ (n - 1) : Int) else 0

/-- The greatest value of an integer type. -/
def intMax (n : Nat) (signed : Bool) : Int := if signed then 2 ^ (n - 1) - 1 else 2 ^ n - 1

/-- The n-bit pattern of an integer. -/
def intPat (n : Nat) (i : Int) : Nat := (i % 2 ^ n).toNat

/-- Conversion to an integer type (R44): clamps with SAT alone. -/
def toInt (n : Nat) (signed : Bool) (mode : Mode) (v : FVal) : Nat × Flags :=
  match v with
  | .nan _ => (0, fIV)
  | .inf s => (intPat n (if s then intMin n signed else intMax n signed), fSAT)
  | .fin s m e =>
    let (k, exact) := roundAt mode s m e 0
    let i : Int := if s then -(k : Int) else k
    if i < intMin n signed then (intPat n (intMin n signed), fSAT)
    else if intMax n signed < i then (intPat n (intMax n signed), fSAT)
    else (intPat n i, if exact then fNone else fNX)

/-- Convert(v, t, mode) (R143): IV for a signalling NaN, then the rule of the destination. A NaN of E8M0 delivered as E8M0 stays 0xFF and raises nothing. -/
def convert (s t : TyCode) (mode : Mode) (x : Nat) : Nat × Flags :=
  let v := s.read x
  match t.fmt? with
  | some f =>
    let extra := if t = .e2m1 && v.isNan then fIV else v.readFlag
    withFlags extra (f.deliver mode v)
  | none =>
    if t = .e8m0 then (if s = .e8m0 then (x, fNone) else toE8m0 mode v)
    else if t = .ps2 then toPs2 mode v
    else toInt t.width t.signed mode v

end Sys2Proof
end

