-- ==== Sys2Proof/Machine/State.lean ====
section
/-! DEFINITION. The state of one package: every register, table, queue and store the spec names, as plain data, and the state after reset. Sparse tables are lists of a key and a value; a key not listed stands for the reset value. -/

namespace Sys2Proof.Machine

open Sys2Proof

/-! Sparse tables. -/

/-- The value of a key, or the reset value. -/
def lookupD {α : Type} (d : α) : List (Nat × α) → Nat → α
  | [], _ => d
  | (k, v) :: l, n => if k = n then v else lookupD d l n

/-- The table with the key's value replaced, or added at its place in ascending order. -/
def insertKey {α : Type} (n : Nat) (a : α) : List (Nat × α) → List (Nat × α)
  | [] => [(n, a)]
  | (k, v) :: l =>
    if n < k then (n, a) :: (k, v) :: l
    else if n = k then (n, a) :: l
    else (k, v) :: insertKey n a l

/-! Traps (R89 to R93). -/

/-- The causes of R90, in the order of their codes 1 to 26. -/
inductive Cause where
  | illegal | laViolation | illegalCmd | fmtAbsent | gangMismatch | orthFull | addrWindow | align
  | chkBounds | rangeLocked | slateRemote | translation | protection | linkDown | memUncorrectable
  | trap | loopStep | loopRange | xopUnloaded | evStale | evDeadlock | fuseFault | heapExhausted
  | heapBadfree | watch | restoreIntegrity
  deriving DecidableEq, Repr

/-- A cause with what tval and tinfo[7:0] hold. -/
structure Trap where
  cause : Cause
  val : Word
  detail : BitVec 8
  deriving DecidableEq, Repr

/-! The strand's context (R80). -/

/-- A loop-state pair, its two words as R112 lays them out. -/
structure LoopPair where
  w0 : Word
  w1 : Word
  deriving DecidableEq, Repr

/-- An offer entry, its two words as R179 lays them out. -/
structure Offer where
  w0 : Word
  w1 : Word
  deriving DecidableEq, Repr

/-- An exact accumulator with its status word and term count (R48, R50, R53). -/
structure ExactAcc where
  value : BitVec 6400
  status : Word
  count : Word
  deriving DecidableEq, Repr

/-- The trap block (R91). -/
structure TrapBlock where
  tpc : Word
  tcause : Word
  tval : Word
  tinfo : Word
  twvec : Word
  troute : Word
  tl : Vector Word 4
  tstat : Word
  deriving DecidableEq, Repr

/-- The register region of a workspace (R80). The slot of w0 is held and read as zero by the accessor. -/
structure Ctx where
  w : Vector Word 32
  o : Vector Word 8
  l : Vector Word 4
  m : Vector (BitVec 16) 8
  fcsr : Word
  loops : Vector LoopPair 2
  phase : Word
  tok : Word
  fgp : Word
  fgw : Word
  tb : TrapBlock
  offers : Vector Offer 8
  binds : Vector Word 8
  v : Vector Lanes 16
  vl : Vector Lanes 2
  xa : Vector ExactAcc 2
  deriving DecidableEq, Repr

/-! Pending work of a bank (R92, R207, R164). -/

/-- A register that the lookahead contract speaks of (R208), by its specifier. -/
inductive RegRef where
  | s (n : Nat)
  | v (n : Nat)
  | m (n : Nat)
  deriving DecidableEq, Repr

/-- A result to be written; hz: fcsr.HZ is set (R362). -/
inductive RegWrite where
  | s (d : DReg) (x : Word)
  | v (d : VReg) (x : Lanes)
  | hz
  deriving DecidableEq, Repr

/-- An element record of a configuration image (R221). -/
structure PeRec where
  pop : Nat
  typ : TyCode
  rm : Nat
  ina : Nat
  inb : Nat
  inc : Nat
  k : Word
  deriving DecidableEq, Repr

/-- A loaded segment: what the headers and records of a valid image say (R220, R221). -/
structure XImage where
  npe : Nat
  lat : Nat
  ll : Bool
  ndst : Nat
  nsrc : Nat
  d1v : Bool
  d0v : Bool
  s2v : Bool
  s1v : Bool
  s0v : Bool
  d0pe : Nat
  d1pe : Nat
  pes : List PeRec
  deriving DecidableEq, Repr

/-- The binding word and segment that an XCFG or XDROP leaves when it completes (R229, R231). -/
structure SlotSet where
  slot : Fin 8
  word : Word
  img : Option XImage
  deriving DecidableEq, Repr

/-- How the reply to an access of another package becomes the results (R446): a value; a value and the flags of AFADD; the elements of the lanes listed, with their pointers, beside the lanes already there and the lowest lane that failed in this package. det: an AFADD.det of this package that awaits acceptance (R353); join: a FOLDMARK that awaits its home (R351). -/
inductive FarUse where
  | scalar (d : DReg) (bytes : Nat) (signed : Bool)
  | fadd (d : DReg) (bytes : Nat)
  | vector (d : VReg) (bytes : Nat) (lanes : List (Nat × Word)) (old : Lanes) (fail : Option Nat)
  | det (d : DReg) (wide : Bool) (x : Word)
  | join
  deriving DecidableEq, Repr

/-- The replays that an ERET, RESUME or SKIP still owes (R94): positions of the window at base. -/
structure Replay where
  base : Word
  issued : Nat
  done : BitVec 15
  todo : List Nat
  deriving DecidableEq, Repr

/-- A landing reservation (R328): flits held at a port of a die until the reply comes. -/
structure Landing where
  die : Nat
  port : Nat
  flits : Nat
  deriving DecidableEq, Repr

/-- A Galril-D link that a request has crossed (R389, R392): its number, whether the way there runs in ring order, the pointer of the access, and the flits of the request and of its reply. -/
structure Crossing where
  link : Nat
  ahead : Bool
  ptr : Word
  out : Nat
  back : Nat
  deriving DecidableEq, Repr

/-- A long-latency instruction that has issued and not written its destination (R207). Its access, where it makes one in this package, has been performed; what is left is what the write-back does. acq: an atomic with a scope that is still to be performed, before which no later access is (R171). pkts: the operation numbers of its packets, lane by lane (R423). spans: the pointers and bytes of its accesses (R195). land, links: what it holds in the crossbar, and the links that its reply comes back over. xop: it is an XOP of this slot (R231). -/
structure Pending where
  seq : Nat
  pc : Word
  la : Nat
  reads : List RegRef
  dests : List RegRef
  safe : Bool
  setsFlags : Bool
  writes : List RegWrite
  flags : BitVec 6
  slot : Option SlotSet
  late : Option Trap
  far : Option FarUse
  acq : Bool
  ptr : Word
  pkts : List Nat
  spans : List (Nat × Nat)
  land : List Landing
  links : List Crossing
  xop : Option (Fin 8)
  replayed : Option (Nat × Replay)
  deriving DecidableEq, Repr

/-- A store that awaits acceptance (R164): its lanes in ascending order, or a deterministic add. grp: the handle and the key of its space id's group as it issued (R435). pkts: the operation numbers of the packets of its lanes in other packages, once they are sent. asked: those packets ask whether their lanes are accepted, and store nothing (R165). -/
structure StoreHeld where
  seq : Nat
  pc : Word
  lanes : List (Word × List Byte)
  det : Option (Bool × Word)
  grp : Option (BitVec 16 × Word)
  pkts : List Nat
  asked : Bool
  replayed : Option (Nat × Replay)
  deriving DecidableEq, Repr

/-- A trap that waits for trap entry (R93). skip: the instruction has completed (TRAP, WATCH). replayed: the position of the replay that trapped. -/
structure TrapRec where
  seq : Nat
  pc : Word
  trap : Trap
  late : Bool
  skip : Bool
  replayed : Option (Nat × Replay)
  deriving DecidableEq, Repr

/-- What a BLOCKED strand waits in (R84): choose, gang, fuse. Or the completion wait of R11 in which its instruction was last held (R317): phase, foldmark, unfuse, or the slice or quad that holds the other bank's offer. waitt: it stalls in WAITT (R126). gangAgain, fuseAgain: its bank has become active after a spill withdrew its offer, and its MGANG or FUSE, which issues afresh, has not issued since (R313). -/
inductive WaitKind where
  | choose | gang | fuse | phase | foldmark | unfuse | gangHeld | fuseHeld | waitt | gangAgain | fuseAgain
  deriving DecidableEq, Repr

/-- The strand is BLOCKED (R84); in a completion wait it is RUNNING, and its instruction issues again, as that of one whose offer is withdrawn does. -/
def WaitKind.blocks : WaitKind → Bool
  | .choose | .gang | .fuse => true
  | _ => false

/-- A completion wait of R11 (R317). -/
def WaitKind.completion : WaitKind → Bool
  | .phase | .foldmark | .unfuse | .gangHeld | .fuseHeld => true
  | _ => false

/-- What a double trap reports beside the trap block (R93, R95). -/
structure DoubleTrap where
  trap : Trap
  pc : Word
  deriving DecidableEq, Repr

/-- Who a strand is (R82, R83) and what its launch gives it: launch registers, event handles, space id, Slate mark, fault server. -/
structure Ident where
  lid : BitVec 32
  nstr : BitVec 32
  pos : Fin 2
  ln : BitVec 16
  spid : BitVec 20
  slate : Bool
  fsrv : Word
  lch : Vector Word 16
  evh : List (BitVec 32)
  deriving DecidableEq, Repr

/-- The state code of a bank in cstat (R216). -/
inductive BankSt where
  | empty | bound | spilling | restoring | damaged
  deriving DecidableEq, Repr

/-- A register bank: the bound strand's registers, its WSP and pc, and its pending work (R211). watch: a WATCH trap that a blocked instruction takes when it returns (R322). flagged: the strand has been flagged for its wait (R313); flagSeen: the host has cleared its FLAG bit since (R298). again: the number of the instruction that a return issues once more with no window after it (R94). word: the word of an instruction that has issued and blocks, at its address: it does not issue again (R323). trapAt: the address of the trap that the trap block describes (R116). leaving: a spill of the bank waits for its pending work (R213). sending: the one-sided operation whose payload is not yet all in a retry store (R430). heard: the handles of occurrences that the strand has taken while delivery writes of theirs were owed; its accesses come after those (R196). -/
structure Bank where
  st : BankSt
  id : Ident
  wsp : BitVec 18
  pc : Word
  ctx : Ctx
  plane : Vector (Option XImage) 8
  nIssued : Nat
  pend : List Pending
  store : Option StoreHeld
  trapped : List TrapRec
  replay : Option Replay
  endDue : Bool
  held : Bool
  wait : Option WaitKind
  flagged : Bool
  flagSeen : Bool
  dbl : Option DoubleTrap
  boundary : Bool
  watch : Option Trap
  again : Nat
  word : Option (Word × BitVec 32)
  trapAt : Option Word
  leaving : Bool
  sending : Option Nat
  heard : List Nat
  deriving DecidableEq, Repr

/-- A core (R204, R211, R216). swp: a swap of the banks is under way; put: a swap has been asked for and put off while the quad is fused (R212). unbound: the strands of the core that are UNBOUND (R84); their context stands in their workspaces, and the record holds what is not part of it. -/
structure Core where
  b0 : Bank
  b1 : Bank
  ab : Fin 2
  swp : Bool
  put : Bool
  hung : Bool
  fen : Bool
  cswapthr : BitVec 32
  chang : BitVec 32
  unbound : List Bank
  deriving DecidableEq, Repr

/-! The cluster (R238 to R296). -/

/-- A strand of the package, by its launch and index in it: neither changes while it lives (R83). -/
structure StrandId where
  ln : BitVec 16
  lid : BitVec 32
  deriving DecidableEq, Repr

/-- A ring (R239 to R243). written: tickets at or above the frontier whose entry is written. -/
structure Ring where
  rcfg : Word
  rprd : Word
  head : Word
  front : Word
  arrival : Word
  ranks : Vector Word 16
  written : List Nat
  deriving DecidableEq, Repr

/-- The states of R247, R250 and R73. finished: every step is made, and the completion of R252 is to come. faulted: a step failed with this cause, and the stop of R251 is to come. -/
inductive CmdSt where
  | queued
  | running
  | finished
  | faulted (cause : Cause)
  | stopped
  deriving DecidableEq, Repr

/-- A command the cluster holds, or a stopped one that may be resumed (R249 to R251). loc: the address of its word among all locations. tok: the allowance of the pushing strand. pch: the next step. gang, gln: the gang it is a member of, and at launch the launch that the gang's token is charged to (R271). run: how often it has been resumed. again: a RESUME waits for room (R251). rows: the rows that a GTHR has gathered. lag, ahead: the destination bytes made that wait for the rest of their 8-byte word, and the source bytes of such a word read before their step (R190). lagAt, lagPch: the locations of the bytes that wait, in order, where they lie in this package, and the step that made the first of them. dropped: a DISCARD has come before its stop. runs: the bytes, by pointer, that the step under way has read and has still to write. -/
structure Cmd where
  id : Nat
  q : Fin 6
  ptr : Word
  loc : Nat
  core : CoreKey
  words : Vector Word 4
  sid : Word
  who : StrandId
  spid : BitVec 20
  fsrv : Word
  tok : Nat
  st : CmdSt
  pch : Nat
  gang : Option Nat
  gln : BitVec 16
  run : Nat
  again : Bool
  rows : List (List Byte)
  lag : List (Nat × List Byte)
  ahead : Option (Nat × List Byte)
  lagAt : List (Nat × Nat)
  lagPch : Nat
  dropped : Bool
  runs : List (Nat × List Byte)
  deriving DecidableEq, Repr

/-- A node of the dependence graph (R250). -/
inductive NodeSt where
  | free | waiting | ready | running | stopped
  deriving DecidableEq, Repr

/-- A node with its early credits, each tagged with the launch that gave it (R250). -/
structure Node where
  st : NodeSt
  count : Nat
  credits : List (BitVec 16)
  deriving DecidableEq, Repr

/-- A range-lock entry (R253), with the command that holds it. run: it is the B entry of gang cmd, at so many resumptions (R278). -/
structure Lock where
  start : Word
  dst : Bool
  q : Fin 6
  spid : BitVec 20
  len : Nat
  cmd : Nat
  run : Option Nat
  deriving DecidableEq, Repr

/-- A watchpoint (R256). -/
structure Watch where
  wbase : Word
  wctl : Word
  wrec : Word
  waddr : Word
  deriving DecidableEq, Repr

/-- A skid record (R258). -/
structure Skid where
  w0 : Word
  w1 : Word
  deriving DecidableEq, Repr

/-- A slot-table entry (R378), its two words. -/
structure SlotEntry where
  w0 : Word
  w1 : Word
  deriving DecidableEq, Repr

/-- The format tag of an accumulator tile (R262). -/
inductive TileTag where
  | empty | f32 | f64
  deriving DecidableEq, Repr

/-- An accumulator tile: its tag, its elements row-major as patterns, its status word (R262, R53). -/
structure Tile where
  tag : TileTag
  data : List Word
  status : Word
  deriving DecidableEq, Repr

/-- A gather latch: the row pitch in bytes and the rows (R279). -/
structure Latch where
  pitch : Nat
  rows : List (List Byte)
  deriving DecidableEq, Repr

/-- The overflow policies of R282. -/
inductive OqPol where
  | trap | fold | spill
  deriving DecidableEq, Repr

/-- An orthogonal accumulator (R282): V by columns, T by rows, elements as patterns of PREC. -/
structure Oq where
  init : Bool
  f32 : Bool
  pol : OqPol
  cap : Nat
  rows : Nat
  k : Nat
  v : List (List Word)
  t : List (List Word)
  tgt : BitVec 5
  cursor : Word
  seq : BitVec 32
  status : Word
  deriving DecidableEq, Repr

/-- A result held in a slice for a MGANG (R268, R269): a value for RD, or GANG_MISMATCH with its detail. -/
inductive GangResult where
  | value (w : Word)
  | mismatch (detail : Nat)
  deriving DecidableEq, Repr

/-- A gang offer or held result of a slice (R269). -/
structure GangOffer where
  who : StrandId
  sid : Word
  core : CoreKey
  ptr : Word
  loc : Nat
  words : Vector Word 4
  spid : BitVec 20
  fsrv : Word
  tok : Nat
  result : Option GangResult
  deriving DecidableEq, Repr

/-- A signal participant (R188). -/
structure Signal where
  ptr : Word
  threshold : Word
  count : Word
  core : CoreKey
  spid : BitVec 20
  deriving DecidableEq, Repr

/-- The kinds of event (R178, R298). -/
inductive EvKind where
  | sync | bcast | xchg | gather | redadd
  deriving DecidableEq, Repr

/-- An event slot (R298). -/
structure EvSlot where
  alloc : Bool
  kind : EvKind
  gen : BitVec 8
  strands : List StrandId
  sigs : List (Nat × Signal)
  credit : BitVec 16
  noff : Nat
  ready : Bool
  deriving DecidableEq, Repr

/-- A resolver: its slots, its rotation (R297, R298, R307). -/
structure Resolver where
  slots : List (Nat × EvSlot)
  rot : Nat
  deriving DecidableEq, Repr

/-- Who started a Vermilion stop (VSTAT.SRC, R259). -/
inductive StopSrc where
  | watchpoint (n : Fin 8)
  | pin | debugger | broadcast
  deriving DecidableEq, Repr

/-- STEPST (R259). -/
inductive StepSt where
  | none | done | trapped | blocked | stalled
  deriving DecidableEq, Repr

/-- VCTL and VSTAT (R259). origin, reach: the cluster that started the stop in force, and its scope. stepping: the step in progress, its core, the number of instructions issued before it, and tstat then (R260). grace: the six cycles of R258 in which cores of the scope may still issue. -/
structure Vermilion where
  scope : BitVec 2
  score : Fin 8
  frz : Bool
  tick : BitVec 32
  src : StopSrc
  stepst : StepSt
  origin : ClusterKey
  reach : BitVec 2
  stepping : Option (CoreKey × Nat × Word)
  grace : Bool
  deriving DecidableEq, Repr

/-- A cluster. icache: the instruction words that its cache holds, by location (R203). -/
structure Cluster where
  rings : Vector Ring 16
  cmds : List Cmd
  nodes : List (Nat × Node)
  cqerr : Bool
  locks : Vector (Option Lock) 32
  watch : Vector Watch 8
  verm : Vermilion
  skid : Vector Skid 8
  snap : Vector Word 32
  cmap : BitVec 24
  slots : Vector SlotEntry 16
  tiles : List (Nat × Tile)
  latches : Vector Latch 4
  scale : List (Nat × Byte)
  oq : Vector Oq 2
  gangOffers : Vector (Option GangOffer) 4
  digests : List (List Byte)
  res : Resolver
  evwatch : BitVec 32
  icache : List (Nat × BitVec 32)
  deriving DecidableEq, Repr

/-! The die (R324 to R348). -/

/-- A leaf a station holds (R332, R334): its station, the page's base, the level it was found at, its permissions. -/
structure TlbEntry where
  station : Nat
  spid : BitVec 20
  page : Nat
  bits : Nat
  pa : Nat
  perms : BitVec 4
  deriving DecidableEq, Repr

/-- A walk that a station runs (R332): the station, the space id, the address. early: it began before the invalidation under way (R338). -/
structure Walk where
  station : Nat
  spid : BitVec 20
  va : Nat
  early : Bool
  deriving DecidableEq, Repr

/-- A fuse offer (R340). -/
structure FuseOffer where
  who : StrandId
  core : CoreKey
  bank : Fin 2
  ptr : Word
  d : DReg
  spid : BitVec 20
  fsrv : Word
  result : Option GangResult
  deriving DecidableEq, Repr

/-- A stage of a running fusion (R341, R345): its image, its rings (16 × cluster + number), and what it has still to push of the tuple that it popped last. -/
structure Stage where
  img : XImage
  ins : List Nat
  outs : List Nat
  tuple : Option (List Word)
  deriving DecidableEq, Repr

/-- A quad (R340 to R348): offers held by quad core, the stages of the fusion that runs, the strand whose UNFUSE drains it, the strands whose UNFUSE has not heard that a fault ended the fusion it drained, QFSTAT's record of the last one. -/
structure Quad where
  offers : List (Nat × FuseOffer)
  fused : Bool
  stages : List Stage
  draining : Bool
  unfuser : Option StrandId
  unheard : List StrandId
  nst : Nat
  endCode : Nat
  fcause : Nat
  counts : Vector Word 16
  deriving DecidableEq, Repr

/-- What a probe reads of a member of its set (R314): its entries, its wait, and the missing signal participants of its events with the values of their words. -/
structure MemberView where
  who : StrandId
  entries : List Word
  wait : Option WaitKind
  sigs : List (Signal × Option Nat)
  deriving DecidableEq, Repr

/-- A flag that a probe has taken (R314): the flagged strand; once the probe has examined its set, the set, the states it saw, and the homes that have still to resolve before it reads them again. -/
structure ProbeView where
  flagged : StrandId
  set : List StrandId
  seen : List MemberView
  homes : List Home
  deriving DecidableEq, Repr

/-- PRCTL and PRHEAD with the ring of report records (R318), and the flags under examination. -/
structure Probe where
  en : Bool
  trap : Bool
  lost : BitVec 8
  next : Fin 16
  records : Vector (List Word) 16
  pending : List ProbeView
  deriving DecidableEq, Repr

/-! Fold units (R349 to R359). A heap's state stands in memory (R360). -/

/-- An accepted deterministic update (R353, R357): its address, width, tag and addend. -/
structure FoldUpd where
  addr : Nat
  wide : Bool
  rank : Nat
  seq : Nat
  x : Word
  deriving DecidableEq, Repr

/-- An open window of a fold group: the ranks that have marked it, the updates accepted for it here, for each fold unit the place of the first of them in the order of acceptance (R358), and the other packages whose fold units are registered with the home (R356). -/
structure FoldWin where
  win : Nat
  marks : List Nat
  upds : List FoldUpd
  firsts : List ((Nat × Nat) × Nat)
  far : List Nat
  deriving DecidableEq, Repr

/-- A fold group, named by its descriptor's physical address, or by 2^48 and more for one of another package (R349): the first rank's view for SIG, the strands that are members, the ranks that left, the ranks that leave once the window before their own has closed, each with its window (R352), the windows that hold something, and, once every rank has left, the window that the last one marked (R385). -/
structure FoldGroup where
  desc : Nat
  spid : BitVec 20
  core : CoreKey
  members : List StrandId
  left : List Nat
  leaves : List (Nat × Nat)
  wins : List FoldWin
  fin : Option Nat
  deriving DecidableEq, Repr

/-! Dispatch (R364 to R384). -/

/-- The lists that a launch record names, as dispatch reads them at acceptance: coordinates, event entries, ring entries, load list (R367 to R372). -/
structure RecLists where
  coords : List Nat
  events : List Word
  rings : List (Word × Word)
  loads : List (List Word)
  deriving DecidableEq, Repr

/-- A record that a queue has accepted (R365). since: the tick of its refusal or completion (R408). Its index, its words and lists, its place in the order of acceptance, the reason of a refusal, whether AFTER has occurred, its launch once admitted, its outcome once it has completed (OUT, KILL, STOP). -/
structure QRec where
  idx : Nat
  words : List Word
  lists : RecLists
  order : Nat
  refused : Option Nat
  after : Bool
  ln : Option (BitVec 16)
  outcome : Option (Nat × Nat × Nat)
  since : Word
  deriving DecidableEq, Repr

/-- A launch queue (R364, R365). emptySince: the tick at which the slot at ACC was first seen empty. -/
structure Queue where
  lqb : Word
  lqcfg : Word
  acc : Word
  rep : Word
  recs : List QRec
  emptySince : Option Nat
  deriving DecidableEq, Repr

/-- A live launch (R378 to R380). places: the positions of its strands in lid order. lstart: LSTART has been written. order: the place of its record in the order of acceptance; startNo: its own in the order of starts (R379). phases: for each strand, the pc and phase index that its last PHASE recorded (R383). ringsAt: the clusters in which its rings are set (R372). dropped: commands of its strands that a remap has discarded before they stopped (R384). -/
structure Launch where
  ln : BitVec 16
  q : Fin 16
  idx : Nat
  words : List Word
  lists : RecLists
  places : List Position
  slots : List SlotChoice
  created : List (BitVec 32)
  lstart : Bool
  started : Bool
  ended : List (BitVec 32)
  kills : Nat
  stops : Nat
  order : Nat
  startNo : Nat
  phases : List (Nat × (Word × Word))
  ringsAt : List ClusterKey
  dropped : Nat
  deriving DecidableEq, Repr

/-! The fabric and the package's services (R386 to R450). -/

/-- What of a payload stands in no retry store yet: bytes at locations of this package, read as they are copied (R427), or bytes at hand. -/
inductive Payload where
  | mem (ps : List (Nat × Nat))
  | held (bs : List Byte)
  deriving DecidableEq, Repr

/-- Who makes an access to another package that is no strand: an engine's command, or a quad that reads a fused image (R344). -/
inductive AskBy where
  | cmd (id : Nat)
  | quad (d pq : Nat)
  | fold (desc : Nat)
  deriving DecidableEq, Repr

/-- A one-sided operation to another package, until it is complete (R427 to R432). port: the port by which all of its packets leave (R422); handle, key: what its packets carry (R435). sent: bytes in a retry store; rest: what of a payload is not there yet; left: packets that the target has not acknowledged, sent or not; due: bytes that the replies of an RRD have still to bring; failed: the first failure, reported. ask: it is a read, 0x72, a write, 0x70, or the question whether a write would be accepted, 0, of an engine or a quad, until the step that makes it is done, or a home's word to another package to close a window, whose report is read (R356); got: the bytes that such a read has brought, by offset. -/
structure FabricOp where
  id : Nat
  sid : Word
  who : StrandId
  fsrv : Word
  opc : Nat
  da : Word
  sa : Word
  amount : Word
  sig : Word
  core : CoreKey
  spid : BitVec 20
  port : Nat
  handle : BitVec 16
  key : Word
  sent : Nat
  rest : Payload
  left : Nat
  due : Nat
  failed : Option (Nat × Nat)
  ask : Option AskBy
  got : List (Nat × List Byte)
  deriving DecidableEq, Repr

/-- A packet in a port's retry store (R423), with the sends made: none while it waits at the egress for a tick boundary (R399). -/
structure RetryPkt where
  port : Nat
  seq : Nat
  sends : Nat
  target : Nat
  pkt : Packet
  deriving DecidableEq, Repr

/-- An operation of another package that this one has received packets of (R427, R432): how many it still lacks and whether one failed. last: port and number of the packet that completed it, whose answer waits for the signal update. -/
structure InOp where
  src : Nat
  opId : Nat
  handle : BitVec 16
  key : Word
  left : Nat
  failed : Bool
  sigVa : Option Nat
  last : Option (Nat × Nat)
  deriving DecidableEq, Repr

/-- What this package has handed to the reply channel for another package (R423, R428). -/
inductive OutMsg where
  | ack (src port seq : Nat) (r : AckReply)
  | data (src opId off : Nat) (bytes : List Byte)
  | value (src port seq : Nat) (words : List Word)
  deriving DecidableEq, Repr

/-- A report that waits for its ring (R440), or awaits a reply (R442). src: the reporting package; who: the strand whose sid word 2 holds. -/
structure Report where
  src : Nat
  kind : Nat
  tag : BitVec 16
  server : Word
  sid : Word
  who : StrandId
  ptr : Word
  spid : BitVec 20
  words : List Word
  deriving DecidableEq, Repr

/-- A delivery owed after a commit (R178, R310): the event's handle, the strand and the entry it completes, the owning core, the pieces captured for the landing buffer and the 8-byte words that land poisoned, by scratchpad offset, the flags, and the dies of the cores that the pieces come from. -/
structure Delivery where
  handle : Nat
  who : StrandId
  entry : Fin 8
  core : CoreKey
  spid : BitVec 20
  segs : List (Nat × List Byte)
  poison : List Nat
  flags : BitVec 4
  dies : List Nat
  deriving DecidableEq, Repr

/-- What the device writes: a 64-bit word, an addition to one, or a record of the journal. -/
inductive OwedAct where
  | write (x : Word)
  | add (x : Word)
  | record (bs : List Byte)
  deriving DecidableEq, Repr

/-- A write of the device at a pointer under a core's view, or of a record at its location, held while it can not be sent (R391). -/
structure Owed where
  core : CoreKey
  spid : BitVec 20
  ptr : Word
  act : OwedAct
  deriving DecidableEq, Repr

/-- A Galril-D link (R389 to R392). spare: lanes left in each direction; taken: the direction for which it retrains to use one. fails: consecutive failed replays of one flit. -/
structure GdLink where
  nrt : BitVec 32
  spare : Vector (BitVec 8) 2
  attempts : Fin 4
  st : Fin 3
  taken : Option (Fin 2)
  fails : Nat
  snap : Vector Word 4
  deriving DecidableEq, Repr

/-- A CXL port (R395). -/
structure CxlPort where
  ide : Bool
  up : Bool
  fitg : BitVec 11
  deriving DecidableEq, Repr

/-- A group table entry, its sixteen words (R434). -/
structure GroupEntry where
  words : Vector Word 16
  deriving DecidableEq, Repr

/-- A test under way (R413): the block, the error, the tick of the error, and whether a spare stands in for the block (R414). -/
structure Test where
  block : Block
  err : ErrKind
  tick : Word
  spare : Bool
  deriving DecidableEq, Repr

/-- The last-granted order of one output and channel (R327). -/
structure GrantOrder where
  out : Nat
  reply : Bool
  order : List Nat
  deriving DecidableEq, Repr

/-- The dispatch control core of a die (R324): the registers of an RV64GC core (PRESUMED, log 36) and its private SRAM, by number and address, those that hold 0 not listed. Its instructions are the signed firmware's, which the spec describes by the duties it carries out: they are the steps of Launch.lean, and no step reads these fields. -/
structure Dcc where
  pc : Word
  x : List (Nat × Word)
  f : List (Nat × Word)
  fcsr : BitVec 32
  sram : List (Nat × Byte)
  deriving DecidableEq, Repr

/-- A die (R324 to R348). -/
structure Die where
  qmap : Vector (BitVec 64) 60
  sptb : Word
  tinv : Option Word
  tlb : List TlbEntry
  spaces : List (Nat × Nat)
  walks : List Walk
  res : Resolver
  probe : Probe
  quads : List (Nat × Quad)
  snap : Vector Word 8
  grants : List GrantOrder
  dcc : Dcc
  deriving DecidableEq, Repr

/-- The package control block, the clock and the thermal state (R387, R419). -/
structure Control where
  slate : Bool
  rdy : Bool
  dup : BitVec 4
  pkid : BitVec 10
  pcsig : Word
  pfsrv : Word
  avg : BitVec 12
  env : BitVec 12
  thr : Bool
  tin : BitVec 8
  tj : BitVec 8
  clock : Nat
  tripped : Bool
  deriving DecidableEq, Repr

/-- The dispatch block (R364). -/
structure Dispatch where
  budget : BitVec 10
  inuse : Nat
  tree : Bool
  slice : BitVec 32
  lstart : BitVec 16
  queues : Vector Queue 16
  launches : List Launch
  order : Nat
  hcomp : Word
  hccnt : Word
  deriving DecidableEq, Repr

/-- The Sepia journal (R407). -/
structure Journal where
  jbase : Word
  jcfg : Word
  jseq : Word
  deriving DecidableEq, Repr

/-- The Ivory block (R410 to R412). armedAt: the tick of the trigger. -/
structure Ivory where
  enables : BitVec 4
  iss : BitVec 24
  src : Fin 5
  st : Fin 3
  armedAt : Word
  tick : Word
  snap : Vector Word 20
  deriving DecidableEq, Repr

/-- The self-test log and what is under test or spare (R413 to R415). used: spares taken, by store or lane key. -/
structure SelfTest where
  next : BitVec 6
  lost : BitVec 8
  records : Vector (List Word) 64
  running : List Test
  used : List (Nat × Nat)
  deriving DecidableEq, Repr

/-- The boot block, key store and mailbox (R416 to R418). -/
structure Boot where
  stage : BitVec 8
  err : BitVec 8
  svn : BitVec 32
  meas : Vector (List Byte) 4
  cmd : BitVec 8
  status : BitVec 8
  len : BitVec 32
  mailbox : List (Nat × Byte)
  imageKey : Option (List Byte)
  ownerDigest : Option (List Byte)
  deriving DecidableEq, Repr

/-- The fabric block (R423 to R450). -/
structure Fabric where
  up : BitVec 36
  en : BitVec 36
  nsend : BitVec 4
  tmo : BitVec 16
  w0 : BitVec 4
  w1 : BitVec 4
  w2 : BitVec 4
  sync : Bool
  inSync : Nat
  master : Bool
  off : BitVec 32
  fsrb : Word
  fsrc : Word
  ringNext : Nat
  groups : List (Nat × GroupEntry)
  retry : List RetryPkt
  portSeq : List (Nat × Nat)
  seen : List (Nat × Nat × Nat)
  ops : List FabricOp
  nextOp : Nat
  inOps : List InOp
  out : List OutMsg
  reports : List Report
  awaiting : List Report
  tag : BitVec 16
  deriving DecidableEq, Repr

/-- One choice of the order in which the agents of the package act: a step of the device, or an issue by a core. -/
inductive Turn where
  | act (i : Instr)
  | core (k : CoreKey)
  deriving DecidableEq, Repr

/-- The machine. badTags: the lines of register regions, by location, whose tag in the tag store is no match: it is uncorrectable, or the line's stored bits changed without a write; every other tag is the CRC-32 of its line (R214, R402). corrected: the corrected reads counted against each channel of HBM (R393), by 32 × stack + channel. msix, msixTable: the vectors raised, and the table's words (R405). hostData: what the host's last read returned. foldNo: the updates that fold units have accepted. foldWaits: the updates of other packages that wait at a fold unit, with their group and window (R358). agenda, cur and fresh are the model's own: the order of the agents, the core that issues, and the counter at which free values are drawn. -/
structure State where
  mem : List Host.Cell
  poison : List Nat
  badTags : List Nat
  cores : List (Nat × Core)
  clusters : List (Nat × Cluster)
  dies : Vector Die 4
  ctl : Control
  tick : Word
  disp : Dispatch
  res : Resolver
  probe : Probe
  jrn : Journal
  ivory : Ivory
  test : SelfTest
  links : Vector GdLink 4
  cxl : Vector CxlPort 16
  boot : Boot
  fab : Fabric
  msix : BitVec 7
  msixTable : Vector Word 14
  hostData : List Byte
  corrected : List (Nat × Nat)
  folds : List FoldGroup
  foldNo : Nat
  foldWaits : List (Nat × Nat × FoldUpd)
  deliveries : List Delivery
  owed : List Owed
  nextCmd : Nat
  agenda : List Turn
  cur : CoreKey
  fresh : Nat
  deriving DecidableEq, Repr

/-- Why a step stops. -/
inductive Fault where
  /-- The junction temperature reached 110 °C (R419): the package stops issuing and needs a reset. Raised by step alone. Safe: the spec says that nothing more happens. -/
  | thermalTrip
  /-- The boot ROM found no valid firmware (R416): the device runs nothing and only the boot block answers. Raised by step alone. Safe: the spec says that nothing more happens. -/
  | romHalted
  deriving DecidableEq, Repr

/-- What the model refuses. -/
inductive Refusal where
  /-- An instruction whose meaning is not written yet. Raised by its arm of exec. Safe: nothing follows from it. -/
  | notModelled (mnemonic : String)
  deriving DecidableEq, Repr

/-! Reset. -/

def LoopPair.empty : LoopPair := ⟨0, 0⟩
def Offer.empty : Offer := ⟨0, 0⟩
def ExactAcc.zero : ExactAcc := ⟨0, 0, 0⟩

/-- The trap block at creation (R91). -/
def TrapBlock.created : TrapBlock := ⟨0, 0, 0, 0, 0, 0x1DF, Vector.replicate 4 0, 0⟩

/-- The register region at creation (R80). -/
def Ctx.created : Ctx where
  w := Vector.replicate 32 0
  o := Vector.replicate 8 0
  l := Vector.replicate 4 0
  m := #v[0xFFFF, 0, 0, 0, 0, 0, 0, 0]
  fcsr := 0
  loops := Vector.replicate 2 LoopPair.empty
  phase := 0
  tok := 0
  fgp := 0
  fgw := 0
  tb := TrapBlock.created
  offers := Vector.replicate 8 Offer.empty
  binds := Vector.replicate 8 0
  v := Vector.replicate 16 (Vector.replicate 16 0)
  vl := Vector.replicate 2 (Vector.replicate 16 0)
  xa := Vector.replicate 2 ExactAcc.zero

def Ident.none : Ident := ⟨0, 0, 0, 0, 0, false, 0xFFFFFFFFFFFFFFFF, Vector.replicate 16 0, []⟩

/-- An empty bank. DESIGN CHOICE (log 2): the spec gives an empty bank's registers no values, and the model holds those of creation. -/
def Bank.empty : Bank where
  st := .empty
  id := Ident.none
  wsp := 0
  pc := 0
  ctx := Ctx.created
  plane := Vector.replicate 8 none
  nIssued := 0
  pend := []
  store := none
  trapped := []
  replay := none
  endDue := false
  held := false
  wait := none
  flagged := false
  flagSeen := false
  dbl := none
  boundary := false
  watch := none
  again := 0
  word := none
  trapAt := none
  leaving := false
  sending := none
  heard := []

/-- A core at reset (R216). -/
def Core.reset : Core where
  b0 := Bank.empty
  b1 := Bank.empty
  ab := 0
  swp := false
  put := false
  hung := false
  fen := false
  cswapthr := 0x4000
  chang := 0x100000
  unbound := []

def Ring.reset : Ring := ⟨0, 0, 0, 0, 0, Vector.replicate 16 0, []⟩
def Node.free : Node := ⟨.free, 0, []⟩
def Tile.reset : Tile := ⟨.empty, [], 0⟩
def Oq.reset : Oq := ⟨false, false, .trap, 0, 0, 0, [], [], 0, 0, 0, 0⟩
def EvSlot.free : EvSlot := ⟨false, .sync, 0, [], [], 0, 0, false⟩
def Resolver.reset : Resolver := ⟨[], 0⟩
def Vermilion.reset : Vermilion := ⟨0, 0, false, 0, .watchpoint 0, .none, 0, 0, none, false⟩

/-- A cluster at reset (R239 to R298, R384). -/
def Cluster.reset : Cluster where
  rings := Vector.replicate 16 Ring.reset
  cmds := []
  nodes := []
  cqerr := false
  locks := Vector.replicate 32 none
  watch := Vector.replicate 8 ⟨0, 0, 0, 0⟩
  verm := Vermilion.reset
  skid := Vector.replicate 8 ⟨0, 0⟩
  snap := Vector.replicate 32 0
  cmap := 0xFAC688
  slots := Vector.replicate 16 ⟨0, 0⟩
  tiles := []
  latches := Vector.replicate 4 ⟨0, []⟩
  scale := []
  oq := Vector.replicate 2 Oq.reset
  gangOffers := Vector.replicate 4 none
  digests := []
  res := Resolver.reset
  evwatch := 0x40000
  icache := []

def Quad.reset : Quad := ⟨[], false, [], false, none, [], 0, 0, 0, Vector.replicate 16 0⟩

/-- PRCTL at reset has both bits set (R318). -/
def Probe.reset : Probe := ⟨true, true, 0, 0, Vector.replicate 16 (List.replicate 8 0), []⟩

/-- A die at reset. DESIGN CHOICE (log 2): the fuses name physical quads 0 to 59 in order (R330), and no invalidation is under way. -/
def Die.reset : Die where
  qmap := Vector.ofFn fun q => BitVec.ofNat 64 (128 + q.val)
  sptb := 0
  tinv := none
  tlb := []
  spaces := []
  walks := []
  res := Resolver.reset
  probe := Probe.reset
  quads := []
  snap := Vector.replicate 8 0
  grants := []
  dcc := ⟨0, [], [], 0, []⟩

def Queue.reset : Queue := ⟨0, 0x0000000271000000, 0, 0, [], none⟩

/-- The machine right after reset: nothing bound, every register at the spec's reset value, or where the spec gives none at the value log 2 names. The MSI-X table, whose layout is that of PCI Express, has its vectors masked (PRESUMED, log 58). -/
def State.reset : State where
  mem := []
  poison := []
  badTags := []
  cores := []
  clusters := []
  dies := Vector.replicate 4 Die.reset
  ctl :=
    { slate := false, rdy := false, dup := 0, pkid := 0, pcsig := 0, pfsrv := 0xFFFFFFFFFFFFFFFF,
      avg := 0, env := 0xAF0, thr := false, tin := 0, tj := 0, clock := 2700, tripped := false }
  tick := 0
  disp :=
    { budget := 720, inuse := 0, tree := true, slice := 0x40000, lstart := 0,
      queues := Vector.replicate 16 Queue.reset, launches := [], order := 0, hcomp := 0, hccnt := 0 }
  res := Resolver.reset
  probe := Probe.reset
  jrn := ⟨0, 0, 0⟩
  ivory := ⟨0, 0, 0, 0, 0, 0, Vector.replicate 20 0⟩
  test := ⟨0, 0, Vector.replicate 64 (List.replicate 4 0), [], []⟩
  links := Vector.replicate 4 ⟨0, Vector.replicate 2 8, 0, 0, none, 0, Vector.replicate 4 0⟩
  cxl := Vector.replicate 16 ⟨false, false, 0⟩
  boot :=
    { stage := 0, err := 0, svn := 0, meas := Vector.replicate 4 (List.replicate 32 0), cmd := 0,
      status := 0, len := 0, mailbox := [], imageKey := none, ownerDigest := none }
  fab :=
    { up := 0, en := 0, nsend := 4, tmo := 16, w0 := 8, w1 := 4, w2 := 1, sync := false, inSync := 0,
      master := false, off := 0, fsrb := 0, fsrc := 0, ringNext := 0, groups := [], retry := [],
      portSeq := [], seen := [], ops := [], nextOp := 1, inOps := [], out := [], reports := [],
      awaiting := [], tag := 0 }
  msix := 0
  msixTable := Vector.ofFn fun i => if i.val % 2 = 0 then 0 else 0x100000000
  hostData := []
  corrected := []
  folds := []
  foldNo := 0
  foldWaits := []
  deliveries := []
  owed := []
  nextCmd := 1
  agenda := []
  cur := 0
  fresh := 0

end Sys2Proof.Machine
end

