-- ==== Sys2Proof/Machine/Memory.lean ====
section
/-! DEFINITION. Bytes, memory in its canonical form, where each store of the package lies in it, and the layout of a register region (R14, R80, R214, R402). -/

namespace Sys2Proof.Machine

open Sys2Proof

/-! Bytes (R14). -/

/-- The number whose little-endian bytes these are. -/
def leNat : List Byte → Nat
  | [] => 0
  | b :: l => b.toNat + 256 * leNat l

/-- The n low bytes of x, the lowest first. -/
def leBytes : Nat → Nat → List Byte
  | 0, _ => []
  | n + 1, x => BitVec.ofNat 8 x :: leBytes n (x / 256)

/-- The 64-bit word of eight bytes. -/
def leWord (l : List Byte) : Word := BitVec.ofNat 64 (leNat l)

/-- Bits lo up, len of them, of a word. -/
def bits (w : Word) (lo len : Nat) : Nat := w.toNat / 2 ^ lo % 2 ^ len

/-- The word with bits lo up, len of them, replaced by x. -/
def setBits (w : Word) (lo len x : Nat) : Word :=
  BitVec.ofNat 64 (w.toNat - bits w lo len * 2 ^ lo + x % 2 ^ len * 2 ^ lo)

/-- Sign extension of the n low bits to 64 bits (R27). -/
def sext (n x : Nat) : Word := BitVec.ofInt 64 (signedOf n (x % 2 ^ n))

/-- Zero extension of the n low bits to 64 bits (R27). -/
def zext (n x : Nat) : Word := BitVec.ofNat 64 (x % 2 ^ n)

/-! Memory: cells in rising order of address, none holding 0, which is what an unlisted byte reads as (DESIGN CHOICE, log 3). -/

/-- What an unlisted byte reads as. -/
def unlisted : Byte := 0

/-- One byte. -/
def getByte : List Host.Cell → Nat → Byte
  | [], _ => unlisted
  | (k, v) :: l, a => if k = a then v else getByte l a

/-- Memory with one byte replaced, in canonical form again. -/
def putByte : List Host.Cell → Nat → Byte → List Host.Cell
  | [], a, b => if b = unlisted then [] else [(a, b)]
  | (k, v) :: l, a, b =>
    if a < k then (if b = unlisted then (k, v) :: l else (a, b) :: (k, v) :: l)
    else if a = k then (if b = unlisted then l else (a, b) :: l)
    else (k, v) :: putByte l a b

/-- Addresses rise strictly from lo on, and no cell holds the unlisted value. -/
def cellsOk : Nat → List Host.Cell → Bool
  | _, [] => true
  | lo, (k, v) :: l => decide (lo ≤ k) && decide (v ≠ unlisted) && cellsOk (k + 1) l

/-- The canonical form. -/
def Memory.wf (m : List Host.Cell) : Bool := cellsOk 0 m

/-- n bytes from an address. -/
def getBytes (m : List Host.Cell) : Nat → Nat → List Byte
  | _, 0 => []
  | a, n + 1 => getByte m a :: getBytes m (a + 1) n

/-- Bytes written from an address. -/
def putBytes (m : List Host.Cell) : Nat → List Byte → List Host.Cell
  | _, [] => m
  | a, b :: l => putBytes (putByte m a b) (a + 1) l

/-! Where the stores lie among all locations: HBM and the CXL tier at their physical addresses (R335), then the scratchpads, then the SRAMs. -/

/-- The location of byte 0 of a physical core's scratchpad. -/
def spadBase (k : CoreKey) : Nat := 2 ^ 46 + k * 2 ^ 18

/-- The location of byte 0 of a physical cluster's SRAM. -/
def sramBase (c : ClusterKey) : Nat := 2 ^ 47 + c * 2 ^ 19

/-- Scratchpad size of a core (R3, R6). -/
def spadSize (k : CoreKey) : Nat := if k % 8 < 4 then 0x40000 else 0x20000

/-- Size of a cluster SRAM (R6). -/
def sramSize : Nat := 0x80000

/-- End of HBM (R335). -/
def hbmEnd : Nat := 2 ^ 39

/-- Start and end of the CXL tier (R335). -/
def cxlBase : Nat := 2 ^ 44
def cxlEnd : Nat := 2 ^ 45

/-! Poison (R164). -/

/-- A read of n bytes at loc meets an uncorrectable error. -/
def poisoned (p : List Nat) (loc n : Nat) : Bool := p.any fun w => decide (w < loc + n) && decide (loc < w + 8)

/-- A write of n bytes at loc clears the poison of the 8-byte words that it covers whole. -/
def unpoison (p : List Nat) (loc n : Nat) : List Nat :=
  p.filter fun w => !(decide (loc ≤ w) && decide (w + 8 ≤ loc + n))

/-! The integrity tag (R402). -/

/-- Eight steps of the reflected CRC-32 shift register. -/
def crcBits : Nat → BitVec 32 → BitVec 32
  | 0, r => r
  | n + 1, r => crcBits n (if r.getLsbD 0 then (r >>> 1) ^^^ 0xEDB88320 else r >>> 1)

/-- CRC-32 of IEEE 802.3. -/
def crc32 (l : List Byte) : BitVec 32 :=
  (l.foldl (fun r b => crcBits 8 (r ^^^ b.setWidth 32)) 0xFFFFFFFF) ^^^ 0xFFFFFFFF

/-- Bytes of line n of a register region (R214). -/
def lineBytes (n : Nat) : Nat := if n = 77 then 32 else 64

/-- The CRC of line n of the register region at a location (R214). -/
def lineTag (m : List Host.Cell) (region n : Nat) : BitVec 32 := crc32 (getBytes m (region + 64 * n) (lineBytes n))

/-- The tag of the line at a location is no match. Every other tag is its line's CRC (storedTag), so this is the comparison of R96. -/
def tagFails (badTags : List Nat) (line : Nat) : Bool := badTags.contains line

/-- The tag store's word for line n of the region at a location: every write recomputes it, so it is the CRC of what the line holds; none where it is no match (R214, R402). -/
def storedTag (m : List Host.Cell) (badTags : List Nat) (region n : Nat) : Option (BitVec 32) :=
  if tagFails badTags (region + 64 * n) then none else some (lineTag m region n)

/-- Bytes of the line at a location: workspaces are aligned to 8192 (R214). -/
def lineSpan (line : Nat) : Nat := lineBytes (line % 8192 / 64)

/-- A write of n bytes at loc recomputes the tag of each line that it touches (R214). -/
def retag (badTags : List Nat) (loc n : Nat) : List Nat :=
  badTags.filter fun l => !(decide (loc < l + lineSpan l) && decide (l < loc + n))

/-! The register region (R80). -/

/-- Bytes of the register region, and its 8-byte words. -/
def regionBytes : Nat := 0x1360
def regionWords : Nat := 620

/-- Four masks in one word. -/
def packMasks (a b c d : BitVec 16) : Word :=
  BitVec.ofNat 64 (a.toNat + b.toNat * 65536 + c.toNat * 4294967296 + d.toNat * 281474976710656)

/-- Element n of a vector of which n may lie outside. -/
def vget {α : Type} {n : Nat} (v : Vector α n) (d : α) (i : Nat) : α := v.getD i d

/-- Word i of the region: the 8 bytes at offset 8 × i. -/
def Ctx.word (c : Ctx) (i : Nat) : Word :=
  if i < 32 then vget c.w 0 i
  else if i < 40 then vget c.o 0 (i - 32)
  else if i < 44 then vget c.l 0 (i - 40)
  else if i < 46 then
    let j := 4 * (i - 44)
    packMasks (vget c.m 0 j) (vget c.m 0 (j + 1)) (vget c.m 0 (j + 2)) (vget c.m 0 (j + 3))
  else if i = 46 then c.fcsr
  else if i < 51 then
    let p := vget c.loops LoopPair.empty ((i - 47) / 2)
    if (i - 47) % 2 = 0 then p.w0 else p.w1
  else if i = 51 then c.phase
  else if i = 52 then c.tok
  else if i = 53 then c.fgp
  else if i = 54 then c.fgw
  else if i < 64 then 0
  else if i = 64 then c.tb.tpc
  else if i = 65 then c.tb.tcause
  else if i = 66 then c.tb.tval
  else if i = 67 then c.tb.tinfo
  else if i = 68 then c.tb.twvec
  else if i = 69 then c.tb.troute
  else if i < 74 then vget c.tb.tl 0 (i - 70)
  else if i = 74 then c.tb.tstat
  else if i < 80 then 0
  else if i < 96 then
    let e := vget c.offers Offer.empty ((i - 80) / 2)
    if i % 2 = 0 then e.w0 else e.w1
  else if i < 104 then vget c.binds 0 (i - 96)
  else if i < 128 then 0
  else if i < 384 then vget (vget c.v (Vector.replicate 16 0) ((i - 128) / 16)) 0 ((i - 128) % 16)
  else if i < 416 then vget (vget c.vl (Vector.replicate 16 0) ((i - 384) / 16)) 0 ((i - 384) % 16)
  else if i < 616 then
    let x := (vget c.xa ExactAcc.zero ((i - 416) / 100)).value
    BitVec.ofNat 64 (x.toNat / 2 ^ (64 * ((i - 416) % 100)))
  else if i < 618 then (vget c.xa ExactAcc.zero (i - 616)).status
  else if i < 620 then (vget c.xa ExactAcc.zero (i - 618)).count
  else 0

/-- Bits that fcsr, tcause, tinfo, troute and tstat implement (R39, R91). -/
def fcsrMask : Word := 0x833F
def tcauseMask : Word := 0x1FFF
def tinfoMask : Word := 0xFFFFFFF
def trouteMask : Word := 0x1FF
def tstatMask : Word := 0x7
def pcMask : Word := 0xFFFFFFFFFFFFFFFC

/-- Bits that the status word of an exact accumulator implements; its RCNT reads as 0 (R53). -/
def exactStatusMask : Word := 0x1F

/-- Bits that FGP and FGW implement (R350). -/
def fgpMask : Word := 0xFFFFFFFFFFFFFFC1
def fgwMask : Word := 0xFFFFFF00FFFFFFFF

/-- A loop pair as it is loaded: inactive where R112 says so. outer: pair 0 is active. -/
def LoopPair.load (p : LoopPair) (outer : Bool) : LoopPair :=
  let kind := p.w0.getLsbD 1
  let len := bits p.w1 32 12
  let bad := len = 0 ∨ (kind = true ∧ 127 < len) ∨ bits p.w1 0 32 = 0 ∨ (kind = true ∧ bits p.w0 59 5 = 0)
    ∨ outer = false
  if p.w0.getLsbD 0 = true ∧ bad then ⟨p.w0 &&& 0xFFFFFFFFFFFFFFFE, p.w1⟩ else p

/-- The registers that a region of these words holds: reserved bits read as 0. -/
def Ctx.ofWords (f : Nat → Word) : Ctx :=
  let q0 : LoopPair := ⟨f 47 &&& 0xF9FFFFFFFFFFFFFF, f 48 &&& 0xFFFF0FFFFFFFFFFF⟩
  let q1 : LoopPair := ⟨f 49 &&& 0xF9FFFFFFFFFFFFFF, f 50 &&& 0xFFFF0FFFFFFFFFFF⟩
  { w := Vector.ofFn fun i => f i.val
    o := Vector.ofFn fun i => f (32 + i.val)
    l := Vector.ofFn fun i => f (40 + i.val)
    m := Vector.ofFn fun i => BitVec.ofNat 16 (bits (f (44 + i.val / 4)) (16 * (i.val % 4)) 16)
    fcsr := f 46 &&& fcsrMask
    loops := #v[q0, q1]
    phase := f 51
    tok := f 52
    fgp := f 53 &&& fgpMask
    fgw := f 54 &&& fgwMask
    tb :=
      { tpc := f 64 &&& pcMask, tcause := f 65 &&& tcauseMask, tval := f 66, tinfo := f 67 &&& tinfoMask,
        twvec := f 68 &&& pcMask, troute := f 69 &&& trouteMask,
        tl := Vector.ofFn fun i => f (70 + i.val), tstat := f 74 &&& tstatMask }
    offers := Vector.ofFn fun i => ⟨f (80 + 2 * i.val), f (81 + 2 * i.val)⟩
    binds := Vector.ofFn fun i => f (96 + i.val)
    v := Vector.ofFn fun n => Vector.ofFn fun i => f (128 + 16 * n.val + i.val)
    vl := Vector.ofFn fun n => Vector.ofFn fun i => f (384 + 16 * n.val + i.val)
    xa := Vector.ofFn fun n =>
      ⟨BitVec.ofNat 6400 ((List.range 100).foldr (fun j a => (f (416 + 100 * n.val + j)).toNat + 2 ^ 64 * a) 0),
       f (616 + n.val) &&& exactStatusMask, f (618 + n.val)⟩ }

/-- The context with word i of its region replaced, as an EDIT writes it (R95). -/
def Ctx.setWord (c : Ctx) (i : Nat) (x : Word) : Ctx :=
  Ctx.ofWords fun j => if j = i then x else c.word j

/-- The bytes of the region. -/
def Ctx.bytes (c : Ctx) : List Byte := (List.range regionWords).flatMap fun i => leBytes 8 (c.word i).toNat

/-- A binding word as it is loaded (R226, R236): 0 where it is not one; a bound slot has its reload to do. DESIGN CHOICE (log 84): a word with ST = 2, of which R226 and R236 do not speak, stays and is reloaded as one with ST = 1. -/
def bindLoad (w : Word) : Word :=
  if bits w 4 4 ≠ 0 ∨ 6 ≤ bits w 0 4 then 0 else if bits w 0 4 = 1 then setBits w 0 4 2 else w

/-- A binding word as a spill writes it (R226). -/
def bindSpill (w : Word) : Word := if bits w 0 4 = 2 then setBits w 0 4 1 else w

/-- The context as it is bound or restored: its loop pairs under R112, its binding words under R226. -/
def Ctx.load (c : Ctx) : Ctx :=
  let p0 := (vget c.loops LoopPair.empty 0).load true
  { c with loops := #v[p0, (vget c.loops LoopPair.empty 1).load (p0.w0.getLsbD 0)]
           binds := c.binds.map bindLoad }

/-- The registers of the region at a location, as they are loaded. -/
def Ctx.ofMemory (m : List Host.Cell) (loc : Nat) : Ctx :=
  (Ctx.ofWords fun i => leWord (getBytes m (loc + 8 * i) 8)).load

end Sys2Proof.Machine
end

