-- ==== Sys2Proof/Machine/Ops.lean ====
section
/-! DEFINITION. The named operations over the package: its tables, who and where a strand is (R83), generic pointers (R160), the checks of an access (R163) with translation (R332 to R336), watchpoints (R257), the Vermilion stop (R258), the Ivory trigger (R411), and taking a trap (R93). -/

namespace Sys2Proof.Machine

open Sys2Proof

/-! Tables of the package. -/

def State.core (s : State) (k : CoreKey) : Core := lookupD Core.reset s.cores k
def State.setCore (s : State) (k : CoreKey) (c : Core) : State := { s with cores := insertKey k c s.cores }

def State.clu (s : State) (c : ClusterKey) : Cluster := lookupD Cluster.reset s.clusters c
def State.setClu (s : State) (c : ClusterKey) (x : Cluster) : State := { s with clusters := insertKey c x s.clusters }

def State.die (s : State) (d : Nat) : Die := s.dies.getD d Die.reset
def State.setDie (s : State) (d : Nat) (x : Die) : State := { s with dies := s.dies.setIfInBounds d x }

/-- The bank of a core. -/
def Core.bank (c : Core) (b : Fin 2) : Bank := if b = 0 then c.b0 else c.b1
def Core.setBank (c : Core) (b : Fin 2) (x : Bank) : Core := if b = 0 then { c with b0 := x } else { c with b1 := x }

def State.bank (s : State) (k : CoreKey) (b : Fin 2) : Bank := (s.core k).bank b
def State.setBank (s : State) (k : CoreKey) (b : Fin 2) (x : Bank) : State := s.setCore k ((s.core k).setBank b x)

/-- A physical quad of a die. -/
def State.quad (s : State) (d pq : Nat) : Quad := lookupD Quad.reset (s.die d).quads pq

/-- The free value drawn next, and the state after the draw (log 5). -/
def State.draw (s : State) : Word × State := (Config.freeWord s.fresh, { s with fresh := s.fresh + 1 })

/-! Places of physical units. -/

def clusterOf (k : CoreKey) : ClusterKey := k / 8
def dieOfCluster (c : ClusterKey) : Nat := c / 248
def dieOf (k : CoreKey) : Nat := k / 8 / 248
/-- The quad of a cluster: die and physical quad. -/
def quadOf (c : ClusterKey) : Nat × Nat := (c / 248, c % 248 / 4)
/-- The cluster at a position of a physical quad. -/
def clusterAt (d pq pos : Nat) : ClusterKey := d * 248 + pq * 4 + pos

/-! Logical names (R83, R330, R331, R384). -/

/-- The physical quad of a logical quad, where its QMAP entry is in use. -/
def State.quadPhys (s : State) (d q : Nat) : Option Nat :=
  let e := (s.die d).qmap.getD q 0
  if e.getLsbD 7 then some (bits e 0 6) else none

/-- The logical quad that a physical quad serves. -/
def State.quadLog (s : State) (d pq : Nat) : Option Nat :=
  (List.range 60).find? fun q => s.quadPhys d q == some pq

/-- The physical cluster of a logical cluster of a die. -/
def State.clusterPhys (s : State) (d clid : Nat) : Option ClusterKey :=
  if d < 4 ∧ clid < 240 then (s.quadPhys d (clid / 4)).map fun pq => clusterAt d pq (clid % 4) else none

/-- The logical number in its die of a physical cluster. -/
def State.clid (s : State) (c : ClusterKey) : Option Nat :=
  (s.quadLog (c / 248) (c % 248 / 4)).map fun q => q * 4 + c % 4

/-- The physical core that CMAP gives a logical core. -/
def cmapAt (m : BitVec 24) (r : Nat) : Nat := m.toNat / 8 ^ r % 8

/-- The core that takes a role in a cluster. -/
def State.coreAt (s : State) (c : ClusterKey) (r : Nat) : CoreKey := c * 8 + cmapAt (s.clu c).cmap r

/-- The role of a core (cid of R83). -/
def State.cid (s : State) (k : CoreKey) : Nat :=
  ((List.range 8).find? fun r => cmapAt (s.clu (k / 8)).cmap r == k % 8).getD 7

/-- The quad of a core runs a fusion, and the core is one of its sixteen (R340). -/
def State.fusedCore (s : State) (k : CoreKey) : Bool :=
  let q := quadOf (clusterOf k)
  (s.quad q.1 q.2).fused && decide (s.cid k ≤ 3)

/-- Slot 7 names the spare only while it stands in for no streamer (R160). -/
def State.roleExists (s : State) (c : ClusterKey) (r : Nat) : Bool := r < 7 || cmapAt (s.clu c).cmap 7 == 7

/-- The global number of a bind position (R83). -/
def State.sidAt (s : State) (k : CoreKey) (pos : Fin 2) : Word :=
  BitVec.ofNat 64 (s.ctl.pkid.toNat * 16384 + dieOf k * 4096 + ((s.clid (k / 8)).getD 0) * 16 + s.cid k * 2 + pos.val)

/-- The sid of a bank's strand. -/
def State.sid (s : State) (k : CoreKey) (b : Fin 2) : Word := s.sidAt k (s.bank k b).id.pos

def Ident.who (i : Ident) : StrandId := ⟨i.ln, i.lid⟩

/-- A bank holds a strand. -/
def Bank.holds (b : Bank) : Bool := b.st != .empty

/-- Where a strand is: in a bank, or unbound on a core. -/
inductive StrandAt where
  | bank (k : CoreKey) (b : Fin 2)
  | saved (k : CoreKey) (n : Nat)
  deriving DecidableEq, Repr

def Bank.isStrand (b : Bank) (w : StrandId) : Bool := b.holds && b.id.who == w

/-- Where a strand is in one core. -/
def Core.findStrand (c : Core) (k : CoreKey) (w : StrandId) : Option StrandAt :=
  if c.b0.isStrand w then some (.bank k 0)
  else if c.b1.isStrand w then some (.bank k 1)
  else (c.unbound.findIdx? fun b => b.id.who == w).map fun n => .saved k n

/-- Where a strand of the package is. -/
def State.findStrand (s : State) (w : StrandId) : Option StrandAt :=
  s.cores.findSome? fun kc => kc.2.findStrand kc.1 w

def StrandAt.core : StrandAt → CoreKey
  | .bank k _ => k
  | .saved k _ => k

/-- The record of a strand. -/
def State.strand (s : State) : StrandAt → Bank
  | .bank k b => s.bank k b
  | .saved k n => ((s.core k).unbound[n]?).getD Bank.empty

def State.setStrand (s : State) (w : StrandAt) (x : Bank) : State :=
  match w with
  | .bank k b => s.setBank k b x
  | .saved k n => s.setCore k { s.core k with unbound := (s.core k).unbound.set n x }

/-- Bytes written at a location: the poison of the words that they cover whole goes, and the tags of the lines that they touch are made anew (R164, R214). -/
def State.put (s : State) (loc : Nat) (bs : List Byte) : State :=
  { s with mem := putBytes s.mem loc bs, poison := unpoison s.poison loc bs.length, badTags := retag s.badTags loc bs.length }

/-- The bytes of a context as a spill or SWAPW writes them (R226). -/
def Ctx.spillBytes (c : Ctx) : List Byte := { c with binds := c.binds.map bindSpill : Ctx }.bytes

/-- A register region written to its workspace. -/
def State.writeRegion (s : State) (k : CoreKey) (wsp : Nat) (c : Ctx) : State := s.put (spadBase k + wsp) c.spillBytes

/-- A core's scratchpad as it is once its pending spill is complete (R81, R213). -/
def State.spilled (s : State) (k : CoreKey) : State :=
  let one (s : State) (b : Bank) : State := if b.st == .spilling then s.writeRegion k b.wsp.toNat b.ctx else s
  one (one s (s.core k).b0) (s.core k).b1

/-- Where a strand's registers stand in its workspace: it is unbound, or its restore is not complete (R81, R213). -/
def State.inWorkspace (s : State) (w : StrandAt) : Option Nat :=
  match w with
  | .bank k b =>
    let x := s.bank k b
    if x.st == .restoring || x.st == .damaged then some (spadBase k + x.wsp.toNat) else none
  | .saved k n => some (spadBase k + (s.strand (.saved k n)).wsp.toNat)

/-- A word of a strand's register region: in the bank, or in the workspace. -/
def State.regionWord (s : State) (w : StrandAt) (i : Nat) : Word :=
  match s.inWorkspace w with
  | some loc => leWord (getBytes s.mem (loc + 8 * i) 8)
  | none => (s.strand w).ctx.word i

def State.setRegionWord (s : State) (w : StrandAt) (i : Nat) (x : Word) : State :=
  match s.inWorkspace w with
  | some loc => s.put (loc + 8 * i) (leBytes 8 x.toNat)
  | none => s.setStrand w { s.strand w with ctx := (s.strand w).ctx.setWord i x }

/-- The sid of a strand. -/
def State.sidOf (s : State) (w : StrandAt) : Word := s.sidAt w.core (s.strand w).id.pos

/-! Generic pointers (R160 to R162). -/

/-- What a pointer names. -/
inductive Place where
  | spad (k : CoreKey) (off : Nat)
  | sram (c : ClusterKey) (off : Nat)
  | virt (va : Nat)
  | far (pkg va : Nat)
  deriving DecidableEq, Repr

def tagOf (p : Nat) : Nat := p / 2 ^ 60 % 16

/-- Check 2 of R163: the region that holds n bytes at p, as core k sees it. -/
def State.place (s : State) (k : CoreKey) (p n : Nat) : Option Place :=
  let r := p % 2 ^ 60
  let c := k / 8
  match tagOf p with
  | 0 => if r + n ≤ spadSize k then some (.spad k r) else none
  | 1 =>
    if r + n ≤ sramSize then some (.sram c r)
    else
      let role := (r - 0x100000) / 0x40000
      let off := (r - 0x100000) % 0x40000
      let t := s.coreAt c role
      if 0x100000 ≤ r ∧ role < 8 ∧ s.roleExists c role = true ∧ off + n ≤ spadSize t then some (.spad t off)
      else none
  | 2 =>
    match s.clusterPhys (r / 2 ^ 29 % 4) (r / 2 ^ 21 % 256) with
    | none => none
    | some tc =>
      let role := r / 2 ^ 18 % 8
      let off := r % 2 ^ 18
      let t := s.coreAt tc role
      if r < 2 ^ 31 ∧ s.roleExists tc role = true ∧ off + n ≤ spadSize t then some (.spad t off) else none
  | 8 => if r < 2 ^ 57 ∧ r + n ≤ 2 ^ 57 then some (.virt r) else none
  | 9 =>
    let pkg := r / 2 ^ 48
    let va := r % 2 ^ 48
    if pkg < 576 ∧ va + n ≤ 2 ^ 48 then
      some (if pkg = s.ctl.pkid.toNat then .virt va else .far pkg va)
    else none
  | _ => none

/-- The canonical pointer of a place (R162, R253). -/
def State.canon (s : State) : Place → Nat
  | .spad k off =>
    2 * 2 ^ 60 + dieOf k * 2 ^ 29 + ((s.clid (k / 8)).getD 0) * 2 ^ 21 + s.cid k * 2 ^ 18 + off
  | .sram _ off => 2 ^ 60 + off
  | .virt va => 8 * 2 ^ 60 + va
  | .far pkg va => 9 * 2 ^ 60 + pkg * 2 ^ 48 + va

/-! Who makes an access, and what it is. -/

/-- engine: of a queue and a command; no command, 0, stands for the device itself. -/
inductive Who where
  | strand (slate : Bool)
  | engine (q cmd : Nat)
  | delivery
  | fabric (src : Nat)
  deriving DecidableEq, Repr

/-- An access's view: whose scratchpad is window 0x0, its space id, its sid. -/
structure View where
  core : CoreKey
  spid : BitVec 20
  sid : Word
  who : Who
  deriving DecidableEq, Repr

/-- The kinds of access (R336). detF: a deterministic add through window 0x9 (R354). -/
inductive Acc where
  | read | write | atomic | fetch | det | detF | farWrite | farAtomic
  deriving DecidableEq, Repr

/-- Why an access is not made now. -/
inductive Stop where
  | wait
  | trap (c : Cause) (detail : Nat)
  deriving DecidableEq, Repr

abbrev Chk (α : Type) := Except Stop α

/-- A check of R163: the trap when it fails. -/
def demand (b : Bool) (c : Cause) (detail : Nat) : Chk Unit := if b then .ok () else .error (.trap c detail)

/-- In a Slate compute phase (R398). -/
def State.slatePhase (s : State) (k : CoreKey) (b : Bank) : Bool :=
  b.id.slate && decide (s.cid k ≤ 3) && !b.ctx.phase.getLsbD 0

/-- The view of a bank's strand. -/
def State.view (s : State) (k : CoreKey) (b : Fin 2) : View :=
  ⟨k, (s.bank k b).id.spid, s.sid k b, .strand (s.slatePhase k (s.bank k b))⟩

/-! Range locks (R253). -/

/-- A lock covers some byte of an access. -/
def Lock.hits (l : Lock) (canon n : Nat) (spid : BitVec 20) : Bool :=
  decide (l.start.toNat < canon + n) && decide (canon < l.start.toNat + l.len) &&
    (decide (tagOf canon ≠ 8) || l.spid == spid)

/-- The entry that covers the access. DESIGN CHOICE (log 68): the lowest where several do. -/
def Cluster.lockHit (c : Cluster) (canon n : Nat) (spid : BitVec 20) : Option Nat :=
  c.locks.toList.findIdx? fun e =>
    match e with
    | some l => l.hits canon n spid
    | none => false

/-! Register regions (R81). -/

def Bank.regionMeets (b : Bank) (off n : Nat) : Bool :=
  decide (b.wsp.toNat < off + n) && decide (off < b.wsp.toNat + regionBytes)

/-- A range meets the register region of a workspace bound on the core. -/
def Core.meetsBound (c : Core) (off n : Nat) : Bool :=
  n != 0 && ((c.b0.st == .bound && c.b0.regionMeets off n) || (c.b1.st == .bound && c.b1.regionMeets off n))

/-- A range meets the register region of a workspace whose spill is pending: its access waits (R81). -/
def Core.meetsSpilling (c : Core) (off n : Nat) : Bool :=
  n != 0 && ((c.b0.st == .spilling && c.b0.regionMeets off n) || (c.b1.st == .spilling && c.b1.regionMeets off n))

/-- The register region of a workspace bound on the core: refused; while its spill is pending: wait. A spill that still waits for the bank's pending work has not unbound it (R213). -/
def Core.regionCheck (c : Core) (off n : Nat) : Chk Unit :=
  if (c.b0.st == .bound && c.b0.regionMeets off n) || (c.b1.st == .bound && c.b1.regionMeets off n) then
    .error (.trap .protection 0)
  else if (c.b0.st == .spilling && c.b0.regionMeets off n) || (c.b1.st == .spilling && c.b1.regionMeets off n) then
    .error .wait
  else .ok ()

/-! Links and routes (R389 to R392). -/

/-- A die's place in the ring D0, D1, D3, D2. -/
def ringPos (d : Nat) : Nat := match d with | 0 => 0 | 1 => 1 | 3 => 2 | _ => 3

/-- The links from one ring position forward to another. -/
def linksForward (p q : Nat) : List Nat := (List.range ((q + 4 - p) % 4)).map fun i => (p + i) % 4

/-- The preferred and the other way between two dies: the links, and whether they are taken in ring order. -/
def routes (a b : Nat) : (List Nat × Bool) × (List Nat × Bool) :=
  let p := ringPos a
  let q := ringPos b
  let f := (linksForward p q, true)
  let g := (linksForward q p, false)
  let n := (q + 4 - p) % 4
  if n = 1 ∨ (n = 2 ∧ (p = 0 ∨ p = 3)) then (f, g) else (g, f)

def State.linkSt (s : State) (l : Nat) : Nat := ((s.links.toList.map fun x => x.st.val)[l]?).getD 0

/-- The way that a message takes between two dies: the other one where a link of the preferred one is down (R389). -/
def State.way (s : State) (a b : Nat) : List Nat × Bool :=
  let (r1, r2) := routes a b
  if r1.1.any fun l => s.linkSt l == 2 then r2 else r1

/-- Check 11: a route remains; a link that retrains holds the message. -/
def State.route (s : State) (a b : Nat) : Chk Unit :=
  if a = b then .ok ()
  else
    let way := (s.way a b).1
    if way.any fun l => s.linkSt l == 2 then .error (.trap .linkDown 0)
    else if way.any fun l => s.linkSt l == 1 then .error .wait
    else .ok ()

/-- The die on which a location lies (R393, R394). -/
def dieOfLoc (loc : Nat) : Nat :=
  if loc < hbmEnd then loc / 2 ^ 36 / 2
  else if loc < cxlEnd then (loc - cxlBase) / 2 ^ 40 / 4
  else if loc < 2 ^ 47 then (loc - 2 ^ 46) / 2 ^ 18 / 8 / 248
  else (loc - 2 ^ 47) / 2 ^ 19 / 248

/-- A physical address lies in HBM or in the memory fitted on its CXL port (R335, R394). -/
def State.fitted (s : State) (pa : Nat) : Bool :=
  decide (pa < hbmEnd) ||
    (decide (cxlBase ≤ pa) && decide (pa < cxlEnd) &&
      (let p := (s.cxl.toList[(pa - cxlBase) / 2 ^ 40]?).getD ⟨false, false, 0⟩
       p.up && decide ((pa - cxlBase) % 2 ^ 40 < p.fitg.toNat * 2 ^ 30)))

/-! Translation (R332 to R337). -/

/-- A table entry read by a walk of a station of die d. DEDUCED (log 69): an uncorrectable entry ends the walk of a store as of any access, as R335 says of a walk. -/
def State.walkRead (s : State) (d pa : Nat) : Chk Word := do
  demand (s.fitted pa) .translation 3
  s.route d (dieOfLoc pa)
  demand (!poisoned s.poison pa 8) .memUncorrectable 1
  return leWord (getBytes s.mem pa 8)

/-- Bits that must be zero in an entry, and its ADDR field (R334). -/
def entryReserved (e : Word) : Bool := bits e 52 12 == 0 && bits e 6 2 == 0
def entryAddr (e : Word) : Nat := bits e 8 44 * 256

/-- The station of a virtual address (R332). -/
def stationOf (va : Nat) : Nat := (va / 2 ^ 16 % 16) ^^^ (va / 2 ^ 20 % 16)

/-- The walk from a table down; each level is the index's low bit and width (R333). -/
def State.walkFrom (s : State) (d : Nat) (spid : BitVec 20) (va : Nat) : List (Nat × Nat) → Nat → Chk TlbEntry
  | [], _ => .error (.trap .translation 2)
  | (sh, w) :: rest, table => do
    let e ← s.walkRead d (table + 8 * (va / 2 ^ sh % 2 ^ w))
    demand (e.getLsbD 0) .translation 1
    demand (entryReserved e) .translation 2
    if e.getLsbD 1 then
      demand (decide (sh ≤ 30) && entryAddr e % 2 ^ sh == 0) .translation 2
      return ⟨stationOf va, spid, va / 2 ^ sh * 2 ^ sh, sh, entryAddr e, BitVec.ofNat 4 (bits e 2 4)⟩
    else
      demand (bits e 2 4 == 0 && entryAddr e % (if rest.length = 1 then 256 else 4096) == 0 && !rest.isEmpty)
        .translation 2
      s.walkFrom d spid va rest (entryAddr e)

/-- The five levels of R333. -/
def walkLevels : List (Nat × Nat) := [(48, 9), (39, 9), (30, 9), (21, 9), (16, 5)]

/-- A station and a space id, under which the station holds the space-table entry (R337). -/
def spaceKey (station : Nat) (spid : BitVec 20) : Nat := station * 2 ^ 20 + spid.toNat

/-- The number of walks that a station runs at once, each with a landing slot for its read (R328, R332). -/
def walkSlots : Nat := 64

/-- A walk is for the page of an address: requests to one page share it (R332). -/
def Walk.serves (w : Walk) (sp : BitVec 20) (va : Nat) : Bool := w.spid == sp && w.va / 65536 == va / 65536

/-- Walks in flight at a station of a die. -/
def Die.walksAt (d : Die) (t : Nat) : Nat := (d.walks.filter fun w => w.station == t).length

/-- The root table of a space id: as the station of the address holds it, or from the space table (R337). -/
def State.spaceRoot (s : State) (d : Nat) (spid : BitVec 20) (va : Nat) : Chk Nat :=
  match (s.die d).spaces.find? fun e => e.1 == spaceKey (stationOf va) spid with
  | some e => .ok e.2
  | none => do
    let a := bits (s.die d).sptb 24 28 * 2 ^ 24 + 16 * spid.toNat
    let w ← s.walkRead d a
    demand (w.getLsbD 0) .translation 4
    return bits w 12 40 * 4096

/-- The leaf that the station of an address holds. -/
def Die.held (x : Die) (spid : BitVec 20) (va : Nat) : Option TlbEntry :=
  x.tlb.find? fun e => e.station == stationOf va && e.spid == spid && e.page == va / 2 ^ e.bits * 2 ^ e.bits

/-- The leaf of a virtual address: one that its station holds, or that of a walk (R332, R339). A miss waits while a walk for its page is under way, whose leaf it shares, and while its station runs as many walks as it can. -/
def State.leaf (s : State) (d : Nat) (spid : BitVec 20) (va : Nat) : Chk TlbEntry :=
  let x := s.die d
  match x.held spid va with
  | some e => .ok e
  | none =>
    if (x.walks.any fun w => w.serves spid va) || decide (walkSlots ≤ x.walksAt (stationOf va)) then .error .wait
    else do
      let root ← s.spaceRoot d spid va
      s.walkFrom d spid va walkLevels root

/-- Check 9 for one address: its location and the leaf's permissions R, W, X, F. -/
def State.translate (s : State) (d : Nat) (spid : BitVec 20) (va : Nat) : Chk (Nat × BitVec 4) := do
  let e ← s.leaf d spid va
  let pa := e.pa + va % 2 ^ e.bits
  demand (s.fitted pa) .translation 3
  return (pa, e.perms)

/-- A station full of leaves gives up the one that it has held longest. -/
def dropLeaf (l : List TlbEntry) (t : Nat) : List TlbEntry :=
  if (l.filter fun e => e.station == t).length < 4096 then l
  else match l.findIdx? fun e => e.station == t with
    | some i => l.eraseIdx i
    | none => l

/-- The root and the leaf of a walk that succeeds (R339). -/
def State.walked (s : State) (d : Nat) (spid : BitVec 20) (va : Nat) : Chk (Nat × TlbEntry) := do
  let root ← s.spaceRoot d spid va
  let e ← s.walkFrom d spid va walkLevels root
  demand (s.fitted (e.pa + va % 2 ^ e.bits)) .translation 3
  return (root, e)

/-- A die whose station keeps a leaf, and with it the space-table entry (R337). -/
def Die.keep (x : Die) (spid : BitVec 20) (va root : Nat) (e : TlbEntry) : Die :=
  let key := spaceKey (stationOf va) spid
  { x with tlb := dropLeaf x.tlb (stationOf va) ++ [e]
           spaces := if x.spaces.any (fun z => z.1 == key) then x.spaces else x.spaces ++ [(key, root)] }

/-- The walk that an access has made: the station keeps its leaf. -/
def State.keepLeaf (s : State) (d : Nat) (spid : BitVec 20) (va : Nat) : State :=
  match (s.die d).held spid va, s.walked d spid va with
  | none, .ok (root, e) => s.setDie d ((s.die d).keep spid va root e)
  | _, _ => s

/-- Check 10 (R336). -/
def permits (p : BitVec 4) (a : Acc) (pa : Nat) : Chk Unit := do
  let needR := a = .read ∨ a = .atomic ∨ a = .det ∨ a = .detF ∨ a = .farAtomic
  let needW := a = .write ∨ a = .atomic ∨ a = .det ∨ a = .detF ∨ a = .farWrite ∨ a = .farAtomic
  let needF := a = .farWrite ∨ a = .farAtomic ∨ a = .detF
  demand (!decide needR || p.getLsbD 0) .protection 1
  demand (!decide needW || p.getLsbD 1) .protection 2
  demand (!decide (a = .fetch) || p.getLsbD 2) .protection 3
  demand (!decide needF || p.getLsbD 3) .protection 4
  demand (!decide (a = .det ∨ a = .detF) || decide (pa < hbmEnd)) .protection 5

/-- The pieces of n bytes at va that lie in one 64 KiB page each. -/
def pageCuts : Nat → Nat → Nat → List (Nat × Nat)
  | 0, _, _ => []
  | fuel + 1, va, n =>
    let m := min n (65536 - va % 65536)
    if n = 0 then [] else (va, m) :: pageCuts fuel (va + m) (n - m)

/-! Groups (R434, R435, R446). -/

def groupOpen (g : GroupEntry) : Bool := (vget g.words 0 0).getLsbD 63
def groupSpid (g : GroupEntry) : BitVec 20 := (vget g.words 0 0).setWidth 20
def groupHandle (g : GroupEntry) : BitVec 16 := BitVec.ofNat 16 (bits (vget g.words 0 0) 32 16)
def groupHas (g : GroupEntry) (pkg : Nat) : Bool := (vget g.words 0 (2 + pkg / 64)).getLsbD (pkg % 64)

/-- The open entry of a space id. -/
def State.groupOf (s : State) (spid : BitVec 20) : Option GroupEntry :=
  (s.fab.groups.find? fun e => groupOpen e.2 && groupSpid e.2 == spid).map (·.2)

/-- The membership check of R446. -/
def State.groupCheck (s : State) (spid : BitVec 20) : Place → Chk Unit
  | .far pkg _ =>
    match s.groupOf spid with
    | some g => demand (groupHas g pkg) .protection 9
    | none => .error (.trap .protection 9)
  | _ => .ok ()

/-! The checks of R163. -/

/-- Delivery writes of an event's occurrence are still to be made. -/
def State.delivers (s : State) (h : Nat) : Bool := s.deliveries.any fun x => x.handle == h

/-- The active strand of a core has taken an occurrence of which delivery writes are owed: its accesses wait for them (R196). -/
def State.owedTo (s : State) (k : CoreKey) : Bool := ((s.core k).bank (s.core k).ab).heard.any s.delivers

/-- Checks 2 to 6 and the group check, for an access of n bytes at p whose pointer must be a multiple of w. -/
def State.issueChecks (s : State) (v : View) (p n w : Nat) : Chk Place := do
  match s.place v.core p n with
  | none => .error (.trap .addrWindow 0)
  | some pl =>
    demand (p % w == 0) .align 0
    match v.who with
    | .strand slate =>
      demand (!(slate && tagOf p != 0)) .slateRemote 0
      match (s.clu (clusterOf v.core)).lockHit (s.canon pl) n v.spid with
      | some e => .error (.trap .rangeLocked e)
      | none => .ok ()
    | _ => .ok ()
    match pl with
    | .spad k off => if k = v.core then (s.core k).regionCheck off n else .ok ()
    | _ => .ok ()
    s.groupCheck v.spid pl
    match v.who with
    | .strand _ => if s.owedTo v.core then .error .wait else .ok ()
    | _ => .ok ()
    return pl

/-! Galril-F: the port that an operation takes (R422). -/

/-- Port j is up (FSTAT.UP). -/
def State.portUp (s : State) (j : Nat) : Bool := s.fab.up.getLsbD j

/-- The first port of a die that is up, from the one of the target on. -/
def State.portOf (s : State) (d pkg : Nat) : Option Nat :=
  ((List.range 9).map fun n => 9 * d + (pkg % 9 + n) % 9).find? s.portUp

/-- R422: the port of an operation of die d to a package, its own die's or that of the lowest-numbered die that has one up. -/
def State.portFor (s : State) (d pkg : Nat) : Option Nat :=
  match s.portOf d pkg with
  | some j => some j
  | none => (List.range 4).findSome? fun e => s.portOf e pkg

/-- The way to the port of an operation: a packet that leaves by another die's port crosses Galril-D (R389, R422). -/
def State.portWay (s : State) (d pkg : Nat) : Chk Nat :=
  match s.portFor d pkg with
  | none => .error (.trap .linkDown 0)
  | some j => do
    s.route d (j / 9)
    return j

/-! Checks away from the core. -/

/-- Checks 7 to 12: the locations of the bytes, in ascending order. A place in another package has none here. -/
def State.targetChecks (s : State) (v : View) (pl : Place) (n : Nat) (a : Acc) : Chk (List (Nat × Nat)) := do
  let reads := decide (a = .read ∨ a = .fetch ∨ a = .atomic ∨ a = .farAtomic)
  match pl with
  | .spad k off =>
    match v.who with
    | .strand _ | .fabric _ =>
      if clusterOf k = clusterOf v.core then .ok ()
      else match (s.clu (clusterOf k)).lockHit (s.canon pl) n v.spid with
        | some e => .error (.trap .rangeLocked e)
        | none => .ok ()
    | _ => .ok ()
    demand (!(s.core k).fen) .protection 14
    if k = v.core then .ok ()
    else
      (s.core k).regionCheck off n
      s.route (dieOf v.core) (dieOf k)
    demand (!(reads && poisoned s.poison (spadBase k + off) n)) .memUncorrectable 0
    return [(spadBase k + off, n)]
  | .sram c off =>
    demand (!(reads && poisoned s.poison (sramBase c + off) n)) .memUncorrectable 0
    return [(sramBase c + off, n)]
  | .virt va =>
    let d := dieOf v.core
    let ps ← (pageCuts (n / 65536 + 2) va n).mapM fun c => do
      let (pa, perm) ← s.translate d v.spid c.1
      return (pa, c.2, perm)
    for q in ps do permits q.2.2 a q.1
    for q in ps do s.route d (dieOfLoc q.1)
    for q in ps do demand (!(reads && poisoned s.poison q.1 q.2.1)) .memUncorrectable 0
    return ps.map fun q => (q.1, q.2.1)
  | .far pkg _ =>
    let _ ← s.portWay (dieOf v.core) pkg
    return []

/-- The bytes at a list of pieces. -/
def State.load (s : State) (ps : List (Nat × Nat)) : List Byte := ps.flatMap fun q => getBytes s.mem q.1 q.2

/-- Bytes stored at a list of pieces. -/
def State.store (s : State) : List (Nat × Nat) → List Byte → State
  | [], _ => s
  | (loc, n) :: ps, bs =>
    State.store (s.put loc (bs.take n)) ps (bs.drop n)

/-! The crossbar (R325, R328). -/

/-- What a crossbar port faces (R325). -/
inductive PortUse where
  | quad (pq : Nat)
  | station (t : Nat)
  | galrilD (next : Bool)
  | galrilF (n : Nat)
  | cxl (n : Nat)
  | host
  deriving DecidableEq, Repr

/-- The use of a port of a die. -/
def portUse (p : Nat) : Option PortUse :=
  if p < 62 then some (.quad p)
  else if p < 78 then some (.station (p - 62))
  else if p < 82 then some (.galrilD true)
  else if p < 86 then some (.galrilD false)
  else if p < 95 then some (.galrilF (p - 86))
  else if p < 99 then some (.cxl (p - 95))
  else if p = 99 then some .host
  else none

/-- Landing slots of a port, in flits: for replies, not counting the walk reads of a station. -/
def PortUse.slots : PortUse → Nat
  | .quad _ => 1024
  | .station _ => 256
  | .galrilD _ | .galrilF _ | .cxl _ => 512
  | .host => 64

/-- Flits of a message of n data bytes (R326): a header, and at most two of data. -/
def messageFlits (n : Nat) : Nat := 1 + min 2 ((n + 127) / 128)

/-- The reservations that a read of n bytes makes before its request goes out: at the quad's port, unless the quad's own switch carries it, and at the station that translates. -/
def landingFor (k : CoreKey) (pl : Place) (n : Nat) : List Landing :=
  let (d, pq) := quadOf (clusterOf k)
  let own : Landing := ⟨d, pq, messageFlits n⟩
  match pl with
  | .spad j _ => if quadOf (clusterOf j) = (d, pq) then [] else [own]
  | .sram _ _ => []
  | .virt va => [own, ⟨d, 62 + stationOf va, messageFlits n⟩]
  | .far _ _ => [own]

/-- The links that a message from one die to another crosses, with its flits and those of its reply. -/
def State.linksTo (s : State) (d e : Nat) (ptr : Word) (out back : Nat) : List Crossing :=
  let w := s.way d e
  if d = e then [] else w.1.map fun l => ⟨l, w.2, ptr, messageFlits out, messageFlits back⟩

/-- The links that requests for these locations cross from a die: bytes asked with, bytes answered with. -/
def State.crossings (s : State) (d : Nat) (ps : List (Nat × Nat)) (ptr : Word) (out back : Nat) : List Crossing :=
  ps.flatMap fun q => s.linksTo d (dieOfLoc q.1) ptr out back

/-- The links that a request to another package crosses to its port, with the flits of the request and of its reply. -/
def State.farLinks (s : State) (k : CoreKey) (ptr : Word) (out back : Nat) : List Crossing :=
  match s.portFor (dieOf k) (ptr.toNat % 2 ^ 60 / 2 ^ 48) with
  | some j => s.linksTo (dieOf k) (j / 9) ptr out back
  | none => []

/-- The trunk port of the die that a request enters over a link: there it is that die's requester, and its reply lands. DESIGN CHOICE (log 79): of the four ports toward a neighbour, the one that the pointer's 128-byte line names. -/
def Crossing.landing (c : Crossing) : Landing :=
  let at0 := if c.ahead then (c.link + 1) % 4 else c.link
  ⟨([0, 1, 3, 2])[at0]?.getD 0, (if c.ahead then 82 else 78) + c.ptr.toNat / 128 % 4, c.back⟩

/-- The reservations of a store's lane: the answer that it is accepted is a header (R164). -/
def State.storeLanding (s : State) (k : CoreKey) (l : Word × List Byte) : List Landing :=
  match s.place k l.1.toNat l.2.length with
  | none => []
  | some pl =>
    let (d, pq) := quadOf (clusterOf k)
    let links := match pl with
      | .spad j _ => s.linksTo d (dieOf j) l.1 l.2.length 0
      | .far _ _ => s.farLinks k l.1 l.2.length 0
      | _ => []
    (landingFor k pl 0).filter (fun e => e.port == pq && e.die == d) ++ links.map Crossing.landing

/-- Flits reserved at a port, in a list. -/
def landed (ls : List Landing) (d p : Nat) : Nat := ((ls.filter fun l => l.die == d && l.port == p).map Landing.flits).sum

/-- The reservations of a bank's outstanding requests. -/
def State.bankLandings (s : State) (k : CoreKey) (b : Bank) : List Landing :=
  (b.pend.flatMap fun p => p.land ++ p.links.map Crossing.landing) ++ b.store.toList.flatMap fun h => h.lanes.flatMap fun l => s.storeLanding k l

/-- A one-sided operation is not complete: a packet is not acknowledged, or bytes of an RRD have not landed (R428, R431). -/
def FabricOp.out (o : FabricOp) : Bool := o.left != 0 || o.due != 0

/-- It is a home's own, and no core's (R356). -/
def AskBy.ofHome : AskBy → Bool
  | .fold _ => true
  | .cmd _ | .quad _ _ => false

/-- The reservation of a read of another package that is out: the port of a core, an engine or a quad. -/
def FabricOp.landing (o : FabricOp) : List Landing :=
  if o.opc = 0x72 ∧ o.out = true ∧ o.ask.all (fun a => !a.ofHome) = true then landingFor o.core (.far 0 0) o.amount.toNat else []

/-- Flits reserved at a port of a die. -/
def State.landed (s : State) (d p : Nat) : Nat :=
  (s.cores.map fun e => Machine.landed (s.bankLandings e.1 e.2.b0 ++ s.bankLandings e.1 e.2.b1) d p).sum +
    Machine.landed (s.fab.ops.flatMap FabricOp.landing) d p

/-- No slot is free for these reservations: the request is held (R328). -/
def State.landFull (s : State) (ls : List Landing) : Bool :=
  ls.any fun l => match portUse l.port with
    | some u => decide (u.slots < s.landed l.die l.port + Machine.landed ls l.die l.port)
    | none => true

/-- No landing slot is free for the reply of an access that is made and answered within a step: at the quad's port, or for the device at the management port (R325, R328). -/
def State.readFull (s : State) (v : View) (pl : Place) (n : Nat) : Bool :=
  match v.who with
  | .engine _ 0 => s.landFull [⟨dieOf v.core, 99, messageFlits n⟩]
  | _ => s.landFull (landingFor v.core pl n)

/-! Galril-F: the retry stores and the identity of packets (R423, R435). -/

/-- Flits of a packet (R326): a header, and the data. -/
def packetFlits (p : Packet) : Nat := messageFlits p.data.length

/-- Flits that stand in a port's retry store. -/
def State.retryFlits (s : State) (j : Nat) : Nat := ((s.fab.retry.filter fun r => r.port == j).map fun r => packetFlits r.pkt).sum

/-- A retry store has room for a packet. -/
def State.portRoom (s : State) (j : Nat) (p : Packet) : Bool := decide (s.retryFlits j + packetFlits p ≤ 4096)

/-- A packet enters the retry store of a port with the port's next sequence number, and is sent once; in Slate mode it waits at the egress for the boundary of the next tick (R399). -/
def State.sendPacket (s : State) (j target : Nat) (p : Packet) : State :=
  let n := lookupD 0 s.fab.portSeq j
  let q := { p with src := s.ctl.pkid.toNat, port := j, seq := n }
  { s with fab := { s.fab with
      portSeq := insertKey j (n + 1) s.fab.portSeq
      retry := s.fab.retry ++ [⟨j, n, if s.ctl.slate then 0 else 1, target, q⟩] } }

/-- The handle and the key of the open entry of a space id: what its packets carry (R435). -/
def State.groupId (s : State) (spid : BitVec 20) : Option (BitVec 16 × Word) :=
  (s.groupOf spid).map fun g => (groupHandle g, vget g.words 0 1)

/-- A packet under a group's handle and key: source, port and sequence number are set as it is sent. -/
def packetUnder (g : BitVec 16 × Word) (id total : Nat) (sig : Option Nat) (op : PacketOp) (va : Nat) (bs : List Byte) : Packet :=
  ⟨0, 0, 0, g.1, g.2, id, total, sig, op, va, bs⟩

/-- The request of one plain access to another package enters a retry store: its operation number (R423, R446). It waits where the store has no room. -/
def State.farSend (s : State) (k : CoreKey) (grp : Option (BitVec 16 × Word)) (pl : Place) (op : PacketOp) (bs : List Byte) : Chk (Nat × State) :=
  match pl, grp with
  | .far pkg va, some g => do
    let j ← s.portWay (dieOf k) pkg
    let p := packetUnder g s.fab.nextOp 1 none op va bs
    if s.portRoom j p then return (s.fab.nextOp, { s.sendPacket j pkg p with fab.nextOp := s.fab.nextOp + 1 }) else .error .wait
  | _, _ => .error (.trap .protection 9)

/-- The pieces of n bytes at an address that lie between two multiples of 256: offset and length (R423). -/
def packetCuts (va n : Nat) : List (Nat × Nat) :=
  (List.range (n / 256 + 2)).filterMap fun i =>
    let lo := max va ((va / 256 + i) * 256)
    let hi := min (va + n) ((va / 256 + i + 1) * 256)
    if lo < hi then some (lo - va, hi - lo) else none

/-- The requests of several lanes, all of them or none. -/
def State.farSends (s : State) (k : CoreKey) (grp : Option (BitVec 16 × Word)) : List (Place × PacketOp × List Byte) → Chk (List Nat × State)
  | [] => .ok ([], s)
  | (pl, op, bs) :: l => do
    let (i, s1) ← s.farSend k grp pl op bs
    let (is, s2) ← s1.farSends k grp l
    return (i :: is, s2)

/-- A request has left the package: none of its packets waits at the egress. -/
def State.farLeft (s : State) (ids : List Nat) : Bool := s.fab.retry.all fun q => !(ids.contains q.pkt.opId) || q.sends != 0

/-! Clocks, the Ivory trigger and the Vermilion stop. -/

/-- A trigger that reaches package control (R411). src: 0 SNAP, 1 watchpoint, 2 error, 3 pin, 4 host. -/
def State.ivoryFire (s : State) (src : Fin 5) (iss : BitVec 24) : State :=
  let on : Bool := match src with
    | 0 => s.ivory.enables.getLsbD 0
    | 1 => s.ivory.enables.getLsbD 1
    | 2 => s.ivory.enables.getLsbD 2
    | 3 => s.ivory.enables.getLsbD 3
    | _ => true
  if on ∧ s.ivory.st = 0 then { s with ivory := { s.ivory with st := 1, src := src, iss := iss, armedAt := s.tick } }
  else s

/-- The address of the instruction that a bank issues next: its pc, or that of the replay it owes (R94). -/
def Bank.curPc (b : Bank) : Word :=
  match b.replay with
  | some r => r.base + 4 * BitVec.ofNat 64 (r.todo.headD 0)
  | none => b.pc

/-- The stop PC of a core's active strand (R321): what it issues next, or the FUSE in which it is blocked, which its pc has passed while the quad is fused (R344). -/
def State.stopPc (s : State) (k : CoreKey) : Word :=
  let c := s.core k
  let b := c.bank c.ab
  if s.fusedCore k && b.wait == some .fuse then b.pc - 4 else b.curPc

/-- The skid record of a core at a stop (R258, R321): stop PC, AB, V, and so many instructions of the strand issued since the trigger. -/
def State.skidRecord (s : State) (k : CoreKey) (n : Nat) : Skid :=
  let c := s.core k
  if (c.bank c.ab).holds then ⟨s.stopPc k, BitVec.ofNat 64 (n * 16 + c.ab.val * 8 + 4)⟩ else ⟨0, BitVec.ofNat 64 (c.ab.val * 8)⟩

/-- A cluster freezes (R258) under the stop of a cluster and scope. -/
def State.freeze (s : State) (c origin : ClusterKey) (reach : BitVec 2) (src : StopSrc) : State :=
  let x := s.clu c
  if x.verm.frz then s
  else s.setClu c { x with
    verm := { x.verm with frz := true, tick := s.tick.setWidth 32, src := src, stepst := .none, origin := origin, reach := reach,
                          stepping := none, grace := true }
    skid := Vector.ofFn fun r => s.skidRecord (s.coreAt c r.val) 0 }

/-- The clusters of a stop's scope: 1 cluster, 2 quad, 3 die. -/
def scopeClusters (c : ClusterKey) (scope : Nat) : List ClusterKey :=
  match scope with
  | 1 => [c]
  | 2 => (List.range 4).map fun p => c / 4 * 4 + p
  | 3 => (List.range 248).map fun p => c / 248 * 248 + p
  | _ => []

/-- A Vermilion stop (R258). A cluster of its scope that is frozen already keeps its first trigger, and where all are, no second stop begins (R322). -/
def State.vermilionStop (s : State) (c : ClusterKey) (scope : Nat) (src : StopSrc) : State :=
  (scopeClusters c scope).foldl (fun s d => s.freeze d c (BitVec.ofNat 2 scope) (if d = c then src else .broadcast)) s

/-! Watchpoints (R256, R257). -/

/-- Bits of WCTL: EN, RD, WR, AT, STOP, TRP, IVY, LEN. -/
def Watch.len (w : Watch) : Nat := bits w.wctl 32 16

/-- The watched range as canonical pointers, where the watchpoint is in force. -/
def State.watched (s : State) (c : ClusterKey) (w : Watch) : Option (Nat × Nat) :=
  let n := 8 * w.len
  if w.wctl.getLsbD 31 ∧ 0 < n ∧ tagOf w.wbase.toNat = 2 then
    match s.place (c * 8) w.wbase.toNat n with
    | some (.spad k _) => if k / 8 = c then some (w.wbase.toNat, n) else none
    | _ => none
  else none

def Acc.watchBit : Acc → Nat
  | .read | .fetch => 30
  | .write | .farWrite => 29
  | .atomic | .det | .detF | .farAtomic => 28

/-- OP, SRC and ISS of WREC. -/
def View.watchSource (v : View) (a : Acc) : Nat × Nat × Nat :=
  match v.who with
  | .strand _ =>
    (match a with | .read | .fetch => 0 | .write | .farWrite => 1 | _ => 2, 0, v.sid.toNat % 2 ^ 24)
  | .engine q _ => (match a with | .read | .fetch => 3 | .write | .farWrite => 4 | _ => 2, 1, q)
  | .delivery => (5, 1, 5)
  | .fabric src => (6, 2, src)

/-- A hit recorded. -/
def Watch.record (w : Watch) (op src iss : Nat) (word : Nat) : Watch :=
  if w.wrec.getLsbD 63 then
    { w with wrec := setBits w.wrec 0 32 (min (bits w.wrec 0 32 + 1) (2 ^ 32 - 1)) }
  else
    { w with
      wrec := BitVec.ofNat 64 (2 ^ 63 + op * 2 ^ 60 + src * 2 ^ 56 + iss * 2 ^ 32 + 1)
      waddr := BitVec.ofNat 64 word }

/-- The watchpoints of one cluster from n up, over an access of m bytes at a canonical pointer. The answer is the lowest one with TRP and the distance of its hit word from the pointer. -/
def State.watchFrom (s : State) (c : ClusterKey) (v : View) (a : Acc) (canon m : Nat) :
    List (Fin 8) → State × Option (Fin 8 × Int)
  | [] => (s, none)
  | n :: rest =>
    let w := (s.clu c).watch[n]
    match s.watched c w with
    | some (base, len) =>
      if w.wctl.getLsbD a.watchBit ∧ base < canon + m ∧ canon < base + len then
        let word := max base (canon / 8 * 8)
        let (op, src, iss) := v.watchSource a
        let s := s.setClu c { s.clu c with watch := (s.clu c).watch.set n (w.record op src iss word) }
        let s := if bits w.wctl 26 2 = 0 then s else s.vermilionStop c (bits w.wctl 26 2) (.watchpoint n)
        let s := if w.wctl.getLsbD 24 then s.ivoryFire 1 0 else s
        let (s, r) := s.watchFrom c v a canon m rest
        (s, if w.wctl.getLsbD 25 then some (n, (word : Int) - canon) else r)
      else s.watchFrom c v a canon m rest
    | none => s.watchFrom c v a canon m rest

/-- An access of m bytes at pointer p is served: the hits it makes, and the WATCH trap that a strand takes for it; or the leaves of the walks that it has made (R339). -/
def State.served (s : State) (v : View) (p : Nat) (pl : Place) (m : Nat) (a : Acc) : State × Option Trap :=
  match pl with
  | .spad k _ =>
    if (s.clu (clusterOf k)).watch.toList.any fun w => w.wctl.getLsbD 31 then
      let (s', r) := s.watchFrom (clusterOf k) v a (s.canon pl) m (List.finRange 8)
      match v.who, r with
      | .strand _, some (n, d) =>
        (s', some ⟨.watch, BitVec.ofInt 64 ((p : Int) + d), BitVec.ofNat 8 n.val⟩)
      | _, _ => (s', none)
    else (s, none)
  | .virt va => ((pageCuts (m / 65536 + 2) va m).foldl (fun s c => s.keepLeaf (dieOf v.core) v.spid c.1) s, none)
  | _ => (s, none)

/-! Reads and writes of an engine, of a delivery and of the device, all checks and the effect together. -/

/-- n bytes read. -/
def State.readAt (s : State) (v : View) (p n w : Nat) : Chk (List Byte × State × Option Trap) := do
  let pl ← s.issueChecks v p n w
  if s.readFull v pl n then throw .wait
  let ps ← s.targetChecks v pl n .read
  if s.landFull ((s.crossings (dieOf v.core) ps 0 0 n).map Crossing.landing) then throw .wait
  let r := s.served v p pl n .read
  return (s.load ps, r.1, r.2)

/-- Bytes written. -/
def State.writeAt (s : State) (v : View) (p w : Nat) (bs : List Byte) : Chk State := do
  let pl ← s.issueChecks v p bs.length w
  let ps ← s.targetChecks v pl bs.length .write
  return ((s.served v p pl bs.length .write).1.store ps bs)

/-- A 64-bit word at p to which x is added modulo 2^64 in one atomic step. -/
def State.addAt (s : State) (v : View) (p : Nat) (x : Word) : Chk State := do
  let pl ← s.issueChecks v p 8 8
  let ps ← s.targetChecks v pl 8 .atomic
  return (s.served v p pl 8 .atomic).1.store ps (leBytes 8 (leWord (s.load ps) + x).toNat)

/-- An MSI-X vector is raised (R406). -/
def State.raiseMsix (s : State) (n : Nat) : State := { s with msix := s.msix ||| BitVec.ofNat 7 (2 ^ n) }

/-- A write or addition of the device, made as the core's view allows. One to another package leaves as a packet (R349, R423). A record of the journal is written at its location, from die 0. -/
def State.makeOwed (s : State) (o : Owed) : Chk State :=
  let v : View := ⟨o.core, o.spid, 0, .engine 5 0⟩
  let far (op : PacketOp) (bs : List Byte) : Chk (Option State) :=
    match s.place o.core o.ptr.toNat 8 with
    | some (.far pkg va) => do
      s.groupCheck o.spid (.far pkg va)
      let r ← s.farSend o.core (s.groupId o.spid) (.far pkg va) op bs
      return some r.2
    | _ => .ok none
  match o.act with
  | .record bs => do
    s.route 0 (dieOfLoc o.ptr.toNat)
    return (s.put o.ptr.toNat bs).raiseMsix 1
  | .write x => do
    match ← far .store (leBytes 8 x.toNat) with
    | some t => return t
    | none => s.writeAt v o.ptr.toNat 8 (leBytes 8 x.toNat)
  | .add x => do
    match ← far (.atomic .add true x 0) [] with
    | some t => return t
    | none => s.addAt v o.ptr.toNat x

/-- A write or addition of the device: made now, or held behind those that wait. Where a check fails nothing is written. -/
def State.owe (s : State) (o : Owed) : State :=
  if !s.owed.isEmpty then { s with owed := s.owed ++ [o] }
  else match s.makeOwed o with
    | .ok t => t
    | .error .wait => { s with owed := [o] }
    | .error (.trap _ _) => s

/-- The writes and additions of a list made in order, as far as none has to wait. -/
def State.flushFrom (s : State) : List Owed → State
  | [] => { s with owed := [] }
  | o :: l => match s.makeOwed o with
    | .ok t => t.flushFrom l
    | .error .wait => { s with owed := o :: l }
    | .error (.trap _ _) => s.flushFrom l

/-- The writes and additions that wait, tried again. -/
def State.flushOwed (s : State) : State := s.flushFrom s.owed

/-! Traps (R90, R93). -/

/-- The code of a cause (R90). -/
def Cause.code : Cause → Nat
  | .illegal => 1 | .laViolation => 2 | .illegalCmd => 3 | .fmtAbsent => 4 | .gangMismatch => 5 | .orthFull => 6
  | .addrWindow => 7 | .align => 8 | .chkBounds => 9 | .rangeLocked => 10 | .slateRemote => 11
  | .translation => 12 | .protection => 13 | .linkDown => 14 | .memUncorrectable => 15 | .trap => 16
  | .loopStep => 17 | .loopRange => 18 | .xopUnloaded => 19 | .evStale => 20 | .evDeadlock => 21
  | .fuseFault => 22 | .heapExhausted => 23 | .heapBadfree => 24 | .watch => 25 | .restoreIntegrity => 26

/-- The cause of a code. -/
def causeOfCode (n : Nat) : Cause :=
  match n with
  | 1 => .illegal | 2 => .laViolation | 3 => .illegalCmd | 4 => .fmtAbsent | 5 => .gangMismatch | 6 => .orthFull
  | 7 => .addrWindow | 8 => .align | 9 => .chkBounds | 10 => .rangeLocked | 11 => .slateRemote
  | 12 => .translation | 13 => .protection | 14 => .linkDown | 15 => .memUncorrectable | 16 => .trap
  | 17 => .loopStep | 18 => .loopRange | 19 => .xopUnloaded | 20 => .evStale | 21 => .evDeadlock
  | 22 => .fuseFault | 23 => .heapExhausted | 24 => .heapBadfree | 25 => .watch | _ => .restoreIntegrity

/-- The class of a cause (R90). -/
def Cause.cls : Cause → Nat
  | .illegal | .laViolation => 0
  | .illegalCmd | .fmtAbsent | .gangMismatch | .orthFull => 1
  | .addrWindow | .align | .chkBounds | .rangeLocked | .slateRemote => 2
  | .translation | .protection | .linkDown | .memUncorrectable => 3
  | .trap | .loopStep | .loopRange => 4
  | .xopUnloaded => 5
  | .evStale | .evDeadlock | .fuseFault => 6
  | .heapExhausted | .heapBadfree => 7
  | .watch => 8
  | .restoreIntegrity => 9

/-- tcause (R91). -/
def Cause.word (c : Cause) (late : Bool) : Word :=
  BitVec.ofNat 64 ((if late then 4096 else 0) + c.cls * 256 + c.code)

/-- tinfo (R91). -/
def tinfoWord (sk : Bool) (done : BitVec 15) (issued : Nat) (detail : BitVec 8) : Word :=
  BitVec.ofNat 64 ((if sk then 2 ^ 27 else 0) + done.toNat * 4096 + issued % 16 * 256 + detail.toNat)

/-- The 15-bit mask whose bit i is f i. -/
def mask15 (f : Nat → Bool) : BitVec 15 :=
  BitVec.ofNat 15 ((List.range 15).foldl (fun a i => if f i then a + 2 ^ i else a) 0)

/-- ISSUED and DONE of a trap (R92; for a replay that trapped, R94). -/
def Bank.window (b : Bank) (r : TrapRec) : Nat × BitVec 15 :=
  match r.replayed with
  | some (j, rp) => (rp.issued - j, mask15 fun k => decide (k < rp.issued - j) && rp.done.getLsbD (j + k))
  | none =>
    let n := b.nIssued - r.seq
    (n, mask15 fun i => decide (i < n) &&
      !(b.trapped.any fun t => t.seq == r.seq + 1 + i && t.trap.cause != .watch))

/-- The trap block that trap entry writes (R93). -/
def Bank.trapBlock (b : Bank) (r : TrapRec) : TrapBlock :=
  let (n, done) := b.window r
  { b.ctx.tb with
    tpc := r.pc &&& pcMask
    tcause := r.trap.cause.word r.late
    tval := r.trap.val
    tinfo := tinfoWord (r.trap.cause == .trap || r.trap.cause == .watch) done n r.trap.detail
    tl := b.ctx.l }

/-- tstat with H or PRK set. -/
def TrapBlock.setH (t : TrapBlock) (on : Bool) : TrapBlock :=
  { t with tstat := if on then t.tstat ||| 1 else t.tstat &&& 0xFFFFFFFFFFFFFFFE }
def TrapBlock.setPrk (t : TrapBlock) (on : Bool) : TrapBlock :=
  { t with tstat := if on then t.tstat ||| 2 else t.tstat &&& 0xFFFFFFFFFFFFFFFD }

def Bank.h (b : Bank) : Bool := b.ctx.tb.tstat.getLsbD 0
def Bank.prk (b : Bank) : Bool := b.ctx.tb.tstat.getLsbD 1

/-- The trap goes to the local handler (R93). -/
def TrapBlock.local? (t : TrapBlock) (c : Cause) : Bool :=
  !t.troute.getLsbD c.cls && t.twvec != 0 && c.cls != 9

/-- The bank with nothing left of the instruction that trapped. -/
def Bank.cleared (b : Bank) (pc : Word) (tb : TrapBlock) : Bank :=
  { b with ctx := { b.ctx with tb := tb }, pc := pc, trapped := [], replay := none, endDue := false,
           held := false, wait := none, boundary := false, flagged := false, word := none }

/-- The server of a strand: the one its launch names, or the package's (R95). -/
def State.server (s : State) (fsrv : Word) : Word := if fsrv = 0xFFFFFFFFFFFFFFFF then s.ctl.pfsrv else fsrv

/-- A report joins those that wait for their ring (R440): it takes the next TAG. -/
def State.report (s : State) (kind : Nat) (server sid : Word) (who : StrandId) (ptr : Word) (spid : BitVec 20) (words : List Word) : State :=
  { s with fab := { s.fab with
      tag := s.fab.tag + 1
      reports := s.fab.reports ++ [⟨s.ctl.pkid.toNat, kind, s.fab.tag, server, sid, who, ptr, spid, words⟩] } }

/-- Words 3 to 8 of a trap report (R440). -/
def trapReport (t : TrapBlock) (wsp : BitVec 18) : List Word :=
  [t.tpc, t.tcause, t.tval, t.tinfo, t.tstat, wsp.setWidth 64]

/-- The stop PC of the skid record follows a trap entry made during a stop (R321). -/
def State.skidPc (s : State) (k : CoreKey) (b : Fin 2) : State :=
  let c := clusterOf k
  let x := s.clu c
  let r := s.cid k
  if x.verm.frz ∧ (s.core k).ab = b then
    s.setClu c { x with skid := x.skid.setIfInBounds r { vget x.skid ⟨0, 0⟩ r with w0 := s.stopPc k } }
  else s

/-- TAKING A TRAP (R93): the trap block is filled, and the strand enters its local handler or is parked with a report. A trap in a handler or at a parked strand is a double trap: the block stands and the report carries the new cause, value and address. -/
def State.enterTrap (s : State) (k : CoreKey) (b : Fin 2) (r : TrapRec) : State :=
  let bk := s.bank k b
  let srv := s.server bk.id.fsrv
  let sid := s.sid k b
  if bk.h || bk.prk then
    let tb := bk.ctx.tb.setPrk true
    let s1 := s.report 2 srv sid bk.id.who 0 bk.id.spid
      (trapReport bk.ctx.tb bk.wsp ++ [BitVec.ofNat 64 r.trap.cause.code, r.trap.val, r.pc])
    (s1.setBank k b { bk.cleared r.pc tb with dbl := some ⟨r.trap, r.pc⟩ }).skidPc k b
  else
    let tb := bk.trapBlock r
    if tb.local? r.trap.cause then
      (s.setBank k b { bk.cleared tb.twvec (tb.setH true) with trapAt := some r.pc }).skidPc k b
    else
      let tb := tb.setPrk true
      let s1 := s.report 1 srv sid bk.id.who 0 bk.id.spid (trapReport tb bk.wsp)
      (s1.setBank k b { bk.cleared tb.tpc tb with trapAt := some r.pc }).skidPc k b

/-- Nothing stands between the bank's traps and trap entry (R93). -/
def Bank.drained (b : Bank) : Bool := b.pend.isEmpty && b.store.isNone && b.sending.isNone

/-- A trap of the instruction that issues now: it takes its number, and is entered at once where nothing is pending, or waits for trap entry. -/
def State.raise (s : State) (k : CoreKey) (b : Fin 2) (r : TrapRec) : State :=
  let bk := s.bank k b
  if bk.drained && bk.trapped.isEmpty then s.enterTrap k b r
  else s.setBank k b { bk with trapped := bk.trapped ++ [r], held := false }

/-- The oldest of the traps that wait. -/
def oldest : List TrapRec → Option TrapRec
  | [] => none
  | r :: l => match oldest l with
    | some q => some (if q.seq < r.seq then q else r)
    | none => some r

end Sys2Proof.Machine
end

