-- ==== Sys2Proof/Machine/Port.lean ====
section
/-! DEFINITION. The operations that are out to other packages, their payloads on the way into the retry stores of the Galril-F ports (R423, R430), and the packets that wait at the egress (R399). -/

namespace Sys2Proof.Machine

open Sys2Proof

/-- Fields of a domain pointer. -/
def pkgOf (p : Word) : Nat := p.toNat % 2 ^ 60 / 2 ^ 48
def vaOf (p : Word) : Nat := p.toNat % 2 ^ 48

def State.setOp (s : State) (o : FabricOp) : State :=
  { s with fab := { s.fab with ops := s.fab.ops.map fun p => if p.id = o.id then o else p } }

/-- The cuts of an operation's payload. -/
def FabricOp.cuts (o : FabricOp) : List (Nat × Nat) := packetCuts (vaOf o.da) o.amount.toNat

/-- It is an operation of this strand, and not an access of an engine. -/
def FabricOp.ofStrand (o : FabricOp) (w : StrandId) : Bool := o.ask.isNone && o.who == w

def Payload.isEmpty : Payload → Bool
  | .mem ps => ps.isEmpty
  | .held bs => bs.isEmpty

/-- The first n bytes of some pieces, and the pieces after them. -/
def takePieces : Nat → List (Nat × Nat) → List (Nat × Nat) × List (Nat × Nat)
  | _, [] => ([], [])
  | n, (loc, m) :: l =>
    if m ≤ n then
      let r := takePieces (n - m) l
      ((loc, m) :: r.1, r.2)
    else (if n = 0 then [] else [(loc, n)], (loc + n, m - n) :: l)

/-- The next n bytes of a payload, read now, and what follows them. -/
def State.takePayload (s : State) (n : Nat) : Payload → List Byte × Payload
  | .mem ps => (s.load (takePieces n ps).1, .mem (takePieces n ps).2)
  | .held bs => (bs.take n, .held (bs.drop n))

/-- A packet of these bytes at an offset of an operation's payload. -/
def FabricOp.packetAt (o : FabricOp) (off : Nat) (bs : List Byte) : Packet :=
  ⟨0, 0, 0, o.handle, o.key, o.id, o.cuts.length, if o.opc = 0x71 then some (vaOf o.sig) else none, .write, vaOf o.da + off, bs⟩

/-- The packets of a payload copied to the retry store of the operation's port in ascending address, as far as there is room. -/
def State.copyCuts (s : State) (o : FabricOp) : List (Nat × Nat) → State × FabricOp
  | [] => (s, o)
  | (off, n) :: l =>
    if off + n ≤ o.sent then s.copyCuts o l
    else
      let (bs, rest) := s.takePayload n o.rest
      if s.portRoom o.port (o.packetAt off bs) then
        (s.sendPacket o.port (pkgOf o.da) (o.packetAt off bs)).copyCuts { o with sent := off + n, rest := rest } l
      else (s, o)

/-- A payload goes on into its retry store. -/
def State.copyPayload (s : State) (o : FabricOp) : State :=
  let r := s.copyCuts o o.cuts
  r.1.setOp r.2

/-- The bank whose strand waits for a payload that is now whole in a retry store goes on (R430). -/
def Bank.payloadSent (b : Bank) (waiting : Nat → Bool) : Bank :=
  { b with sending := b.sending.bind fun i => if waiting i then some i else none }

/-- Acknowledgements have made room: the payloads that wait go on, oldest first, and strands reach local completion (R430). -/
def State.pump (s : State) : State :=
  let s1 := (s.fab.ops.filter fun o => !o.rest.isEmpty).foldl State.copyPayload s
  let waiting (i : Nat) : Bool := s1.fab.ops.any fun o => o.id == i && !o.rest.isEmpty
  { s1 with cores := s1.cores.map fun e => (e.1, { e.2 with b0 := e.2.b0.payloadSent waiting, b1 := e.2.b1.payloadSent waiting }) }

/-- Packets of these operation numbers leave the retry stores: their answers have come, and what waits for room goes on. -/
def State.farAnswered (s : State) (ids : List Nat) : State :=
  { s with fab := { s.fab with retry := s.fab.retry.filter fun q => !(ids.contains q.pkt.opId) } }.pump

def State.addOp (s : State) (o : FabricOp) : State :=
  { s with fab := { s.fab with ops := s.fab.ops ++ [o], nextOp := s.fab.nextOp + 1 } }

/-! Accesses to another package that no strand makes: those of an engine, and of a quad that reads a fused image. Each is an operation of its own, and its maker waits for the answer. -/

/-- The bytes that a read has brought, in order. -/
def FabricOp.bytes (o : FabricOp) : List Byte :=
  (packetCuts 0 o.amount.toNat).flatMap fun c => ((o.got.find? fun e => e.1 == c.1).map (·.2)).getD []

/-- How an access stands. -/
inductive AskSt where
  | none
  | wait
  | failed (c d : Nat)
  | over (bs : List Byte)
  deriving DecidableEq, Repr

/-- An access of n bytes at p: opc is 0x72 for a read, 0x70 for a write, 0 for the question whether a write would be accepted, 0x100 + m for a write of the bytes of the word at p that mask m names. -/
def State.asked (s : State) (a : AskBy) (opc p n : Nat) : AskSt :=
  match s.fab.ops.find? fun o => o.ask == some a && o.opc == opc && (if opc = 0x72 then o.sa else o.da).toNat == p && o.amount.toNat == n with
  | none => .none
  | some o => if o.out then .wait else match o.failed with
    | some (c, d) => .failed c d
    | none => .over o.bytes

/-- The access is sent: its packets enter the retry store of its port (R422, R423), under the group of its space id (R446). A read waits for its landing slots (R328). -/
def State.ask (s : State) (a : AskBy) (v : View) (who : StrandId) (fsrv : Word) (opc p n : Nat) (bs : List Byte) : Chk State := do
  match ← s.issueChecks v p n 1, s.groupId v.spid with
  | .far pkg va, some g =>
    let j ← s.portWay (dieOf v.core) pkg
    let x := BitVec.ofNat 64 p
    let op : FabricOp :=
      { id := s.fab.nextOp, sid := v.sid, who := who, fsrv := fsrv, opc := opc, da := x, sa := x, amount := BitVec.ofNat 64 n,
        sig := 0, core := v.core, spid := v.spid, port := j, handle := g.1, key := g.2, sent := 0, rest := .held [], left := 1,
        due := 0, failed := none, ask := some a, got := [] }
    if opc = 0x70 then
      let op := { op with rest := .held bs, left := op.cuts.length }
      return (s.addOp op).copyPayload op
    else
      let what : PacketOp := if opc = 0x72 then .read n else if opc = 0 then .accept n else .masked (BitVec.ofNat 8 opc)
      let pkt := packetUnder g op.id 1 none what va (if opc < 0x100 then [] else bs)
      if s.portRoom j pkt && !(opc == 0x72 && s.landFull (landingFor v.core (.far pkg va) n)) then
        return (s.addOp { op with due := if opc = 0x72 then n else 0 }).sendPacket j pkg pkt
      else .error .wait
  | _, _ => .error (.trap .protection 9)

/-- The accesses of a step that is done are forgotten. -/
def State.dropAsks (s : State) (a : AskBy) : State :=
  { s with fab := { s.fab with ops := s.fab.ops.filter fun o => o.ask != some a } }

/-- Some access of a step is under way. -/
def State.asks (s : State) (a : AskBy) : Bool := s.fab.ops.any fun o => o.ask == some a

/-- The packets at the egress leave, in the order in which they reached it (R399). -/
def State.sendEgress (s : State) : State :=
  { s with fab := { s.fab with retry := s.fab.retry.map fun q => { q with sends := max 1 q.sends } } }

end Sys2Proof.Machine
end

