-- ==== Sys2Proof/Machine/Operands.lean ====
section
/-! DEFINITION. Register operands by specifier (R27, R59, R60), the delivery of results (R97, R132), and the registers an instruction reads and writes under the lookahead contract (R208). -/

namespace Sys2Proof.Machine

open Sys2Proof

/-- S(k), read: w0 reads zero (R27). -/
def Ctx.s (c : Ctx) (k : Nat) : Word :=
  if k = 0 then 0 else if k < 32 then vget c.w 0 k else if k < 40 then vget c.o 0 (k - 32) else vget c.l 0 (k - 40)

/-- S(k) ← x: a write to w0 is discarded. The specifiers of l0 to l3 are no destinations. -/
def Ctx.setS (c : Ctx) (k : Nat) (x : Word) : Ctx :=
  if k = 0 then c else if k < 32 then { c with w := c.w.setIfInBounds k x }
  else { c with o := c.o.setIfInBounds (k - 32) x }

/-- PushL(x). -/
def Ctx.pushL (c : Ctx) (x : Word) : Ctx := { c with l := #v[x, vget c.l 0 0, vget c.l 0 1, vget c.l 0 2] }

/-- V(k), read. -/
def Ctx.vec (c : Ctx) (k : Nat) : Lanes :=
  if k < 16 then vget c.v (Vector.replicate 16 0) k else vget c.vl (Vector.replicate 16 0) (k - 16)

/-- V(k) ← x. -/
def Ctx.setV (c : Ctx) (k : Nat) (x : Lanes) : Ctx := { c with v := c.v.setIfInBounds k x }

/-- PushVL(x). -/
def Ctx.pushVL (c : Ctx) (x : Lanes) : Ctx := { c with vl := #v[x, c.vec 16] }

/-- M(k), read: m0 reads all ones. -/
def Ctx.mask (c : Ctx) (k : Nat) : BitVec 16 := if k = 0 then 0xFFFF else vget c.m 0 k

/-- M(k) ← x: a write to m0 is discarded. -/
def Ctx.setM (c : Ctx) (k : Nat) (x : BitVec 16) : Ctx :=
  if k = 0 then c else { c with m := c.m.setIfInBounds k x }

/-- A scalar result delivered under its destination level (R97). -/
def Ctx.deliver (c : Ctx) (d : DReg) (p : Level) (y : Word) : Ctx :=
  let c1 := if p = .last then c else c.setS d.val y
  if p = .main then c1 else c1.pushL y

/-- A vector result delivered under its destination level (R132). -/
def Ctx.deliverV (c : Ctx) (d : VReg) (p : Level) (y : Lanes) : Ctx :=
  let c1 := if p = .last then c else c.setV d.val y
  if p = .main then c1 else c1.pushVL y

/-! What an instruction reads and writes, for R208. w0 and m0 are never named: they are never pending. -/

def rS (k : Nat) : List RegRef := if k = 0 then [] else [.s k]
def rV (k : Nat) : List RegRef := [.v k]
def rM (k : Nat) : List RegRef := if k = 0 then [] else [.m k]

/-- The footprint of an instruction. transfer: one of the instructions that R92 holds until every earlier long-latency instruction is fault-safe. long: it is long-latency. noLa: R208 does not apply (FENCE, R175). -/
structure Foot where
  reads : List RegRef
  writes : List RegRef
  pushS : Bool
  pushV : Bool
  transfer : Bool
  long : Bool
  noLa : Bool
  deriving DecidableEq, Repr

/-- A footprint of registers alone. -/
def foot (reads writes : List RegRef) : Foot := ⟨reads, writes, false, false, false, false, false⟩

/-- A short-latency scalar result (R97). -/
def footS (reads : List RegRef) (d : DReg) (p : Level) : Foot :=
  ⟨reads, if p = .last then [] else rS d.val, decide (p ≠ .main), false, false, false, false⟩

/-- A short-latency vector result (R132). -/
def footV (reads : List RegRef) (d : VReg) (p : Level) : Foot :=
  ⟨reads, if p = .last then [] else rV d.val, false, decide (p ≠ .main), false, false, false⟩

/-- A vector result under a governing mask. With .last the inactive lanes of the pushed value come from v0, which the instruction so reads unless the mask is m0 (R134; DEDUCED, log 44). -/
def footVM (reads : List RegRef) (k : Nat) (d : VReg) (p : Level) : Foot :=
  footV (reads ++ rM k ++ if p = .last ∧ k ≠ 0 then [.v 0] else []) d p

/-- A long-latency instruction. -/
def footL (reads writes : List RegRef) : Foot := ⟨reads, writes, false, false, false, true, false⟩

/-- A control transfer, or another instruction that R92 holds. -/
def footT (reads writes : List RegRef) : Foot := ⟨reads, writes, false, false, true, false, false⟩

/-- The kind of a register in tinfo[7:4], and its specifier (R208). -/
def RegRef.kind : RegRef → Nat
  | .s _ => 0
  | .v _ => 1
  | .m _ => 2
def RegRef.spec : RegRef → Nat
  | .s n | .v n | .m n => n

/-- The register of a list that R208 takes first: by kind, then by specifier. -/
def firstReg : List RegRef → Option RegRef
  | [] => none
  | r :: l => match firstReg l with
    | some q => some (if q.kind * 64 + q.spec < r.kind * 64 + r.spec then q else r)
    | none => some r

/-- The registers of both lists. -/
def meet (a b : List RegRef) : List RegRef := a.filter fun r => b.contains r

/-- How an instruction of this footprint offends in the window of one pending instruction: the case of R208 and the register. -/
def Pending.offence (p : Pending) (f : Foot) : Option (Nat × RegRef) :=
  match firstReg (meet f.reads p.dests) with
  | some r => some (1, r)
  | none =>
  match firstReg (meet f.writes p.dests) with
  | some r => some (2, r)
  | none =>
  match firstReg (meet f.writes p.reads) with
  | some r => some (3, r)
  | none =>
  let l := p.reads.filter fun r => match r with
    | .s n => f.pushS && decide (40 ≤ n)
    | .v n => f.pushV && decide (16 ≤ n)
    | .m _ => false
  (firstReg l).map fun r => (4, r)

/-- The LA_VIOLATION of R208: the oldest pending instruction that is offended decides. -/
def laViolation (f : Foot) : List Pending → Option Trap
  | [] => none
  | p :: l => match p.offence f with
    | some (c, r) => some ⟨.laViolation, BitVec.ofNat 64 r.spec, BitVec.ofNat 8 (r.kind * 16 + c)⟩
    | none => laViolation f l

end Sys2Proof.Machine
end

