-- ==== Sys2Proof/Machine/Flags.lean ====
section
/-! DEFINITION. The flags and the rounding mode of fcsr (R39, R40), and the flags of an accumulator status word (R53). -/

namespace Sys2Proof.Machine

open Sys2Proof

/-- Flags ORed into fcsr (R40). -/
def Ctx.orFlags (c : Ctx) (f : Flags) : Ctx := { c with fcsr := c.fcsr ||| f.setWidth 64 }

/-- The mode of a code (R36). -/
def modeOf (n : Nat) : Mode := match n with | 0 => .rne | 1 => .rtz | 2 => .rup | _ => .rdn

/-- fcsr.RM. -/
def Ctx.rm (c : Ctx) : Mode := modeOf (bits c.fcsr 8 2)

/-- The mode of a rounding position (R21). -/
def Ctx.mode (c : Ctx) : Rnd → Mode
  | .mode m => m
  | .dyn => c.rm

/-- fcsr.HZ set (R39). -/
def Ctx.setHz (c : Ctx) : Ctx := { c with fcsr := c.fcsr ||| 0x8000 }

/-- WRS fcsr: bits 15, 9 to 8 and 5 to 0 (R128). -/
def Ctx.writeFcsr (c : Ctx) (x : Word) : Ctx := { c with fcsr := x &&& fcsrMask }

end Sys2Proof.Machine
end

