-- ==== Sys2Proof/Machine/Issue.lean ====
section
/-! DEFINITION. How an instruction issues (R206 to R208, R92), completes and steps the pc (R116), and how a long-latency instruction or a store leaves its work pending (R164, R207). -/

namespace Sys2Proof.Machine

open Sys2Proof

abbrev Next := Host.Outcome State Fault Refusal

/-! Hardware loops (R112). -/

def LoopPair.act (p : LoopPair) : Bool := p.w0.getLsbD 0
def LoopPair.isIndexed (p : LoopPair) : Bool := p.w0.getLsbD 1
def LoopPair.idx (p : LoopPair) : Nat := bits p.w0 59 5
def LoopPair.len (p : LoopPair) : Nat := bits p.w1 32 12
def LoopPair.count (p : LoopPair) : Nat := bits p.w1 0 32
def LoopPair.stepBy (p : LoopPair) : Word := sext 16 (bits p.w1 48 16)

/-- The address of the first body instruction. -/
def LoopPair.first (p : LoopPair) : Word := 0x8000000000000000 ||| (p.w0 &&& 0x01FFFFFFFFFFFFFC)

/-- The end address of the body. -/
def LoopPair.last (p : LoopPair) : Word :=
  0x8000000000000000 ||| ((p.first + 4 * BitVec.ofNat 64 p.len - 4) &&& 0x01FFFFFFFFFFFFFF)

def LoopPair.off (p : LoopPair) : LoopPair := ⟨p.w0 &&& 0xFFFFFFFFFFFFFFFE, p.w1⟩

/-- An address lies in the body. -/
def LoopPair.contains (p : LoopPair) (a : Word) : Bool :=
  p.act && decide (p.first.toNat ≤ a.toNat) && decide (a.toNat ≤ p.last.toNat)

def Ctx.pair (c : Ctx) (n : Nat) : LoopPair := vget c.loops LoopPair.empty n

/-- The address is the end address of an active pair. -/
def Ctx.atEnd (c : Ctx) (a : Word) : Bool :=
  ((c.pair 0).act && (c.pair 0).last == a) || ((c.pair 1).act && (c.pair 1).last == a)

/-- A taken transfer from a to t (R117): a body that it leaves is given up, and the inner with the outer. Handler code leaves the pairs as they are. -/
def Ctx.leaveLoops (c : Ctx) (a t : Word) : Ctx :=
  let out (p : LoopPair) : Bool := p.contains a && !p.contains t
  let p0 := c.pair 0
  let p1 := c.pair 1
  if c.tb.tstat.getLsbD 0 then c
  else if out p0 then { c with loops := #v[p0.off, p1.off] }
  else if out p1 then { c with loops := #v[p0, p1.off] }
  else c

/-! Which bank issues. -/

/-- A step of the core is under way and its one instruction has not issued (R260). -/
def State.stepsNow (s : State) (k : CoreKey) : Bool :=
  match (s.clu (clusterOf k)).verm.stepping with
  | some (j, n, _) => j == k && decide (((s.core k).bank (s.core k).ab).nIssued ≤ n)
  | none => false

/-- A Vermilion stop lets the core issue: none is in force, the core is being stepped, or it still runs in the six cycles of R258. -/
def State.thawed (s : State) (k : CoreKey) : Bool :=
  let x := s.clu (clusterOf k)
  !x.verm.frz || s.stepsNow k ||
    (x.verm.grace && decide (bits (vget x.skid ⟨0, 0⟩ (s.cid k)).w1 4 4 < 6))

/-- The strand's launch has started (R86, R378). -/
def State.launchStarted (s : State) (ln : BitVec 16) : Bool :=
  match s.disp.launches.find? fun l => l.ln == ln with
  | some l => l.started
  | none => true

/-- The strand of the bank may issue: it is RUNNING, with nothing that holds its next instruction. -/
def Bank.runs (b : Bank) : Bool :=
  b.st == .bound && !(b.wait.elim false WaitKind.blocks) && !b.prk && b.trapped.isEmpty && b.store.isNone && b.sending.isNone && !b.endDue

/-- The bank of a core that issues next. -/
def State.issuingOn (s : State) (k : CoreKey) : Option (Fin 2) :=
  let c := s.core k
  if !c.fen && !c.hung && !c.swp && (c.bank c.ab).runs && s.thawed k && s.launchStarted (c.bank c.ab).id.ln then
    some c.ab
  else none

/-- The strand whose instruction exec runs. -/
def State.issuing (s : State) : Option (CoreKey × Fin 2) := (s.issuingOn s.cur).map fun b => (s.cur, b)

/-! The gate before an instruction. -/

inductive Gate where
  | wait
  | trap (t : Trap)
  | go
  deriving DecidableEq, Repr

/-- The instruction lies beyond the window of some pending instruction (R207). -/
def Bank.windowOver (b : Bank) : Bool := b.pend.any fun p => decide (p.la < b.nIssued + 1 - p.seq)

/-- An earlier atomic of the strand, not yet answered by its package, is an acquire: what follows it waits (R171, R195). -/
def Bank.acquires (b : Bank) : Bool := b.pend.any Pending.acq

/-- The order of the checks that issue makes: a window that is over waits; then pre, a check that comes before LA_VIOLATION; then R208; then the waits of R92, R195 and R207. -/
def Bank.gate (b : Bank) (f : Foot) (pre : Option Trap) : Gate :=
  if b.windowOver || (b.replay.isSome && !b.pend.isEmpty) then .wait
  else match pre with
    | some t => .trap t
    | none =>
      match (if f.noLa then none else laViolation f b.pend) with
      | some t => .trap t
      | none =>
        if b.acquires || (f.transfer && b.pend.any fun p => !p.safe) || (f.long && decide (16 ≤ b.pend.length)) then .wait
        else .go

/-! Completion. -/

/-- What an instruction does once it may issue. stall: it is held in a completion wait (R11). trapAt: it traps after a read whose hits stand (R257). hold: the state is as given, and the instruction has not completed. -/
inductive Act where
  | wait
  | stall (w : WaitKind)
  | trap (t : Trap)
  | trapAt (s : State) (t : Trap)
  | hold (s : State)
  | done (s : State) (goto : Option Word) (watch : Option Trap)

/-- The bank after the instruction at its current address has completed: the pc, or the next replay (R94), and a loop end that is due (R116). -/
def Bank.advance (b : Bank) (goto : Option Word) : Bank :=
  let b := { b with nIssued := b.nIssued + 1, held := false, boundary := false, wait := none, flagged := false, word := none }
  match b.replay with
  | some r =>
    match r.todo.tail with
    | [] =>
      { b with replay := none, pc := r.base + 4 * BitVec.ofNat 64 (r.issued + 1),
               endDue := b.ctx.atEnd (r.base + 4 * BitVec.ofNat 64 r.issued) }
    | todo => { b with replay := some { r with todo := todo } }
  | none =>
    match goto with
    | some t => { b with pc := t }
    | none => { b with pc := b.pc + 4, endDue := b.ctx.atEnd b.pc }

/-- The skid record of a core within the six cycles of a stop, with so many more instructions issued (R258). -/
def State.skidMore (s : State) (k : CoreKey) (m : Nat) : State :=
  let x := s.clu (clusterOf k)
  if x.verm.frz && x.verm.grace && x.verm.stepping.isNone then
    let r := s.cid k
    let n := bits (vget x.skid ⟨0, 0⟩ r).w1 4 4 + m
    s.setClu (clusterOf k) { x with skid := x.skid.setIfInBounds r (s.skidRecord k n) }
  else s

/-- An instruction issues within the six cycles of a stop. -/
def State.skidIssue (s : State) (k : CoreKey) : State := s.skidMore k 1

/-- An instruction completes or traps within them: one that blocked counted as it issued. -/
def State.skidDone (s : State) (k : CoreKey) (bk : Bank) : State := s.skidMore k (if bk.word.isSome then 0 else 1)

/-- An instruction blocks within them (R321). s: the package before it. -/
def State.skidBlocks (t s : State) (k : CoreKey) (b : Fin 2) : State :=
  if ((t.bank k b).wait.elim false WaitKind.blocks) && !((s.bank k b).wait.elim false WaitKind.blocks) then t.skidDone k (s.bank k b) else t

/-- The instruction whose access starts a stop issued before the trigger: SKID does not count it (R258). s: the package before it. -/
def State.skidStart (t s : State) (k : CoreKey) : State :=
  let x := t.clu (clusterOf k)
  if x.verm.frz && !(s.clu (clusterOf k)).verm.frz then
    t.setClu (clusterOf k) { x with skid := x.skid.setIfInBounds (t.cid k) (t.skidRecord k 0) }
  else t

/-- The trap record of the instruction at the bank's current address, numbered n. -/
def Bank.trapRec (b : Bank) (n : Nat) (t : Trap) : TrapRec :=
  ⟨n, b.curPc, t, false, t.cause == .watch, b.replay.map fun r => (r.todo.headD 0, r)⟩

/-- An instruction completes, and takes the WATCH trap that its access hit (R257, R322). -/
def State.complete (s : State) (k : CoreKey) (b : Fin 2) (goto : Option Word) (watch : Option Trap) : State :=
  let bk := s.bank k b
  let s1 := (s.setBank k b (bk.advance goto)).skidDone k bk
  match watch with
  | none => s1
  | some t => s1.raise k b (bk.trapRec (bk.nIssued + 1) t)

/-- A precise trap at the instruction that issues. -/
def State.trapNow (s : State) (k : CoreKey) (b : Fin 2) (t : Trap) : State :=
  let bk := s.bank k b
  ((s.setBank k b { bk with nIssued := bk.nIssued + 1, held := false, boundary := false }).skidDone k bk).raise k b
    (bk.trapRec (bk.nIssued + 1) t)

/-- The instruction waits: it is issued again. -/
def State.holdIssue (s : State) (k : CoreKey) (b : Fin 2) : State := s.setBank k b { s.bank k b with held := true }

/-- What an instruction's act makes of the package. -/
def State.apply (s : State) (k : CoreKey) (b : Fin 2) : Act → State
  | .wait => s.holdIssue k b
  | .stall w => s.setBank k b { s.bank k b with held := true, wait := some w }
  | .trap t => s.trapNow k b t
  | .trapAt s' t => (s'.trapNow k b t).skidStart s k
  | .hold s' => (s'.skidBlocks s k b).skidStart s k
  | .done s' goto w => (s'.complete k b goto w).skidStart s k

/-- ISSUE: an instruction with this footprint issues from the core that the order of the agents names. Where no strand issues there, nothing happens. -/
def issueWith (s : State) (f : Foot) (pre : Bank → CoreKey → Option Trap) (body : State → CoreKey → Fin 2 → Act) : Next :=
  match s.issuing with
  | none => .next s
  | some (k, b) =>
    match (s.bank k b).gate f (pre (s.bank k b) k) with
    | .wait => .next (s.holdIssue k b)
    | .trap t => .next (s.trapNow k b t)
    | .go => .next (s.apply k b (body s k b))

/-- ISSUE with no check before R208. -/
def issue (s : State) (f : Foot) (body : State → CoreKey → Fin 2 → Act) : Next := issueWith s f (fun _ _ => none) body

/-- An instruction that only changes registers of its own strand: from the pc and the context to the context and a target, or a trap. -/
def issueReg (s : State) (f : Foot) (g : Word → Ctx → Except Trap (Ctx × Option Word)) : Next :=
  issue s f fun s k b =>
    let bk := s.bank k b
    match g bk.curPc bk.ctx with
    | .error t => .trap t
    | .ok (c, goto) => .done (s.setBank k b { bk with ctx := c }) goto none

/-- An instruction that maps the context to a context and can not trap once it issues. -/
def issueMap (s : State) (f : Foot) (g : Ctx → Ctx) : Next := issueReg s f fun _ c => .ok (g c, none)

/-! Long-latency instructions. -/

/-- A pending instruction of a footprint: nothing to write yet. One that a return from a trap issues once more has no window (R94). -/
def Bank.pendingOf (b : Bank) (f : Foot) (h : La) : Pending where
  seq := b.nIssued + 1
  pc := b.curPc
  la := if b.replay.isSome || b.again == b.nIssued + 1 then 0 else h.val
  reads := f.reads
  dests := f.writes
  safe := true
  setsFlags := false
  writes := []
  flags := 0
  slot := none
  late := none
  far := none
  acq := false
  ptr := 0
  pkts := []
  spans := []
  land := []
  links := []
  xop := none
  replayed := b.replay.map fun r => (r.todo.headD 0, r)

def Bank.push (b : Bank) (p : Pending) : Bank := { b with pend := b.pend ++ [p] }

/-- A long-latency instruction whose result is computed from registers: it is fault-safe as it issues, and writes its results at its write-back. -/
def issueLong (s : State) (f : Foot) (h : La) (setsFlags : Bool) (g : Ctx → Ctx × List RegWrite × Flags) : Next :=
  issue s f fun s k b =>
    let bk := s.bank k b
    let (c, ws, fl) := g bk.ctx
    let p := { bk.pendingOf f h with writes := ws, flags := fl, setsFlags := setsFlags }
    .done (s.setBank k b { bk.push p with ctx := c }) none none

/-! Stops as traps. -/

/-- The act of a check that does not pass, with the pointer in tval. -/
def Stop.act (st : Stop) (p : Word) : Act :=
  match st with
  | .wait => .wait
  | .trap c d => .trap ⟨c, p, BitVec.ofNat 8 d⟩

/-- ILLEGAL at an instruction, with its word in tval (R90). -/
def illegalAt (i : Instr) (d : Nat) : Trap := ⟨.illegal, BitVec.ofNat 64 ((encode i).getD 0), BitVec.ofNat 8 d⟩

/-- ILLEGAL where the entry writes Trap(ILLEGAL, 0) (R122, R183). -/
def illegal0 (d : Nat) : Trap := ⟨.illegal, 0, BitVec.ofNat 8 d⟩

/-! Memory of a strand. -/

/-- An access of a strand, as its issue leaves it. -/
inductive Access where
  /-- The checks of the issuing core stop it. -/
  | stop (st : Stop)
  /-- A check away from the core fails: it traps late, or at the store. -/
  | late (c : Cause) (d : Nat)
  /-- It goes to another package. -/
  | far (pl : Place)
  /-- It has been made: the place, its locations, the bytes, the state, a WATCH trap. -/
  | made (pl : Place) (ps : List (Nat × Nat)) (bs : List Byte) (s : State) (w : Option Trap)

/-- A read of n bytes at p by a strand (R166), performed as it issues. -/
def State.strandRead (s : State) (v : View) (p n w : Nat) (a : Acc) : Access :=
  match s.issueChecks v p n w with
  | .error st => .stop st
  | .ok pl =>
    match s.targetChecks v pl n a with
    | .error .wait => .stop .wait
    | .error (.trap c d) => .late c d
    | .ok ps => match pl with
      | .far pkg va => .far (.far pkg va)
      | _ =>
        let r := s.served v p pl n a
        .made pl ps (s.load ps) r.1 r.2

/-- The pointers and bytes of an operation that later accesses of its strand are ordered after: its remote range, and its signal word (R195, R431). The landing range of an RRD is not among them (R428). -/
def FabricOp.spans (o : FabricOp) : List (Nat × Nat) :=
  (if o.opc = 0x72 then (o.sa.toNat, o.amount.toNat)
   else (o.da.toNat, if o.opc = 0x73 ∨ o.opc = 0x75 then 8 else o.amount.toNat)) ::
    (if o.sig = 0 then [] else [(o.sig.toNat, 8)])

/-- An access is still to be performed, or may have to be once more: no answer has come from its package, it traps and will be made anew (R92, R94), or a link that its reply crosses may yet go down (R392). -/
def Pending.unmade (q : Pending) : Bool := q.far.isSome || !q.links.isEmpty || q.late.elim false fun t => t.cause != .watch

/-- Bytes at a pointer, as core k names them, meet n bytes of a place in the same form (R447). -/
def State.meets (s : State) (k : CoreKey) (e : Nat × Nat) (pl : Place) (n : Nat) : Bool :=
  match s.place k e.1 e.2 with
  | some q => decide (s.canon q < s.canon pl + n) && decide (s.canon pl < s.canon q + e.2)
  | none => false

/-- A place lies in the core's own scratchpad. -/
def Place.inCore (pl : Place) (k : CoreKey) : Bool := match pl with | .spad j _ => j == k | _ => false

/-- An earlier access of the strand is still to be performed, here or in another package, that this one is ordered after: one to the same bytes, or both to the core's own scratchpad. This one waits for it, as no order of packets is kept on the way (R195, R423). -/
def State.farBusy (s : State) (k : CoreKey) (b : Bank) (pl : Place) (n : Nat) : Bool :=
  (b.pend.any fun q => q.unmade && q.spans.any fun e =>
    s.meets k e pl n || (pl.inCore k && (s.place k e.1 e.2).elim false fun r => r.inCore k)) ||
    s.fab.ops.any fun o => o.ofStrand b.id.who && o.out && o.spans.any fun e => s.meets o.core e pl n

/-- The act of a load with one access: its result is written at the write-back, and a check that fails away from the core traps late. -/
def loadAct (s : State) (k : CoreKey) (b : Fin 2) (f : Foot) (h : La) (p : Word) (n : Nat) (d : DReg) (signed : Bool) : Act :=
  let q := { (s.bank k b).pendingOf f h with safe := false, ptr := p, spans := [(p.toNat, n)] }
  match s.strandRead (s.view k b) p.toNat n n .read with
  | .stop st => st.act p
  | .late c x =>
    let bk := s.bank k b
    .done (s.setBank k b (bk.push { q with late := some ⟨c, p, BitVec.ofNat 8 x⟩ })) none none
  | .far pl =>
    let ls := landingFor k pl n
    let links := s.farLinks k p 0 n
    if s.farBusy k (s.bank k b) pl n || s.landFull (ls ++ links.map Crossing.landing) then .wait
    else match s.farSend k (s.groupId (s.bank k b).id.spid) pl (.load n) [] with
      | .error st => st.act p
      | .ok (i, s') =>
        let bk := s'.bank k b
        .done (s'.setBank k b (bk.push { q with
          far := some (.scalar d n signed), pkts := [i], land := ls, links := links })) none none
  | .made pl ps bs s' w =>
    let ls := landingFor k pl n
    let links := s.crossings (dieOf k) ps p 0 n
    if s.farBusy k (s.bank k b) pl n || s.landFull (ls ++ links.map Crossing.landing) then .wait
    else
      let bk := s'.bank k b
      let y := if signed then sext (8 * n) (leNat bs) else zext (8 * n) (leNat bs)
      .done (s'.setBank k b (bk.push { q with
        writes := [.s d y], late := w, land := ls, links := links })) none none

/-- A store of these lanes outside the own scratchpad holds the strand until it is accepted (R164). One inside is made at once; the checks of the issuing core are made for every lane first, and the lowest lane that fails decides (R165). A store that is held has a landing slot for the answer to each lane (R328). -/
def storeAct (s : State) (k : CoreKey) (b : Fin 2) (lanes : List (Word × List Byte)) : Act :=
  let v := s.view k b
  let rec checks : List (Word × List Byte) → Except (Stop × Word) (List Place)
    | [] => .ok []
    | (p, bs) :: l =>
      match s.issueChecks v p.toNat bs.length bs.length with
      | .error st => .error (st, p)
      | .ok pl => match checks l with
        | .error e => .error e
        | .ok pls => .ok (pl :: pls)
  match checks lanes with
  | .error (st, p) => st.act p
  | .ok pls =>
    if (lanes.zip pls).any fun e => s.farBusy k (s.bank k b) e.2 e.1.2.length then .wait
    else if pls.all fun pl => pl.inCore k then
      let r := (lanes.zip pls).foldl (fun (a : State × Option Trap) e =>
        match e.2 with
        | .spad j off =>
          let t := a.1.served v e.1.1.toNat e.2 e.1.2.length .write
          (t.1.store [(spadBase j + off, e.1.2.length)] e.1.2, match a.2 with | some x => some x | none => t.2)
        | _ => a) (s, none)
      .done r.1 none r.2
    else if s.landFull (lanes.flatMap fun l => s.storeLanding k l) then .wait
    else
      let bk := s.bank k b
      let held : StoreHeld := ⟨bk.nIssued + 1, bk.curPc, lanes, none, s.groupId bk.id.spid, [], false, bk.replay.map fun r => (r.todo.headD 0, r)⟩
      .done (s.setBank k b { bk with store := some held }) none none

end Sys2Proof.Machine
end

