-- ==== Sys2Proof/Machine/Scalar.lean ====
section
/-! DEFINITION. The integer register, address, immediate and division instructions (R97 to R106). -/

namespace Sys2Proof.Machine

open Sys2Proof

/-! Operations on n-bit patterns (R99). -/

/-- The width n of a type. -/
def IntTy.width : IntTy → Nat
  | .s8 | .n8 => 8
  | .s16 | .n16 => 16
  | .s32 | .n32 => 32
  | .s64 | .n64 => 64

/-- The result extended from n bits as the type says. -/
def IntTy.fit (t : IntTy) (x : Nat) : Word :=
  if t.isSigned then sext (IntTy.width t) x else zext (IntTy.width t) x

def opAdd (n a b : Nat) : Nat := (a + b) % 2 ^ n
def opSub (n a b : Nat) : Nat := (a + 2 ^ n - b) % 2 ^ n
def opMul (n a b : Nat) : Nat := a * b % 2 ^ n
def opMulh (n a b : Nat) : Nat := ((signedOf n a * signedOf n b / 2 ^ n) % 2 ^ n).toNat
def opMulhn (n a b : Nat) : Nat := a * b / 2 ^ n
def opAnd (_ a b : Nat) : Nat := a &&& b
def opOr (_ a b : Nat) : Nat := a ||| b
def opXor (_ a b : Nat) : Nat := a ^^^ b
def opShl (n a b : Nat) : Nat := a * 2 ^ (b % n) % 2 ^ n
def opShr (n a b : Nat) : Nat := a / 2 ^ (b % n)
def opSha (n a b : Nat) : Nat := ((signedOf n a / 2 ^ (b % n)) % 2 ^ n).toNat
def opRol (n a b : Nat) : Nat := (a * 2 ^ (b % n) + a / 2 ^ (n - b % n)) % 2 ^ n
def opMin (n a b : Nat) : Nat := if signedOf n a ≤ signedOf n b then a else b
def opMax (n a b : Nat) : Nat := if signedOf n b ≤ signedOf n a then a else b
def opMinn (_ a b : Nat) : Nat := if a ≤ b then a else b
def opMaxn (_ a b : Nat) : Nat := if b ≤ a then a else b
def opSlt (n a b : Nat) : Nat := if signedOf n a < signedOf n b then 1 else 0
def opSltn (_ a b : Nat) : Nat := if a < b then 1 else 0

/-- Leading zero bits of an n-bit pattern: n where it is 0. -/
def opClz (n a : Nat) : Nat := n - bitSize a

/-- Trailing zero bits of an n-bit pattern: n where it is 0. -/
def opCtz : Nat → Nat → Nat
  | 0, _ => 0
  | n + 1, a => if a % 2 = 1 then 0 else 1 + opCtz n (a / 2)

/-- One bits of an n-bit pattern. -/
def opPopc : Nat → Nat → Nat
  | 0, _ => 0
  | n + 1, a => a % 2 + opPopc n (a / 2)

/-- The value a two-source operation delivers (R99). -/
def intBinary (t : IntTy) (op : Nat → Nat → Nat → Nat) (a b : Word) : Word :=
  let n := IntTy.width t
  IntTy.fit t (op n (a.toNat % 2 ^ n) (b.toNat % 2 ^ n))

/-- The value a one-source operation delivers (R99). -/
def intUnary (t : IntTy) (op : Nat → Nat → Nat) (a : Word) : Word :=
  let n := IntTy.width t
  IntTy.fit t (op n (a.toNat % 2 ^ n))

/-- A register operation of two sources. -/
def issueInt (s : State) (d : DReg) (a b : SReg) (p : Level) (f : Word → Word → Word) : Next :=
  issueMap s (footS (rS a.val ++ rS b.val) d p) fun c => c.deliver d p (f (c.s a.val) (c.s b.val))

/-- A register operation of one source. -/
def issueInt1 (s : State) (d : DReg) (a : SReg) (p : Level) (f : Word → Word) : Next :=
  issueMap s (footS (rS a.val) d p) fun c => c.deliver d p (f (c.s a.val))

/-- R99, ADD. -/
def execAdd (d : DReg) (a b : SReg) (t : IntTy) (p : Level) (s : State) : Next :=
  issueInt s d a b p (intBinary t opAdd)

/-- R99, SUB. -/
def execSub (d : DReg) (a b : SReg) (t : IntTy) (p : Level) (s : State) : Next :=
  issueInt s d a b p (intBinary t opSub)

/-- R99, MUL. -/
def execMul (d : DReg) (a b : SReg) (t : IntTy) (p : Level) (s : State) : Next :=
  issueInt s d a b p (intBinary t opMul)

/-- R99, MULH. -/
def execMulh (d : DReg) (a b : SReg) (t : IntTy) (p : Level) (s : State) : Next :=
  issueInt s d a b p (intBinary t opMulh)

/-- R99, MULHN. -/
def execMulhn (d : DReg) (a b : SReg) (t : IntTy) (p : Level) (s : State) : Next :=
  issueInt s d a b p (intBinary t opMulhn)

/-- R99, AND. -/
def execAnd (d : DReg) (a b : SReg) (t : IntTy) (p : Level) (s : State) : Next :=
  issueInt s d a b p (intBinary t opAnd)

/-- R99, OR. -/
def execOr (d : DReg) (a b : SReg) (t : IntTy) (p : Level) (s : State) : Next :=
  issueInt s d a b p (intBinary t opOr)

/-- R99, XOR. -/
def execXor (d : DReg) (a b : SReg) (t : IntTy) (p : Level) (s : State) : Next :=
  issueInt s d a b p (intBinary t opXor)

/-- R99, SHL. -/
def execShl (d : DReg) (a b : SReg) (t : IntTy) (p : Level) (s : State) : Next :=
  issueInt s d a b p (intBinary t opShl)

/-- R99, SHR. -/
def execShr (d : DReg) (a b : SReg) (t : IntTy) (p : Level) (s : State) : Next :=
  issueInt s d a b p (intBinary t opShr)

/-- R99, SHA. -/
def execSha (d : DReg) (a b : SReg) (t : IntTy) (p : Level) (s : State) : Next :=
  issueInt s d a b p (intBinary t opSha)

/-- R99, ROL. -/
def execRol (d : DReg) (a b : SReg) (t : IntTy) (p : Level) (s : State) : Next :=
  issueInt s d a b p (intBinary t opRol)

/-- R99, MIN. -/
def execMin (d : DReg) (a b : SReg) (t : IntTy) (p : Level) (s : State) : Next :=
  issueInt s d a b p (intBinary t opMin)

/-- R99, MAX. -/
def execMax (d : DReg) (a b : SReg) (t : IntTy) (p : Level) (s : State) : Next :=
  issueInt s d a b p (intBinary t opMax)

/-- R99, MINN. -/
def execMinn (d : DReg) (a b : SReg) (t : IntTy) (p : Level) (s : State) : Next :=
  issueInt s d a b p (intBinary t opMinn)

/-- R99, MAXN. -/
def execMaxn (d : DReg) (a b : SReg) (t : IntTy) (p : Level) (s : State) : Next :=
  issueInt s d a b p (intBinary t opMaxn)

/-- R99, SLT. -/
def execSlt (d : DReg) (a b : SReg) (t : IntTy) (p : Level) (s : State) : Next :=
  issueInt s d a b p (intBinary t opSlt)

/-- R99, SLTN. -/
def execSltn (d : DReg) (a b : SReg) (t : IntTy) (p : Level) (s : State) : Next :=
  issueInt s d a b p (intBinary t opSltn)

/-- R99, CLZ. -/
def execClz (d : DReg) (a : SReg) (t : IntTy) (p : Level) (s : State) : Next :=
  issueInt1 s d a p (intUnary t opClz)

/-- R99, CTZ. -/
def execCtz (d : DReg) (a : SReg) (t : IntTy) (p : Level) (s : State) : Next :=
  issueInt1 s d a p (intUnary t opCtz)

/-- R99, POPC. -/
def execPopc (d : DReg) (a : SReg) (t : IntTy) (p : Level) (s : State) : Next :=
  issueInt1 s d a p (intUnary t opPopc)

/-- R100: RD is a source, read before it is written. -/
def execSel (d : DReg) (a b : SReg) (p : Level) (s : State) : Next :=
  issueMap s (footS (rS a.val ++ rS b.val ++ rS d.val) d p) fun c =>
    c.deliver d p (if c.s d.val ≠ 0 then c.s a.val else c.s b.val)

/-- The signed 11-bit immediate (R104). -/
def imm11 (i : BitVec 11) : Word := i.signExtend 64

/-- R104. -/
def execAddi (d : DReg) (a : SReg) (i : BitVec 11) (p : Level) (s : State) : Next :=
  issueInt1 s d a p fun x => x + imm11 i

/-- R104. -/
def execAndi (d : DReg) (a : SReg) (i : BitVec 11) (p : Level) (s : State) : Next :=
  issueInt1 s d a p fun x => x &&& imm11 i

/-- R104. -/
def execOri (d : DReg) (a : SReg) (i : BitVec 11) (p : Level) (s : State) : Next :=
  issueInt1 s d a p fun x => x ||| imm11 i

/-- R104. -/
def execXori (d : DReg) (a : SReg) (i : BitVec 11) (p : Level) (s : State) : Next :=
  issueInt1 s d a p fun x => x ^^^ imm11 i

/-- R105. -/
def execLi (d : DReg) (i : BitVec 17) (p : Level) (s : State) : Next :=
  issueMap s (footS [] d p) fun c => c.deliver d p (i.signExtend 64)

/-- R105: RD is a source, read first. -/
def execLih (d : DReg) (i : BitVec 17) (p : Level) (s : State) : Next :=
  issueMap s (footS (rS d.val) d p) fun c => c.deliver d p (c.s d.val * 131072 + i.setWidth 64)

/-- R102. -/
def execLea (d : DReg) (a b : SReg) (p : Level) (s : State) : Next :=
  issueInt s d a b p fun x y => x + y

/-- R102. -/
def execLeaX2 (d : DReg) (a b : SReg) (p : Level) (s : State) : Next :=
  issueInt s d a b p fun x y => x + y * 2

/-- R102. -/
def execLeaX4 (d : DReg) (a b : SReg) (p : Level) (s : State) : Next :=
  issueInt s d a b p fun x y => x + y * 4

/-- R102. -/
def execLeaX8 (d : DReg) (a b : SReg) (p : Level) (s : State) : Next :=
  issueInt s d a b p fun x y => x + y * 8

/-- R103. -/
def execChk (a b : SReg) (s : State) : Next :=
  issueReg s (foot (rS a.val ++ rS b.val) []) fun _ c =>
    if (c.s b.val).toNat ≤ (c.s a.val).toNat then .error ⟨.chkBounds, c.s a.val, 0⟩ else .ok (c, none)

/-! Division (R106). -/

/-- Quotient and remainder of two n-bit patterns, read as signed or natural. -/
def divide (n : Nat) (sgn : Bool) (a b : Nat) : Int × Int :=
  let x : Int := if sgn then signedOf n a else a
  let y : Int := if sgn then signedOf n b else b
  if y = 0 then (2 ^ n - 1, x)
  else if sgn ∧ x = -(2 ^ (n - 1) : Int) ∧ y = -1 then (x, 0)
  else (Int.tdiv x y, x - Int.tdiv x y * y)

/-- The value a division delivers. -/
def divResult (n : Nat) (sgn rem : Bool) (a b : Word) : Word :=
  let r := divide n sgn (a.toNat % 2 ^ n) (b.toNat % 2 ^ n)
  let x := intPat n (if rem then r.2 else r.1)
  if sgn then sext n x else zext n x

/-- A division issues. -/
def issueDiv (s : State) (d : DReg) (a b : SReg) (h : La) (n : Nat) (sgn rem : Bool) : Next :=
  issueLong s (footL (rS a.val ++ rS b.val) (rS d.val)) h false fun c =>
    (c, [.s d (divResult n sgn rem (c.s a.val) (c.s b.val))], 0)

/-- R106. -/
def execDiv (d : DReg) (a b : SReg) (h : La) (s : State) : Next := issueDiv s d a b h 64 true false

/-- R106. -/
def execDivn (d : DReg) (a b : SReg) (h : La) (s : State) : Next := issueDiv s d a b h 64 false false

/-- R106. -/
def execRem (d : DReg) (a b : SReg) (h : La) (s : State) : Next := issueDiv s d a b h 64 true true

/-- R106. -/
def execRemn (d : DReg) (a b : SReg) (h : La) (s : State) : Next := issueDiv s d a b h 64 false true

/-- R106. -/
def execDivS32 (d : DReg) (a b : SReg) (h : La) (s : State) : Next := issueDiv s d a b h 32 true false

/-- R106. -/
def execDivnN32 (d : DReg) (a b : SReg) (h : La) (s : State) : Next := issueDiv s d a b h 32 false false

/-- R106. -/
def execRemS32 (d : DReg) (a b : SReg) (h : La) (s : State) : Next := issueDiv s d a b h 32 true true

/-- R106. -/
def execRemnN32 (d : DReg) (a b : SReg) (h : La) (s : State) : Next := issueDiv s d a b h 32 false true

end Sys2Proof.Machine
end

