-- ==== Sys2Proof/Machine/Branch.lean ====
section
/-! DEFINITION. Branches, jumps and hardware loops (R107 to R117). -/

namespace Sys2Proof.Machine

open Sys2Proof

/-- Checks of a transfer target (R111): the window, and for a register target the alignment. -/
def checkTarget (t : Word) (reg : Bool) : Except Trap Unit :=
  if tagOf t.toNat ≠ 8 then .error ⟨.addrWindow, t, 0⟩
  else if reg ∧ t.toNat % 4 ≠ 0 then .error ⟨.align, t, 0⟩
  else .ok ()

/-- A taken transfer to a checked target. leave: a branch, J, JR or RET, which gives up the loops it leaves (R117); a call does not. -/
def takeTo (c : Ctx) (pc t : Word) (reg leave : Bool) : Except Trap (Ctx × Option Word) :=
  match checkTarget t reg with
  | .error e => .error e
  | .ok _ => .ok (if leave then c.leaveLoops pc t else c, some t)

/-- R117: OPC 0x20 to 0x26 at the end address of an active pair. The check stands before every other one of the entry, the count of a loop of R115 among them (DEDUCED, log 47). -/
def atLoopEnd (i : Instr) (b : Bank) : Option Trap := if b.ctx.atEnd b.curPc then some (illegalAt i 6) else none

/-- Issue of an instruction with OPC 0x20 to 0x26. -/
def issueEnd (s : State) (i : Instr) (f : Foot) (g : Word → Ctx → Except Trap (Ctx × Option Word)) : Next :=
  issue s f fun s k b =>
    let bk := s.bank k b
    match atLoopEnd i bk with
    | some t => .trap t
    | none =>
      match g bk.curPc bk.ctx with
      | .error t => .trap t
      | .ok (c, goto) => .done (s.setBank k b { bk with ctx := c }) goto none

/-- A conditional branch of two registers (R107). -/
def issueBranch (s : State) (a b : SReg) (o : BitVec 13) (taken : Word → Word → Bool) : Next :=
  issueReg s (footT (rS a.val ++ rS b.val) []) fun pc c =>
    if taken (c.s a.val) (c.s b.val) then takeTo c pc (pc + 4 * o.signExtend 64) false true else .ok (c, none)

/-- R107. -/
def execBeq (a b : SReg) (o : BitVec 13) (s : State) : Next := issueBranch s a b o fun x y => x == y
/-- R107. -/
def execBne (a b : SReg) (o : BitVec 13) (s : State) : Next := issueBranch s a b o fun x y => x != y
/-- R107. -/
def execBlt (a b : SReg) (o : BitVec 13) (s : State) : Next := issueBranch s a b o fun x y => decide (x.toInt < y.toInt)
/-- R107. -/
def execBge (a b : SReg) (o : BitVec 13) (s : State) : Next := issueBranch s a b o fun x y => decide (y.toInt ≤ x.toInt)
/-- R107. -/
def execBltn (a b : SReg) (o : BitVec 13) (s : State) : Next := issueBranch s a b o fun x y => decide (x.toNat < y.toNat)
/-- R107. -/
def execBgen (a b : SReg) (o : BitVec 13) (s : State) : Next := issueBranch s a b o fun x y => decide (y.toNat ≤ x.toNat)

/-- A branch on one register (R108). -/
def issueBz (s : State) (a : SReg) (o : BitVec 19) (taken : Word → Bool) : Next :=
  issueReg s (footT (rS a.val) []) fun pc c =>
    if taken (c.s a.val) then takeTo c pc (pc + 4 * o.signExtend 64) false true else .ok (c, none)

/-- R108. -/
def execBz (a : SReg) (o : BitVec 19) (s : State) : Next := issueBz s a o fun x => x == 0
/-- R108. -/
def execBnz (a : SReg) (o : BitVec 19) (s : State) : Next := issueBz s a o fun x => x != 0

/-- R109. -/
def execJ (o : BitVec 25) (s : State) : Next :=
  issueEnd s (.j o) (footT [] []) fun pc c => takeTo c pc (pc + 4 * o.signExtend 64) false true

/-- R109: w31 holds the return address. -/
def execCall (o : BitVec 25) (s : State) : Next :=
  issueEnd s (.call o) (footT [] (rS 31)) fun pc c => takeTo (c.setS 31 (pc + 4)) pc (pc + 4 * o.signExtend 64) false false

/-- R110. -/
def execJr (a : SReg) (s : State) : Next :=
  issueEnd s (.jr a) (footT (rS a.val) []) fun pc c => takeTo c pc (c.s a.val) true true

/-- R110: JR of w31. -/
def execRet (s : State) : Next :=
  issueEnd s .ret (footT (rS 31) []) fun pc c => takeTo c pc (c.s 31) true true

/-- R110: the target is read before w31 is written. -/
def execCallr (a : SReg) (s : State) : Next :=
  issueEnd s (.callr a) (footT (rS a.val) (rS 31)) fun pc c => takeTo (c.setS 31 (pc + 4)) pc (c.s a.val) true false

/-! Hardware loops. -/

/-- A loop pair as LOOP or LOOPI sets it (R112 to R114). -/
def LoopPair.make (kind : Bool) (base : Word) (len cnt : Nat) (step : BitVec 16) (idx : Nat) : LoopPair :=
  ⟨BitVec.ofNat 64 (idx * 2 ^ 59) ||| (base &&& 0x01FFFFFFFFFFFFFC) ||| (if kind then 3 else 1),
   BitVec.ofNat 64 (step.toNat * 2 ^ 48 + len * 2 ^ 32 + cnt)⟩

/-- The start of a loop of c iterations (R113 to R115): none, and the body is passed over; or a pair is taken. -/
def startLoop (i : Instr) (c : Ctx) (pc : Word) (count len : Nat) (mk : LoopPair) : Except Trap (Ctx × Option Word) :=
  if 2 ^ 32 - 1 < count then
    .error ⟨.loopRange, BitVec.ofNat 64 count, BitVec.ofNat 8 (count / 2 ^ 64 % 2)⟩
  else if count = 0 then .ok (c, some (pc + 4 * BitVec.ofNat 64 (len + 1)))
  else
    let p0 := c.pair 0
    let p1 := c.pair 1
    if p0.act ∧ p1.act then .error (illegalAt i 6)
    else if p0.act ∧ !(p0.contains (pc + 4) && p0.contains (pc + 4 * BitVec.ofNat 64 len)) then .error (illegalAt i 6)
    else if p0.act then .ok ({ c with loops := #v[p0, mk] }, none)
    else .ok ({ c with loops := #v[mk, p1] }, none)

/-- R113. -/
def execLoop (a : SReg) (n : BitVec 12) (s : State) : Next :=
  issueEnd s (.loop a n) (foot (rS a.val) []) fun pc c =>
    let cnt := (c.s a.val).toNat
    startLoop (.loop a n) c pc cnt n.toNat (LoopPair.make false (pc + 4) n.toNat cnt 0 0)

/-- The exact iteration count of LOOPI (R114). -/
def loopCount (i bd st : Int) : Nat :=
  if 0 < st then (-((i - bd) / st)).toNat else (-((bd - i) / (-st))).toNat

/-- R114. -/
def execLoopi (a : WReg) (b c : SReg) (n : BitVec 7) (s : State) : Next :=
  issueEnd s (.loopi a b c n) (foot (rS a.val ++ rS b.val ++ rS c.val) []) fun pc x =>
    let st := (x.s c.val).setWidth 16
    if st = 0 then .error ⟨.loopStep, 0, 0⟩
    else
      let cnt := loopCount (x.s a.val).toInt (x.s b.val).toInt st.toInt
      startLoop (.loopi a b c n) x pc cnt n.toNat (LoopPair.make true (pc + 4) n.toNat cnt st a.val)

/-- One pair at its end (R116): the index stepped, the count taken down modulo 2^32; looping back, or done with. -/
def Ctx.endPair (c : Ctx) (n : Nat) : Ctx × Option Word :=
  let p := c.pair n
  let c1 := if p.isIndexed then c.setS p.idx (c.s p.idx + p.stepBy) else c
  let cnt := (p.count + (2 ^ 32 - 1)) % 2 ^ 32
  let p1 : LoopPair := ⟨p.w0, setBits p.w1 0 32 cnt⟩
  if cnt ≠ 0 then ({ c1 with loops := c1.loops.setIfInBounds n p1 }, some p.first)
  else ({ c1 with loops := c1.loops.setIfInBounds n p1.off }, none)

/-- End processing at end address e (R116): the inner pair, then the outer. -/
def Ctx.loopEnd (c : Ctx) (e : Word) : Ctx × Word :=
  let hit (c : Ctx) (n : Nat) : Bool := (c.pair n).act && (c.pair n).last == e
  let r1 := if hit c 1 then c.endPair 1 else (c, none)
  match r1.2 with
  | some t => (r1.1, t)
  | none =>
    let r0 := if hit r1.1 0 then r1.1.endPair 0 else (r1.1, none)
    match r0.2 with
    | some t => (r0.1, t)
    | none => (r0.1, e + 4)

/-- The end processing that is due may take place (R92, R116): every earlier long-latency instruction is fault-safe, and none is pending with the index register as its destination. -/
def Bank.mayEnd (b : Bank) : Bool :=
  b.st == .bound && b.endDue && b.trapped.isEmpty && b.store.isNone && !b.prk && !(b.wait.elim false WaitKind.blocks) &&
    (b.pend.all fun p => p.safe &&
      (List.range 2).all fun n =>
        let q := b.ctx.pair n
        !(q.act && q.isIndexed && q.last == b.pc - 4 && p.dests.contains (.s q.idx)))

/-- R116: the loop end that is due in a bank. It belongs to the instruction that completed, so a stop does not hold it (R321). -/
def execLoopEnd (k : CoreKey) (b : Fin 2) (s : State) : Next :=
  let bk := s.bank k b
  if bk.mayEnd && (s.core k).ab == b then
    let r := bk.ctx.loopEnd (bk.pc - 4)
    .next ((s.setBank k b { bk with ctx := r.1, pc := r.2, endDue := false }).skidPc k b)
  else .next s

end Sys2Proof.Machine
end

