-- ==== Sys2Proof/Machine/LoadStore.lean ====
section
/-! DEFINITION. Loads, stores, vector accesses, atomics and fences (R166 to R175), the write-back of long-latency instructions (R207) and the acceptance of stores (R164). -/

namespace Sys2Proof.Machine

open Sys2Proof

/-! Scalar loads and stores. -/

/-- The pointer of a load (R166). -/
def ldPointer (c : Ctx) (b : WReg) (o : BitVec 7) (n : Nat) : Word := c.s b.val + o.signExtend 64 * BitVec.ofNat 64 n

/-- A scalar load of n bytes. -/
def issueLoad (s : State) (d : DReg) (b : WReg) (o : BitVec 7) (h : La) (n : Nat) (signed : Bool) : Next :=
  let f := footL (rS b.val) (rS d.val)
  issue s f fun s k q => loadAct s k q f h (ldPointer (s.bank k q).ctx b o n) n d signed

/-- R166. -/
def execLdS8 (d : DReg) (b : WReg) (o : BitVec 7) (h : La) (s : State) : Next := issueLoad s d b o h 1 true

/-- R166. -/
def execLdN8 (d : DReg) (b : WReg) (o : BitVec 7) (h : La) (s : State) : Next := issueLoad s d b o h 1 false

/-- R166. -/
def execLdS16 (d : DReg) (b : WReg) (o : BitVec 7) (h : La) (s : State) : Next := issueLoad s d b o h 2 true

/-- R166. -/
def execLdN16 (d : DReg) (b : WReg) (o : BitVec 7) (h : La) (s : State) : Next := issueLoad s d b o h 2 false

/-- R166. -/
def execLdS32 (d : DReg) (b : WReg) (o : BitVec 7) (h : La) (s : State) : Next := issueLoad s d b o h 4 true

/-- R166. -/
def execLdN32 (d : DReg) (b : WReg) (o : BitVec 7) (h : La) (s : State) : Next := issueLoad s d b o h 4 false

/-- R166. -/
def execLdD (d : DReg) (b : WReg) (o : BitVec 7) (h : La) (s : State) : Next := issueLoad s d b o h 8 false

/-- The pointer of a store (R167). -/
def stPointer (c : Ctx) (b : WReg) (o : BitVec 12) (n : Nat) : Word := c.s b.val + o.signExtend 64 * BitVec.ofNat 64 n

/-- A scalar store of n bytes (R167). -/
def issueStore (s : State) (r : SReg) (b : WReg) (o : BitVec 12) (n : Nat) : Next :=
  issue s (foot (rS r.val ++ rS b.val) []) fun s k q =>
    let c := (s.bank k q).ctx
    storeAct s k q [(stPointer c b o n, leBytes n (c.s r.val).toNat)]

/-- R167. -/
def execStB (r : SReg) (b : WReg) (o : BitVec 12) (s : State) : Next := issueStore s r b o 1

/-- R167. -/
def execStH (r : SReg) (b : WReg) (o : BitVec 12) (s : State) : Next := issueStore s r b o 2

/-- R167. -/
def execStW (r : SReg) (b : WReg) (o : BitVec 12) (s : State) : Next := issueStore s r b o 4

/-- R167. -/
def execStD (r : SReg) (b : WReg) (o : BitVec 12) (s : State) : Next := issueStore s r b o 8

/-! Vector loads and stores (R168, R169). -/

def ewBytes : EWid → Nat
  | .n8 => 1
  | .n16 => 2
  | .n32 => 4
  | .n64 => 8

/-- The lanes that a mask makes active, in ascending order. -/
def activeLanes (m : BitVec 16) : List Nat := (List.range 16).filter fun i => m.getLsbD i

/-- Address of lane i of VLD and VST. -/
def vAddr (c : Ctx) (b : WReg) (x : BitVec 6) (eb i : Nat) : Word :=
  c.s b.val + x.signExtend 64 * BitVec.ofNat 64 (16 * eb) + BitVec.ofNat 64 (i * eb)

/-- Address of lane i of VLDS: the stride is a scalar register. -/
def vAddrS (c : Ctx) (b : WReg) (x : SReg) (i : Nat) : Word := c.s b.val + BitVec.ofNat 64 i * c.s x.val

/-- Address of lane i of VLDX and VSTX: the index is a lane of a vector. -/
def vAddrX (c : Ctx) (b : WReg) (x : VSrc) (eb i : Nat) : Word :=
  c.s b.val + vget (c.vec x.val) 0 i * BitVec.ofNat 64 eb

/-- The issue checks of every active lane (R165): the places, or the stop of the lowest lane that fails. -/
def laneChecks (s : State) (v : View) (eb : Nat) : List (Nat × Word) → Except (Stop × Word) (List (Nat × Word × Place))
  | [] => .ok []
  | (i, p) :: l =>
    match s.issueChecks v p.toNat eb eb with
    | .error st => .error (st, p)
    | .ok pl => match laneChecks s v eb l with
      | .error e => .error e
      | .ok ls => .ok ((i, p, pl) :: ls)

/-- The checks away from the core of the lanes in this package, in ascending lane: the lowest failure, or the bytes' locations. -/
def laneTargets (s : State) (v : View) (eb : Nat) (a : Acc) :
    List (Nat × Word × Place) → Except (Nat × Word × Stop) (List (Nat × Word × Place × List (Nat × Nat)))
  | [] => .ok []
  | (i, p, pl) :: l =>
    match s.targetChecks v pl eb a with
    | .error st => .error (i, p, st)
    | .ok ps => match laneTargets s v eb a l with
      | .error e => .error e
      | .ok ls => .ok ((i, p, pl, ps) :: ls)

def Place.isFar : Place → Bool
  | .far _ _ => true
  | _ => false

/-- The lanes read, in ascending order: the lanes' values over what was there, the hits of watchpoints. -/
def readLanes (s : State) (v : View) (eb : Nat) (old : Lanes) :
    List (Nat × Word × Place × List (Nat × Nat)) → Lanes × State × Option Trap
  | [] => (old, s, none)
  | (i, p, pl, ps) :: l =>
    let r := s.served v p.toNat pl eb .read
    let y := old.setIfInBounds i (zext (8 * eb) (leNat (s.load ps)))
    let t := readLanes r.1 v eb y l
    (t.1, t.2.1, match r.2 with | some x => some x | none => t.2.2)

/-- A vector load whose active lanes have these addresses (R169). -/
def vectorLoad (s : State) (k : CoreKey) (b : Fin 2) (f : Foot) (h : La) (d : VReg) (eb : Nat)
    (lanes : List (Nat × Word)) : Act :=
  let v := s.view k b
  match laneChecks s v eb lanes with
  | .error (st, p) => st.act p
  | .ok ls =>
    let old := (s.bank k b).ctx.vec d.val
    let land := ls.flatMap fun l => landingFor k l.2.2 eb
    let q := { (s.bank k b).pendingOf f h with safe := false, spans := ls.map fun (l : Nat × Word × Place) => (l.2.1.toNat, eb), land := land }
    if ls.any fun l => s.farBusy k (s.bank k b) l.2.2 eb then .wait
    else
      -- the lanes below the lowest that fails, the trap, and what the lanes of this package make
      let made : Option (List (Nat × Word × Place) × Option Nat × Option Trap × Lanes × List Crossing × State) :=
        match laneTargets s v eb .read ls with
        | .error (_, _, .wait) => none
        | .error (i, p, .trap c x) =>
          some (ls.filter fun l => decide (l.1 < i), some i, some ⟨c, p, BitVec.ofNat 8 x⟩, old, [], s)
        | .ok ts =>
          let r := readLanes s v eb old (ts.filter fun l => !l.2.2.1.isFar)
          some (ls, none, r.2.2, r.1, ts.flatMap fun l => s.crossings (dieOf k) l.2.2.2 l.2.1 0 eb, r.2.1)
      match made with
      | none => .wait
      | some (asked, fail, late, y, links, s1) =>
        let far := asked.filter fun l => l.2.2.isFar
        let away := far.flatMap fun l => s.farLinks k l.2.1 0 eb
        if s.landFull (land ++ (links ++ away).map Crossing.landing) then .wait
        else match s1.farSends k (s.groupId v.spid) (far.map fun l => (l.2.2, .load eb, [])) with
        | .error _ => .wait
        | .ok (ids, s2) =>
          let bk := s2.bank k b
          let p := if far.isEmpty then { q with writes := if fail.isSome then [] else [.v d y], late := late, links := links }
            else { q with far := some (.vector d eb (far.map fun l => (l.1, l.2.1)) y fail), late := late, pkts := ids,
                            links := links ++ away }
          .done (s2.setBank k b (bk.push p)) none none

/-- R169. -/
def execVld (d : VReg) (e : EWid) (b : WReg) (x : BitVec 6) (m : MReg) (h : La) (s : State) : Next :=
  let f := footL (rS b.val ++ rM m.val) (rV d.val)
  issue s f fun s k q =>
    let c := (s.bank k q).ctx
    vectorLoad s k q f h d (ewBytes e) ((activeLanes (c.mask m.val)).map fun i => (i, vAddr c b x (ewBytes e) i))

/-- R169. -/
def execVlds (d : VReg) (e : EWid) (b : WReg) (x : SReg) (m : MReg) (h : La) (s : State) : Next :=
  let f := footL (rS b.val ++ rS x.val ++ rM m.val) (rV d.val)
  issue s f fun s k q =>
    let c := (s.bank k q).ctx
    vectorLoad s k q f h d (ewBytes e) ((activeLanes (c.mask m.val)).map fun i => (i, vAddrS c b x i))

/-- R169. -/
def execVldx (d : VReg) (e : EWid) (b : WReg) (x : VSrc) (m : MReg) (h : La) (s : State) : Next :=
  let f := footL (rS b.val ++ rV x.val ++ rM m.val) (rV d.val)
  issue s f fun s k q =>
    let c := (s.bank k q).ctx
    vectorLoad s k q f h d (ewBytes e) ((activeLanes (c.mask m.val)).map fun i => (i, vAddrX c b x (ewBytes e) i))

/-- The bytes a lane of a vector store stores. -/
def laneBytes (c : Ctx) (r : VSrc) (eb i : Nat) : List Byte := leBytes eb (vget (c.vec r.val) 0 i).toNat

/-- R169. -/
def execVst (r : VSrc) (e : EWid) (b : WReg) (x : BitVec 6) (m : MReg) (s : State) : Next :=
  issue s (foot (rV r.val ++ rS b.val ++ rM m.val) []) fun s k q =>
    let c := (s.bank k q).ctx
    storeAct s k q ((activeLanes (c.mask m.val)).map fun i => (vAddr c b x (ewBytes e) i, laneBytes c r (ewBytes e) i))

/-- R169: lanes are written in ascending order. -/
def execVstx (r : VSrc) (e : EWid) (b : WReg) (x : VSrc) (m : MReg) (s : State) : Next :=
  issue s (foot (rV r.val ++ rS b.val ++ rV x.val ++ rM m.val) []) fun s k q =>
    let c := (s.bank k q).ctx
    storeAct s k q ((activeLanes (c.mask m.val)).map fun i => (vAddrX c b x (ewBytes e) i, laneBytes c r (ewBytes e) i))

/-! Atomics (R170 to R173). -/

def atyBytes : ATy → Nat
  | .s64 => 8
  | .s32 => 4

/-- The new value of an integer atomic over n bits: old, the operand, the compare value of ACAS (R171). -/
def atomEval (op : AtomOp) (n old b cmp : Nat) : Nat :=
  match op with
  | .add => (old + b) % 2 ^ n
  | .min => if signedOf n old ≤ signedOf n b then old else b
  | .max => if signedOf n b ≤ signedOf n old then old else b
  | .xchg => b
  | .cas => if old = cmp then b else old

/-- One-sided operations of a strand that are not complete and whose target lies in the scope (R431). One whose target is this package is complete when it has issued. -/
def State.opsOut (s : State) (w : StrandId) (scope : Scope) : Bool :=
  match scope with
  | .dm => s.fab.ops.any fun o => o.ofStrand w && o.out
  | _ => false

/-- What a FENCE.r of a scope waits for (R175): earlier loads and atomics that may still be made anew, earlier one-sided operations. -/
def State.fenceWaits (s : State) (b : Bank) (scope : Scope) : Bool :=
  (b.pend.any fun p => !p.safe) || s.opsOut b.id.who scope

/-- What stands as a FENCE.r before an atomic or a signal of a scope waits so; scope .st imposes no order (R171). -/
def State.relWaits (s : State) (b : Bank) (scope : Scope) : Bool := scope != .st && s.fenceWaits b scope

/-- An atomic of n bytes at the pointer: with a scope other than .st it stands after a FENCE.r and before a FENCE.a of the scope (R171, R195); the flags and the value it leaves are given by f from the old value; op is what asks another package for it. fl: flags come back with the response (AFADD). -/
def atomicAct (s : State) (k : CoreKey) (b : Fin 2) (ft : Foot) (h : La) (p : Word) (n : Nat) (d : DReg)
    (scope : Scope) (fl : Bool) (op : PacketOp) (f : Nat → Nat × Flags) : Act :=
  if s.relWaits (s.bank k b) scope then .wait
  else
    let q := { (s.bank k b).pendingOf ft h with safe := false, setsFlags := fl, ptr := p, spans := [(p.toNat, n)] }
    match s.issueChecks (s.view k b) p.toNat n n with
    | .error st => st.act p
    | .ok pl =>
      let ls := landingFor k pl n
      if s.farBusy k (s.bank k b) pl n || s.landFull ls then .wait
      else match s.targetChecks (s.view k b) pl n .atomic with
      | .error .wait => .wait
      | .error (.trap c x) =>
        let bk := s.bank k b
        .done (s.setBank k b (bk.push { q with late := some ⟨c, p, BitVec.ofNat 8 x⟩, acq := scope != .st })) none none
      | .ok ps =>
        let links := if pl.isFar then s.farLinks k p n n else s.crossings (dieOf k) ps p n n
        if s.landFull (ls ++ links.map Crossing.landing) then .wait
        else if pl.isFar then match s.farSend k (s.groupId (s.bank k b).id.spid) pl op [] with
          | .error st => st.act p
          | .ok (i, s1) =>
            let bk := s1.bank k b
            .done (s1.setBank k b (bk.push { q with
              far := some (if fl then .fadd d n else .scalar d n true), acq := scope != .st, pkts := [i], land := ls,
              links := links })) none none
        else
          let old := leNat (s.load ps)
          let r := f old
          let t := s.served (s.view k b) p.toNat pl n .atomic
          let s1 := t.1.store ps (leBytes n r.1)
          let y := if fl then zext (8 * n) old else sext (8 * n) old
          let bk := s1.bank k b
          .done (s1.setBank k b (bk.push { q with
            writes := [.s d y], flags := r.2, late := t.2, acq := scope != .st && !links.isEmpty, land := ls, links := links })) none none

/-- An integer atomic issues. -/
def issueAtomic (s : State) (op : AtomOp) (d : DReg) (c : SReg) (b : WReg) (t : ATy) (sc : Scope) (h : La) : Next :=
  let f := footL (rS c.val ++ rS b.val ++ (if op = .cas then rS d.val else [])) (rS d.val)
  issue s f fun s k q =>
    let x := (s.bank k q).ctx
    let n := atyBytes t
    atomicAct s k q f h (x.s b.val) n d sc false (.atomic op (t == .s64) (x.s c.val) (x.s d.val)) fun old =>
      (atomEval op (8 * n) old ((x.s c.val).toNat % 2 ^ (8 * n)) ((x.s d.val).toNat % 2 ^ (8 * n)), 0)

/-- R171. -/
def execAadd (d : DReg) (c : SReg) (b : WReg) (t : ATy) (sc : Scope) (h : La) (s : State) : Next :=
  issueAtomic s .add d c b t sc h

/-- R171. -/
def execAmin (d : DReg) (c : SReg) (b : WReg) (t : ATy) (sc : Scope) (h : La) (s : State) : Next :=
  issueAtomic s .min d c b t sc h

/-- R171. -/
def execAmax (d : DReg) (c : SReg) (b : WReg) (t : ATy) (sc : Scope) (h : La) (s : State) : Next :=
  issueAtomic s .max d c b t sc h

/-- R171. -/
def execAxchg (d : DReg) (c : SReg) (b : WReg) (t : ATy) (sc : Scope) (h : La) (s : State) : Next :=
  issueAtomic s .xchg d c b t sc h

/-- R171. -/
def execAcas (d : DReg) (c : SReg) (b : WReg) (t : ATy) (sc : Scope) (h : La) (s : State) : Next :=
  issueAtomic s .cas d c b t sc h

def fty2Bytes : FTy2 → Nat
  | .f64 => 8
  | .f32 => 4

/-- In Slate mode (R397). -/
def slate22 (i : Instr) (b : Bank) (_ : CoreKey) : Option Trap := if b.id.slate then some (illegalAt i 22) else none

/-- R171; in Slate mode ILLEGAL (R399). -/
def execAfadd (d : DReg) (c : SReg) (b : WReg) (t : FTy2) (sc : Scope) (h : La) (s : State) : Next :=
  let f := footL (rS c.val ++ rS b.val) (rS d.val)
  issueWith s f (slate22 (.afadd d c b t sc h)) fun s k q =>
    let x := (s.bank k q).ctx
    let n := fty2Bytes t
    atomicAct s k q f h (x.s b.val) n d sc true (.fadd (t == .f64) (x.s c.val)) fun old =>
      fAdd t.fmt .rne old ((x.s c.val).toNat % 2 ^ (8 * n))

/-! FENCE (R175). -/

/-- R175. -/
def execFence (kd : FenceKind) (sc : Scope) (s : State) : Next :=
  issue s { foot [] [] with noLa := true } fun s k b =>
    let bk := s.bank k b
    let loads := bk.pend.any fun p => !p.safe
    let ops := s.opsOut bk.id.who sc
    let held : Bool := match kd with
      | .acq => loads
      | .rel => s.fenceWaits bk sc
      | .full => loads || ops
    if held then .wait else .done s none none

/-! Write-back. -/

/-- The results of an access to another package (R446): values, flags, or the lane and trap that end it. -/
def FarUse.settle (u : FarUse) (late : Option Trap) (p : Word) (r : FarReply) : List RegWrite × Flags × Option Trap :=
  match u, r with
  | .det _ _ _, _ | .join, _ => ([], 0, late)
  | .scalar d n sg, .values ws =>
    let x := (ws.headD 0).toNat
    ([.s d (if sg then sext (8 * n) x else zext (8 * n) x)], 0, late)
  | .fadd d n, .values ws => ([.s d (zext (8 * n) (ws.headD 0).toNat)], (ws.getD 1 0).setWidth 6, late)
  | .vector d n lanes old none, .values ws =>
    ([.v d ((lanes.zip ws).foldl (fun y e => y.setIfInBounds e.1.1 (zext (8 * n) e.2.toNat)) old)], 0, late)
  | .vector _ _ _ _ (some _), .values _ => ([], 0, late)
  | .vector _ _ lanes _ fail, .failed i c x =>
    let p := ((lanes.find? fun e => e.1 == i).map (·.2)).getD 0
    let t : Trap := ⟨causeOfCode c, p, BitVec.ofNat 8 x⟩
    match fail with
    | some j => ([], 0, if j < i then late else some t)
    | none => ([], 0, some t)
  | _, .failed _ c x => ([], 0, some ⟨causeOfCode c, p, BitVec.ofNat 8 x⟩)

def Ctx.writeReg (c : Ctx) : RegWrite → Ctx
  | .s d x => c.setS d.val x
  | .v d x => c.setV d.val x
  | .hz => c.setHz

/-- A late trap withdraws the instruction's results, but for a WATCH trap, which follows them (R28, R322). -/
def Bank.writeBack (b : Bank) (p : Pending) (ws : List RegWrite) (fl : Flags) (late : Option Trap) (rest : List Pending) :
    Bank :=
  let rec? := late.map fun t => TrapRec.mk p.seq p.pc t true (t.cause == .watch) p.replayed
  let made : Bool := match late with | some t => t.cause == .watch | none => true
  let c := if made then (ws.foldl Ctx.writeReg b.ctx).orFlags fl else b.ctx
  let b1 := { b with ctx := c, pend := rest, trapped := b.trapped ++ rec?.toList }
  match p.slot with
  | some x =>
    if made then
      { b1 with ctx := { c with binds := c.binds.set x.slot x.word }, plane := b1.plane.set x.slot x.img }
    else b1
  | none => b1

/-! Acceptance of stores. -/

/-- The lowest lane that fails away from the core, of those in this package and the one that a reply names (R165). -/
def State.acceptLanes (s : State) (v : View) (lanes : List (Word × List Byte)) (far : Option FarReply) :
    Except (Word × Stop) (List (Word × List Byte × Place × List (Nat × Nat))) :=
  let rec go : Nat → List (Word × List Byte) → Except (Word × Stop) (List (Word × List Byte × Place × List (Nat × Nat)))
    | _, [] => .ok []
    | i, (p, bs) :: l =>
      match s.place v.core p.toNat bs.length with
      | none => .error (p, .trap .addrWindow 0)
      | some pl =>
        let refused : Option Stop := match far with
          | some (.failed j c x) => if pl.isFar ∧ i = j then some (.trap (causeOfCode c) x) else none
          | _ => none
        match refused with
        | some st => .error (p, st)
        | none => match s.targetChecks v pl bs.length .write with
          | .error st => .error (p, st)
          | .ok ps => match go (i + 1) l with
            | .error e => .error e
            | .ok r => .ok ((p, bs, pl, ps) :: r)
  go 0 lanes

/-- The lanes of an accepted store made, in ascending order (R169). -/
def storeLanes (s : State) (v : View) : List (Word × List Byte × Place × List (Nat × Nat)) → State × Option Trap
  | [] => (s, none)
  | (p, bs, pl, ps) :: l =>
    let r := s.served v p.toNat pl bs.length .write
    let t := storeLanes (r.1.store ps bs) v l
    (t.1, match r.2 with | some x => some x | none => t.2)

/-- The trap record of a store at its acceptance. -/
def StoreHeld.trapRec (h : StoreHeld) (t : Trap) : TrapRec := ⟨h.seq, h.pc, t, false, t.cause == .watch, h.replayed⟩

end Sys2Proof.Machine
end

