-- ==== Sys2Proof/Machine/Vector.lean ====
section
/-! DEFINITION. Scalar floating point, conversions, vector operations and masks (R132 to R154, R47). -/

namespace Sys2Proof.Machine

open Sys2Proof

/-- Fit(x, t): a result of type t in a register (R133). -/
def fitTy (t : TyCode) (x : Nat) : Word := if t.signed then sext t.width x else zext t.width x

/-! Scalar floating point (R135 to R142). -/

/-- A scalar instruction that delivers a value and sets flags. -/
def issueFp (s : State) (ft : Foot) (d : DReg) (p : Level) (g : Ctx → Word × Flags) : Next :=
  issueMap s ft fun c =>
    let r := g c
    (c.deliver d p r.1).orFlags r.2

/-- The pattern of a format in the low bits of a register. -/
def low (f : Fmt) (x : Word) : Nat := x.toNat % 2 ^ f.width

/-- A two-operand root with rounding (R136). -/
def issueFp2 (s : State) (d : DReg) (a b : SReg) (f : FTy) (r : Rnd) (p : Level)
    (op : Fmt → Mode → Nat → Nat → Nat × Flags) : Next :=
  issueFp s (footS (rS a.val ++ rS b.val) d p) d p fun c =>
    let y := op f.fmt (c.mode r) (low f.fmt (c.s a.val)) (low f.fmt (c.s b.val))
    (zext f.fmt.width y.1, y.2)

/-- R136. -/
def execFadd (d : DReg) (a b : SReg) (f : FTy) (r : Rnd) (p : Level) (s : State) : Next := issueFp2 s d a b f r p fAdd
/-- R136. -/
def execFsub (d : DReg) (a b : SReg) (f : FTy) (r : Rnd) (p : Level) (s : State) : Next := issueFp2 s d a b f r p fSub
/-- R136. -/
def execFmul (d : DReg) (a b : SReg) (f : FTy) (r : Rnd) (p : Level) (s : State) : Next := issueFp2 s d a b f r p fMul

/-- FFMA and FFMS: RD is the third source (R136). -/
def issueFma (s : State) (d : DReg) (a b : SReg) (f : FTy) (r : Rnd) (p : Level) (neg : Bool) : Next :=
  issueFp s (footS (rS a.val ++ rS b.val ++ rS d.val) d p) d p fun c =>
    let y := fFma f.fmt (c.mode r) (low f.fmt (c.s a.val)) (low f.fmt (c.s b.val)) (low f.fmt (c.s d.val)) neg
    (zext f.fmt.width y.1, y.2)

/-- R136. -/
def execFfma (d : DReg) (a b : SReg) (f : FTy) (r : Rnd) (p : Level) (s : State) : Next := issueFma s d a b f r p false
/-- R136. -/
def execFfms (d : DReg) (a b : SReg) (f : FTy) (r : Rnd) (p : Level) (s : State) : Next := issueFma s d a b f r p true

/-- A two-operand root with no rounding. -/
def issueFpSel (s : State) (d : DReg) (a b : SReg) (f : FTy) (p : Level) (op : Fmt → Nat → Nat → Word × Flags) : Next :=
  issueFp s (footS (rS a.val ++ rS b.val) d p) d p fun c =>
    op f.fmt (low f.fmt (c.s a.val)) (low f.fmt (c.s b.val))

/-- R137. -/
def execFmin (d : DReg) (a b : SReg) (f : FTy) (p : Level) (s : State) : Next :=
  issueFpSel s d a b f p fun f x y => let r := fMinMax f false x y; (zext f.width r.1, r.2)
/-- R137. -/
def execFmax (d : DReg) (a b : SReg) (f : FTy) (p : Level) (s : State) : Next :=
  issueFpSel s d a b f p fun f x y => let r := fMinMax f true x y; (zext f.width r.1, r.2)

/-- A comparison delivers 1 or 0 (R138). -/
def cmpWord (c : Cond) (f : Fmt) (x y : Nat) : Word × Flags :=
  let r := fCmp f c x y
  (if r.1 then 1 else 0, r.2)

/-- R138. -/
def execFcmpEq (d : DReg) (a b : SReg) (f : FTy) (p : Level) (s : State) : Next := issueFpSel s d a b f p (cmpWord .eq)
/-- R138. -/
def execFcmpNe (d : DReg) (a b : SReg) (f : FTy) (p : Level) (s : State) : Next := issueFpSel s d a b f p (cmpWord .ne)
/-- R138. -/
def execFcmpLt (d : DReg) (a b : SReg) (f : FTy) (p : Level) (s : State) : Next := issueFpSel s d a b f p (cmpWord .lt)
/-- R138. -/
def execFcmpLe (d : DReg) (a b : SReg) (f : FTy) (p : Level) (s : State) : Next := issueFpSel s d a b f p (cmpWord .le)
/-- R138. -/
def execFcmpUn (d : DReg) (a b : SReg) (f : FTy) (p : Level) (s : State) : Next := issueFpSel s d a b f p (cmpWord .un)

/-- R139. -/
def execFclass (d : DReg) (a : SReg) (f : FTy) (p : Level) (s : State) : Next :=
  issueFp s (footS (rS a.val) d p) d p fun c => (BitVec.ofNat 64 (2 ^ fClassBit f.fmt (low f.fmt (c.s a.val))), 0)

/-- R140. -/
def execFsgnCp (d : DReg) (a b : SReg) (f : FTy) (p : Level) (s : State) : Next :=
  issueFpSel s d a b f p fun f x y => (zext f.width (fSign f .copy x y), 0)
/-- R140. -/
def execFsgnNg (d : DReg) (a b : SReg) (f : FTy) (p : Level) (s : State) : Next :=
  issueFpSel s d a b f p fun f x y => (zext f.width (fSign f .invert x y), 0)
/-- R140. -/
def execFsgnXr (d : DReg) (a b : SReg) (f : FTy) (p : Level) (s : State) : Next :=
  issueFpSel s d a b f p fun f x y => (zext f.width (fSign f .xor x y), 0)

/-- R141. -/
def execFdiv (d : DReg) (a b : SReg) (f : FTy2) (r : Rnd) (h : La) (s : State) : Next :=
  issueLong s (footL (rS a.val ++ rS b.val) (rS d.val)) h true fun c =>
    let y := fDiv f.fmt (c.mode r) (low f.fmt (c.s a.val)) (low f.fmt (c.s b.val))
    (c, [.s d (zext f.fmt.width y.1)], y.2)

/-- R141. -/
def execFsqrt (d : DReg) (a : SReg) (f : FTy) (r : Rnd) (h : La) (s : State) : Next :=
  issueLong s (footL (rS a.val) (rS d.val)) h true fun c =>
    let y := fSqrt f.fmt (c.mode r) (low f.fmt (c.s a.val))
    (c, [.s d (zext f.fmt.width y.1)], y.2)

/-- One conversion of a register or lane (R143). -/
def cvtWord (sf df : TyCode) (m : Mode) (x : Word) : Word × Flags :=
  let r := convert sf df m (x.toNat % 2 ^ sf.width)
  (fitTy df r.1, r.2)

/-- R143. -/
def execFcvt (d : DReg) (a : SReg) (sf df : TyCode) (r : Rnd) (s : State) : Next :=
  issueFp s (footS (rS a.val) d .both) d .both fun c => cvtWord sf df (c.mode r) (c.s a.val)

/-! Vector operations (R144 to R152). -/

/-- The lane width of a vector type. -/
def vtyWidth : VTy → Nat
  | .f64 | .s64 | .n64 => 64
  | .f32 | .s32 | .n32 => 32

def vtyFmt : VTy → Fmt
  | .f32 => fmtF32
  | _ => fmtF64

def vtySigned : VTy → Bool
  | .s64 | .s32 => true
  | _ => false

/-- Fit(x, VT) (R133). -/
def vfit (t : VTy) (x : Nat) : Word := if vtySigned t then sext (vtyWidth t) x else zext (vtyWidth t) x

/-- Lane by lane over the active lanes, the others kept; the flags of the active lanes (R134, R40). -/
def mapLanes (m : BitVec 16) (old : Lanes) (f : Nat → Word × Flags) : Lanes × Flags :=
  (Vector.ofFn fun i => if m.getLsbD i.val then (f i.val).1 else vget old 0 i.val,
   (List.range 16).foldl (fun a i => if m.getLsbD i then a ||| (f i).2 else a) 0)

/-- A vector instruction that delivers lanes and sets flags. -/
def issueVec (s : State) (ft : Foot) (d : VReg) (m : MReg) (p : Level) (f : Ctx → Nat → Word × Flags) : Next :=
  issueMap s ft fun c =>
    let r := mapLanes (c.mask m.val) (c.vec d.val) (f c)
    (c.deliverV d p r.1).orFlags r.2

/-- One lane of a two-source operation: floating point, or integer modulo 2^n (R145). -/
def laneOp (t : VTy) (m : Mode) (fop : Fmt → Mode → Nat → Nat → Nat × Flags) (iop : Nat → Nat → Nat → Nat) (a b : Word) :
    Word × Flags :=
  let n := vtyWidth t
  let x := a.toNat % 2 ^ n
  let y := b.toNat % 2 ^ n
  if t.isInt then (vfit t (iop n x y), 0)
  else
    let r := fop (vtyFmt t) m x y
    (zext n r.1, r.2)

/-- A lane-wise operation of two vectors. -/
def issueVec2 (s : State) (d : VReg) (a b : VSrc) (k : MReg) (p : Level) (f : Ctx → Word → Word → Word × Flags) : Next :=
  issueVec s (footVM (rV a.val ++ rV b.val) k.val d p) d k p fun c i =>
    f c (vget (c.vec a.val) 0 i) (vget (c.vec b.val) 0 i)

/-- R145. -/
def execVadd (d : VReg) (a b : VSrc) (k : MReg) (t : VTy) (r : Rnd) (p : Level) (s : State) : Next :=
  issueVec2 s d a b k p fun c => laneOp t (c.mode r) fAdd opAdd
/-- R145. -/
def execVsub (d : VReg) (a b : VSrc) (k : MReg) (t : VTy) (r : Rnd) (p : Level) (s : State) : Next :=
  issueVec2 s d a b k p fun c => laneOp t (c.mode r) fSub opSub
/-- R145. -/
def execVmul (d : VReg) (a b : VSrc) (k : MReg) (t : VTy) (r : Rnd) (p : Level) (s : State) : Next :=
  issueVec2 s d a b k p fun c => laneOp t (c.mode r) fMul opMul

/-- Minimum or maximum of a lane: R137, or the order of the integer type. -/
def laneMinMax (t : VTy) (wantMax : Bool) : Word → Word → Word × Flags :=
  laneOp t .rne (fun f _ x y => fMinMax f wantMax x y)
    (if vtySigned t then (if wantMax then opMax else opMin) else (if wantMax then opMaxn else opMinn))

/-- R145. -/
def execVmin (d : VReg) (a b : VSrc) (k : MReg) (t : VTy) (p : Level) (s : State) : Next :=
  issueVec2 s d a b k p fun _ => laneMinMax t false
/-- R145. -/
def execVmax (d : VReg) (a b : VSrc) (k : MReg) (t : VTy) (p : Level) (s : State) : Next :=
  issueVec2 s d a b k p fun _ => laneMinMax t true

/-- An integer operation of lanes (R145). -/
def laneInt (t : VTy) (iop : Nat → Nat → Nat → Nat) (a b : Word) : Word × Flags :=
  let n := vtyWidth t
  (vfit t (iop n (a.toNat % 2 ^ n) (b.toNat % 2 ^ n)), 0)

/-- R145. -/
def execVand (d : VReg) (a b : VSrc) (k : MReg) (t : VTy) (p : Level) (s : State) : Next :=
  issueVec2 s d a b k p fun _ => laneInt t opAnd
/-- R145. -/
def execVor (d : VReg) (a b : VSrc) (k : MReg) (t : VTy) (p : Level) (s : State) : Next :=
  issueVec2 s d a b k p fun _ => laneInt t opOr
/-- R145. -/
def execVxor (d : VReg) (a b : VSrc) (k : MReg) (t : VTy) (p : Level) (s : State) : Next :=
  issueVec2 s d a b k p fun _ => laneInt t opXor
/-- R145. -/
def execVshl (d : VReg) (a b : VSrc) (k : MReg) (t : VTy) (p : Level) (s : State) : Next :=
  issueVec2 s d a b k p fun _ => laneInt t opShl
/-- R145: arithmetic for the signed types. -/
def execVshr (d : VReg) (a b : VSrc) (k : MReg) (t : VTy) (p : Level) (s : State) : Next :=
  issueVec2 s d a b k p fun _ => laneInt t (if vtySigned t then opSha else opShr)

/-- The condition of a lane (R146): R138, or the integer order. -/
def laneCond (t : VTy) (q : Cond) (a b : Word) : Bool × Flags :=
  let n := vtyWidth t
  let x := a.toNat % 2 ^ n
  let y := b.toNat % 2 ^ n
  if t.isInt then
    let i : Int := if vtySigned t then signedOf n x else x
    let j : Int := if vtySigned t then signedOf n y else y
    (match q with
      | .eq => decide (i = j)
      | .ne => decide (i ≠ j)
      | .lt => decide (i < j)
      | .le => decide (i ≤ j)
      | .un => false, 0)
  else fCmp (vtyFmt t) q x y

/-- VCMP: all 16 bits of the destination mask are written (R146). -/
def issueVcmp (s : State) (d : MReg) (a b : VSrc) (k : MReg) (t : VTy) (q : Cond) : Next :=
  issueMap s (foot (rV a.val ++ rV b.val ++ rM k.val) (rM d.val)) fun c =>
    let m := c.mask k.val
    let f (i : Nat) := laneCond t q (vget (c.vec a.val) 0 i) (vget (c.vec b.val) 0 i)
    let x := (List.range 16).foldl (fun (r : Nat × Flags) i =>
      if m.getLsbD i then (if (f i).1 then r.1 + 2 ^ i else r.1, r.2 ||| (f i).2) else r) (0, 0)
    (c.setM d.val (BitVec.ofNat 16 x.1)).orFlags x.2

/-- R146. -/
def execVcmpEq (d : MReg) (a b : VSrc) (k : MReg) (t : VTy) (s : State) : Next := issueVcmp s d a b k t .eq
/-- R146. -/
def execVcmpNe (d : MReg) (a b : VSrc) (k : MReg) (t : VTy) (s : State) : Next := issueVcmp s d a b k t .ne
/-- R146. -/
def execVcmpLt (d : MReg) (a b : VSrc) (k : MReg) (t : VTy) (s : State) : Next := issueVcmp s d a b k t .lt
/-- R146. -/
def execVcmpLe (d : MReg) (a b : VSrc) (k : MReg) (t : VTy) (s : State) : Next := issueVcmp s d a b k t .le
/-- R146. -/
def execVcmpUn (d : MReg) (a b : VSrc) (k : MReg) (t : VTy) (s : State) : Next := issueVcmp s d a b k t .un

/-- R147: the mask chooses, for all 16 lanes. -/
def execVsel (d : VReg) (a b : VSrc) (k : MReg) (p : Level) (s : State) : Next :=
  issueMap s (footV (rV a.val ++ rV b.val ++ rM k.val) d p) fun c =>
    c.deliverV d p (Vector.ofFn fun i =>
      if (c.mask k.val).getLsbD i.val then vget (c.vec a.val) 0 i.val else vget (c.vec b.val) 0 i.val)

/-- R147. -/
def execVshuf (d : VReg) (a b : VSrc) (k : MReg) (p : Level) (s : State) : Next :=
  issueVec s (footVM (rV a.val ++ rV b.val) k.val d p) d k p fun c i =>
    let j := (vget (c.vec b.val) 0 i).toNat
    (if j < 16 then vget (c.vec a.val) 0 j else 0, 0)

/-- VFMA and VFMS (R148). -/
def issueVfma (s : State) (r : Mode) (d : VReg) (a b x : VSrc) (k : MReg) (p : Level) (f : FTy2) (neg : Bool) : Next :=
  issueVec s (footVM (rV a.val ++ rV b.val ++ rV x.val) k.val d p) d k p fun c i =>
    let g (v : VSrc) := low f.fmt (vget (c.vec v.val) 0 i)
    let y := fFma f.fmt r (g a) (g b) (g x) neg
    (zext f.fmt.width y.1, y.2)

/-- R148. -/
def execVfma (r : Mode) (d : VReg) (a b x : VSrc) (k : MReg) (p : Level) (f : FTy2) (s : State) : Next :=
  issueVfma s r d a b x k p f false
/-- R148. -/
def execVfms (r : Mode) (d : VReg) (a b x : VSrc) (k : MReg) (p : Level) (f : FTy2) (s : State) : Next :=
  issueVfma s r d a b x k p f true

/-- A long-latency lane-wise instruction: VD alone is written, inactive lanes kept (R149). -/
def issueVecLong (s : State) (ft : Foot) (d : VReg) (k : MReg) (h : La) (f : Ctx → Nat → Word × Flags) : Next :=
  issueLong s ft h true fun c =>
    let r := mapLanes (c.mask k.val) (c.vec d.val) (f c)
    (c, [.v d r.1], r.2)

/-- R149. -/
def execVdiv (d : VReg) (a b : VSrc) (k : MReg) (f : FTy2) (r : Rnd) (h : La) (s : State) : Next :=
  issueVecLong s (footL (rV a.val ++ rV b.val ++ rM k.val) (rV d.val)) d k h fun c i =>
    let y := fDiv f.fmt (c.mode r) (low f.fmt (vget (c.vec a.val) 0 i)) (low f.fmt (vget (c.vec b.val) 0 i))
    (zext f.fmt.width y.1, y.2)

/-- R149. -/
def execVsqrt (d : VReg) (a : VSrc) (k : MReg) (f : FTy2) (r : Rnd) (h : La) (s : State) : Next :=
  issueVecLong s (footL (rV a.val ++ rM k.val) (rV d.val)) d k h fun c i =>
    let y := fSqrt f.fmt (c.mode r) (low f.fmt (vget (c.vec a.val) 0 i))
    (zext f.fmt.width y.1, y.2)

/-- A register fitted to a vector type (R150). -/
def refit (t : VTy) (x : Word) : Word := vfit t x.toNat

/-- R150. -/
def execVbcast (r : SReg) (v : VReg) (k : MReg) (t : VTy) (p : Level) (s : State) : Next :=
  issueVec s (footVM (rS r.val) k.val v p) v k p fun c _ => (refit t (c.s r.val), 0)

/-- R150. -/
def execVext (r : DReg) (v : VSrc) (n : Fin 16) (t : VTy) (p : Level) (s : State) : Next :=
  issueMap s (footS (rV v.val) r p) fun c => c.deliver r p (refit t (vget (c.vec v.val) 0 n.val))

/-- R150. -/
def execVins (r : SReg) (v : VReg) (n : Fin 16) (t : VTy) (p : Level) (s : State) : Next :=
  issueMap s (footV (rS r.val ++ rV v.val) v p) fun c =>
    c.deliverV v p ((c.vec v.val).setIfInBounds n.val (refit t (c.s r.val)))

/-- One level of the tree of R47: neighbours combined, an absent input passed over. -/
def treeLevel (f : Nat → Nat → Nat × Flags) : List (Option Nat) → Flags → List (Option Nat) × Flags
  | a :: b :: l, fl =>
    let r := treeLevel f l fl
    match a, b with
    | some x, some y => let z := f x y; (some z.1 :: r.1, r.2 ||| z.2)
    | some x, none => (some x :: r.1, r.2)
    | none, y => (y :: r.1, r.2)
  | l, fl => (l, fl)

/-- The root of the tree, and the flags of its nodes (R47). -/
def treeRoot (f : Nat → Nat → Nat × Flags) (l : List (Option Nat)) : Option Nat × Flags :=
  let r := (List.range 4).foldl (fun (a : List (Option Nat) × Flags) _ => treeLevel f a.1 a.2) (l, 0)
  ((r.1.headD none), r.2)

/-- VRED: the tree over the active lanes, or the identity (R47). -/
def issueVred (s : State) (r : DReg) (v : VSrc) (k : MReg) (t : VTy) (p : Level)
    (f : Ctx → Nat → Nat → Nat × Flags) (identity : Nat) : Next :=
  issueFp s (footS (rV v.val ++ rM k.val) r p) r p fun c =>
    let n := vtyWidth t
    let lanes := (List.range 16).map fun i =>
      if (c.mask k.val).getLsbD i then some ((vget (c.vec v.val) 0 i).toNat % 2 ^ n) else none
    let y := treeRoot (f c) lanes
    (vfit t (y.1.getD identity), y.2)

/-- R47. -/
def execVredAdd (r : DReg) (v : VSrc) (m : Rnd) (k : MReg) (t : VTy) (p : Level) (s : State) : Next :=
  issueVred s r v k t p (fun c x y =>
    if t.isInt then (opAdd (vtyWidth t) x y, 0) else fAdd (vtyFmt t) (c.mode m) x y) 0

/-- Minimum or maximum of two patterns of a lane type. -/
def nodeMinMax (t : VTy) (wantMax : Bool) (x y : Nat) : Nat × Flags :=
  if t.isInt then
    ((if vtySigned t then (if wantMax then opMax else opMin) else (if wantMax then opMaxn else opMinn)) (vtyWidth t) x y, 0)
  else fMinMax (vtyFmt t) wantMax x y

/-- R47: the identity is +∞ or the type's largest value. -/
def execVredMin (r : DReg) (v : VSrc) (k : MReg) (t : VTy) (p : Level) (s : State) : Next :=
  issueVred s r v k t p (fun _ => nodeMinMax t false)
    (if t.isInt then intPat (vtyWidth t) (intMax (vtyWidth t) (vtySigned t)) else (vtyFmt t).infPat)

/-- R47: the identity is −∞ or the type's smallest value. -/
def execVredMax (r : DReg) (v : VSrc) (k : MReg) (t : VTy) (p : Level) (s : State) : Next :=
  issueVred s r v k t p (fun _ => nodeMinMax t true)
    (if t.isInt then intPat (vtyWidth t) (intMin (vtyWidth t) (vtySigned t))
     else (vtyFmt t).infPat + (vtyFmt t).signPat true)

/-- R151. -/
def execVcvt (d : VReg) (a : VSrc) (sf df : TyCode) (k : MReg) (r : Rnd) (s : State) : Next :=
  issueVec s (footVM (rV a.val) k.val d .both) d k .both fun c i =>
    cvtWord sf df (c.mode r) (vget (c.vec a.val) 0 i)

/-- R145: the sign bit cleared, or the magnitude modulo 2^n. -/
def execVabs (d : VReg) (a : VSrc) (k : MReg) (t : VTy) (p : Level) (s : State) : Next :=
  issueVec s (footVM (rV a.val) k.val d p) d k p fun c i =>
    let n := vtyWidth t
    let x := (vget (c.vec a.val) 0 i).toNat % 2 ^ n
    (vfit t (if t.isInt then (signedOf n x).natAbs else x % 2 ^ (n - 1)), 0)

/-- R145: the sign bit inverted, or −a modulo 2^n. -/
def execVneg (d : VReg) (a : VSrc) (k : MReg) (t : VTy) (p : Level) (s : State) : Next :=
  issueVec s (footVM (rV a.val) k.val d p) d k p fun c i =>
    let n := vtyWidth t
    let x := (vget (c.vec a.val) 0 i).toNat % 2 ^ n
    (vfit t (if t.isInt then 2 ^ n - x else (x + 2 ^ (n - 1)) % 2 ^ n), 0)

/-- R145: the lane number in the type. -/
def execViota (d : VReg) (k : MReg) (t : VTy) (p : Level) (s : State) : Next :=
  issueVec s (footVM [] k.val d p) d k p fun _ i =>
    (if t.isInt then BitVec.ofNat 64 i
     else zext (vtyWidth t) ((vtyFmt t).deliver .rne (.fin false i 0)).1, 0)

/-! Masks (R153, R154). -/

/-- A mask operation. -/
def issueMask (s : State) (d : MReg) (reads : List RegRef) (f : Ctx → BitVec 16) : Next :=
  issueMap s (foot reads (rM d.val)) fun c => c.setM d.val (f c)

/-- R153. -/
def execMand (d a b : MReg) (s : State) : Next := issueMask s d (rM a.val ++ rM b.val) fun c => c.mask a.val &&& c.mask b.val
/-- R153. -/
def execMor (d a b : MReg) (s : State) : Next := issueMask s d (rM a.val ++ rM b.val) fun c => c.mask a.val ||| c.mask b.val
/-- R153. -/
def execMxor (d a b : MReg) (s : State) : Next := issueMask s d (rM a.val ++ rM b.val) fun c => c.mask a.val ^^^ c.mask b.val
/-- R153. -/
def execMnot (d a : MReg) (s : State) : Next := issueMask s d (rM a.val) fun c => ~~~(c.mask a.val)

/-- R153. -/
def execMpop (d : DReg) (a : MReg) (p : Level) (s : State) : Next :=
  issueMap s (footS (rM a.val) d p) fun c => c.deliver d p (BitVec.ofNat 64 (opPopc 16 (c.mask a.val).toNat))

/-- A branch on a mask (R154). -/
def issueMaskBranch (s : State) (a : MReg) (o : BitVec 19) (taken : BitVec 16 → Bool) : Next :=
  issueReg s (footT (rM a.val) []) fun pc c =>
    if taken (c.mask a.val) then takeTo c pc (pc + 4 * o.signExtend 64) false true else .ok (c, none)

/-- R154. -/
def execBmany (a : MReg) (o : BitVec 19) (s : State) : Next := issueMaskBranch s a o fun m => m != 0
/-- R154. -/
def execBmall (a : MReg) (o : BitVec 19) (s : State) : Next := issueMaskBranch s a o fun m => m == 0xFFFF

end Sys2Proof.Machine
end

