-- ==== Sys2Proof/Machine/Exact.lean ====
section
/-! DEFINITION. The exact accumulators (R48 to R52, R155 to R158). A step takes effect as it issues, which is program order; the instruction stays pending for its window. -/

namespace Sys2Proof.Machine

open Sys2Proof

def Ctx.acc (c : Ctx) (x : XAcc) : ExactAcc := c.xa[x]
def Ctx.setAcc (c : Ctx) (x : XAcc) (a : ExactAcc) : Ctx := { c with xa := c.xa.set x a }

/-- The held value in units of 2^−3232, signed (R48). -/
def ExactAcc.int (a : ExactAcc) : Int := a.value.toInt

/-- Terms counted, saturating with OF (R50). -/
def ExactAcc.count' (a : ExactAcc) (n : Nat) : ExactAcc :=
  let t := a.count.toNat + n
  if t ≤ 2 ^ 64 - 1 then { a with count := BitVec.ofNat 64 t }
  else { a with count := BitVec.ofNat 64 (2 ^ 64 - 1), status := a.status ||| fOF.setWidth 64 }

/-- An exact product in units of 2^−3232; none where a factor is an infinity or a NaN. -/
def exactTerm (l : List FVal) : Option Int :=
  match l.foldl (fun (a : Option (Bool × Nat × Int)) v =>
    match a, v with
    | some (s, m, e), .fin t n f => some (s != t, m * n, e + f)
    | _, _ => none) (some (false, 1, 0)) with
  | some (s, m, e) =>
    let x : Int := (m : Int) * 2 ^ (e + 3232).toNat / 2 ^ (-(e + 3232)).toNat
    some (if s then -x else x)
  | none => none

/-- One step (R49 to R51). -/
def ExactAcc.step (a : ExactAcc) (neg : Bool) (l : List FVal) : ExactAcc :=
  match exactTerm l with
  | some x => ExactAcc.count' { a with value := a.value + BitVec.ofInt 6400 (if neg then -x else x) } 1
  | none => ExactAcc.count' { a with status := a.status ||| fIV.setWidth 64 } 1

/-- A step issues: its sources stay its own until its window is over (R158). -/
def issueEa (s : State) (x : XAcc) (srcs : List SReg) (f : FTy2) (h : La) (neg : Bool) : Next :=
  issueLong s (footL (srcs.flatMap fun r => rS r.val) []) h false fun c =>
    let l := srcs.map fun r => f.fmt.read (low f.fmt (c.s r.val))
    (c.setAcc x ((c.acc x).step neg l), [], 0)

/-- R155. -/
def execEamac (x : XAcc) (a b : SReg) (f : FTy2) (h : La) (s : State) : Next := issueEa s x [a, b] f h false
/-- R155. -/
def execEamacNg (x : XAcc) (a b : SReg) (f : FTy2) (h : La) (s : State) : Next := issueEa s x [a, b] f h true
/-- R155. -/
def execEamac3 (x : XAcc) (a b c : SReg) (f : FTy2) (h : La) (s : State) : Next := issueEa s x [a, b, c] f h false
/-- R155. -/
def execEamac3Ng (x : XAcc) (a b c : SReg) (f : FTy2) (h : La) (s : State) : Next := issueEa s x [a, b, c] f h true

/-- R156: long-latency (R62), its LA field 0. -/
def execEaclr (x : XAcc) (s : State) : Next :=
  issueLong s (footL [] []) 0 false fun c => (c.setAcc x ExactAcc.zero, [], 0)

/-- One accumulator added to another (R156): the source is read first. -/
def ExactAcc.addAcc (a b : ExactAcc) (neg : Bool) : ExactAcc :=
  ExactAcc.count' { a with value := if neg then a.value - b.value else a.value + b.value,
                           status := a.status ||| b.status } b.count.toNat

def issueEaadd (s : State) (x y : XAcc) (h : La) (neg : Bool) : Next :=
  issueLong s (footL [] []) h false fun c => (c.setAcc x ((c.acc x).addAcc (c.acc y) neg), [], 0)

/-- R156. -/
def execEaadd (x y : XAcc) (h : La) (s : State) : Next := issueEaadd s x y h false
/-- R156. -/
def execEaaddNg (x y : XAcc) (h : La) (s : State) : Next := issueEaadd s x y h true

/-- The sign of the held value (R157). -/
def ExactAcc.sign (a : ExactAcc) : Word := if a.int < 0 then 0xFFFFFFFFFFFFFFFF else if a.int = 0 then 0 else 1

/-- R157. -/
def execEasgn (d : DReg) (x : XAcc) (h : La) (s : State) : Next :=
  issueLong s (footL [] (rS d.val)) h false fun c => (c, [.s d (c.acc x).sign], 0)

/-- The held value rounded to FP64 (R52). -/
def ExactAcc.round (a : ExactAcc) (m : Mode) : Word × Flags :=
  if a.status.getLsbD 0 ∨ a.status.getLsbD 1 then (zext 64 fmtF64.nanPat, fIV)
  else
    let r := fmtF64.deliver m (.fin (decide (a.int < 0)) a.int.natAbs (-3232))
    (zext 64 r.1, r.2)

/-- R157, R52. -/
def execEarnd (d : DReg) (x : XAcc) (r : Rnd) (h : La) (s : State) : Next :=
  issueLong s (footL [] (rS d.val)) h true fun c =>
    let y := (c.acc x).round (c.mode r)
    (c, [.s d y.1], y.2)

/-- R157: the status word. -/
def execEasts (d : DReg) (x : XAcc) (h : La) (s : State) : Next :=
  issueLong s (footL [] (rS d.val)) h false fun c => (c, [.s d (c.acc x).status], 0)

end Sys2Proof.Machine
end

