-- ==== Sys2Proof/Machine/Sha3.lean ====
section
/-! DEFINITION. SHA3-256 (FIPS 202), which the spec names for digests (R13, R225, R388, R416), and the two functions of any length of that standard, which signatures use. PRESUMED (log 7): the standard is outside the spec. -/

namespace Sys2Proof.Machine

open Sys2Proof

/-- The permutation's state: five planes, y rising, of five lanes, x rising. -/
abbrev Planes := List (List Word)

/-- A list turned so that its element n comes first. -/
def turned {α : Type} (n : Nat) (l : List α) : List α := l.drop n ++ l.take n

/-- Two planes added lane by lane. -/
def mix (p q : List Word) : List Word := List.zipWith (· ^^^ ·) p q

/-- The column parities of both neighbours added to every lane. -/
def theta (a : Planes) : Planes :=
  let parity := a.foldl mix (List.replicate 5 0)
  a.map (mix (mix (turned 4 parity) ((turned 1 parity).map (·.rotateLeft 1))))

/-- The twenty-four lanes off the origin take each other's places along one walk, the lane that moves at step t turned by the t-th triangular number. -/
def walk (a : Planes) : Planes :=
  let step (s : Planes × Nat × Nat × Word) (t : Nat) : Planes × Nat × Nat × Word :=
    let (a, x, y, moving) := s
    let y' := (2 * x + 3 * y) % 5
    let plane := a.getD y' []
    (a.set y' (plane.set y (moving.rotateLeft ((t + 1) * (t + 2) / 2 % 64))), y, y', plane.getD y 0)
  ((List.range 24).foldl step (a, 1, 0, (a.getD 0 []).getD 1 0)).1

/-- A plane with each lane changed by the two after it. -/
def chi (p : List Word) : List Word :=
  mix p (List.zipWith (fun b c => c &&& ~~~b) (turned 1 p) (turned 2 p))

/-- The feedback register of the round constants, one bit on. -/
def feed (r : Nat) : Nat := if r < 128 then 2 * r else (2 * r) % 256 ^^^ 0x71

/-- A round constant from the register: the seven bits that it gives stand at the places 2^j - 1. The register comes back after them. -/
def roundWord (r : Nat) : Nat × Word :=
  (List.range 7).foldl (fun a j => (feed a.1, if a.1 % 2 = 1 then a.2 ||| BitVec.ofNat 64 (2 ^ (2 ^ j - 1)) else a.2)) (r, 0)

/-- The permutation: twenty-four rounds. -/
def permute (a : Planes) : Planes :=
  ((List.range 24).foldl (fun (s : Nat × Planes) _ =>
    let (r, c) := roundWord s.1
    (r, ((walk (theta s.2)).map chi).modifyHead (mix (c :: List.replicate 4 0)))) (1, a)).2

/-- A message filled to whole blocks of some length; the first byte added is the mark of the function. -/
def filled (rate : Nat) (mark : Byte) (m : List Byte) : List Byte :=
  let n := rate - m.length % rate
  m ++ (List.range n).map fun i => (if i = 0 then mark else 0) ||| (if i + 1 = n then 0x80 else 0)

/-- The plane y of a block: its words fill the planes from the first lane on. -/
def blockPlane (blk : List Byte) (y : Nat) : List Word :=
  (List.range 5).map fun x => leWord ((blk.drop (8 * (5 * y + x))).take 8)

/-- The state after the blocks of a message. -/
def sponge (rate : Nat) (m : List Byte) : Planes :=
  (List.range (m.length / rate)).foldl (fun a i =>
    permute (List.zipWith mix a ((List.range 5).map (blockPlane ((m.drop (rate * i)).take rate)))))
    (List.replicate 5 (List.replicate 5 0))

/-- The 32-byte digest. -/
def sha3 (m : List Byte) : List Byte := (((sponge 136 (filled 136 0x06 m)).headD []).take 4).flatMap fun w => leBytes 8 w.toNat

/-- Blocks drawn from a state. -/
def drawn (rate : Nat) : Nat → Planes → List Byte
  | 0, _ => []
  | n + 1, a => (a.flatten.flatMap fun w => leBytes 8 w.toNat).take rate ++ drawn rate n (permute a)

/-- The first n blocks of the function of any length whose blocks have 168 bytes. -/
def shake128 (n : Nat) (m : List Byte) : List Byte := drawn 168 n (sponge 168 (filled 168 0x1F m))

/-- The first n blocks of the one whose blocks have 136. -/
def shake256 (n : Nat) (m : List Byte) : List Byte := drawn 136 n (sponge 136 (filled 136 0x1F m))

end Sys2Proof.Machine
end

