-- ==== Sys2Proof/Machine/Sign.lean ====
section
/-! DEFINITION. Whether a signature verifies under ML-DSA-44, the scheme that the spec names for firmware, image keys and images (R13, R225, R416, R417) and in whose encoding it gives a public key (R418). PRESUMED (log 7): FIPS 204 is outside the spec. The digest is the message, with no context. -/

namespace Sys2Proof.Machine

open Sys2Proof

/-! Polynomials of 256 coefficients modulo the prime, constant term first. -/

abbrev Poly := List Nat

/-- The prime. -/
def dsaPrime : Nat := 8380417

def Poly.add (a b : Poly) : Poly := List.zipWith (fun x y => (x + y) % dsaPrime) a b
def Poly.sub (a b : Poly) : Poly := List.zipWith (fun x y => (x + dsaPrime - y) % dsaPrime) a b
def Poly.times (a b : Poly) : Poly := List.zipWith (fun x y => x * y % dsaPrime) a b
def Poly.scale (c : Nat) (a : Poly) : Poly := a.map fun x => c * x % dsaPrime

/-- The eight low bits of a number in the other order. -/
def reverse8 (n : Nat) : Nat := ((List.range 8).map fun i => if n.testBit i then 2 ^ (7 - i) else 0).sum

/-- The root by which node k of the transform multiplies, and its inverse: powers of 1753, of order 512. -/
def dsaRoot (k : Nat) : Nat := 1753 ^ reverse8 k % dsaPrime
def dsaRootInv (k : Nat) : Nat := 1753 ^ (512 - reverse8 k) % dsaPrime

/-- The transform of a polynomial, by halves: each node sends the sum and the difference to its two below. -/
def transform : Nat → Nat → Poly → Poly
  | 0, _, p => p
  | d + 1, k, p =>
    let lo := p.take (2 ^ d)
    let t := Poly.scale (dsaRoot k) (p.drop (2 ^ d))
    transform d (2 * k) (Poly.add lo t) ++ transform d (2 * k + 1) (Poly.sub lo t)

/-- Back from the transform, each level doubling what it returns. -/
def untransform : Nat → Nat → Poly → Poly
  | 0, _, p => p
  | d + 1, k, p =>
    let a := untransform d (2 * k) (p.take (2 ^ d))
    let b := untransform d (2 * k + 1) (p.drop (2 ^ d))
    Poly.add a b ++ Poly.scale (dsaRootInv k) (Poly.sub a b)

def Poly.up (p : Poly) : Poly := transform 8 1 p

/-- The inverse of the transform: 8347681 is the inverse of 256. -/
def Poly.down (p : Poly) : Poly := Poly.scale 8347681 (untransform 8 1 p)

/-! Encodings. -/

/-- The fields of so many bits of some bytes, the lowest first. -/
def fieldsOf (width count : Nat) (bs : List Byte) : List Nat :=
  let x := leNat bs
  (List.range count).map fun i => x / 2 ^ (width * i) % 2 ^ width

/-- A piece of a list. -/
def slice {α : Type} (start n : Nat) (l : List α) : List α := (l.drop start).take n

/-- The hints of the four polynomials, as the places of their ones: 80 bytes of places and four bytes of where each polynomial's end. -/
def dsaHints (y : List Byte) : Option (List (List Nat)) :=
  let n := y.map BitVec.toNat
  let stops := n.drop 80
  let starts := 0 :: stops
  let parts := (List.range 4).map fun i => slice (starts.getD i 0) (stops.getD i 0 - starts.getD i 0) n
  let rises (l : List Nat) : Bool := (List.zipWith (fun a b => decide (a < b)) l l.tail).all id
  let ordered := (List.zipWith (fun a b => decide (a ≤ b)) starts stops).all id && decide (stops.getLastD 0 ≤ 80)
  if ordered && parts.all rises && (slice (stops.getLastD 0) (80 - stops.getLastD 0) n).all (· == 0) then some parts else none

/-! What is sampled. -/

/-- A polynomial of the matrix, in its transform: three bytes a candidate, of 23 bits, and those below the prime. -/
def dsaMatrix (seed : List Byte) (r s : Nat) : Poly :=
  let bs := (shake128 6 (seed ++ [BitVec.ofNat 8 s, BitVec.ofNat 8 r])).map BitVec.toNat
  let cand := (List.range 336).map fun i => bs.getD (3 * i) 0 + 256 * bs.getD (3 * i + 1) 0 + 65536 * (bs.getD (3 * i + 2) 0 % 128)
  (cand.filter (· < dsaPrime)).take 256

/-- The first byte that is at most i, and what follows it. -/
def firstUpTo (i : Nat) : List Nat → Nat × List Nat
  | [] => (0, [])
  | b :: l => if b ≤ i then (b, l) else firstUpTo i l

/-- The challenge: 39 coefficients of 1 or −1. -/
def dsaChallenge (seed : List Byte) : Poly :=
  let bs := (shake256 2 seed).map BitVec.toNat
  let signs := leNat ((shake256 2 seed).take 8)
  ((List.range 39).foldl (fun (a : Poly × List Nat) t =>
    let i := 217 + t
    let (j, rest) := firstUpTo i a.2
    ((a.1.set i (a.1.getD j 0)).set j (if signs.testBit t then dsaPrime - 1 else 1), rest))
    (List.replicate 256 0, bs.drop 8)).1

/-! The high part of a coefficient, with its hint. -/

/-- The high part of a coefficient, among 44, moved by one where its hint is set. -/
def highPart (hint : Bool) (r : Nat) : Nat :=
  let m := r % 190464
  let above := decide (0 < m) && decide (m ≤ 95232)
  let high := (r / 190464 + (if 95232 < m then 1 else 0)) % 44
  if !hint then high else if above then (high + 1) % 44 else (high + 43) % 44

/-- The high parts of a polynomial, six bits each. -/
def highBytes (hints : List Nat) (p : Poly) : List Byte :=
  leBytes 192 ((List.range 256).map fun i => highPart (hints.contains i) (p.getD i 0) * 2 ^ (6 * i)).sum

/-! Verification. -/

/-- A signature verifies: public key, message, signature. -/
def mlDsaVerify (pk m sig : List Byte) : Bool :=
  if pk.length ≠ 1312 ∨ sig.length ≠ 2420 then false
  else match dsaHints (sig.drop 2336) with
    | none => false
    | some hints =>
      let z := (List.range 4).map fun i => fieldsOf 18 256 (slice (32 + 576 * i) 576 sig)
      let small := z.all fun p => p.all fun v => decide (78 < v) && decide (v < 262066)
      let zUp := z.map fun p => Poly.up (p.map fun v => (131072 + dsaPrime - v) % dsaPrime)
      let challenge := Poly.up (dsaChallenge (sig.take 32))
      let row (r : Nat) : Poly :=
        let t := Poly.up ((fieldsOf 10 256 (slice (32 + 320 * r) 320 pk)).map fun x => x * 8192 % dsaPrime)
        let az := ((List.range 4).map fun s => Poly.times (dsaMatrix (pk.take 32) r s) (zUp.getD s [])).foldl Poly.add (List.replicate 256 0)
        Poly.down (Poly.sub az (Poly.times challenge t))
      let mu := (shake256 1 ((shake256 1 pk).take 64 ++ [0, 0] ++ m)).take 64
      let high := (List.range 4).flatMap fun r => highBytes (hints.getD r []) (row r)
      small && (shake256 1 (mu ++ high)).take 32 == sig.take 32

end Sys2Proof.Machine
end

