-- ==== Sys2Proof/Machine/Graph.lean ====
section
/-! DEFINITION. The graph array: configuration images, XCFG, XOP, XDROP and reload (R218 to R236). -/

namespace Sys2Proof.Machine

open Sys2Proof

/-! Images (R219 to R225). -/

/-- Word i of an image's bytes. -/
def imgWord (bs : List Byte) (i : Nat) : Word := leWord ((bs.drop (8 * i)).take 8)

/-- The element record of a record's word 0 and K (R221). -/
def peRec (w k : Word) : PeRec where
  pop := bits w 56 8
  typ := (cTyCode (bits w 51 5)).getD .s8
  rm := bits w 48 3
  ina := bits w 42 6
  inb := bits w 36 6
  inc := bits w 30 6
  k := k

/-- The image that the bytes describe (R220, R221). -/
def readImage (bs : List Byte) : XImage :=
  let h := imgWord bs 0
  let g := imgWord bs 1
  let npe := bits h 19 5
  { npe := npe, lat := bits h 12 7, ll := h.getLsbD 11, ndst := bits h 9 2, nsrc := bits h 7 2,
    d1v := h.getLsbD 6, d0v := h.getLsbD 5, s2v := h.getLsbD 4, s1v := h.getLsbD 3, s0v := h.getLsbD 2,
    d0pe := bits g 60 4, d1pe := bits g 56 4,
    pes := (List.range (min npe 16)).map fun j => peRec (imgWord bs (8 + 8 * j)) (imgWord bs (9 + 8 * j)) }

/-- The types an element operation allows (R222). -/
def popType (pop : Nat) (t : TyCode) : Bool :=
  let float := t == .f64 || t == .f32 || t == .bf16
  match pop with
  | 0x00 | 0x0F => true
  | 0x01 | 0x02 | 0x03 | 0x05 | 0x06 | 0x0D | 0x0E => t.isInt || float
  | 0x04 => float
  | 0x07 | 0x08 | 0x09 | 0x0A | 0x0B => t.isInt
  | 0x0C => t == .n64
  | 0x10 | 0x11 => float || t == .s64 || t == .s32
  | _ => false

/-- Inputs an element operation uses (R222). -/
def popInputs (pop : Nat) : Nat :=
  match pop with
  | 0x00 | 0x0F | 0x10 | 0x11 => 1
  | 0x04 | 0x0C => 3
  | _ => 2

/-- Operations that round (R222). -/
def popRounds (pop : Nat) : Bool := pop == 1 || pop == 2 || pop == 3 || pop == 4 || pop == 15

/-- Depth that an element adds (R222). -/
def popCost (r : PeRec) : Nat :=
  match r.pop with
  | 1 | 2 | 3 => if r.typ.isInt then 1 else 4
  | 4 => 4
  | 15 =>
    if r.typ.isInt && ((cTyCode (bits r.k 0 5)).map TyCode.isInt).getD false then 1 else 4
  | _ => 1

/-- The three selectors of a record. -/
def PeRec.ins (r : PeRec) : List Nat := [r.ina, r.inb, r.inc]

/-- A selector that element j of an image with so many sources may use (R221, R224). -/
def selectorOk (nsrc j x : Nat) : Bool :=
  (decide (x < 3) && decide (x < nsrc)) || x == 3 || x == 4 || (decide (16 ≤ x) && decide (x < 16 + j))

/-- A record below NPE is well formed (R224). -/
def recordOk (nsrc j : Nat) (r : PeRec) (w : Word) (reserved : List Word) : Bool :=
  let used := r.ins.take (popInputs r.pop)
  decide (r.pop ≤ 0x11) && decide (bits w 51 5 < 16) && popType r.pop r.typ &&
    (if popRounds r.pop then decide (r.rm ≤ 4) else r.rm == 0) &&
    used.all (selectorOk nsrc j) && (r.ins.drop (popInputs r.pop)).all (· == 0) &&
    bits w 0 30 == 0 && reserved.all (· == 0) &&
    (if r.pop = 15 then decide (r.k.toNat < 16) else r.k == 0 || used.contains 3)

/-- Depths of the elements, in order (R224). -/
def depths (l : List PeRec) : List Nat :=
  l.foldl (fun ds r =>
    let m := (r.ins.take (popInputs r.pop)).foldl (fun a x => if 16 ≤ x then max a (ds.getD (x - 16) 0) else a) 0
    ds ++ [popCost r + m]) []

/-- R224. -/
def imageValid (bs : List Byte) : Bool :=
  let h := imgWord bs 0
  let g := imgWord bs 1
  let x := readImage bs
  let ds := depths x.pes
  bits h 32 32 == 0x58474D31 && bits h 24 8 == 1 && bits h 0 2 == 0 && bits g 0 56 == 0 &&
    (List.range 6).all (fun i => imgWord bs (2 + i) == 0) &&
    decide (1 ≤ x.npe) && decide (x.npe ≤ 16) && decide (1 ≤ x.lat) && decide (x.lat ≤ 64) &&
    decide (1 ≤ x.ndst) && decide (x.ndst ≤ 2) && (x.ll || decide (x.lat ≤ 8)) &&
    (decide (0 < x.nsrc) || !x.s0v) && (decide (1 < x.nsrc) || !x.s1v) && (decide (2 < x.nsrc) || !x.s2v) &&
    (x.ndst == 2 || !x.d1v) && (x.nsrc != 3 || x.s2v == x.d0v) &&
    decide (x.d0pe < x.npe) && (if x.ndst = 2 then decide (x.d1pe < x.npe) else x.d1pe == 0) &&
    (List.range 16).all (fun j =>
      if j < x.npe then
        recordOk x.nsrc j (x.pes.getD j (peRec 0 0)) (imgWord bs (8 + 8 * j))
          ((List.range 6).map fun i => imgWord bs (10 + 8 * j + i))
      else (List.range 8).all fun i => imgWord bs (8 + 8 * j + i) == 0) &&
    decide (ds.getD x.d0pe 0 ≤ x.lat) && (x.ndst != 2 || decide (ds.getD x.d1pe 0 ≤ x.lat))

/-- The cache of verified digests, the last used first (R225). -/
def touchDigest (l : List (List Byte)) (d : List Byte) : List (List Byte) := (d :: l.filter (· != d)).take 32

/-- Whether the image is signed, and the cluster's cache after the look (R225). -/
def State.verifyImage (s : State) (c : ClusterKey) (bs : List Byte) : Bool × State :=
  let d := sha3 (bs.take 0x440)
  let x := s.clu c
  let hit := x.digests.contains d
  let ok := hit || match s.boot.imageKey with
    | some key => mlDsaVerify key d ((bs.drop 0x440).take 2420)
    | none => false
  if ok then (true, s.setClu c { x with digests := touchDigest x.digests d }) else (false, s)

/-- Bytes of an image that are read: the padding is not (R219). -/
def imageRead : Nat := 0xDB4

/-- What the bytes of an image make of a slot: the state code and the segment (R229). -/
def State.configure (s : State) (c : ClusterKey) (bs : List Byte) : Nat × Option XImage × State :=
  if !imageValid bs then (3, none, s)
  else
    let r := s.verifyImage c bs
    if r.1 then (1, some (readImage bs), r.2) else (4, none, r.2)

/-- A binding word (R226). -/
def bindWord (p : Word) (st : Nat) : Word := setBits (setBits p 0 8 0) 0 4 st

/-! Evaluation (R222, R223). -/

/-- One element over its truncated inputs. -/
def PeRec.eval (r : PeRec) (rm : Mode) (a b c : Word) : Word × Flags :=
  let t := r.typ
  let src := (cTyCode (bits r.k 0 5)).getD .s8
  let n := if r.pop = 15 then src.width else t.width
  let x := a.toNat % 2 ^ n
  let y := b.toNat % 2 ^ n
  let z := c.toNat % 2 ^ n
  let mode := if r.rm = 4 then rm else modeOf r.rm
  let fit (v : Nat) : Word × Flags := (fitTy t v, 0)
  let fitF (v : Nat × Flags) : Word × Flags := (fitTy t v.1, v.2)
  match r.pop, t.fmt? with
  | 0, _ => fit x
  | 1, some f => fitF (fAdd f mode x y)
  | 1, none => fit (opAdd n x y)
  | 2, some f => fitF (fSub f mode x y)
  | 2, none => fit (opSub n x y)
  | 3, some f => fitF (fMul f mode x y)
  | 3, none => fit (opMul n x y)
  | 4, some f => fitF (fFma f mode x y z false)
  | 5, some f => fitF (fMinMax f false x y)
  | 5, none => fit (if t.signed then opMin n x y else opMinn n x y)
  | 6, some f => fitF (fMinMax f true x y)
  | 6, none => fit (if t.signed then opMax n x y else opMaxn n x y)
  | 7, _ => fit (x &&& y)
  | 8, _ => fit (x ||| y)
  | 9, _ => fit (x ^^^ y)
  | 10, _ => fit (opShl n x y)
  | 11, _ => fit (if t.signed then opSha n x y else opShr n x y)
  | 12, _ => fit (if z ≠ 0 then x else y)
  | 13, some f => let v := fCmp f .lt x y; (if v.1 then 1 else 0, v.2)
  | 13, none => (if t.signed then BitVec.ofNat 64 (opSlt n x y) else BitVec.ofNat 64 (opSltn n x y), 0)
  | 14, some f => let v := fCmp f .eq x y; (if v.1 then 1 else 0, v.2)
  | 14, none => (if x = y then 1 else 0, 0)
  | 15, _ => fitF (convert src t mode x)
  | 16, some _ => fit (x % 2 ^ (n - 1))
  | 16, none => fit (signedOf n x).natAbs
  | 17, some _ => fit ((x + 2 ^ (n - 1)) % 2 ^ n)
  | 17, none => fit (2 ^ n - x)
  | _, _ => (0, 0)

/-- One pass of a graph: the results of its elements, and the flags of all of them. -/
def XImage.pass (x : XImage) (rm : Mode) (src : Nat → Word) : List Word × Flags :=
  x.pes.foldl (fun (a : List Word × Flags) r =>
    let inp (i : Nat) : Word :=
      if i < 3 then src i else if i = 3 then r.k else if 16 ≤ i then a.1.getD (i - 16) 0 else 0
    let v := r.eval rm (inp r.ina) (inp r.inb) (inp r.inc)
    (a.1 ++ [v.1], a.2 ||| v.2)) ([], 0)

/-- A vector graph: a destination or source in the vector class (R220). -/
def XImage.isVector (x : XImage) : Bool := x.s0v || x.s1v || x.s2v || x.d0v || x.d1v

/-! XCFG, XDROP and reload. -/

/-- The core has a graph array (R231). -/
def hasGraph (k : CoreKey) : Bool := decide (k % 8 < 4)

/-- An XCFG or XDROP of the slot that issued earlier is pending (R233, R235). -/
def Bank.slotBusy (b : Bank) (n : Fin 8) : Bool := b.pend.any fun p => (p.slot.map (·.slot)) == some n

/-- An image may stand in the windows that XCFG reads from (R230). -/
def imageWindow (p : Word) : Bool := tagOf p.toNat == 0 || tagOf p.toNat == 1 || tagOf p.toNat == 8

/-- R229, R230. The read is made as it issues; the slot changes at the write-back, and one that traps late keeps its slot busy till then. -/
def execXcfg (n : Fin 8) (b : WReg) (h : La) (s : State) : Next :=
  let f := footL (rS b.val) []
  issue s f fun s k q =>
    let bk := s.bank k q
    let p := bk.ctx.s b.val
    let v := s.view k q
    if !hasGraph k then .trap (illegalAt (.xcfg n b h) 15)
    else if bk.slotBusy n then .wait
    else if !imageWindow p then .trap ⟨.addrWindow, p, 0⟩
    else
      let pd := { bk.pendingOf f h with safe := false, spans := [(p.toNat, imageRead)], slot := some ⟨n, bk.ctx.binds[n], bk.plane[n]⟩ }
      match s.issueChecks v p.toNat 3584 256 with
      | .error st => st.act p
      | .ok pl =>
        if s.readFull v pl imageRead || s.farBusy k bk pl imageRead then .wait
        else match s.targetChecks v pl imageRead .read with
        | .error .wait => .wait
        | .error (.trap c d) =>
          .done (s.setBank k q (bk.push { pd with late := some ⟨c, p, BitVec.ofNat 8 d⟩ })) none none
        | .ok ps =>
          let links := s.crossings (dieOf k) ps p 0 imageRead
          if s.landFull (links.map Crossing.landing) then .wait
          else
            let (s1, w) := s.served v p.toNat pl imageRead .read
            let (st, img, s2) := s1.configure (clusterOf k) (s.load ps)
            let set : SlotSet := ⟨n, bindWord p st, img⟩
            let bk := s2.bank k q
            .done (s2.setBank k q (bk.push { pd with slot := some set, late := w, land := landingFor k pl imageRead, links := links })) none none

/-- An XOP of the slot has still to write its results. -/
def Bank.xopPending (b : Bank) (n : Fin 8) : Bool := b.pend.any fun p => p.xop == some n

/-- R231: it waits for what is pending of its slot, each earlier XOP among it. -/
def execXdrop (n : Fin 8) (h : La) (s : State) : Next :=
  let f := footL [] []
  issue s f fun s k q =>
    let bk := s.bank k q
    if !hasGraph k then .trap (illegalAt (.xdrop n h) 15)
    else if bk.slotBusy n || bk.xopPending n then .wait
    else .done (s.setBank k q (bk.push { bk.pendingOf f h with slot := some ⟨n, 0, none⟩ })) none none

/-- R236: the reload of one slot of a bank. DESIGN CHOICE (log 74): a hit of its image read is recorded as the strand's load, and no WATCH trap is taken for it. -/
def execReload (k : CoreKey) (b : Fin 2) (n : Fin 8) (s : State) : Next :=
  let bk := s.bank k b
  let w := bk.ctx.binds[n]
  if bk.st = .bound ∧ bits w 0 4 = 2 ∧ bk.pend.all (fun p => p.slot.isNone) ∧ (s.core k).fen = false then
    let p := setBits w 0 8 0
    let v := s.view k b
    let put (s : State) (st : Nat) (img : Option XImage) : State :=
      let bk := s.bank k b
      s.setBank k b { bk with ctx := { bk.ctx with binds := bk.ctx.binds.set n (bindWord p st) }
                              plane := bk.plane.set n img }
    match if imageWindow p then s.issueChecks v p.toNat 3584 256 else .error (.trap .addrWindow 0) with
    | .error .wait => .next s
    | .error (.trap _ _) => .next (put s 5 none)
    | .ok pl =>
      if s.readFull v pl imageRead then .next s
      else match s.targetChecks v pl imageRead .read with
      | .error .wait => .next s
      | .error (.trap _ _) => .next (put s 5 none)
      | .ok ps =>
        let r := (s.served v p.toNat pl imageRead .read).1.configure (clusterOf k) (s.load ps)
        .next (put r.2.2 r.1 r.2.1)
  else .next s

/-! XOP. -/

/-- A source or destination field in its class. -/
def rClass (vec : Bool) (n : Nat) : List RegRef := if vec then rV n else rS n

/-- The image of a slot, where its binding is usable. -/
def Bank.image (b : Bank) (n : Fin 8) : Option XImage :=
  if bits b.ctx.binds[n] 0 4 = 1 then b.plane[n] else none

/-- What an XOP reads and writes (R233): nothing where the slot has no usable binding. -/
def xopFoot (x : Option XImage) (d a b : Nat) : Foot :=
  match x with
  | none => foot [] []
  | some x =>
    let rs := (if 0 < x.nsrc then rClass x.s0v a else []) ++ (if 1 < x.nsrc then rClass x.s1v b else []) ++
      (if 2 < x.nsrc then rClass x.s2v d else [])
    let ws := rClass x.d0v d ++ (if x.ndst = 2 then rClass x.d1v (d + 1) else [])
    if x.ll then footL rs ws else foot rs ws

/-- Check 4 of R234: specifiers in their classes, then the unused fields. -/
def xopCheck (x : XImage) (d a b : Nat) : Option Nat :=
  let srcOk (vec : Bool) (n : Nat) : Bool := if vec then decide (n < 18) else decide (n < 44)
  let dst0 := if x.d0v then decide (d < 16) else decide (d < 40)
  let dst1 := if x.d1v then decide (1 ≤ d + 1) && decide (d + 1 ≤ 15)
    else (decide (2 ≤ d + 1) && decide (d + 1 ≤ 31)) || (decide (33 ≤ d + 1) && decide (d + 1 ≤ 39))
  if !((x.nsrc == 0 || srcOk x.s0v a) && (decide (x.nsrc < 2) || srcOk x.s1v b) && dst0 && (x.ndst != 2 || dst1)) then some 2
  else if (x.nsrc = 0 ∧ a ≠ 0) ∨ (x.nsrc < 2 ∧ b ≠ 0) then some 4
  else none

/-- The value of source k at lane i. -/
def xopSource (x : XImage) (c : Ctx) (d a b i k : Nat) : Word :=
  let (vec, n) := match k with
    | 0 => (x.s0v, a)
    | 1 => (x.s1v, b)
    | _ => (x.s2v, d)
  if vec then vget (c.vec n) 0 i else c.s n

/-- The destinations' results, and the flags (R223, R233). -/
def xopRun (x : XImage) (c : Ctx) (d a b : Nat) : List RegWrite × Flags :=
  let lanes := (List.range (if x.isVector then 16 else 1)).map fun i => x.pass c.rm (xopSource x c d a b i)
  let out (pe i : Nat) : Word := (lanes.getD i ([], 0)).1.getD pe 0
  let one (vec : Bool) (pe n : Nat) : RegWrite :=
    if vec then .v (Fin.ofNat 16 n) (Vector.ofFn fun i => out pe i.val) else .s (Fin.ofNat 40 n) (out pe 0)
  (one x.d0v x.d0pe d :: (if x.ndst = 2 then [one x.d1v x.d1pe (d + 1)] else []),
   lanes.foldl (fun fl l => fl ||| l.2) 0)

/-- R233, R234. -/
def execXop (n : Fin 8) (d a b : BitVec 6) (h : La) (s : State) : Next :=
  match s.issuing with
  | none => .next s
  | some (k, q) =>
    let bk := s.bank k q
    let busy := bk.slotBusy n || bits bk.ctx.binds[n] 0 4 == 2
    if hasGraph k && busy then .next (s.holdIssue k q)
    else
      let f := xopFoot (bk.image n) d.toNat a.toNat b.toNat
      issue s f fun s k q =>
        let bk := s.bank k q
        if !hasGraph k then .trap (illegalAt (.xop n d a b h) 15)
        else
          match bk.image n with
          | none => .trap ⟨.xopUnloaded, BitVec.ofNat 64 n.val, BitVec.ofNat 8 (bits bk.ctx.binds[n] 0 4)⟩
          | some x =>
            match xopCheck x d.toNat a.toNat b.toNat with
            | some e => .trap (illegalAt (.xop n d a b h) e)
            | none =>
              let r := xopRun x bk.ctx d.toNat a.toNat b.toNat
              if x.ll then
                let p := { bk.pendingOf f h with writes := r.1, flags := r.2, setsFlags := true, xop := some n }
                .done (s.setBank k q (bk.push p)) none none
              else .done (s.setBank k q { bk with ctx := (r.1.foldl Ctx.writeReg bk.ctx).orFlags r.2 }) none none

end Sys2Proof.Machine
end

