-- ==== Sys2Proof/Machine/Event.lean ====
section
/-! DEFINITION. Events: handles and slots (R176, R297, R298), offer entries and their instructions (R179 to R188), resolution (R299 to R309) and delivery (R178, R310). -/

namespace Sys2Proof.Machine

open Sys2Proof

/-! Homes, slots and handles. -/

/-- Slots of a home (R297). -/
def slotCount : Home → Nat
  | .cluster _ => 256
  | .die _ => 4096
  | .package => 1024

/-- The level of a home (R176). -/
def Home.lvl : Home → Nat
  | .cluster _ => 0
  | .die _ => 1
  | .package => 2

def State.resolver (s : State) : Home → Resolver
  | .cluster c => (s.clu c).res
  | .die d => (s.die d).res
  | .package => s.res

def State.setResolver (s : State) (h : Home) (r : Resolver) : State :=
  match h with
  | .cluster c => s.setClu c { s.clu c with res := r }
  | .die d => s.setDie d { s.die d with res := r }
  | .package => { s with res := r }

def State.slot (s : State) (h : Home) (n : Nat) : EvSlot := lookupD EvSlot.free (s.resolver h).slots n

def State.setSlot (s : State) (h : Home) (n : Nat) (e : EvSlot) : State :=
  let r := s.resolver h
  s.setResolver h { r with slots := insertKey n e r.slots }

/-- The handle of a slot with its generation (R176). -/
def State.handleOf (s : State) (h : Home) (n gen : Nat) : Nat :=
  let place := match h with
    | .cluster c => dieOfCluster c * 2 ^ 28 + ((s.clid c).getD 0) * 2 ^ 20
    | .die d => d * 2 ^ 28
    | .package => 0
  Home.lvl h * 2 ^ 30 + place + gen * 4096 + n

/-- The home that a handle names, where its fields are in range (R176). -/
def State.homeOf (s : State) (h : Nat) : Option Home :=
  let die := h / 2 ^ 28 % 4
  let clu := h / 2 ^ 20 % 256
  match h / 2 ^ 30 % 4 with
  | 0 => if h % 4096 < 256 then (s.clusterPhys die clu).map Home.cluster else none
  | 1 => if clu = 0 then some (.die die) else none
  | 2 => if die = 0 ∧ clu = 0 ∧ h % 4096 < 1024 then some .package else none
  | _ => none

/-- A live handle: its home and slot (R176). -/
def State.live (s : State) (h : Nat) : Option (Home × Nat) :=
  match s.homeOf h with
  | none => none
  | some m =>
    let e := s.slot m (h % 4096)
    if e.alloc ∧ e.gen.toNat = h / 4096 % 256 then some (m, h % 4096) else none

/-- EV_STALE (R176). -/
def evStale (h : Nat) : Trap := ⟨.evStale, BitVec.ofNat 64 h, 0⟩

/-! Offer entries (R179). -/

def Offer.handle (e : Offer) : Nat := bits e.w0 32 32
def Offer.st (e : Offer) : Nat := bits e.w0 29 3
def Offer.et (e : Offer) : Nat := bits e.w0 27 2
def Offer.fl (e : Offer) : Nat := bits e.w0 18 4
def Offer.src (e : Offer) : Nat := bits e.w0 0 18
def Offer.slen (e : Offer) : Nat := bits e.w1 46 18
def Offer.land (e : Offer) : Nat := bits e.w1 28 18
def Offer.llen (e : Offer) : Nat := bits e.w1 10 18
def Offer.setSt (e : Offer) (x : Nat) : Offer := ⟨setBits e.w0 29 3 x, e.w1⟩

/-- Entry i of a strand. -/
def State.entry (s : State) (w : StrandAt) (i : Nat) : Offer := ⟨s.regionWord w (80 + 2 * i), s.regionWord w (81 + 2 * i)⟩

def State.setEntry (s : State) (w : StrandAt) (i : Nat) (e : Offer) : State :=
  match s.inWorkspace w with
  | none =>
    let b := s.strand w
    s.setStrand w { b with ctx := { b.ctx with offers := b.ctx.offers.setIfInBounds i e } }
  | some _ => (s.setRegionWord w (80 + 2 * i) e.w0).setRegionWord w (81 + 2 * i) e.w1

/-- The lowest entry for which p holds. -/
def State.findEntry (s : State) (w : StrandAt) (p : Offer → Bool) : Option Nat := (List.range 8).find? fun i => p (s.entry w i)

/-- The entry in which a strand offers the event. -/
def State.offering (s : State) (w : StrandAt) (h : Nat) : Option Nat :=
  s.findEntry w fun e => e.st == 1 && e.handle == h

/-- A strand blocked in CHOOSE goes on (R185); the wait of R313 ends. -/
def State.wake (s : State) (w : StrandAt) : State :=
  let b := s.strand w
  s.setStrand w (if b.wait == some .choose then { b with wait := none, flagged := false } else b)

/-- Every entry for which p holds becomes what f says. -/
def State.mapEntries (s : State) (w : StrandAt) (p : Offer → Bool) (f : Offer → Offer) : State :=
  (List.range 8).foldl (fun s i => if p (s.entry w i) then s.setEntry w i (f (s.entry w i)) else s) s

/-- WITHDRAW (R186): the entries offered or stale become empty. -/
def State.withdraw (s : State) (w : StrandAt) : State :=
  s.mapEntries w (fun e => e.st == 1 || e.st == 4) fun _ => Offer.empty

/-- The strand leaves an event (R187). -/
def State.leaveEvent (s : State) (w : StrandAt) (who : StrandId) (h : Home) (n : Nat) : State :=
  let e := s.slot h n
  let hd := s.handleOf h n e.gen.toNat
  let s1 := s.mapEntries w (fun o => o.st == 1 && o.handle == hd) fun _ => Offer.empty
  s1.setSlot h n { e with strands := e.strands.filter (· != who) }

/-- The slots of a home of which the strand is a participant. -/
def State.memberIn (s : State) (h : Home) (who : StrandId) : List (Home × Nat) :=
  ((s.resolver h).slots.filter fun e => e.2.alloc && e.2.strands.contains who).map fun e => (h, e.1)

/-- Every home of the package that holds a slot. -/
def State.homes (s : State) : List Home :=
  (s.clusters.map fun e => Home.cluster e.1) ++ (List.range 4).map Home.die ++ [.package]

/-- The strand leaves every event of which it is a participant (R87): after a migration its events may have their home in another cluster or die (R383). -/
def State.leaveAll (s : State) (w : StrandAt) (who : StrandId) : State :=
  (s.homes.flatMap fun h => s.memberIn h who).foldl (fun s x => s.leaveEvent w who x.1 x.2) s

/-- A completion offer of a command (R72, R188). -/
def State.completionOffer (s : State) (h : Nat) : State :=
  match s.live h with
  | none => s
  | some (m, n) =>
    let e := s.slot m n
    s.setSlot m n { e with sigs := e.sigs.map fun x =>
      if x.2.ptr = 0 then (x.1, { x.2 with count := BitVec.ofNat 64 (min (x.2.count.toNat + 1) (2 ^ 64 - 1)) }) else x }

/-- A record that waits for an occurrence of an event whose slot is freed at tick t is refused with reason 8 (R373, R374, R408). -/
def QRec.orphan (t : Word) (hd : Nat) (r : QRec) : QRec :=
  if r.refused.isNone && r.ln.isNone && r.outcome.isNone && !r.after && (r.words.getD 0 0).getLsbD 52 &&
      (r.words.getD 6 0).toNat % 2 ^ 32 == hd then { r with refused := some 8, since := t }
  else r

/-- The wait of R313 of a strand ends, blocked or not. -/
def State.unflag (s : State) (w : StrandAt) : State := s.setStrand w { s.strand w with flagged := false }

/-- A slot is freed (R176, R184, R298): the entries that offer it become stale, so that the waits of their strands end (R313), and the records that wait for it are refused. -/
def State.freeSlot (s : State) (h : Home) (n : Nat) : State :=
  let e := s.slot h n
  let hd := s.handleOf h n e.gen.toNat
  let s1 := e.strands.foldl (fun s who =>
    match s.findStrand who with
    | none => s
    | some w =>
      if (s.offering w hd).isSome then
        ((s.mapEntries w (fun o => o.st == 1 && o.handle == hd) fun o => o.setSt 4).unflag w).wake w
      else s) s
  let s2 : State := { s1 with disp := { s1.disp with queues := s1.disp.queues.map fun q => { q with recs := q.recs.map (QRec.orphan s1.tick hd) } } }
  s2.setSlot h n { EvSlot.free with gen := e.gen + 1 }

/-- A slot is allocated for an event of a kind (R298). -/
def State.allocSlot (s : State) (h : Home) (n : Nat) (kind : EvKind) (strands : List StrandId) : State :=
  s.setSlot h n { EvSlot.free with alloc := true, kind := kind, gen := (s.slot h n).gen, strands := strands }

/-! Event operands and descriptors (R180, R181). -/

/-- The registers an event operand reads. -/
def EvRef.reads : EvRef → List RegRef
  | .reg r => rS r.val
  | .sym _ => []

/-- The handle of an event operand. DESIGN CHOICE (log 72): bits [63:32] of a register that holds one are ignored. -/
def EvRef.handle (b : Bank) : EvRef → Nat
  | .reg r => (b.ctx.s r.val).toNat % 2 ^ 32
  | .sym x => (b.id.evh.getD x.val 0).toNat

/-- An index beyond the image's event table (R181). -/
def EvRef.beyond (b : Bank) : EvRef → Bool
  | .reg _ => false
  | .sym x => decide (b.id.evh.length ≤ x.val)

/-- The check of R181 that precedes the others. -/
def evPre (i : Instr) (e : EvRef) (b : Bank) (_ : CoreKey) : Option Trap :=
  if EvRef.beyond b e then some (illegalAt i 3) else none

/-- A payload descriptor is valid (R180). -/
def State.payloadOk (s : State) (k : CoreKey) (e : Offer) : Bool :=
  e.handle == 0 && e.st == 0 && bits e.w0 22 5 == 0 && e.fl == 0 && bits e.w1 0 10 == 0 && e.et != 3 &&
    e.src % 8 == 0 && e.slen % 8 == 0 && e.land % 8 == 0 && e.llen % 8 == 0 &&
    decide (e.src + e.slen ≤ spadSize k) && decide (e.land + e.llen ≤ spadSize k) &&
    !(s.core k).meetsBound e.src e.slen && !(s.core k).meetsBound e.land e.llen

/-- A signal pointer of a binding descriptor is valid (R180). -/
def State.signalOk (s : State) (k : CoreKey) (p : Nat) : Bool :=
  p == 0 ||
    (p % 8 == 0 && (tagOf p == 0 || tagOf p == 1 || tagOf p == 2 || tagOf p == 8) &&
      match s.place k p 8 with
      | none => false
      | some (.spad t off) => !(s.core t).meetsBound off 8
      | some _ => true)

/-- A descriptor of 16 bytes in window 0x0 (R180): its words, with the hits the read makes. -/
def State.readDescriptor (s : State) (v : View) (p : Word) : Except Act (Word × Word × State × Option Trap) :=
  if tagOf p.toNat ≠ 0 then .error (.trap ⟨.addrWindow, p, 0⟩)
  else match s.readAt v p.toNat 16 16 with
    | .error st => .error (st.act p)
    | .ok (bs, s', w) => .ok (leWord (bs.take 8), leWord (bs.drop 8), s', w)

/-! The instructions. -/

/-- RD written and the instruction complete. -/
def finish (s : State) (k : CoreKey) (b : Fin 2) (d : DReg) (x : Word) (w : Option Trap) : Act :=
  let bk := s.bank k b
  .done (s.setBank k b { bk with ctx := bk.ctx.setS d.val x }) none w

/-- −1 and −2. -/
def minus1 : Word := 0xFFFFFFFFFFFFFFFF
def minus2 : Word := 0xFFFFFFFFFFFFFFFE

/-- Some entry of a bank's strand is occupied. -/
def Bank.occupied (b : Bank) : Bool := b.ctx.offers.toList.any fun e => e.st != 0

/-- R183; in Slate mode ILLEGAL while an entry is occupied (R399). It waits for the strand's earlier accesses, which come before every delivery write (R196). -/
def execOffer (d : DReg) (e : EvRef) (a : SReg) (s : State) : Next :=
  let i : Instr := .offer d e a
  let pre (b : Bank) (k : CoreKey) : Option Trap :=
    match evPre i e b k with
    | some t => some t
    | none => if b.id.slate && b.occupied then some (illegalAt i 22) else none
  issueWith s (foot (EvRef.reads e ++ rS a.val) (rS d.val)) pre fun s k b =>
    let bk := s.bank k b
    let h := EvRef.handle bk e
    match s.live h with
    | none => .trap (evStale h)
    | some (m, n) =>
      let os := bk.ctx.offers.toList
      if s.relWaits bk .dm then .wait
      else if !((s.slot m n).strands.contains bk.id.who) then .trap (illegalAt i 10)
      else if (os.all fun o => o.st != 0) || (os.any fun o => (o.st != 0 && o.handle == h) || o.st == 2 || o.st == 3) then
        .trap (illegalAt i 11)
      else
        let r := if a.val = 0 then .ok (0, 0, s, none) else s.readDescriptor (s.view k b) (bk.ctx.s a.val)
        match r with
        | .error t => t
        | .ok (w0, w1, s1, w) =>
          if !(s1.payloadOk k ⟨w0, w1⟩) then .trapAt s1 (illegal0 13)
          else
            let x := (os.findIdx? fun o => o.st == 0).getD 0
            let o : Offer := ⟨BitVec.ofNat 64 (h * 2 ^ 32 + 2 ^ 29) ||| w0, w1⟩
            finish (s1.setEntry (.bank k b) x o) k b d (BitVec.ofNat 64 x) w

/-- The entry that has occurred is taken (R185): its flags join fcsr, it becomes empty, RD receives its index. Delivery writes that the occurrence still owes to other participants hold the strand's accesses, not the strand (R196). -/
def takeEntry (s : State) (k : CoreKey) (b : Fin 2) (d : DReg) (i : Nat) : Act :=
  let bk := s.bank k b
  let e := s.entry (.bank k b) i
  let heard := bk.heard.filter s.delivers ++ if s.delivers e.handle then [e.handle] else []
  finish ((s.setBank k b { bk with ctx := bk.ctx.orFlags (BitVec.ofNat 6 e.fl), heard := heard }).setEntry (.bank k b) i Offer.empty) k b d (BitVec.ofNat 64 i) none

/-- What CHOOSE and POLL do once some entry is occupied; pending is the act while nothing has occurred. -/
def chooseEntry (s : State) (k : CoreKey) (b : Fin 2) (d : DReg) (pending : Act) : Act :=
  match s.findEntry (.bank k b) fun e => e.st == 3 with
  | some i => takeEntry s k b d i
  | none => match s.findEntry (.bank k b) fun e => e.st == 4 with
    | some i => .trap (evStale (s.entry (.bank k b) i).handle)
    | none => pending

/-- R185: with nothing occurred the strand is BLOCKED. -/
def execChoose (d : DReg) (s : State) : Next :=
  issue s (footT [] (rS d.val)) fun s k b =>
    let bk := s.bank k b
    let blocked : Act := .hold (s.setBank k b { bk with wait := some .choose, held := true })
    if !bk.occupied then .trap (illegal0 12)
    else chooseEntry s k b d blocked

/-- R185; in Slate mode ILLEGAL (R399). -/
def execPoll (d : DReg) (s : State) : Next :=
  issueWith s (foot [] (rS d.val)) (slate22 (.poll d)) fun s k b =>
    if !(s.bank k b).occupied then finish s k b d minus2 none
    else chooseEntry s k b d (finish s k b d minus1 none)

/-- R186. -/
def execWithdraw (d : DReg) (s : State) : Next :=
  issue s (foot [] (rS d.val)) fun s k b =>
    let r := match s.findEntry (.bank k b) fun e => e.st == 2 || e.st == 3 with
      | some i => BitVec.ofNat 64 i
      | none => minus1
    finish (s.withdraw (.bank k b)) k b d r none

/-- An event can not take a strand of this core as a further participant (R177, R182, R297). -/
def joinRefused (h : Home) (e : EvSlot) (k : CoreKey) : Bool :=
  (e.kind == .xchg && decide (2 ≤ e.strands.length)) ||
    match h with
    | .cluster c => decide (8 ≤ e.strands.length) || c != clusterOf k
    | .die d => d != dieOf k
    | .package => false

/-- The die of a home's resolver: the package's is with die 0 (log 32). -/
def dieOfHome : Home → Nat
  | .cluster c => dieOfCluster c
  | .die d => d
  | .package => 0

/-- The home can not acknowledge a request of a core: a link on the way retrains, or no way remains (R187, R319, R391). -/
def State.homeWaits (s : State) (k : CoreKey) (h : Home) : Bool :=
  match s.route (dieOf k) (dieOfHome h) with
  | .error _ => true
  | .ok () => false

/-- R187. -/
def execEvjoin (e : EvRef) (s : State) : Next :=
  let i : Instr := .evjoin e
  issueWith s (foot (EvRef.reads e) []) (evPre i e) fun s k b =>
    let bk := s.bank k b
    let h := EvRef.handle bk e
    match s.live h with
    | none => .trap (evStale h)
    | some (m, n) =>
      let x := s.slot m n
      if joinRefused m x k then .trap (illegalAt i 9)
      else if x.strands.contains bk.id.who then .trap (illegalAt i 10)
      else if s.homeWaits k m then .wait
      else .done (s.setSlot m n { x with strands := x.strands ++ [bk.id.who] }) none none

/-- R187. -/
def execEvleave (e : EvRef) (s : State) : Next :=
  let i : Instr := .evleave e
  issueWith s (foot (EvRef.reads e) []) (evPre i e) fun s k b =>
    let bk := s.bank k b
    let h := EvRef.handle bk e
    match s.live h with
    | none => .trap (evStale h)
    | some (m, n) =>
      if !((s.slot m n).strands.contains bk.id.who) then .trap (illegalAt i 10)
      else if s.homeWaits k m then .wait
      else .done (s.leaveEvent (.bank k b) bk.id.who m n) none none

/-- R188. DESIGN CHOICE (log 71): the participant takes the lowest free index. DESIGN CHOICE (log 83): the check of an event with 4 signal participants (R182) comes before the descriptor is read (R163) and judged (R180). -/
def execEvbind (d : DReg) (e : EvRef) (a : SReg) (s : State) : Next :=
  let i : Instr := .evbind d e a
  issueWith s (foot (EvRef.reads e ++ rS a.val) (rS d.val)) (evPre i e) fun s k b =>
    let bk := s.bank k b
    let h := EvRef.handle bk e
    match s.live h with
    | none => .trap (evStale h)
    | some (m, n) =>
      if 4 ≤ (s.slot m n).sigs.length then .trap (illegalAt i 9)
      else match s.readDescriptor (s.view k b) (bk.ctx.s a.val) with
        | .error t => t
        | .ok (w0, w1, s1, w) =>
          if !(s1.signalOk k w0.toNat) then .trapAt s1 (illegalAt i 13)
          else if s.homeWaits k m then .wait
          else
            let x := s1.slot m n
            let j := ((List.range 4).find? fun j => (x.sigs.all fun y => y.1 != j)).getD 0
            let y : Signal := ⟨w0, w1, 0, k, bk.id.spid⟩
            finish (s1.setSlot m n { x with sigs := insertKey j y x.sigs }) k b d (BitVec.ofNat 64 j) w

/-- R188. -/
def execEvbindU (e : EvRef) (a : SReg) (s : State) : Next :=
  let i : Instr := .evbindU e a
  issueWith s (foot (EvRef.reads e ++ rS a.val) []) (evPre i e) fun s k b =>
    let bk := s.bank k b
    let h := EvRef.handle bk e
    match s.live h with
    | none => .trap (evStale h)
    | some (m, n) =>
      let x := s.slot m n
      let j := (bk.ctx.s a.val).toNat
      if !(x.sigs.any fun y => y.1 == j) then .trap (illegalAt i 12)
      else if s.homeWaits k m then .wait
      else
        .done (s.setSlot m n { x with sigs := x.sigs.filter fun y => y.1 != j }) none none

/-! Resolution. -/

/-- A ready event of a resolution: its place among all (R302), its participants in ascending sid. -/
structure Claim where
  home : Home
  slot : Nat
  handle : Nat
  parts : List StrandId
  sigs : List (Nat × Signal)
  key : Nat
  deriving DecidableEq, Repr

/-- An element put into a list in ascending order of its key, after its equals. -/
def insertBy {α : Type} (f : α → Nat) (x : α) : List α → List α
  | [] => [x]
  | y :: l => if f x < f y then x :: y :: l else y :: insertBy f x l

/-- A list in ascending order of a key. -/
def sortBy {α : Type} (f : α → Nat) (l : List α) : List α := l.foldl (fun a x => insertBy f x a) []

/-- The sid of a strand of the package, or 0. -/
def State.sidWho (s : State) (w : StrandId) : Nat :=
  match s.findStrand w with
  | some a => (s.sidOf a).toNat
  | none => 0

/-- The view of a signal participant's accesses, which the resolver makes. It is no strand and no engine of a cluster, so no range lock stops it (DESIGN CHOICE, log 50). -/
def Signal.view (x : Signal) : View := ⟨x.core, x.spid, 0, .engine 5 0⟩

/-- The package as the messages of a resolution find it: they wait for a link that retrains and for a walk in flight, and the decision is the same as it would be otherwise (R391). -/
def State.settled (s : State) : State :=
  { s with links := s.links.map (fun l => if l.st = 1 then { l with st := 0 } else l)
           dies := s.dies.map fun d => { d with walks := [] } }

/-- A signal word: its place and its location. -/
def State.signalPlace (s : State) (x : Signal) (a : Acc) : Chk (Place × List (Nat × Nat)) := do
  let pl ← s.settled.issueChecks x.view x.ptr.toNat 8 8
  let ps ← s.settled.targetChecks x.view pl 8 a
  return (pl, ps)

/-- The value of a signal word (R188). -/
def State.signalRead (s : State) (x : Signal) : Chk Nat := do
  let r ← s.signalPlace x .read
  return leNat (s.load r.2)

/-- A signal participant offers (R188). One with threshold 0 offers at every tick, also where its word can not be read (DESIGN CHOICE, log 50). -/
def State.signalOffers (s : State) (x : Signal) : Bool :=
  if x.ptr = 0 then decide (x.threshold.toNat ≤ x.count.toNat)
  else match s.signalRead x with
    | .ok v => decide (x.threshold.toNat ≤ v)
    | .error .wait => false
    | .error (.trap _ _) => x.threshold == 0

/-- A strand offers the event. -/
def State.strandOffers (s : State) (h : Nat) (w : StrandId) : Bool :=
  match s.findStrand w with
  | some a => (s.offering a h).isSome
  | none => false

/-- Home number (R302). -/
def State.homeNumber (s : State) : Home → Nat
  | .package => 0
  | .die d => 1 + d
  | .cluster c => 5 + 240 * dieOfCluster c + (s.clid c).getD 0

/-- The place in resolution order (R302): credit, level, rotated slot, home number. -/
def State.claimKey (s : State) (h : Home) (n : Nat) (credit : Nat) : Nat :=
  let rot := (n + slotCount h - (s.resolver h).rot % slotCount h) % slotCount h
  (((65535 - credit) * 4 + (2 - Home.lvl h)) * 4096 + rot) * 1024 + s.homeNumber h

/-- The snapshot of one slot (R300). -/
def State.snapSlot (s : State) (h : Home) (n : Nat) : State × Option Claim :=
  let e := s.slot h n
  if !e.alloc then (s, none)
  else
    let hd := s.handleOf h n e.gen.toNat
    let noff := (e.strands.filter fun w => s.strandOffers hd w).length
    let ready := decide (e.strands ≠ []) && decide (noff = e.strands.length) && e.sigs.all fun x => s.signalOffers x.2
    let s1 := s.setSlot h n { e with noff := noff, ready := ready }
    (s1, if ready then some ⟨h, n, hd, sortBy s.sidWho e.strands, e.sigs, s.claimKey h n e.credit.toNat⟩ else none)

/-- The snapshot of some homes: their slots and the ready events in resolution order. -/
def State.snapshot (s : State) (homes : List Home) : State × List Claim :=
  let r := (homes.flatMap fun h => (s.resolver h).slots.map fun e => (h, e.1)).foldl
    (fun (a : State × List Claim) x =>
      let t := a.1.snapSlot x.1 x.2
      (t.1, a.2 ++ t.2.toList)) (s, [])
  (r.1, sortBy Claim.key r.2)

/-- The 64-bit word of a signal at a pointer: an atomic step at its home that adds d modulo 2^64. -/
def State.signalAdd (s : State) (v : View) (p : Nat) (ps : List (Nat × Nat)) (pl : Place) (d : Nat) : State :=
  (s.served v p pl 8 .atomic).1.store ps (leBytes 8 ((leNat (s.load ps) + d) % 2 ^ 64))

/-- What one signal commit does (R188): done with the word it takes, failed at a word, or failed without one. -/
inductive SigCommit where
  | done (s : State) (loc : Option Nat)
  | failed (s : State) (loc : Option Nat)

/-- The count of a pointer-0 participant changed. -/
def State.setCount (s : State) (c : Claim) (j : Nat) (f : Nat → Nat) : State :=
  let e := s.slot c.home c.slot
  s.setSlot c.home c.slot { e with sigs := e.sigs.map fun x =>
    if x.1 = j then (x.1, { x.2 with count := BitVec.ofNat 64 (f x.2.count.toNat) }) else x }

def State.commitSignal (s : State) (c : Claim) (j : Nat) (x : Signal) : SigCommit :=
  if x.ptr = 0 then
    let cur := ((s.slot c.home c.slot).sigs.find? fun y => y.1 == j).elim 0 fun y => y.2.count.toNat
    if x.threshold.toNat ≤ cur then .done (s.setCount c j fun n => n - x.threshold.toNat) none else .failed s none
  else
    match s.signalPlace x .atomic with
    | .error _ => .failed s none
    | .ok (pl, ps) =>
      let loc := (ps.headD (0, 0)).1
      if x.threshold.toNat ≤ leNat (s.load ps) then
        .done (s.signalAdd x.view x.ptr.toNat ps pl (2 ^ 64 - x.threshold.toNat)) (some loc)
      else .failed (s.served x.view x.ptr.toNat pl 8 .atomic).1 (some loc)

/-- A subtraction reversed (R305). -/
def State.reverseSignal (s : State) (c : Claim) (j : Nat) (x : Signal) : State :=
  if x.ptr = 0 then s.setCount c j fun n => min (n + x.threshold.toNat) (2 ^ 64 - 1)
  else
    match s.signalPlace x .atomic with
    | .error _ => s
    | .ok (pl, ps) => s.signalAdd x.view x.ptr.toNat ps pl x.threshold.toNat

/-- The signal commits of an event in ascending index, and the reversal of those made when one fails (R305): the words taken, or the word that failed. -/
def State.commitSignals (s : State) (c : Claim) : List (Nat × Signal) → List (Nat × Signal) → List Nat →
    State × Except (Option Nat) (List Nat)
  | [], _, locs => (s, .ok locs)
  | (j, x) :: l, made, locs =>
    match s.commitSignal c j x with
    | .done s1 loc => s1.commitSignals c l ((j, x) :: made) (locs ++ loc.toList)
    | .failed s1 loc => (made.foldl (fun s y => s.reverseSignal c y.1 y.2) s1, .error loc)

/-! Delivery. -/

/-- A strand participant at its commit. -/
structure Party where
  who : StrandId
  place : StrandAt
  idx : Nat
  ent : Offer
  deriving DecidableEq, Repr

def State.party (s : State) (h : Nat) (w : StrandId) : Option Party :=
  match s.findStrand w with
  | none => none
  | some a => (s.offering a h).map fun i => ⟨w, a, i, s.entry a i⟩

/-- Element type of a REDADD (R179): its format and size. -/
def etFmt (n : Nat) : Fmt × Nat := match n with | 0 => (fmtF32, 4) | 1 => (fmtF64, 8) | _ => (fmtBf16, 2)

/-- The pieces that land at rank r (R178), REDADD apart: landing offset, source rank, bytes. -/
def landPieces (kind : EvKind) (ps : List Party) (r : Nat) : List (Nat × Nat × Nat) :=
  let m (i : Nat) : Nat := ((ps[i]?).map fun p => p.ent.slen).getD 0
  let l := ((ps[r]?).map fun p => p.ent.llen).getD 0
  let all := match kind with
    | .bcast => [(0, 0, min (m 0) l)]
    | .xchg => if ps.length = 2 then [(0, 1 - r, min (m (1 - r)) l)] else []
    | .gather => (List.range ps.length).map fun q => (q * m 0, q, min (min (m q) (m 0)) (l - q * m 0))
    | _ => []
  all.filter fun x => x.2.2 != 0

/-- The 8-byte words, by offset in a source, that an uncorrectable error, a fenced core or a bound register region spoils (R310). -/
def State.spoiled (s0 : State) (p : Party) (n : Nat) : List Nat :=
  let k := p.place.core
  let s := s0.spilled k
  ((List.range (n / 8)).map (· * 8)).filter fun o =>
    (s.core k).fen || poisoned s.poison (spadBase k + p.ent.src + o) 8 || (s.core k).meetsBound (p.ent.src + o) 8

/-- n source bytes of a participant, as they stand once a pending spill is complete (R81). -/
def State.partyBytes (s : State) (p : Party) (n : Nat) : List Byte :=
  getBytes (s.spilled p.place.core).mem (spadBase p.place.core + p.ent.src) n

/-- n source bytes of a participant, read by a delivery to a core. -/
def State.sourceBytes (s : State) (v : View) (p : Party) (n : Nat) : List Byte × State :=
  let k := p.place.core
  let r := s.served v p.ent.src (.spad k p.ent.src) n .read
  (s.partyBytes p n, r.1)

/-- Element sums of a REDADD over the sources in ascending rank, with all flags. -/
def redElement (f : Fmt) (size e : Nat) (srcs : List (List Byte)) : Nat × Flags :=
  let x (b : List Byte) : Nat := leNat ((b.drop (e * size)).take size)
  match srcs with
  | [] => (0, 0)
  | b :: l => l.foldl (fun a c => withFlags a.2 (fAdd f .rne a.1 (x c))) (x b, 0)

def redSums (f : Fmt) (size n : Nat) (srcs : List (List Byte)) : List Byte × Flags :=
  (List.range n).foldl (fun a e =>
    let r := redElement f size e srcs
    (a.1 ++ leBytes size r.1, a.2 ||| r.2)) ([], 0)

/-- The delivery of one participant: the pieces for its landing buffer and its poisoned words, by scratchpad offset. -/
def State.capture (s : State) (kind : EvKind) (ps : List Party) (r : Nat) (p : Party) (red : List Byte) :
    State × List (Nat × List Byte) × List Nat :=
  let v : View := ⟨p.place.core, (s.strand p.place).id.spid, s.sidOf p.place, .delivery⟩
  match kind with
  | .redadd =>
    let size := (etFmt ((ps.headD p).ent.et)).2
    let bs := red.take (p.ent.llen / size * size)
    let s1 := ps.foldl (fun s q => (s.sourceBytes v q bs.length).2) s
    let bad := (ps.flatMap fun q => s.spoiled q bs.length).map (p.ent.land + ·)
    (s1, if bs.isEmpty then [] else [(p.ent.land, bs)], bad)
  | _ =>
    (landPieces kind ps r).foldl (fun a x =>
      match ps[x.2.1]? with
      | none => a
      | some q =>
        let t := a.1.sourceBytes v q x.2.2
        (t.2, a.2.1 ++ [(p.ent.land + x.1, t.1)], a.2.2 ++ (s.spoiled q x.2.2).map (p.ent.land + x.1 + ·)))
      (s, [], [])

/-- The dies of the cores from which the pieces for rank r come. -/
def sourceDies (kind : EvKind) (ps : List Party) (r : Nat) : List Nat :=
  let all := ps.map fun p => dieOf p.place.core
  (if kind = .redadd then all else (landPieces kind ps r).filterMap fun x => all[x.2.1]?).eraseDups

/-- A commit at one participant (R184): its entry is committed or, with nothing to land, occurred with its flags; its other offers are withdrawn. -/
def State.commitAt (s : State) (p : Party) (landing : Bool) (fl : Nat) : State :=
  let s1 := s.mapEntries p.place (fun e => e.st == 1 && e.handle != p.ent.handle) fun _ => Offer.empty
  let s2 := s1.setStrand p.place { s1.strand p.place with flagged := false }
  if landing then s2.setEntry p.place p.idx (p.ent.setSt 2)
  else
    let o := p.ent.setSt 3
    (s2.setEntry p.place p.idx ⟨setBits o.w0 18 4 fl, o.w1⟩).wake p.place

/-- Records that wait for an occurrence of the event have it (R373). -/
def State.markAfter (s : State) (h : Nat) : State :=
  { s with disp := { s.disp with queues := s.disp.queues.map fun q =>
    { q with recs := q.recs.map fun r =>
      if (r.words.getD 0 0).getLsbD 52 && (r.words.getD 6 0).toNat % 2 ^ 32 == h then { r with after := true } else r } } }

/-- The occurrence of an event whose signal commits stand (R178, R184): the sources are read before anything lands. DESIGN CHOICE (log 73): the flags of a REDADD are those of its first E elements, also of one that no landing buffer takes. -/
def State.occur (s : State) (c : Claim) : State :=
  let kind := (s.slot c.home c.slot).kind
  let ps := c.parts.filterMap fun w => s.party c.handle w
  let (f, size) := etFmt (((ps.map fun p => p.ent.et).head?).getD 0)
  let n := ((ps.map fun p => p.ent.slen / size).min?).getD 0
  let (red, fl) : List Byte × Flags :=
    if kind = .redadd then
      redSums f size n (ps.map fun p => s.partyBytes p (n * size))
    else ([], 0)
  let caught := (ps.zipIdx).foldl (fun (a : State × List (Party × List (Nat × List Byte) × List Nat × List Nat)) x =>
    let r := a.1.capture kind ps x.2 x.1 red
    (r.1, a.2 ++ [(x.1, r.2.1, r.2.2, sourceDies kind ps x.2)])) (s, [])
  let s1 := caught.2.foldl (fun s x =>
    let (p, segs, bad, dies) := x
    let s := s.commitAt p (!segs.isEmpty) (fl.toNat % 16)
    if segs.isEmpty then s
    else { s with deliveries := s.deliveries ++
      [⟨c.handle, p.who, Fin.ofNat 8 p.idx, p.place.core, (s.strand p.place).id.spid, segs, bad, fl.setWidth 4, dies⟩] }) caught.1
  s1.markAfter c.handle

/-! Sub-rounds (R303). -/

/-- A resolution in progress: the events left, the strands at which one occurred, the subtractions that stand with the place of the event that made each, the outcomes. -/
structure Round where
  st : State
  left : List Claim
  occAt : List StrandId
  stood : List (Nat × Nat)
  lost : List Claim
  won : List Claim

/-- Events with a participant whose entry is no longer offered are removed, lost or dropped (R303, R306). -/
def Round.prune (r : Round) : Round :=
  let gone (c : Claim) : Bool := !(c.parts.all fun w => r.st.strandOffers c.handle w)
  { r with left := r.left.filter fun c => !gone c
           lost := r.lost ++ r.left.filter fun c => gone c && c.parts.any fun w => r.occAt.contains w }

/-- The events that are first in resolution order at every one of their participants. -/
def winners (l : List Claim) : List Claim :=
  l.filter fun c => c.parts.all fun w => (l.find? fun e => e.parts.contains w) == some c

/-- The decision of one event of W (R303, R305). -/
def Round.decide (r : Round) (c : Claim) : Round :=
  let left := r.left.filter (· != c)
  match r.st.commitSignals c c.sigs [] [] with
  | (s1, .ok locs) =>
    { st := s1.occur c, left := left, occAt := r.occAt ++ c.parts
      stood := r.stood ++ locs.map fun l => (l, c.key), lost := r.lost, won := r.won ++ [c] }
  | (s1, .error loc) =>
    let lost := match loc with
      | some l => r.stood.any fun e => e.1 == l && e.2 < c.key
      | none => false
    { r with st := s1, left := left, lost := if lost then r.lost ++ [c] else r.lost }

/-- At most n sub-rounds. -/
def Round.run : Nat → Round → Round
  | 0, r => r
  | n + 1, r =>
    if r.left.isEmpty then r
    else
      let r1 := r.prune
      Round.run n ((winners r1.left).foldl Round.decide r1)

/-- The credits and rotations at the end of a resolution (R306, R307). -/
def Round.finish (r : Round) : State :=
  let s1 := r.lost.foldl (fun s c =>
    let e := s.slot c.home c.slot
    s.setSlot c.home c.slot { e with credit := BitVec.ofNat 16 (min (e.credit.toNat + 1) 65535) }) r.st
  let s2 := r.won.foldl (fun s c => s.setSlot c.home c.slot { s.slot c.home c.slot with credit := 0 }) s1
  (r.won.map Claim.home).eraseDups.foldl (fun s h =>
    let x := s.resolver h
    s.setResolver h { x with rot := (x.rot + 1) % slotCount h }) s2

/-- The homes have resolved once more, for a probe that waits for them (R314). -/
def Probe.resolved (p : Probe) (hs : List Home) : Probe :=
  { p with pending := p.pending.map fun v => { v with homes := v.homes.filter fun h => !hs.contains h } }

/-- One resolution of some homes (R303). -/
def State.resolve (s : State) (homes : List Home) : State :=
  let (s1, claims) := s.snapshot homes
  let s2 := (Round.run 8 ⟨s1, claims, [], [], [], []⟩).finish
  { s2 with probe := s2.probe.resolved homes, dies := s2.dies.map fun d => { d with probe := d.probe.resolved homes } }

/-- The home's own boundaries are skipped while a Vermilion stop has it in its scope (R258, R312): a cluster that is frozen, a die that a stop of scope 3 has frozen. -/
def State.skips (s : State) : Home → Bool
  | .cluster c => (s.clu c).verm.frz
  | .die d => s.clusters.any fun e => dieOfCluster e.1 == d && e.2.verm.frz && e.2.verm.reach == 3
  | .package => false

/-- The homes that have a boundary where some homes have one, but for those that skip it: a boundary of a level is one of every finer level, and all resolvers share them (R299, R300). -/
def State.boundaryHomes (s : State) (homes : List Home) : List Home :=
  s.homes.filter fun h => !s.skips h && homes.any fun g => decide (Home.lvl h ≤ Home.lvl g)

/-- R303: a resolve boundary of the levels of these homes. -/
def execResolution (homes : List Home) (s : State) : Next := .next (s.resolve (s.boundaryHomes homes))

/-- The pieces of a delivery written; none on a fenced core, none into the register region of a bound workspace (R81, R310). -/
def State.landSegs (s : State) (d : Delivery) : State :=
  if (s.core d.core).fen then s
  else
    let v : View := ⟨d.core, d.spid, 0, .delivery⟩
    let s1 := d.segs.foldl (fun s x =>
      if (s.core d.core).meetsBound x.1 x.2.length then s
      else (s.served v x.1 (.spad d.core x.1) x.2.length .write).1.store [(spadBase d.core + x.1, x.2.length)] x.2) s
    { s1 with poison := s1.poison ++ (d.poison.filter fun o =>
        !(s.core d.core).meetsBound o 8 && !s1.poison.contains (spadBase d.core + o)).map (spadBase d.core + ·) }

/-- The event of a handle has its home in a cluster (R176). -/
def ofCluster (h : Nat) : Bool := h / 2 ^ 30 % 4 == 0

/-- The delivery is held: the copy engine of its cluster is frozen (R258), a piece lies in a register region whose spill is pending (R81), or a link that a piece crosses retrains (R391). An occurrence of the frozen cluster's own home is delivered, so that a CHOOSE completes after an RTICK (R260; DEDUCED, log 78). -/
def State.deliveryWaits (s : State) (d : Delivery) : Bool :=
  ((s.clu (clusterOf d.core)).verm.frz && !ofCluster d.handle) ||
    (d.segs.any fun x => (s.core d.core).meetsSpilling x.1 x.2.length) ||
    d.dies.any fun e => match s.route e (dieOf d.core) with
      | .error .wait => true
      | _ => false

/-- The strands of a core. -/
def State.strandsOf (s : State) (k : CoreKey) : List StrandAt :=
  let c := s.core k
  (if c.b0.holds then [.bank k 0] else []) ++ (if c.b1.holds then [.bank k 1] else []) ++
    (List.range c.unbound.length).map fun n => .saved k n

/-- R178, R310: the n-th delivery owed is made, and its entry occurs. -/
def execEventDelivery (n : Nat) (s : State) : Next :=
  match s.deliveries[n]? with
  | none => .next s
  | some d =>
    if s.deliveryWaits d then .next s
    else
      let s1 := { s.landSegs d with deliveries := s.deliveries.eraseIdx n }
      .next (match s1.findStrand d.who with
        | none => s1
        | some w =>
          let o := s1.entry w d.entry.val
          if o.st = 2 then
            let o := o.setSt 3
            (s1.setEntry w d.entry.val ⟨setBits o.w0 18 4 d.flags.toNat, o.w1⟩).wake w
          else s1)

end Sys2Proof.Machine
end

