-- ==== Sys2Proof/Machine/Sys.lean ====
section
/-! DEFINITION. The system instructions NOP, TRAP, ERET, SWAPW, PHASE, SNAP, WAITT, RDS and WRS (R119 to R128), words that are no instruction (R67, R68), and trap entry as a step of its own (R93). -/

namespace Sys2Proof.Machine

open Sys2Proof

/-- Issue of a SYS instruction, which is ILLEGAL at the end address of an active pair (R117). -/
def issueSys (s : State) (i : Instr) (f : Foot) (body : State → CoreKey → Fin 2 → Act) : Next :=
  issue s f fun s k b =>
    match atLoopEnd i (s.bank k b) with
    | some t => .trap t
    | none => body s k b

/-- R119. -/
def execNop (s : State) : Next := issueSys s .nop (foot [] []) fun s _ _ => .done s none none

/-- R120: the trap is taken with tinfo.SK set, so a return goes on at pc + 4. -/
def execTrap (n : BitVec 6) (s : State) : Next :=
  issueSys s (.trap n) (foot [] []) fun _ _ _ => .trap ⟨.trap, n.setWidth 64, 0⟩

/-! RETURN FROM A TRAP (R94). -/

/-- The positions that a return owes: the trapping instruction unless tinfo.SK, then the window instructions that were not done. -/
def TrapBlock.owed (t : TrapBlock) : List Nat :=
  (if t.tinfo.getLsbD 27 then [] else [0]) ++
    ((List.range (bits t.tinfo 8 4)).filter fun i => !t.tinfo.getLsbD (12 + i)).map (· + 1)

/-- The end address of the body, inner before outer, in which the trap was taken and past which a return to an address goes (R116). -/
def Bank.passedEnd (b : Bank) (t : Word) : Option Word :=
  match b.trapAt with
  | none => none
  | some a => ([b.ctx.pair 1, b.ctx.pair 0].find? fun p => p.contains a && decide (p.last.toNat + 4 ≤ t.toNat)).map LoopPair.last

/-- The return from a trap, from the line that tests tinfo.SK (R94, R95): nothing is owed and the strand goes on after the window, or the trapping instruction issues once more where no other was issued, or the replays are owed one by one. A return past the end of the body in which the trap was taken is followed by that body's end processing (R116; DEDUCED, log 48). -/
def Bank.returns (b : Bank) : Bank :=
  let t := b.ctx.tb
  let n := bits t.tinfo 8 4
  let b1 := { b with replay := none, endDue := false, trapAt := none }
  let start := match t.owed with
    | [] => t.tpc + 4 * BitVec.ofNat 64 (n + 1)
    | j :: _ => t.tpc + 4 * BitVec.ofNat 64 j
  match b.passedEnd start, t.owed with
  | some e, _ => { b1 with pc := e + 4, endDue := true }
  | none, [] => { b1 with pc := start, endDue := b.ctx.atEnd (t.tpc + 4 * BitVec.ofNat 64 n) }
  | none, todo =>
    if n = 0 then { b1 with pc := t.tpc, again := b.nIssued + 1 }
    else { b1 with pc := t.tpc, replay := some ⟨t.tpc, n, BitVec.ofNat 15 (bits t.tinfo 12 15), todo⟩ }

/-- R94, R121. It writes l0 to l3 (R208). At an active end address ILLEGAL has detail 6, also where tstat.H = 0 (DEDUCED, log 47). -/
def execEret (s : State) : Next :=
  issueSys s .eret (footT [] ([40, 41, 42, 43].flatMap rS)) fun s k b =>
    let bk := s.bank k b
    if !bk.h then .trap (illegalAt .eret 5)
    else
      let c := { bk.ctx with l := bk.ctx.tb.tl, tb := bk.ctx.tb.setH false }
      let b1 := { bk with ctx := c, nIssued := bk.nIssued + 1, held := false, boundary := false, wait := none, flagged := false }
      .hold ((s.setBank k b b1.returns).skidIssue k)

/-! SWAPW (R122). -/

/-- The lines that a restore checks: the offset of the lowest of the register region at a location that meets an uncorrectable error, or whose tag does not match (R96, R213, R214). -/
def State.badLine (s : State) (loc : Nat) : Option Nat :=
  ((List.range 78).find? fun n =>
    poisoned s.poison (loc + 64 * n) (lineBytes n) || tagFails s.badTags (loc + 64 * n)).map (64 * ·)

/-- R96: the strand of a bank is DAMAGED; its server hears of it with the failing offset. -/
def State.damage (s : State) (k : CoreKey) (b : Fin 2) (off : Nat) : State :=
  let s1 := s.setBank k b { s.bank k b with st := .damaged, plane := Vector.replicate 8 none }
  let w : StrandAt := .bank k b
  let s2 := s1.setRegionWord w 74 (s1.regionWord w 74 ||| 4)
  let x := s2.bank k b
  let words := [s2.regionWord w 64, Cause.restoreIntegrity.word false, BitVec.ofNat 64 off, s2.regionWord w 67,
    s2.regionWord w 74, x.wsp.setWidth 64]
  s2.report 5 (s2.server x.id.fsrv) (s2.sid k b) x.id.who 0 x.id.spid words

/-- An entry of the offer block in a workspace is occupied. -/
def State.occupiedAt (s : State) (k : CoreKey) (wsp : Nat) : Bool :=
  (List.range 8).any fun i => bits (leWord (getBytes s.mem (spadBase k + wsp + 8 * (80 + 2 * i)) 8)) 29 3 != 0

/-- The words of a region that stay with the strand across SWAPW, as they are written into the region at a location (R122): its allowance, FGP and FGW. -/
def State.carryWords (s : State) (loc : Nat) (c : Ctx) : State :=
  s.put (loc + 8 * 52) ([c.tok, c.fgp, c.fgw].flatMap fun w => leBytes 8 w.toNat)

/-- The swap itself: the old region written, the new one loaded with the words that stay with the strand, or R96 with those words written to it. -/
def State.swapWorkspace (s : State) (k : CoreKey) (b : Fin 2) (t : Nat) : State :=
  let bk := s.bank k b
  let s1 := s.writeRegion k bk.wsp.toNat bk.ctx
  let b1 := { bk with wsp := BitVec.ofNat 18 t, trapAt := none }
  match s1.badLine (spadBase k + t) with
  | some off => ((s1.carryWords (spadBase k + t) bk.ctx).setBank k b b1).damage k b off
  | none =>
    let c := Ctx.ofMemory s1.mem (spadBase k + t)
    let c1 := { c with tok := bk.ctx.tok, fgp := bk.ctx.fgp, fgw := bk.ctx.fgw }
    s1.setBank k b { b1 with ctx := c1, plane := Vector.replicate 8 none }

/-- R122. A bank that holds no strand has no WSP (DEDUCED, log 49). DESIGN CHOICE (log 82): the pc goes to pc + 4 without end processing, even where an active pair of the new region ends at the SWAPW's own address. -/
def execSwapw (a : SReg) (s : State) : Next :=
  issueSys s (.swapw a) (footT (rS a.val) []) fun s k b =>
    let bk := s.bank k b
    let o := (s.core k).bank (1 - b)
    let t := bk.ctx.s a.val
    if !bk.drained then .wait
    else if tagOf t.toNat ≠ 0 ∨ spadSize k < t.toNat + 8192 then .trap ⟨.addrWindow, t, 0⟩
    else if t.toNat % 8192 ≠ 0 then .trap ⟨.align, t, 0⟩
    else if t.toNat = bk.wsp.toNat ∨ (t.toNat = o.wsp.toNat ∧ (o.st = .bound ∨ o.st = .restoring ∨ o.st = .damaged)) then
      .trap ⟨.protection, t, 0⟩
    else if o.st = .spilling ∧ o.wsp.toNat = t.toNat then .wait
    else if bk.occupied || s.occupiedAt k t.toNat then .trap (illegal0 7)
    else
      let s1 := s.swapWorkspace k b t.toNat
      let b1 := s1.bank k b
      .hold ((s1.setBank k b { b1 with pc := bk.curPc + 4, nIssued := bk.nIssued + 1, held := false, boundary := false
                                       wait := none, replay := none }).skidIssue k)

/-! PHASE (R123). -/

/-- A command that has neither completed nor stopped. -/
def Cmd.live (c : Cmd) : Bool := c.st != .stopped

/-- Some command that the strand pushed has neither completed nor stopped. -/
def State.pushedLive (s : State) (c : ClusterKey) (w : StrandId) : Bool :=
  (s.clu c).cmds.any fun x => x.who == w && x.live

/-- Dispatch records the strand's pc and phase index (R383). -/
def State.recordPhase (s : State) (i : Ident) (pc idx : Word) : State :=
  { s with disp := { s.disp with launches := s.disp.launches.map fun l =>
      if l.ln = i.ln then { l with phases := insertKey i.lid.toNat (pc, idx) l.phases } else l } }

/-- R123. -/
def execPhase (s : State) : Next :=
  issueSys s .phase (foot [] []) fun s k b =>
    let bk := s.bank k b
    if !bk.pend.isEmpty then .wait
    else if s.pushedLive (clusterOf k) bk.id.who then .stall .phase
    else if bk.occupied then .trap (illegal0 7)
    else
      let c := { bk.ctx with phase := bk.ctx.phase + 1 }
      let s1 := (s.setBank k b { bk with ctx := c }).complete k b none none
      let b1 := s1.bank k b
      .hold ((s1.setBank k b { b1 with boundary := true }).recordPhase bk.id (bk.curPc + 4) c.phase)

/-- R125, R411. -/
def execSnap (s : State) : Next :=
  issueSys s .snap (foot [] []) fun s k b => .done (s.ivoryFire 0 ((s.sid k b).setWidth 24)) none none

/-- R126. -/
def execWaitt (a : SReg) (s : State) : Next :=
  issueSys s (.waitt a) (foot (rS a.val) []) fun s k b =>
    if ((s.bank k b).ctx.s a.val).toNat ≤ s.tick.toNat then .done s none none else .stall .waitt

/-! System registers (R82). -/

/-- The value of the system register of a number. -/
def State.sysReg (s : State) (k : CoreKey) (b : Fin 2) (n : Nat) : Option Word :=
  let bk := s.bank k b
  let clid := (s.clid (clusterOf k)).getD 0
  let tb := bk.ctx.tb
  if 0x40 ≤ n ∧ n < 0x50 then some (vget bk.id.lch 0 (n - 0x40))
  else if 0x80 ≤ n ∧ n < 0xC0 then (bk.id.evh[n - 0x80]?).map fun h => h.setWidth 64
  else match n with
  | 0x00 => some (s.sid k b)
  | 0x01 => some (bk.id.lid.setWidth 64)
  | 0x02 => some (bk.id.nstr.setWidth 64)
  | 0x03 => some (BitVec.ofNat 64 (s.cid k))
  | 0x04 => some (BitVec.ofNat 64 clid)
  | 0x05 => some (BitVec.ofNat 64 (clid / 4))
  | 0x06 => some (BitVec.ofNat 64 (dieOf k))
  | 0x07 => some (s.ctl.pkid.setWidth 64)
  | 0x08 => some (if 2 ≤ clid % 4 then 1 else 0)
  | 0x10 => some (bk.wsp.setWidth 64)
  | 0x11 => some s.tick
  | 0x20 => some bk.ctx.fcsr
  | 0x30 => some tb.tpc
  | 0x31 => some tb.tcause
  | 0x32 => some tb.tval
  | 0x33 => some tb.tinfo
  | 0x34 => some tb.twvec
  | 0x35 => some tb.troute
  | 0x36 => some tb.tstat
  | _ => none

/-- R127: fcsr waits for pending flags (R40). -/
def execRds (d : DReg) (i : BitVec 11) (p : Level) (s : State) : Next :=
  let pre (b : Bank) (_ : CoreKey) : Option Trap :=
    if 0x80 + b.id.evh.length ≤ i.toNat ∧ i.toNat < 0xC0 then some (illegalAt (.rds d i p) 3) else none
  issueWith s (footS [] d p) pre fun s k b =>
    let bk := s.bank k b
    if i.toNat = 0x20 ∧ (bk.pend.any fun q => q.setsFlags) = true then .wait
    else match s.sysReg k b i.toNat with
      | none => .trap (illegalAt (.rds d i p) 3)
      | some y => .done (s.setBank k b { bk with ctx := bk.ctx.deliver d p y }) none none

/-- A write of a system register (R128). -/
def Ctx.writeSys (c : Ctx) (n : Nat) (x : Word) : Option Ctx :=
  let tb := c.tb
  match n with
  | 0x20 => some (c.writeFcsr x)
  | 0x30 => some { c with tb := { tb with tpc := x &&& pcMask, tinfo := tb.tinfo &&& 0xFF } }
  | 0x33 => some { c with tb := { tb with tinfo := x &&& tinfoMask } }
  | 0x34 => some { c with tb := { tb with twvec := x &&& pcMask } }
  | 0x35 => some { c with tb := { tb with troute := x &&& trouteMask } }
  | _ => none

/-- R128. -/
def execWrs (a : SReg) (i : BitVec 11) (s : State) : Next :=
  issue s (foot (rS a.val) []) fun s k b =>
    let bk := s.bank k b
    if i.toNat = 0x20 ∧ (bk.pend.any fun q => q.setsFlags) = true then .wait
    else match bk.ctx.writeSys i.toNat (bk.ctx.s a.val) with
      | none => .trap (illegalAt (.wrs a i) 3)
      | some c => .done (s.setBank k b { bk with ctx := c }) none none

/-! Words that are no instruction. -/

/-- tinfo[7:0] of a word that is no instruction (R67): the check it fails, but a number beyond the strand's event table fails check 3 first (R82, R181). -/
def illegalDetail (b : Bank) (w : Nat) : Nat :=
  let code := match decodeNat w with
    | .ok _ => 1
    | .error c => c
  let opc := fld w 25 7
  let beyond : Bool :=
    if opc = 0x27 then decide (0x80 + b.id.evh.length ≤ fld w 2 11)
    else if opc = 0x60 ∨ opc = 0x64 ∨ opc = 0x65 ∨ opc = 0x66 then
      decide (fld w 18 1 = 1) && decide (b.id.evh.length ≤ fld w 12 6)
    else false
  if 3 < code ∧ beyond = true then 3 else code

/-- R67, R68: ILLEGAL is precise at the word, and nothing of its own changes. -/
def execIllegal (w : BitVec 32) (s : State) : Next :=
  issueWith s (foot [] [])
    (fun b _ => some ⟨.illegal, w.setWidth 64, BitVec.ofNat 8 (illegalDetail b w.toNat)⟩) fun _ _ _ => .wait

/-! Trap entry. -/

/-- A trap of the bank waits, and everything that issued before it is done (R93). -/
def Bank.trapDue (b : Bank) : Bool := b.st == .bound && !b.trapped.isEmpty && b.drained

/-- R93: the trap that is due in a bank, active or shadow, is taken: the oldest; the younger are discarded (R92). -/
def execTrapEntry (k : CoreKey) (b : Fin 2) (s : State) : Next :=
  let bk := s.bank k b
  .next (match oldest bk.trapped with
    | some r => if bk.trapDue then s.enterTrap k b r else s
    | none => s)

end Sys2Proof.Machine
end

