-- ==== Sys2Proof/Machine/Ring.lean ====
section
/-! DEFINITION. Cluster rings (R239 to R246). -/

namespace Sys2Proof.Machine

open Sys2Proof

/-! Fields of RCFG and RPRD (R239). The three offsets are multiples of 8; their low bits are not read (log 23). -/

def Ring.en (r : Ring) : Bool := r.rcfg.getLsbD 63
def Ring.mode (r : Ring) : Nat := bits r.rcfg 61 2
def Ring.logcap (r : Ring) : Nat := bits r.rcfg 57 4
def Ring.base (r : Ring) : Nat := bits r.rcfg 41 16 * 8
def Ring.dsig (r : Ring) : Nat := bits r.rcfg 22 16 * 8
def Ring.ssig (r : Ring) : Nat := bits r.rcfg 3 16 * 8
def Ring.pbase (r : Ring) : Nat := bits r.rprd 32 32
def Ring.np (r : Ring) : Nat := bits r.rprd 27 5

def State.ring (s : State) (c : ClusterKey) (i : Nat) : Ring := vget (s.clu c).rings Ring.reset i
def State.setRing (s : State) (c : ClusterKey) (i : Nat) (r : Ring) : State :=
  s.setClu c { s.clu c with rings := (s.clu c).rings.setIfInBounds i r }

/-- A word of a cluster's SRAM. -/
def State.sramWord (s : State) (c : ClusterKey) (off : Nat) : Word := leWord (getBytes s.mem (sramBase c + off) 8)
def State.setSramWord (s : State) (c : ClusterKey) (off : Nat) (x : Word) : State :=
  s.store [(sramBase c + off, 8)] (leBytes 8 x.toNat)

/-- The address in SRAM of the entry of a ticket. -/
def Ring.slotOf (r : Ring) (t : Nat) : Nat := r.base + 8 * (t % 2 ^ r.logcap)

/-- The frontier past every consecutive written entry, with the number passed. -/
def frontier : Nat → Nat → List Nat → Nat × Nat
  | 0, f, _ => (f, 0)
  | n + 1, f, w => if w.contains f then let r := frontier n (f + 1) w; (r.1, r.2 + 1) else (f, 0)

/-- The producer rank of a strand in an ordered ring, where it is one. -/
def Ring.rank (r : Ring) (lid : Nat) : Option Nat :=
  if r.pbase ≤ lid ∧ lid < r.pbase + r.np then some (lid - r.pbase) else none

/-- The push of R242 at the ring's own cluster: the ticket, or none where the ring is full. -/
def State.ringPush (s : State) (c : ClusterKey) (i : Nat) (rank : Nat) (v : Word) : Option Nat × State :=
  let g := s.ring c i
  let ordered := g.mode = 1
  let t := if ordered then (vget g.ranks 0 rank).toNat * g.np + rank else g.arrival.toNat
  if g.head.toNat + 2 ^ g.logcap ≤ t then (none, s)
  else
    let g1 := if ordered then { g with ranks := g.ranks.setIfInBounds rank (vget g.ranks 0 rank + 1) }
      else { g with arrival := g.arrival + 1 }
    let w := t :: g.written
    let r := frontier w.length g.front.toNat w
    let s1 := s.setSramWord c (g.slotOf t) v
    let s2 := s1.setRing c i { g1 with front := BitVec.ofNat 64 r.1, written := w.filter fun x => decide (r.1 ≤ x) }
    (some t, s2.setSramWord c g.dsig (s2.sramWord c g.dsig + BitVec.ofNat 64 r.2))

/-- The pop of R243: the value and its ticket, or none where nothing is poppable. -/
def State.ringPop (s : State) (c : ClusterKey) (i : Nat) : Option (Word × Nat) × State :=
  let g := s.ring c i
  if g.head.toNat < g.front.toNat then
    let t := g.head.toNat
    let v := s.sramWord c (g.slotOf t)
    let s1 := s.setRing c i { g with head := g.head + 1 }
    (some (v, t), s1.setSramWord c g.ssig (s1.sramWord c g.ssig + 1))
  else (none, s)

/-- A selector is ill-formed (R240, R244). -/
def selectorBad (x : Word) : Bool :=
  bits x 16 48 != 0 || x.getLsbD 4 ||
    (if x.getLsbD 15 then decide (239 < bits x 5 8) else bits x 5 10 != 0)

/-- The SLATE check of R399 for a push. -/
def slatePush (d : DReg) (v a : SReg) (s : State) (b : Bank) (k : CoreKey) : Option Trap :=
  let x := b.ctx.s a.val
  let g := s.ring (clusterOf k) (bits x 0 4)
  if b.id.slate && (x.getLsbD 15 || g.mode != 1) then some (illegalAt (.rqpush d v a) 22) else none

/-- R242. It waits as a FENCE.r of its scope does. DESIGN CHOICE (log 76): a selector with REM = 1 whose cluster number names no enabled cluster gives −3. -/
def execRqpush (d : DReg) (v a : SReg) (s : State) : Next :=
  issueWith s (foot (rS v.val ++ rS a.val) (rS d.val)) (slatePush d v a s) fun s k b =>
    let bk := s.bank k b
    let x := bk.ctx.s a.val
    let i := bits x 0 4
    let ill (n : Nat) : Act := .trap (illegalAt (.rqpush d v a) n)
    if s.owedTo k || s.relWaits bk (if x.getLsbD 15 then .pk else .cl) then .wait
    else if s.slatePhase k bk then .trap ⟨.slateRemote, x, 0⟩
    else if selectorBad x then ill 16
    else if x.getLsbD 15 then
      match s.clusterPhys (bits x 13 2) (bits x 5 8) with
      | none => finish s k b d 0xFFFFFFFFFFFFFFFD none
      | some c =>
        match s.route (dieOf k) (dieOfCluster c) with
        | .error _ => .wait
        | .ok _ =>
          let g := s.ring c i
          if !g.en || g.mode != 2 then finish s k b d 0xFFFFFFFFFFFFFFFD none
          else match s.ringPush c i 0 (bk.ctx.s v.val) with
            | (none, _) => finish s k b d minus1 none
            | (some t, s1) => finish s1 k b d (BitVec.ofNat 64 t) none
    else
      let c := clusterOf k
      let g := s.ring c i
      if !g.en then ill 16
      else
        match (if g.mode = 1 then g.rank bk.id.lid.toNat else some 0) with
        | none => ill 17
        | some r => match s.ringPush c i r (bk.ctx.s v.val) with
          | (none, _) => finish s k b d minus1 none
          | (some t, s1) => finish s1 k b d (BitVec.ofNat 64 t) none

/-- R243: the ticket register is written last. A pop that returns a ticket orders as a FENCE.a after it (R246): it waits for the earlier loads and atomics. An entry that meets an uncorrectable error traps before the pop (log 22). -/
def execRqpop (d t : DReg) (a : SReg) (s : State) : Next :=
  issue s (foot (rS a.val) (rS d.val ++ rS t.val)) fun s k b =>
    let bk := s.bank k b
    let x := bk.ctx.s a.val
    let i := bits x 0 4
    let c := clusterOf k
    let g := s.ring c i
    if s.slatePhase k bk then .trap ⟨.slateRemote, x, 0⟩
    else if selectorBad x || x.getLsbD 15 || !g.en then .trap (illegalAt (.rqpop d t a) 16)
    else if g.head.toNat < g.front.toNat ∧ poisoned s.poison (sramBase c + g.slotOf g.head.toNat) 8 = true then
      .trap ⟨.memUncorrectable, BitVec.ofNat 64 (2 ^ 60 + g.slotOf g.head.toNat), 0⟩
    else
      let r := s.ringPop c i
      if s.owedTo k || (r.1.isSome && bk.pend.any fun p => !p.safe) then .wait
      else
      let (v, n) : Word × Word := match r.1 with
        | some (v, n) => (v, BitVec.ofNat 64 n)
        | none => (0, minus1)
      let b1 := r.2.bank k b
      .done (r.2.setBank k b { b1 with ctx := (b1.ctx.setS d.val v).setS t.val n }) none none

/-- A write of RCFG (R239): the bits kept, and with EN the counters and signal words start afresh. DESIGN CHOICE (log 75): the reserved MODE 0b11 enables the ring as arrival mode; with EN = 0, whose entries are discarded, RFRONT and the arrival counter stand at RHEAD. -/
def State.writeRcfg (s : State) (c : ClusterKey) (i : Nat) (v : Word) : State :=
  let g := s.ring c i
  let n : Ring := { g with rcfg := v }
  let ok := 3 ≤ n.logcap ∧ n.logcap ≤ 15 ∧ n.base + 8 * 2 ^ n.logcap ≤ sramSize ∧
    (n.mode = 1 → 1 ≤ n.np ∧ n.np ≤ 16)
  if n.en then
    let z : Ring := { n with head := 0, front := 0, arrival := 0, ranks := Vector.replicate 16 0, written := [] }
    let s1 := s.setRing c i (if ok then z else { z with rcfg := setBits v 63 1 0 })
    (s1.setSramWord c n.dsig 0).setSramWord c n.ssig (BitVec.ofNat 64 (2 ^ n.logcap))
  else s.setRing c i { n with front := g.head, arrival := g.head, written := [] }

end Sys2Proof.Machine
end

