-- ==== Sys2Proof/Machine/Command.lean ====
section
/-! DEFINITION. Command words and their checks (R69 to R77), the queues, the dependence graph and the range locks (R247 to R253), QPUSH and QSTAT, and how a command launches, runs its steps, completes, stops, is resumed and is discarded (R73, R74, R250 to R252, R271, R280, R281, R283). -/

namespace Sys2Proof.Machine

open Sys2Proof

/-! A launch's tokens (R8, R368). -/

def recWord (ws : List Word) (i : Nat) : Word := ws.getD i 0
def recTok (ws : List Word) : Nat := bits (recWord ws 0) 30 10

/-- The token allowance of a launch: its declared TOK. own: what a strand of no live launch holds in its word 0x1A0. -/
def State.allowance (s : State) (ln : BitVec 16) (own : Nat) : Nat :=
  match s.disp.launches.find? fun l => l.ln == ln with
  | some l => recTok l.words
  | none => own

/-! Fields of a command word (R70, R76). -/

abbrev CmdWords := Vector Word 4

def CmdWords.cop (w : CmdWords) : Nat := bits w[0] 56 8
def CmdWords.nid (w : CmdWords) : Nat := bits w[0] 48 8
def CmdWords.pred (w : CmdWords) : Nat := bits w[0] 44 4
def CmdWords.suc0 (w : CmdWords) : Nat := bits w[0] 36 8
def CmdWords.suc1 (w : CmdWords) : Nat := bits w[0] 28 8
def CmdWords.evv (w : CmdWords) : Bool := w[0].getLsbD 27
def CmdWords.evg (w : CmdWords) : Nat := bits w[0] 19 8
def CmdWords.evs (w : CmdWords) : Nat := bits w[0] 11 8
def CmdWords.pst (w : CmdWords) : Nat := bits w[0] 8 3
def CmdWords.pch (w : CmdWords) : Nat := bits w[0] 0 8

/-- The commands (R75). -/
inductive Op where
  | mmaBb | mmaE4 | mmaE5 | mmaDd | mmaF4 | mmaP8 | mmaPi
  | mzero | mdrain | mswap | mscale | msts
  | qinit | qacc | qapl | qaplt | qapr | qaprt | qrcp | qsave | qload
  | gthr | cpy | cpy2d | fill
  deriving DecidableEq, Repr

def opOf (n : Nat) : Option Op :=
  match n with
  | 0x10 => some .mmaBb | 0x11 => some .mmaE4 | 0x12 => some .mmaE5 | 0x13 => some .mmaDd
  | 0x14 => some .mmaF4 | 0x15 => some .mmaP8 | 0x16 => some .mmaPi
  | 0x18 => some .mzero | 0x19 => some .mdrain | 0x1A => some .mswap | 0x1B => some .mscale | 0x1C => some .msts
  | 0x20 => some .qinit | 0x21 => some .qacc | 0x22 => some .qapl | 0x23 => some .qaplt | 0x24 => some .qapr
  | 0x25 => some .qaprt | 0x26 => some .qrcp | 0x27 => some .qsave | 0x28 => some .qload
  | 0x30 => some .gthr | 0x38 => some .cpy | 0x39 => some .cpy2d | 0x3A => some .fill
  | _ => none

def Op.isMma : Op → Bool
  | .mmaBb | .mmaE4 | .mmaE5 | .mmaDd | .mmaF4 | .mmaP8 | .mmaPi => true
  | _ => false

def Op.isOrth : Op → Bool
  | .qinit | .qacc | .qapl | .qaplt | .qapr | .qaprt | .qrcp | .qsave | .qload => true
  | _ => false

/-- The commands of a cluster kind (R75). -/
def Op.inKind (o : Op) (nCluster : Bool) : Bool :=
  match o with
  | .mmaBb | .mmaE4 | .mmaE5 | .mmaDd => !nCluster
  | .mmaF4 | .mmaP8 | .mmaPi => nCluster
  | o => !(o.isOrth && nCluster)

/-- The queue of a command fits queue q (R75, R283): a slice, slice 0 alone, gather, copy. -/
def Op.queueOk (o : Op) (q : Nat) : Bool :=
  match o with
  | .gthr => q == 4
  | .cpy | .cpy2d | .fill => q == 5
  | o => if o.isOrth then q == 0 else decide (q < 4)

/-- Bits of A and of B an element, columns of the tile, chunk size of a pair (R45, R264). -/
def Op.pair : Op → Nat × Nat × Nat × Nat
  | .mmaBb => (16, 16, 32, 32)
  | .mmaE4 | .mmaE5 => (8, 8, 32, 32)
  | .mmaDd => (64, 64, 16, 8)
  | .mmaF4 => (4, 4, 32, 64)
  | _ => (8, 8, 32, 64)

/-- ⌈a / b⌉. -/
def cdiv (a b : Nat) : Nat := (a + b - 1) / b

/-! Operand fields (R76). -/

def CmdWords.tile (w : CmdWords) : Nat := bits w[3] 60 4
def CmdWords.k (w : CmdWords) : Nat := bits w[3] 48 12
def CmdWords.lda (w : CmdWords) : Nat := bits w[3] 36 12
def CmdWords.ldb (w : CmdWords) : Nat := bits w[3] 24 12
def CmdWords.sca (w : CmdWords) : Nat := bits w[3] 16 8
def CmdWords.scb (w : CmdWords) : Nat := bits w[3] 8 8
def CmdWords.gl (w : CmdWords) : Bool := w[3].getLsbD 7
def CmdWords.bt (w : CmdWords) : Bool := w[3].getLsbD 6
def CmdWords.ldd (w : CmdWords) : Nat := bits w[3] 36 12
def CmdWords.dfmt (w : CmdWords) : Nat := bits w[3] 1 2
def CmdWords.tile2 (w : CmdWords) : Nat := bits w[3] 56 4
def CmdWords.firstCol (w : CmdWords) : Nat := bits w[3] 16 8
def CmdWords.colCount (w : CmdWords) : Nat := bits w[3] 8 8 + 1
def CmdWords.oqs (w : CmdWords) : Bool := w[3].getLsbD 4
def CmdWords.wr (w : CmdWords) : Bool := w[3].getLsbD 3
def CmdWords.oq (w : CmdWords) : Fin 2 := if w[3].getLsbD 63 then 1 else 0
def CmdWords.prec (w : CmdWords) : Nat := bits w[3] 61 2
def CmdWords.pol (w : CmdWords) : Nat := bits w[3] 59 2
def CmdWords.cap (w : CmdWords) : Nat := bits w[3] 52 7
def CmdWords.rows (w : CmdWords) : Nat := bits w[3] 44 8
def CmdWords.ncol (w : CmdWords) : Nat := bits w[3] 32 12
def CmdWords.qldb (w : CmdWords) : Nat := bits w[3] 20 12
def CmdWords.nidx (w : CmdWords) : Nat := bits w[3] 56 8
def CmdWords.rowb (w : CmdWords) : Nat := bits w[3] 44 12
def CmdWords.gLda (w : CmdWords) : Nat := bits w[3] 32 12
def CmdWords.slice (w : CmdWords) : Nat := bits w[3] 0 2
def CmdWords.len (w : CmdWords) : Nat := bits w[3] 32 32
def CmdWords.rowLen (w : CmdWords) : Nat := bits w[3] 48 16
def CmdWords.nrow (w : CmdWords) : Nat := bits w[3] 32 16
def CmdWords.spitch (w : CmdWords) : Nat := bits w[3] 16 16
def CmdWords.dpitch (w : CmdWords) : Nat := bits w[3] 0 16
def CmdWords.p1 (w : CmdWords) : Nat := w[1].toNat
def CmdWords.p2 (w : CmdWords) : Nat := w[2].toNat

/-- Steps of a command (R73). -/
def cmdSteps (o : Op) (w : CmdWords) : Nat :=
  match o with
  | .mdrain => 32
  | .mscale => w.colCount
  | .qacc => 3
  | .qrcp => 2
  | .qapl | .qaplt | .qapr | .qaprt => cdiv w.ncol (cdiv w.ncol 256)
  | .gthr => w.nidx
  | .cpy | .fill => cdiv w.len (128 * cdiv w.len 32768)
  | .cpy2d => cdiv w.nrow (cdiv w.nrow 256)
  | .mzero | .mswap | .msts | .qinit | .qsave | .qload => 1
  | o => cdiv w.k o.pair.2.2.2

/-- The bits of words 1 to 3 that a command's fields do not cover (R76). -/
def reservedBits (o : Op) (w : CmdWords) : Bool :=
  let low (n : Nat) : Bool := bits w[3] 0 n == 0
  match o with
  | .mzero => w[1] == 0 && w[2] == 0 && low 60
  | .mdrain => w[1] == 0 && bits w[3] 48 12 == 0 && bits w[3] 3 33 == 0 && !w[3].getLsbD 0
  | .mswap => w[1] == 0 && w[2] == 0 && low 56
  | .mscale => w[2] == 0 && bits w[3] 24 40 == 0 && low 8
  | .msts => w[2] == 0 && bits w[3] 5 55 == 0 && low 3
  | .qinit => low 44
  | .qacc => low 63
  | .qapl | .qaplt | .qapr | .qaprt => w[2] == 0 && bits w[3] 44 19 == 0 && low 20
  | .qrcp => w[1] == 0 && w[2] == 0 && low 63
  | .qsave | .qload => w[2] == 0 && low 63
  | .gthr => bits w[3] 2 30 == 0
  | .cpy | .fill => low 32
  | .cpy2d => true
  | _ => low 6

/-- A pointer of the windows 0x0, 0x1, 0x2, 0x8 that is a multiple of n. -/
def winOk (p n : Nat) : Bool := (tagOf p == 0 || tagOf p == 1 || tagOf p == 2 || tagOf p == 8) && p % n == 0
/-- A pointer of the windows 0x0 and 0x1 that is a multiple of n. -/
def winLocal (p n : Nat) : Bool := (tagOf p == 0 || tagOf p == 1) && p % n == 0

/-- The canonical pointer of a range's first byte (R253); a pointer that names no byte stands as it is. -/
def State.canonStart (s : State) (k : CoreKey) (p : Nat) : Nat :=
  match s.place k p 1 with
  | some pl => s.canon pl
  | none => p

/-- Two ranges named in one form meet (R255). -/
def rangesMeet (a n b m : Nat) : Bool := decide (a < b + m) && decide (b < a + n)

/-- The bounding lengths of a CPY2D (R253). -/
def CmdWords.srcLen2 (w : CmdWords) : Nat := (w.nrow - 1) * w.spitch + w.rowLen
def CmdWords.dstLen2 (w : CmdWords) : Nat := (w.nrow - 1) * w.dpitch + w.rowLen

/-- The limits of a command at its push (R255, R270, R274, R276, R277, R286). -/
def State.limitsOk (s : State) (k : CoreKey) (o : Op) (w : CmdWords) : Bool :=
  match o with
  | .mzero | .mswap | .qrcp => true
  | .mdrain => winOk w.p2 16 && decide (w.dfmt < 3) &&
      decide ((match w.dfmt with | 0 => 128 | 1 => 32 | _ => 16) ≤ 16 * w.ldd)
  | .mscale => winOk w.p1 16 && decide (w.firstCol + w.colCount ≤ 256)
  | .msts => winOk w.p1 8 && !(w.oqs && decide (2 ≤ w.tile))
  | .qinit =>
    decide (w.prec < 2) && w.pol != 3 && decide (1 ≤ w.cap) && decide (w.cap ≤ if w.prec = 0 then 32 else 64) &&
      decide (1 ≤ w.rows) && decide (w.rows ≤ 128) && winOk w.p1 16 && decide (w.p2 < 32) &&
      !(w.pol == 1 && decide (w.p2 < 16))
  | .qacc => winOk w.p1 8
  | .qapl | .qaplt | .qapr | .qaprt => winLocal w.p1 8 && decide (1 ≤ w.ncol) && decide (1 ≤ w.qldb)
  | .qsave | .qload => winOk w.p1 16
  | .gthr => winLocal w.p1 16 && winLocal w.p2 2 && decide (1 ≤ w.nidx) && decide (1 ≤ w.rowb) &&
      decide (w.nidx * w.rowb * 16 ≤ 32768)
  | .cpy => decide (1 ≤ w.len) && !rangesMeet (s.canonStart k w.p1) w.len (s.canonStart k w.p2) w.len
  | .cpy2d => decide (1 ≤ w.rowLen) && decide (1 ≤ w.nrow) && !(decide (1 < w.nrow) && decide (w.dpitch < w.rowLen)) &&
      !rangesMeet (s.canonStart k w.p1) w.srcLen2 (s.canonStart k w.p2) w.dstLen2
  | .fill => w.p2 % 8 == 0 && w.len % 8 == 0 && decide (8 ≤ w.len)
  | o =>
    let (ea, eb, n, _) := o.pair
    let scales := cdiv w.k 32
    decide (1 ≤ w.k) && !(o == .mmaDd && decide (2048 < w.k)) &&
      (w.gl || (winOk w.p1 16 && decide (cdiv (w.k * ea) 8 ≤ 16 * w.lda))) && winOk w.p2 16 &&
      decide ((if w.bt then cdiv (w.k * eb) 8 else n * eb / 8) ≤ 16 * w.ldb) &&
      (if o = .mmaF4 then decide (w.sca + scales ≤ 256) else w.sca == 0) &&
      (if o = .mmaF4 ∨ o = .mmaP8 ∨ o = .mmaPi then decide (w.scb + scales ≤ 256) else w.scb == 0)

/-- The ranges that a command locks (R253, R278, R294): pointer, length, destination. The B operand of a gang is apart. -/
def cmdRanges (o : Op) (w : CmdWords) : List (Nat × Nat × Bool) :=
  match o with
  | .mzero | .mswap | .qinit | .qrcp => []
  | .mdrain => [(w.p2, 512 * w.ldd + 8, true)]
  | .mscale => [(w.p1, 64 * w.colCount, false)]
  | .msts => [(w.p1, 8, !w.wr)]
  | .qacc => [(w.p1, 1024, false)]
  | .qapl | .qaplt => [(w.p1, 8 * w.qldb * 127 + 8 * w.ncol, true)]
  | .qapr | .qaprt => [(w.p1, 8 * w.qldb * (w.ncol - 1) + 1024, true)]
  | .qsave => [(w.p1, 49216, true)]
  | .qload => [(w.p1, 49216, false)]
  | .gthr => [(w.p2, 2 * w.nidx, false)]
  | .cpy => [(w.p1, w.len, false), (w.p2, w.len, true)]
  | .cpy2d => [(w.p1, w.srcLen2, false), (w.p2, w.dstLen2, true)]
  | .fill => [(w.p2, w.len, true)]
  | o => if w.gl then [] else [(w.p1, 16 * w.lda * 31 + cdiv (w.k * o.pair.1) 8, false)]

/-- The range of the B operand of a gang (R278). -/
def gangRange (o : Op) (w : CmdWords) : Nat × Nat × Bool :=
  let (_, eb, n, _) := o.pair
  let (rows, row) := if w.bt then (n, cdiv (w.k * eb) 8) else (w.k, n * eb / 8)
  (w.p2, 16 * w.ldb * (rows - 1) + row, false)

/-! What the cluster holds. -/

/-- The command occupies its engine (R247). -/
def Cmd.onEngine (c : Cmd) : Bool :=
  match c.st with
  | .running | .finished | .faulted _ => true
  | _ => false

def Cmd.held (c : Cmd) : Bool := c.st != .stopped
def Cmd.op (c : Cmd) : Option Op := opOf (CmdWords.cop c.words)
def Cmd.isMma (c : Cmd) : Bool := (c.op.map Op.isMma).getD false
def Cmd.isOrth (c : Cmd) : Bool := (c.op.map Op.isOrth).getD false
def Cmd.nid (c : Cmd) : Nat := CmdWords.nid c.words
def Cmd.steps (c : Cmd) : Nat := (c.op.map fun o => cmdSteps o c.words).getD 1
def Cmd.view (c : Cmd) : View := ⟨c.core, c.spid, c.sid, .engine c.q.val c.id⟩

def Cluster.node (x : Cluster) (n : Nat) : Node := lookupD Node.free x.nodes n
def Cluster.setNode (x : Cluster) (n : Nat) (y : Node) : Cluster := { x with nodes := insertKey n y x.nodes }

/-- The command pushed from a location, held or stopped. -/
def Cluster.cmdAt (x : Cluster) (loc : Nat) : Option Cmd := x.cmds.find? fun c => c.loc == loc
def Cluster.cmd (x : Cluster) (i : Nat) : Option Cmd := x.cmds.find? fun c => c.id == i
def Cluster.setCmd (x : Cluster) (c : Cmd) : Cluster := { x with cmds := x.cmds.map fun d => if d.id = c.id then c else d }
def Cluster.dropCmd (x : Cluster) (i : Nat) : Cluster := { x with cmds := x.cmds.filter fun d => d.id != i }

/-- Commands that a queue holds, and its depth (R247). DESIGN CHOICE (log 77): a running command counts. -/
def Cluster.queued (x : Cluster) (q : Nat) : Nat := (x.cmds.filter fun c => c.held && c.q.val == q).length
def depth (q : Nat) : Nat := if q = 5 then 64 else 32

def Cluster.freeLocks (x : Cluster) : Nat := (x.locks.toList.filter fun e => e.isNone).length

/-- A queued command is ready (R247, R250). -/
def Cluster.ready (x : Cluster) (c : Cmd) : Bool := c.st == .queued && (c.nid == 0 || (x.node c.nid).st == .ready)

/-- Arrays that a launch runs, over the package (R8, R420): gangs and orthogonal commands from launch to their end. -/
def State.arraysOf (s : State) (ln : BitVec 16) : Nat :=
  (s.clusters.map fun e =>
    let run := e.2.cmds.filter fun c => c.onEngine
    (run.filter fun c => c.isOrth && c.who.ln == ln).length +
      ((run.filter fun c => c.gang.isSome && c.gln == ln).map Cmd.gang).eraseDups.length).sum

/-- Arrays active in the package (PTOK.ACTIVE, R387). -/
def State.arraysActive (s : State) : Nat :=
  (s.clusters.map fun e =>
    let run := e.2.cmds.filter fun c => c.onEngine
    (run.filter fun c => c.isOrth).length + ((run.filter fun c => c.gang.isSome).map Cmd.gang).eraseDups.length).sum

/-! Checks of a command word (R77). -/

/-- Step 4 of R77 for a fresh push and for a resume push. old: the command at the pointer. -/
def State.stepFour (s : State) (k : CoreKey) (o : Op) (w : CmdWords) (gang : Bool) (old : Option Cmd) : Bool :=
  let x := s.clu (clusterOf k)
  let nd := x.node w.nid
  reservedBits o w && s.limitsOk k o w && decide (w.pst < 2) && !(gang && w.pst != 0) && !(w.pst == 0 && w.pch != 0) &&
    decide (w.pch < cmdSteps o w) && !(w.nid == 0 && w.pred != 0) && !(w.suc0 != 0 && w.suc0 == w.suc1) &&
    !(w.nid != 0 && (w.suc0 == w.nid || w.suc1 == w.nid)) &&
    (if w.pst = 0 then old.isNone && (w.nid == 0 || (nd.st == .free && decide (nd.credits.length ≤ w.pred)))
     else w.pred == 0 && match old with
       | none => false
       | some c => c.st == .stopped && c.nid == w.nid && c.op == some o && c.words[1] == w[1] && c.words[2] == w[2] &&
           c.words[3] == w[3] && (w.nid == 0 || (nd.st == .stopped && nd.credits.isEmpty)) &&
           (!o.isMma || (c.gang.isSome && c.pch == w.pch)))

/-- The checks of R77 in their order. gang: the word comes through MGANG. -/
def State.checkCmd (s : State) (k : CoreKey) (q : Nat) (p : Word) (loc : Nat) (w : CmdWords) (tok : Nat) (gang : Bool) :
    Option Trap :=
  let x := s.clu (clusterOf k)
  let old := x.cmdAt loc
  let ill (n : Nat) : Option Trap := some ⟨.illegalCmd, p, BitVec.ofNat 8 n⟩
  let clid := (s.clid (clusterOf k)).getD 0
  let n := decide (2 ≤ clid % 4)
  match opOf w.cop with
  | none => ill 1
  | some o =>
    let slot := match old with
      | some c => c.st == .stopped && c.isMma && c.q.val != q
      | none => false
    if !o.queueOk q || (gang != o.isMma && !(o.isMma && w.pst != 0)) || (o.isMma && !gang && slot) then ill 2
    else if !o.inKind n || (o == .msts && w.oqs && n) then some ⟨.fmtAbsent, p, 0⟩
    else if !(s.stepFour k o w gang old) then ill 4
    else
      let h := s.handleOf (.cluster (clusterOf k)) w.evs w.evg
      if w.evv && (s.live h).isNone then some (evStale h)
      else if (o.isMma || o.isOrth) && tok == 0 then ill 6
      else none

/-! Acceptance (R249, R250, R253). -/

/-- Lock entries registered. DESIGN CHOICE (log 68): each takes the lowest free place. -/
def Cluster.addLocks (x : Cluster) : List Lock → Cluster
  | [] => x
  | l :: ls =>
    match x.locks.toList.findIdx? fun e => e.isNone with
    | some i => Cluster.addLocks { x with locks := x.locks.setIfInBounds i (some l) } ls
    | none => x

/-- The locks of some ranges for a command id, or for a gang id and the number of its resumptions. -/
def State.locksFor (s : State) (k : CoreKey) (q : Fin 6) (spid : BitVec 20) (id : Nat) (run : Option Nat)
    (rs : List (Nat × Nat × Bool)) : List Lock :=
  rs.map fun r =>
    let a := s.canonStart k r.1
    ⟨BitVec.ofNat 64 a, r.2.2, q, if tagOf a = 8 then spid else 0, r.2.1, id, run⟩

/-- The node of an accepted command (R250). DESIGN CHOICE (log 86): for a gang member, whose node another push took or sent more credits than its PRED between the checks of MGANG and the gang event, the node is overwritten and the excess dropped; R268 does not check again. -/
def Cluster.enterNode (x : Cluster) (w : CmdWords) : Cluster :=
  if w.nid = 0 then x
  else
    let nd := x.node w.nid
    let n := w.pred - nd.credits.length
    x.setNode w.nid ⟨if n = 0 then .ready else .waiting, n, []⟩

/-- Who pushes a command: its core, sid, strand, space id, server and allowance. -/
structure Pusher where
  core : CoreKey
  sid : Word
  who : StrandId
  spid : BitVec 20
  fsrv : Word
  tok : Nat
  deriving DecidableEq, Repr

def State.pusher (s : State) (k : CoreKey) (b : Fin 2) : Pusher :=
  let bk := s.bank k b
  ⟨k, s.sid k b, bk.id.who, bk.id.spid, bk.id.fsrv, s.allowance bk.id.ln bk.ctx.tok.toNat⟩

/-- A command accepted at the end of its queue. A resume push takes the place of the stopped command. -/
def State.acceptCmd (s : State) (u : Pusher) (q : Fin 6) (p : Word) (loc : Nat) (w : CmdWords) (gang : Option Nat) : State :=
  let c := clusterOf u.core
  let x := s.clu c
  let old := (x.cmdAt loc).filter fun d => d.st == .stopped
  let o := (opOf w.cop).getD .mzero
  let g := match gang with
    | some g => some g
    | none => (old.map Cmd.gang).join
  let run := (old.map fun d => d.run + 1).getD 0
  let cmd : Cmd :=
    { id := s.nextCmd, q := q, ptr := p, loc := loc, core := u.core, words := w, sid := u.sid, who := u.who, spid := u.spid
      fsrv := u.fsrv, tok := u.tok, st := .queued, pch := w.pch, gang := g, gln := 0, run := run, again := false
      rows := (old.map Cmd.rows).getD [], lag := [], ahead := none, lagAt := [], lagPch := 0
      dropped := false, runs := [] }
  let x1 := match old with
    | some d => x.dropCmd d.id
    | none => x
  let x2 := (x1.enterNode w).addLocks (s.locksFor u.core q u.spid cmd.id none (cmdRanges o w))
  let x3 := if o.isMma ∧ q = 0 then x2.addLocks (s.locksFor u.core q u.spid (g.getD 0) (some run) [gangRange o w]) else x2
  { (s.setClu c { x3 with cmds := x3.cmds ++ [cmd] }) with nextCmd := s.nextCmd + 1 }

/-- The ranges that a push of one command registers. -/
def pushRanges (o : Op) (w : CmdWords) (q : Nat) : Nat :=
  (cmdRanges o w).length + (if o.isMma && q == 0 then 1 else 0)

/-- Four words of 32 bytes. -/
def cmdWordsOf (bs : List Byte) : CmdWords := Vector.ofFn fun i => leWord ((bs.drop (8 * i.val)).take 8)

/-- The location of a command word. -/
def Place.loc : Place → Nat
  | .spad k off => spadBase k + off
  | .sram c off => sramBase c + off
  | .virt va => va
  | .far _ va => va

/-- The checks of QPUSH, QSTAT and MGANG on their pointer for n bytes, up to check 8 of R163 (R249, R252). -/
def State.commandPlace (s : State) (v : View) (p : Word) (n : Nat) : Except Act Place :=
  if tagOf p.toNat ≠ 0 ∧ tagOf p.toNat ≠ 1 then .error (.trap ⟨.addrWindow, p, 0⟩)
  else match s.issueChecks v p.toNat n 32 with
    | .error st => .error (st.act p)
    | .ok pl => match s.targetChecks v pl n .write with
      | .error st => .error (st.act p)
      | .ok _ => .ok pl

/-- Those checks and the read of the n bytes: the location, the bytes, the hits. -/
def State.readCommand (s : State) (v : View) (p : Word) (n : Nat) : Except Act (Nat × List Byte × State × Option Trap) :=
  match s.commandPlace v p n with
  | .error a => .error a
  | .ok pl => match s.targetChecks v pl n .read with
    | .error st => .error (st.act p)
    | .ok ps =>
      let r := s.served v p.toNat pl n .read
      .ok (pl.loc, s.load ps, r.1, r.2)

/-- QPUSH to a queue (R249). It waits for the strand's earlier accesses, before which the command's are not performed (R195, R198). -/
def issuePush (s : State) (d : DReg) (a : WReg) (q : Fin 6) : Next :=
  issue s (foot (rS a.val) (rS d.val)) fun s k b =>
    let p := (s.bank k b).ctx.s a.val
    if s.relWaits (s.bank k b) .dm then .wait
    else match s.readCommand (s.view k b) p 32 with
    | .error t => t
    | .ok (loc, bs, s1, w) =>
      let cw := cmdWordsOf bs
      let u := s1.pusher k b
      match s1.checkCmd k q.val p loc cw u.tok false with
      | some t => .trapAt s1 t
      | none =>
        let x := s1.clu (clusterOf k)
        let o := (opOf cw.cop).getD .mzero
        if depth q.val ≤ x.queued q.val then finish s1 k b d minus1 w
        else if x.freeLocks < pushRanges o cw q.val then finish s1 k b d minus2 w
        else finish (s1.acceptCmd u q p loc cw none) k b d 0 w

/-- R249. -/
def execQpushSl (d : DReg) (a : WReg) (n : Fin 4) (s : State) : Next := issuePush s d a ⟨n.val, by omega⟩

/-- R249. -/
def execQpushGth (d : DReg) (a : WReg) (s : State) : Next := issuePush s d a 4

/-- R249. -/
def execQpushCpy (d : DReg) (a : WReg) (s : State) : Next := issuePush s d a 5

/-- What QSTAT reports of a command that the cluster holds (R252). -/
def Cmd.progress (c : Cmd) : Option Nat :=
  match c.st with
  | .stopped => none
  | .queued => some 0
  | _ => some (0x200 + min c.pch (c.steps - 1))

/-- R252: memory is read only where the cluster holds no command pushed from the pointer. -/
def execQstat (d : DReg) (a : WReg) (s : State) : Next :=
  issue s (foot (rS a.val) (rS d.val)) fun s k b =>
    let p := (s.bank k b).ctx.s a.val
    match s.commandPlace (s.view k b) p 8 with
    | .error t => t
    | .ok pl => match ((s.clu (clusterOf k)).cmdAt pl.loc).bind Cmd.progress with
      | some y => finish s k b d (BitVec.ofNat 64 y) none
      | none => match s.readCommand (s.view k b) p 8 with
        | .error t => t
        | .ok (_, bs, s1, w) => finish s1 k b d (BitVec.ofNat 64 (leNat bs % 2048)) w

/-! Launch (R247, R271, R279, R283). -/

/-- The oldest ready command of a queue. -/
def Cluster.head (x : Cluster) (q : Nat) : Option Cmd := x.cmds.find? fun c => c.q.val == q && x.ready c

/-- An engine's queue runs something. -/
def Cluster.busy (x : Cluster) (q : Nat) : Bool := x.cmds.any fun c => c.q.val == q && c.onEngine

/-- An orthogonal command holds all four slices, or is the oldest ready command of slice 0 (R283). DESIGN CHOICE (log 89): one that is ready behind an older ready command holds nothing yet. -/
def Cluster.orthHolds (x : Cluster) : Bool :=
  (x.cmds.any fun c => c.isOrth && c.onEngine) || ((x.head 0).map Cmd.isOrth).getD false

/-- The cluster gate grants a token: the launch runs fewer arrays than its declared TOK (R8, R420). -/
def State.grants (s : State) (c : Cmd) : Bool := decide (s.arraysOf c.who.ln < s.allowance c.who.ln c.tok)

/-- A command starts: its node runs. -/
def Cluster.begin (x : Cluster) (c : Cmd) : Cluster :=
  let x1 := x.setCmd { c with st := .running }
  if c.nid = 0 then x1 else x1.setNode c.nid { x1.node c.nid with st := .running }

/-- The members of a gang that wait to launch, slice by slice. -/
def Cluster.gangReady (x : Cluster) (g : Nat) : List Cmd :=
  (List.range 4).filterMap fun q => match x.head q with
    | some c => if c.gang = some g then some c else none
    | none => none

/-- A GTHR into slice n is on the gather unit; a member that reads slice n's latch runs. -/
def Cluster.gathers (x : Cluster) (n : Nat) : Bool :=
  x.cmds.any fun c => c.op == some .gthr && c.onEngine && CmdWords.slice c.words == n
def Cluster.readsLatch (x : Cluster) (n : Nat) : Bool :=
  x.cmds.any fun c => c.isMma && c.onEngine && CmdWords.gl c.words && c.q.val == n

/-- A tile of a slice, and the format that its tag holds. -/
def Cluster.tileAt (x : Cluster) (slice n : Nat) : Tile := lookupD Tile.reset x.tiles (slice * 16 + n)
def Cluster.setTile (x : Cluster) (slice n : Nat) (t : Tile) : Cluster := { x with tiles := insertKey (slice * 16 + n) t x.tiles }

/-- What fails at the launch of a command (R263, R274, R286): ILLEGAL_CMD at its first step. -/
def Cluster.launchFault (x : Cluster) (c : Cmd) : Bool :=
  let w : CmdWords := c.words
  let q := vget x.oq Oq.reset w.oq.val
  let e := if q.f32 then 4 else 8
  match c.op with
  | some .mdrain =>
    let row := match (x.tileAt c.q.val w.tile).tag with
      | .f64 => (match w.dfmt with | 0 => 128 | 1 => 32 | _ => 16)
      | _ => (match w.dfmt with | 0 => 128 | 1 => 64 | _ => 32)
    decide (16 * w.ldd < row)
  | some .qapl | some .qaplt => !q.init || decide (8 * w.qldb < w.ncol * e)
  | some .qapr | some .qaprt => !q.init || decide (8 * w.qldb < q.rows * e)
  | some .qacc | some .qrcp | some .qsave => !q.init
  | some .mmaDd => (x.tileAt c.q.val w.tile).tag == .f32
  | some o => o.isMma && (x.tileAt c.q.val w.tile).tag == .f64
  | none => false

/-- A slice is under test: it launches nothing (R414). -/
def State.sliceHeld (s : State) (c : ClusterKey) (n : Nat) : Bool := s.test.running.any fun t => t.block == .slice c n

/-- The commands that a launch on a queue would start, where its engine has room and nothing holds them. -/
def State.launchable (s : State) (c : ClusterKey) (q : Fin 6) : List Cmd :=
  let x := s.clu c
  if x.verm.frz then []
  else match x.head q.val with
  | none => []
  | some h =>
    if q = 5 then (if (x.cmds.filter fun d => d.q == 5 && d.onEngine).length < 4 then [h] else [])
    else if x.busy q.val then []
    else if q = 4 then (if x.readsLatch (CmdWords.slice h.words) then [] else [h])
    else if h.isOrth then
      (if ((List.range 4).any fun n => x.busy n || s.sliceHeld c n) || !s.grants h then [] else [h])
    else if x.orthHolds then []
    else match h.gang with
      | none => if s.sliceHeld c q.val then [] else [h]
      | some g =>
        let ms := x.gangReady g
        match ms with
        | m0 :: _ =>
          if ms.length = 4 && !((List.range 4).any fun n => x.busy n || s.sliceHeld c n) && s.grants m0 &&
              ms.all (fun m => !(CmdWords.gl m.words && x.gathers m.q.val)) then
            ms.map fun m => { m with gln := m0.who.ln }
          else []
        | [] => []

/-- R247: the oldest ready command of a queue launches, a gang as one (R271). What fails at launch fails all of a gang (R280). DESIGN CHOICE (log 90): a command that was resumed at PCH > 0 and fails here stops with that PCH, where R286 says step 0. -/
def execCommandLaunch (c : ClusterKey) (q : Fin 6) (s : State) : Next :=
  let ms := s.launchable c q
  let x := ms.foldl Cluster.begin (s.clu c)
  let bad := ms.any fun m => x.launchFault m
  .next (s.setClu c (if bad then ms.foldl (fun x m => x.setCmd { m with st := .faulted .illegalCmd }) x else x))

/-! Steps. -/

/-- Why a step of an engine is not made now: a check, or an access to another package that is to be sent, with the package and the command as the step has left them. -/
inductive EngStop where
  | stop (st : Stop)
  | ask (s : State) (m : Cmd) (opc p n : Nat) (bs : List Byte)

/-- What a step of an engine finds. -/
abbrev Eng (α : Type) := Except EngStop α

/-- A check within a step. -/
def eng {α : Type} (x : Chk α) : Eng α := match x with
  | .ok a => .ok a
  | .error st => .error (.stop st)

/-- What a step of a command makes: the package and the command after it, or the failed check. -/
abbrev StepR := Chk (State × Cmd)

/-- A delivery is owed in the cluster: it comes before any step of the copy engine that has not started (R310). -/
def State.deliversIn (s : State) (c : ClusterKey) : Bool := s.deliveries.any fun d => clusterOf d.core == c

/-- An access of a step is sent to another package, and the step waits for its answer. -/
def State.sendAsk (s : State) (c : ClusterKey) (m : Cmd) (opc p n : Nat) (bs : List Byte) : Chk State := do
  let t ← s.ask (.cmd m.id) m.view m.who m.fsrv opc p n bs
  return t.setClu c ((t.clu c).setCmd m)

/-- A check of the command's next step fails: it stops before the step (R254). -/
def State.stepFails (s : State) (c : ClusterKey) (m : Cmd) (cause : Cause) : State :=
  (s.setClu c ((s.clu c).setCmd { m with st := .faulted cause })).dropAsks (.cmd m.id)

/-- R73: the next step of a running command of this operation. A check that fails stops the command before the step, one that waits holds it (R254). A step under way goes on in a frozen cluster (R258). -/
def stepWith (s : State) (c : ClusterKey) (i : Nat) (o : Op) (f : State → Cmd → Eng (State × Cmd)) : Next :=
  let x := s.clu c
  match x.cmd i with
  | none => .next s
  | some m =>
    let begun := s.asks (.cmd m.id)
    if m.st != .running || m.op != some o || (!begun && (x.verm.frz || (m.q == 5 && s.deliversIn c))) then .next s
    else match f s m with
      | .error (.stop .wait) => .next s
      | .error (.stop (.trap cause _)) => .next (s.stepFails c m cause)
      | .error (.ask s1 m1 opc p n bs) => match s1.sendAsk c m1 opc p n bs with
        | .error .wait => .next s
        | .error (.trap cause _) => .next (s.stepFails c m cause)
        | .ok s2 => .next s2
      | .ok (s1, m1) =>
        let n := m.pch + 1
        .next ((s1.setClu c ((s1.clu c).setCmd
          { m1 with pch := n, st := if m.steps ≤ n then .finished else .running })).dropAsks (.cmd m.id))

/-- The next step of a command that makes no access to another package. -/
def engineStep (s : State) (c : ClusterKey) (i : Nat) (o : Op) (f : State → Cmd → StepR) : Next :=
  stepWith s c i o fun s m => eng (f s m)

/-! Write-back, completion and stop. -/

/-- The place of a command word's location. -/
def placeOfLoc (loc : Nat) : Place :=
  if loc < 2 ^ 47 then .spad ((loc - 2 ^ 46) / 2 ^ 18) ((loc - 2 ^ 46) % 2 ^ 18)
  else .sram ((loc - 2 ^ 47) / 2 ^ 19) ((loc - 2 ^ 47) % 2 ^ 19)

/-- The command's word lies in the register region of a workspace whose spill is pending: its write-back waits (R81). -/
def State.backWaits (s : State) (m : Cmd) : Bool :=
  match placeOfLoc m.loc with
  | .spad k off => !(s.core k).fen && (s.core k).meetsSpilling off 8
  | _ => false

/-- R74: word 0 written back with PST and PCH. A word on a fenced core or in a bound register region is not written. DESIGN CHOICE (log 53): one past the last of 256 steps does not fit PCH, which then holds 0. -/
def State.writeBack (s : State) (m : Cmd) (pst : Nat) : State :=
  let pl := placeOfLoc m.loc
  let refused : Bool := match pl with
    | .spad k off => (s.core k).fen || (s.core k).meetsBound off 8
    | _ => false
  if refused then s
  else
    (s.served m.view m.ptr.toNat pl 8 .write).1.store [(m.loc, 8)]
      (leBytes 8 (setBits m.words[0] 0 11 (pst * 256 + m.pch % 256)).toNat)

/-- The lock entries of a command released; the B entry of its gang when no other member of the same run is on the engine (R278). -/
def Cluster.release (x : Cluster) (m : Cmd) : Cluster :=
  let last := !(x.cmds.any fun d => d.id != m.id && d.gang == m.gang && d.run == m.run && d.onEngine)
  { x with locks := x.locks.map fun e => match e with
      | some l =>
        if (l.cmd = m.id ∧ l.run = none) ∨ (last ∧ m.gang = some l.cmd ∧ l.run = some m.run) then none else some l
      | none => none }

/-- One successor decremented, or an early credit (R250). -/
def Cluster.decrement (x : Cluster) (ln : BitVec 16) (n : Nat) : Cluster :=
  if n = 0 then x
  else
    let nd := x.node n
    if nd.st = .waiting then x.setNode n { nd with count := nd.count - 1, st := if nd.count ≤ 1 then .ready else .waiting }
    else if 15 ≤ nd.credits.length then { x with cqerr := true }
    else x.setNode n { nd with credits := nd.credits ++ [ln] }

/-- A node is free again; its early credits stand. -/
def Cluster.freeNode (x : Cluster) (n : Nat) : Cluster :=
  if n = 0 then x else x.setNode n { x.node n with st := .free, count := 0 }

/-- A command report (R251, R440). -/
def State.cmdReport (s : State) (m : Cmd) (cause : Cause) (pst : Nat) : State :=
  s.report 3 (s.server m.fsrv) m.sid m.who m.ptr m.spid
    [m.ptr, BitVec.ofNat 64 cause.code, BitVec.ofNat 64 pst, BitVec.ofNat 64 m.pch]

/-- PST of a stop (R254). -/
def Cause.pst : Cause → Nat
  | .translation => 4
  | .linkDown => 5
  | .memUncorrectable => 6
  | _ => 7

/-- A RESUME of a stopped command (R251): its words are read again and pushed as a resume push. Where the queue or the lock table is full it waits for room; where the words fail, the command stays stopped and a report says so (log 24). DESIGN CHOICE (log 53): PRED is kept as memory holds it, and one that is not 0 fails step 4 of R77. -/
def State.resumeCmd (s : State) (c : ClusterKey) (m : Cmd) : State :=
  let x := s.clu c
  let fail (s : State) (cause : Cause) : State :=
    let y := { m with again := false }
    (s.setClu c ((s.clu c).setCmd y)).cmdReport y cause 7
  match s.readAt m.view m.ptr.toNat 32 32 with
  | .error .wait => s.setClu c (x.setCmd { m with again := true })
  | .error (.trap cause _) => fail s cause
  | .ok (bs, s1, _) =>
    let w0 := cmdWordsOf bs
    let w : CmdWords := w0.set 0 (setBits w0[0] 8 3 1)
    match s1.checkCmd m.core m.q.val m.ptr m.loc w (s1.allowance m.who.ln m.tok) false with
    | some t => fail s1 t.cause
    | none =>
      let o := (opOf w.cop).getD .mzero
      let x1 := s1.clu c
      if depth m.q.val ≤ x1.queued m.q.val ∨ x1.freeLocks < pushRanges o w m.q.val then
        s1.setClu c (x1.setCmd { m with again := true })
      else s1.acceptCmd ⟨m.core, m.sid, m.who, m.spid, m.fsrv, m.tok⟩ m.q m.ptr m.loc w none

/-- At a completion in a queue, the RESUMEs that wait for room are tried again (R251). -/
def State.retryResumes (s : State) (c : ClusterKey) (q : Fin 6) : State :=
  ((s.clu c).cmds.filter fun d => d.st == .stopped && d.again && d.q == q).foldl (fun s d => s.resumeCmd c d) s

/-- A gathered latch takes effect when its GTHR completes (R279). -/
def Cluster.installLatch (x : Cluster) (m : Cmd) : Cluster :=
  if m.op = some .gthr then
    { x with latches := x.latches.setIfInBounds (CmdWords.slice m.words) ⟨16 * CmdWords.rowb m.words, m.rows⟩ }
  else x

/-- R74, R250, R252: write-back; completion event; successors; locks; node; end of holding; RESUMEs that waited. -/
def State.completeCmd (s : State) (c : ClusterKey) (m : Cmd) : State :=
  let w : CmdWords := m.words
  let s1 := s.writeBack { m with pch := m.steps } 3
  let s2 := if w.evv then s1.completionOffer (s1.handleOf (.cluster c) w.evs w.evg) else s1
  let x := s2.clu c
  let x1 := ((x.installLatch m).decrement m.who.ln w.suc0).decrement m.who.ln w.suc1
  let x2 := ((x1.release m).freeNode m.nid).dropCmd m.id
  (s2.setClu c x2).retryResumes c m.q

/-- R74. -/
def execCommandCompletion (c : ClusterKey) (i : Nat) (s : State) : Next :=
  match (s.clu c).cmd i with
  | none => .next s
  | some m =>
    .next (if m.st = .finished ∧ (s.clu c).verm.frz = false ∧ s.backWaits m = false then s.completeCmd c m else s)

/-- A location lies in a scratchpad: its core, and the offset. -/
def spadOfLoc (loc : Nat) : Option (CoreKey × Nat) :=
  if 2 ^ 46 ≤ loc then (match placeOfLoc loc with | .spad k off => some (k, off) | _ => none) else none

/-- What became of the destination bytes that a stopping copy's steps have made and that waited for the rest of their word. -/
inductive Flushed where
  | wait
  | sent (s : State)
  | done (s : State) (m : Cmd)

/-- Bytes written at locations, their words' watchpoints hit. -/
def State.lagHere (s : State) (m : Cmd) : State :=
  let s1 := m.lag.foldl (fun s e => match s.place m.core e.1 e.2.length with
    | some pl => (s.served m.view e.1 pl e.2.length .write).1
    | none => s) s
  s1.store m.lagAt (m.lag.flatMap (·.2))

/-- The aligned words that two neighbours of some rising runs both reach into. -/
def sharedWords : List (Nat × List Byte) → List Nat
  | (a, bs) :: (b, cs) :: l =>
    let w := (a + bs.length - 1) / 8
    (if w = b / 8 then [w] else []) ++ sharedWords ((b, cs) :: l)
  | _ => []

/-- Byte a of some runs. -/
def byteOfRuns (rs : List (Nat × List Byte)) (a : Nat) : Option Byte :=
  rs.findSome? fun e => if e.1 ≤ a then e.2[a - e.1]? else none

/-- The writes, by code, pointer and bytes, that take runs to another package: a word that two runs reach into is one write under a mask, so that no word is written in parts (R190). -/
def farWrites (rs : List (Nat × List Byte)) : List (Nat × Nat × List Byte) :=
  let ws := (sharedWords rs).eraseDups
  let masked (w : Nat) : Nat × Nat × List Byte :=
    let bs := (List.range 8).map fun i => byteOfRuns rs (8 * w + i)
    (0x100 + ((bs.zipIdx).map fun e => if e.1.isSome then 2 ^ e.2 else 0).sum, 8 * w, bs.map fun b => b.getD 0)
  let rest := rs.filterMap fun e =>
    let z := e.1 + e.2.length
    let lo := if ws.contains (e.1 / 8) then min z (8 * (e.1 / 8) + 8) else e.1
    let hi := if ws.contains ((z - 1) / 8) then max lo (8 * ((z - 1) / 8)) else z
    if lo < hi then some (0x70, lo, (e.2.drop (lo - e.1)).take (hi - lo)) else none
  ws.map masked ++ rest

/-- Those bytes in another package: each of these writes is sent and answered. -/
def State.lagAway (s : State) (c : ClusterKey) (m : Cmd) : List (Nat × Nat × List Byte) → Flushed
  | [] => .done (s.dropAsks (.cmd m.id)) m
  | (opc, p, bs) :: l => match s.asked (.cmd m.id) opc p bs.length with
    | .over _ => s.lagAway c m l
    | .wait => .wait
    | .failed _ _ => .done (s.dropAsks (.cmd m.id)) { m with pch := m.lagPch }
    | .none => match s.sendAsk c m opc p bs.length bs with
      | .ok t => .sent t
      | .error .wait => .wait
      | .error (.trap _ _) => .done (s.dropAsks (.cmd m.id)) { m with pch := m.lagPch }

/-- The destination bytes that a copy's steps have made and that waited for their word are written as it stops (R73, R190), as those steps have passed their checks. Where another package refuses them, the step that made the first of them counts as not made (DESIGN CHOICE, log 53). -/
def State.flushLag (s : State) (c : ClusterKey) (m : Cmd) : Flushed :=
  let at' := m.lagAt.filterMap fun q => (spadOfLoc q.1).map fun r => (r.1, r.2, q.2)
  if m.lag.isEmpty then .done s m
  else if m.lagAt.isEmpty then s.lagAway c m (farWrites m.lag)
  else if at'.any fun r => (s.core r.1).meetsSpilling r.2.1 r.2.2 then .wait
  else .done (s.lagHere m) m

/-- R251: write-back; locks; the node stays stopped; the report. -/
def State.stopCmd (s : State) (c : ClusterKey) (m : Cmd) (cause : Cause) : State :=
  let s1 := s.writeBack m cause.pst
  let x := (s1.clu c).release m
  let x1 := if m.nid = 0 then x else x.setNode m.nid { x.node m.nid with st := .stopped }
  (s1.setClu c (x1.setCmd { m with st := .stopped, lag := [], lagAt := [], ahead := none, runs := [] })).cmdReport m cause cause.pst

/-- Commands that a DISCARD of one ends (R251, R281): itself, or every member of its gang record, those that have still to stop and those resumed and held among them. -/
def Cluster.discards (x : Cluster) (m : Cmd) : List Cmd :=
  match m.gang with
  | none => [m]
  | some g => x.cmds.filter fun d => d.gang == some g

/-- A command discarded: it leaves its queue, its locks and its node are freed, its successors are never released. -/
def Cluster.discardOne (x : Cluster) (m : Cmd) : Cluster := ((x.release m).freeNode m.nid).dropCmd m.id

/-- A stop is counted for a launch (R381). -/
def State.countStop (s : State) (ln : BitVec 16) : State :=
  { s with disp := { s.disp with launches := s.disp.launches.map fun l =>
      if l.ln = ln then { l with stops := l.stops + 1 } else l } }

/-- One command leaves, and its launch will complete as faulted (R251). -/
def State.dropOne (s : State) (c : ClusterKey) (m : Cmd) : State := (s.setClu c ((s.clu c).discardOne m)).countStop m.who.ln

/-- R251, R281: a stopped command is discarded. A member of its gang that has still to stop is discarded at its stop. -/
def State.discardCmd (s : State) (c : ClusterKey) (m : Cmd) : State :=
  ((s.clu c).discards m).foldl (fun s d => match d.st with
    | .faulted _ => s.setClu c ((s.clu c).setCmd { d with dropped := true })
    | _ => s.dropOne c d) s

/-- A command stops once its word may be written and no byte of it waits. -/
def State.stopNow (s : State) (c : ClusterKey) (m : Cmd) (cause : Cause) : State :=
  if (s.clu c).verm.frz || s.backWaits m then s
  else match s.flushLag c m with
    | .wait => s
    | .sent t => t
    | .done t m1 =>
      let t1 := t.stopCmd c m1 cause
      if m.dropped then t1.dropOne c m1 else t1

/-- R251. -/
def execCommandStop (c : ClusterKey) (i : Nat) (s : State) : Next :=
  match (s.clu c).cmd i with
  | none => .next s
  | some m => match m.st with
    | .faulted cause => .next (s.stopNow c m cause)
    | _ => .next s

end Sys2Proof.Machine
end

