-- ==== Sys2Proof/Machine/Copy.lean ====
section
/-! DEFINITION. The accesses of an engine, and the steps of the copy and gather commands (R73, R254, R255, R279). -/

namespace Sys2Proof.Machine

open Sys2Proof

/-- n bytes read by an engine in this package; the read waits for its landing slots (R328). -/
def State.engineRead (s : State) (v : View) (p n w : Nat) : Chk (List Byte × State) := do
  let (bs, s1, _) ← s.readAt v p n w
  return (bs, s1)

/-- Bytes written by an engine in this package. -/
def State.engineWrite (s : State) (v : View) (p w : Nat) (bs : List Byte) : Chk State := s.writeAt v p w bs

/-- n bytes read by a copy: in this package, or asked of another one (R446). -/
def State.copyGet (s : State) (m : Cmd) (p n : Nat) : Eng (List Byte × State) := do
  let pl ← eng (s.issueChecks m.view p n 1)
  if pl.isFar then match s.asked (.cmd m.id) 0x72 p n with
    | .none => .error (.ask s m 0x72 p n [])
    | .wait => .error (.stop .wait)
    | .failed c d => .error (.stop (.trap (causeOfCode c) d))
    | .over bs => return (bs, s)
  else eng (s.engineRead m.view p n 1)

/-- Another package is asked whether it would accept these bytes: no step starts whose write it refuses (R73, R254). -/
def State.copyMay (s : State) (m : Cmd) (p n : Nat) : Eng Unit := do
  let pl ← eng (s.issueChecks m.view p n 1)
  if pl.isFar then match s.asked (.cmd m.id) 0 p n with
    | .none => .error (.ask s m 0 p n [])
    | .wait => .error (.stop .wait)
    | .failed c d => .error (.stop (.trap (causeOfCode c) d))
    | .over _ => return ()
  else return ()

/-- A write of a copy, by its code, in another package. -/
def State.copyFar (s : State) (m : Cmd) (opc p : Nat) (bs : List Byte) : Eng Unit :=
  match s.asked (.cmd m.id) opc p bs.length with
  | .none => .error (.ask s m opc p bs.length bs)
  | .wait => .error (.stop .wait)
  | .failed c d => .error (.stop (.trap (causeOfCode c) d))
  | .over _ => .ok ()

/-- Bytes written by a copy, here or in another package. -/
def State.copyPut (s : State) (m : Cmd) (p : Nat) (bs : List Byte) : Eng State := do
  let pl ← eng (s.issueChecks m.view p bs.length 1)
  if pl.isFar then
    s.copyFar m 0x70 p bs
    return s
  else eng (s.engineWrite m.view p 1 bs)

/-! The words of a copy. A step ends where R73 has it end, and an aligned 8-byte word of a range is read, and written, in one piece (R190): a source word at a step's edge is read whole with the step's last bytes, and the destination bytes of a word that the next step goes on with wait for it. -/

/-- n bytes of a command's source at p. hi: the end of the range. What a word read before holds is taken from it. -/
def State.copyRead (s : State) (m : Cmd) (hi p n : Nat) : Eng (List Byte × State × Cmd) := do
  let kept : List Byte := match m.ahead with
    | some (q, bs) => if q ≤ p ∧ p < q + bs.length then (bs.drop (p - q)).take n else []
    | none => []
  let lo := p + kept.length
  if p + n ≤ lo then return (kept, s, m)
  else
    let top := max (p + n) (min hi ((p + n + 7) / 8 * 8))
    let (bs, s1) ← s.copyGet m lo (top - lo)
    let more := bs.drop (p + n - lo)
    return (kept ++ bs.take (p + n - lo), s1, { m with ahead := if more.isEmpty then none else some (p + n, more) })

/-- Runs of bytes at rising pointers, those that touch joined. -/
def joinRuns : List (Nat × List Byte) → List (Nat × List Byte)
  | [] => []
  | (a, bs) :: l => match joinRuns l with
    | (b, cs) :: r => if a + bs.length = b then (a, bs ++ cs) :: r else (a, bs) :: (b, cs) :: r
    | [] => [(a, bs)]

/-- What of some runs lies below a pointer, and what at or above it. -/
def splitRuns (edge : Nat) (rs : List (Nat × List Byte)) : List (Nat × List Byte) × List (Nat × List Byte) :=
  let full := fun (e : Nat × List Byte) => !e.2.isEmpty
  ((rs.map fun e => (e.1, e.2.take (edge - e.1))).filter full,
   (rs.map fun e => (max e.1 edge, e.2.drop (edge - e.1))).filter full)

/-- Runs written in this package, in order. -/
def State.writeHere (s : State) (m : Cmd) : List (Nat × List Byte) → Eng State
  | [] => .ok s
  | e :: l => do
    let s1 ← eng (s.engineWrite m.view e.1 1 e.2)
    s1.writeHere m l

/-- Writes made in another package, in order. -/
def State.writeFar (s : State) (m : Cmd) : List (Nat × Nat × List Byte) → Eng Unit
  | [] => .ok ()
  | (opc, p, bs) :: l => do
    s.copyFar m opc p bs
    s.writeFar m l

/-- Runs of a copy's destination written, here or in another package. -/
def State.writeRuns (s : State) (m : Cmd) (rs : List (Nat × List Byte)) : Eng State := do
  match rs with
  | [] => return s
  | e :: _ =>
    let pl ← eng (s.issueChecks m.view e.1 e.2.length 1)
    if pl.isFar then
      s.writeFar m (farWrites rs)
      return s
    else s.writeHere m rs

/-- Every run would be accepted in another package. -/
def State.mayRuns (s : State) (m : Cmd) : List (Nat × List Byte) → Eng Unit
  | [] => .ok ()
  | e :: l => do
    s.copyMay m e.1 e.2.length
    s.mayRuns m l

/-- The locations in this package of runs that wait, with every check of a write. -/
def State.runPlaces (s : State) (v : View) : List (Nat × List Byte) → Chk (List (Nat × Nat))
  | [] => .ok []
  | e :: l => do
    let pl ← s.issueChecks v e.1 e.2.length 1
    let ps ← s.targetChecks v pl e.2.length .write
    return ps ++ (← s.runPlaces v l)

/-- A step's runs written to a copy's destination with those that wait. next: where the next step's bytes start, where there is one; the word that it goes on with waits, and its checks are made now. -/
def State.copyWrite (s : State) (m : Cmd) (next : Option Nat) (rs : List (Nat × List Byte)) : Eng (State × Cmd) := do
  let all := joinRuns (m.lag ++ rs)
  let (now, later) := match next with
    | some a => splitRuns (a / 8 * 8) all
    | none => (all, [])
  s.mayRuns m (now ++ later)
  let s1 ← s.writeRuns m now
  let at' ← eng (s1.runPlaces m.view later)
  let same := !m.lag.isEmpty && m.lag.head?.map (·.1) == later.head?.map (·.1)
  return (s1, { m with lag := later, lagAt := at', lagPch := if later.isEmpty || same then m.lagPch else m.pch, runs := [] })

/-- The runs of a step: those that it has read already, while their write waits for an answer, or those that it reads now. -/
def stepRuns (s : State) (m : Cmd) (read : State → Cmd → Eng (List (Nat × List Byte) × State × Cmd)) :
    Eng (List (Nat × List Byte) × State × Cmd) :=
  if m.runs.isEmpty then match read s m with
    | .error (.ask _ _ opc p n bs) => .error (.ask s m opc p n bs)
    | .error e => .error e
    | .ok (rs, s1, m1) => .ok (rs, s1, { m1 with runs := rs })
  else .ok (m.runs, s, m)

/-- Offset and length of a step of CPY and FILL (R73). -/
def copyPiece (len j : Nat) : Nat × Nat :=
  let n := 128 * cdiv len 32768
  (j * n, min n (len - j * n))

/-- One step of a CPY. -/
def cpyStep (s : State) (m : Cmd) : Eng (State × Cmd) := do
  let w : CmdWords := m.words
  let (o, n) := copyPiece w.len m.pch
  let (rs, s1, m1) ← stepRuns s m fun s m => do
    let (bs, s1, m1) ← s.copyRead m (w.p1 + w.len) (w.p1 + o) n
    return ([(w.p2 + o, bs)], s1, m1)
  s1.copyWrite m1 (if o + n < w.len then some (w.p2 + o + n) else none) rs

/-- R255. -/
def execCpy (c : ClusterKey) (i : Nat) (s : State) : Next := stepWith s c i .cpy cpyStep

/-- n rows of a CPY2D read from row i up, each with its place in the destination. -/
def readRows (m : Cmd) : Nat → Nat → State → Eng (List (Nat × List Byte) × State × Cmd)
  | 0, _, s => .ok ([], s, m)
  | n + 1, i, s => do
    let w : CmdWords := m.words
    let (b, s1, m1) ← s.copyRead m (w.p1 + w.srcLen2) (w.p1 + i * w.spitch) w.rowLen
    let (bs, s2, m2) ← readRows m1 n (i + 1) s1
    return ((w.p2 + i * w.dpitch, b) :: bs, s2, m2)

/-- One step of a CPY2D: ⌈NROW / 256⌉ rows. -/
def cpy2dStep (s : State) (m : Cmd) : Eng (State × Cmd) := do
  let w : CmdWords := m.words
  let g := cdiv w.nrow 256
  let i := m.pch * g
  let n := min g (w.nrow - i)
  let (rows, s1, m1) ← stepRuns s m fun s m => readRows m n i s
  s1.copyWrite m1 (if i + n < w.nrow then some (w.p2 + (i + n) * w.dpitch) else none) rows

/-- R255. -/
def execCpy2d (c : ClusterKey) (i : Nat) (s : State) : Next := stepWith s c i .cpy2d cpy2dStep

/-- One step of a FILL. -/
def fillStep (s : State) (m : Cmd) : Eng (State × Cmd) := do
  let w : CmdWords := m.words
  let (o, n) := copyPiece w.len m.pch
  let bs := (List.range (n / 8)).flatMap fun _ => leBytes 8 w.p1
  s.copyMay m (w.p2 + o) n
  let s1 ← s.copyPut m (w.p2 + o) bs
  return (s1, m)

/-- R255. -/
def execFill (c : ClusterKey) (i : Nat) (s : State) : Next := stepWith s c i .fill fillStep

/-- One step of a GTHR: the row that index PCH names. A word of the index vector is read whole (R190). -/
def gthrStep (s : State) (m : Cmd) : Eng (State × Cmd) := do
  let w : CmdWords := m.words
  let (xb, s1, m1) ← s.copyRead m (w.p2 + 2 * w.nidx) (w.p2 + 2 * m.pch) 2
  let (row, s2) ← eng (s1.engineRead m.view (w.p1 + leNat xb * w.gLda * 16) (w.rowb * 16) 16)
  return (s2, { m1 with rows := m.rows.take m.pch ++ [row] })

/-- R255, R279. -/
def execGthr (c : ClusterKey) (i : Nat) (s : State) : Next := stepWith s c i .gthr gthrStep

end Sys2Proof.Machine
end

