-- ==== Sys2Proof/Machine/Matrix.lean ====
section
/-! DEFINITION. The joint matrix array: MGANG and the gang event (R266 to R269), the chunks of the MMA pairs (R45, R46, R264, R265, R272, R280), and the tile, status and scale commands (R273 to R277). -/

namespace Sys2Proof.Machine

open Sys2Proof

/-! The gang event. -/

/-- The first check of R268 in which two words differ. -/
def wordsDiffer (a b : CmdWords) : Option Nat :=
  if a.cop ≠ b.cop then some 1
  else if a.k ≠ b.k then some 2
  else if a.p2 ≠ b.p2 then some 3
  else if a.ldb ≠ b.ldb then some 4
  else if a.scb ≠ b.scb then some 5
  else if a.bt ≠ b.bt then some 6
  else none

/-- The least detail among the pairs that differ. -/
def leastDetail : List (Option Nat) → Option Nat
  | [] => none
  | none :: l => leastDetail l
  | some n :: l => match leastDetail l with
    | some m => some (min n m)
    | none => some n

/-- Detail of GANG_MISMATCH, where the four offers do not agree. -/
def gangDetail (os : List GangOffer) : Option Nat :=
  match os with
  | [] => none
  | o :: l =>
    match leastDetail (l.map fun p => wordsDiffer o.words p.words) with
    | some n => some n
    | none => if l.any fun p => p.spid != o.spid then some 7 else none

/-- The offers of the four slices that have not occurred. -/
def Cluster.gangOffered (x : Cluster) : List GangOffer :=
  x.gangOffers.toList.filterMap fun o => match o with
    | some g => if g.result.isNone then some g else none
    | none => none

/-- A strand blocked in this wait goes on. -/
def State.release (s : State) (who : StrandId) (w : WaitKind) : State :=
  match s.findStrand who with
  | some a => if (s.strand a).wait == some w then s.setStrand a { s.strand a with wait := none, flagged := false } else s
  | none => s

/-- A cluster with a result in each slice. -/
def Cluster.gangResult (x : Cluster) (r : GangResult) : Cluster :=
  { x with gangOffers := x.gangOffers.map fun o => match o with
      | some g => some { g with result := some r }
      | none => none }

/-- The members of a gang accepted in the order of the slices. DESIGN CHOICE (log 87): members offered from one and the same pointer are all accepted; R268 lists no check of it, though R249 holds one accepted command per pointer. -/
def State.acceptMembers (s : State) (g : Nat) : Nat → List GangOffer → State
  | _, [] => s
  | q, o :: l =>
    State.acceptMembers (s.acceptCmd ⟨o.core, o.sid, o.who, o.spid, o.fsrv, o.tok⟩ (if h : q < 6 then ⟨q, h⟩ else 0)
      o.ptr o.loc o.words (some g)) g (q + 1) l

/-- R268: the gang event occurs once the four slices hold offers. -/
def State.gangOccurs (s : State) (c : ClusterKey) : State :=
  let x := s.clu c
  let os := x.gangOffered
  if os.length ≠ 4 then s
  else
    let need := ((os.zip (List.range 4)).map fun e => pushRanges ((opOf (CmdWords.cop e.1.words)).getD .mzero) e.1.words e.2).sum
    let (r, s1) :=
      match gangDetail os with
      | some n => (GangResult.mismatch n, s)
      | none =>
        if (List.range 4).any fun q => depth q ≤ x.queued q then (.value minus1, s)
        else if x.freeLocks < need then (.value minus2, s)
        else (.value 0, State.acceptMembers { s with nextCmd := s.nextCmd + 1 } s.nextCmd 0 os)
    let s2 := s1.setClu c ((s1.clu c).gangResult r)
    os.foldl (fun s o => s.release o.who .gang) s2

def Cluster.setOffer (x : Cluster) (n : Nat) (o : Option GangOffer) : Cluster :=
  { x with gangOffers := x.gangOffers.setIfInBounds n o }

/-- A held result is taken by the MGANG that issues again: the slice holds nothing. -/
def takeGang (s : State) (k : CoreKey) (b : Fin 2) (d : DReg) (n : Nat) (o : GangOffer) (r : GangResult) : Act :=
  let c := clusterOf k
  let bk := s.bank k b
  let s1 := (s.setClu c ((s.clu c).setOffer n none)).setBank k b { bk with watch := none }
  match r with
  | .value w => finish s1 k b d w bk.watch
  | .mismatch t => .hold (s1.trapNow k b ⟨.gangMismatch, o.ptr, BitVec.ofNat 8 t⟩)

/-- R267: the checks of MGANG, and the offer. It counts as a QPUSH under R195 (R268). DESIGN CHOICE (log 85): one that stalls on what the slice holds for the other bank (R269) stalls before its checks. -/
def execMgang (d : DReg) (a : WReg) (s : State) : Next :=
  issue s (footT (rS a.val) (rS d.val)) fun s k b =>
    let n := s.cid k
    let c := clusterOf k
    let u := s.pusher k b
    let afresh : Act :=
      if 3 < n then .trap (illegalAt (.mgang d a) 18)
      else
        let p := (s.bank k b).ctx.s a.val
        if s.relWaits (s.bank k b) .dm then .wait
        else match s.readCommand (s.view k b) p 32 with
        | .error t => t
        | .ok (loc, bs, s1, w) =>
          let cw := cmdWordsOf bs
          match s1.checkCmd k n p loc cw u.tok true with
          | some t => .trapAt s1 t
          | none =>
            let o : GangOffer := ⟨u.who, u.sid, k, p, loc, cw, u.spid, u.fsrv, u.tok, none⟩
            let s2 := s1.setClu c ((s1.clu c).setOffer n (some o))
            .hold ((s2.setBank k b { s2.bank k b with wait := some .gang, held := true, watch := w }).gangOccurs c)
    match vget (s.clu c).gangOffers none n with
    | none => afresh
    | some o =>
      if o.who = u.who then
        match o.result with
        | some r => takeGang s k b d n o r
        | none => afresh
      else .stall .gangHeld

/-! The elements of an MMA. -/

/-- Types of the A and B elements and the format of the accumulator (R45). -/
def Op.mmaTypes : Op → TyCode × TyCode × Fmt
  | .mmaE4 => (.e4m3, .e4m3, fmtF32)
  | .mmaE5 => (.e5m2, .e5m2, fmtF32)
  | .mmaDd => (.f64, .f64, fmtF64)
  | .mmaF4 => (.e2m1, .e2m1, fmtF32)
  | .mmaP8 => (.e4m3, .ps2, fmtF32)
  | .mmaPi => (.s8, .ps2, fmtF32)
  | _ => (.bf16, .bf16, fmtF32)

def Op.scalesA (o : Op) : Bool := o == .mmaF4
def Op.scalesB (o : Op) : Bool := o == .mmaF4 || o == .mmaP8 || o == .mmaPi

/-- n elements of w bits from the first of these bytes on: the one with the lower index in the lower bits (R32). -/
def elementsOf (w : Nat) (bs : List Byte) (n : Nat) : List Nat :=
  let x := leNat bs
  (List.range n).map fun i => x / 2 ^ (w * i) % 2 ^ w

/-- A byte of scale memory (R265). -/
def Cluster.scaleAt (x : Cluster) (col byte : Nat) : Byte := lookupD 0x7F x.scale (col * 64 + byte)

/-- Row i of a gather latch, n bytes from byte o (R279). -/
def Latch.read (l : Latch) (i o n : Nat) : List Byte :=
  let row := if l.pitch = 0 then [] else l.rows.getD i []
  (List.range n).map fun j => row.getD (o + j) 0

/-- Rows of an operand read from row i up: n bytes each. -/
def readOperand (v : View) (p pitch n w : Nat) : Nat → Nat → State → Chk (List (List Byte) × State)
  | 0, _, s => .ok ([], s)
  | m + 1, i, s => do
    let (b, s1) ← s.engineRead v (p + pitch * i) n w
    let (bs, s2) ← readOperand v p pitch n w m (i + 1) s1
    return (b :: bs, s2)

/-- Bytes that hold elements k0 to k1 − 1 of w bits each: offset and number. -/
def elementSpan (w k0 k1 : Nat) : Nat × Nat := (k0 * w / 8, cdiv ((k1 - k0) * w) 8)

/-- The largest access size that keeps an operand pointer aligned: the element. -/
def elementAlign (w : Nat) : Nat := if w ≤ 8 then 1 else w / 8

/-- The 32 rows of A of a member, for elements k0 to k1 − 1 (R264). -/
def readA (s : State) (c : ClusterKey) (m : Cmd) (ea k0 k1 : Nat) : Chk (List (List Nat) × State) := do
  let w : CmdWords := m.words
  let (o, n) := elementSpan ea k0 k1
  if w.gl then
    let l := vget (s.clu c).latches ⟨0, []⟩ m.q.val
    return ((List.range 32).map fun i => elementsOf ea (l.read i o n) (k1 - k0), s)
  else
    let (rows, s1) ← readOperand m.view (w.p1 + o) (16 * w.lda) n (elementAlign ea) 32 0 s
    return (rows.map fun r => elementsOf ea r (k1 - k0), s1)

/-- The columns of B, for elements k0 to k1 − 1 (R264). -/
def readB (s : State) (m : Cmd) (eb cols k0 k1 : Nat) : Chk (List (List Nat) × State) := do
  let w : CmdWords := m.words
  if w.bt then
    let (o, n) := elementSpan eb k0 k1
    let (rows, s1) ← readOperand m.view (w.p2 + o) (16 * w.ldb) n (elementAlign eb) cols 0 s
    return (rows.map fun r => elementsOf eb r (k1 - k0), s1)
  else
    let (rows, s1) ← readOperand m.view w.p2 (16 * w.ldb) (cols * eb / 8) (elementAlign eb) (k1 - k0) k0 s
    let els := rows.map fun r => elementsOf eb r cols
    return ((List.range cols).map fun j => els.map fun r => r.getD j 0, s1)

/-- One chunk on one accumulator element (R46): the new element and the flags. -/
def chunkElement (f : Fmt) (prods : List (FVal × Flags)) (acc : Nat) : Nat × Flags :=
  let t := sumAll .rne (prods.map (·.1))
  let fl := prods.foldl (fun a p => a ||| p.2) t.2
  let r := withFlags fl (f.deliver .rne t.1)
  withFlags r.2 (fAdd f .rne acc r.1)

/-- The scaled products of a row and a column (R46). as: the row's values, bs: the column's, ss: the scales of each k. -/
def productsOf (av bv : List FVal) (ss : List (List FVal)) : List (FVal × Flags) :=
  ((av.zip bv).zip ss).map fun e => mulAll ([e.1.1, e.1.2] ++ e.2)

/-- The scales of row i and column j, for k0 to k1 − 1 (R265). -/
def Cluster.scalesOf (x : Cluster) (o : Op) (wm w0 : CmdWords) (i j k0 k1 : Nat) : List (List FVal) :=
  (List.range (k1 - k0)).map fun d =>
    let blk := (k0 + d) / 32
    (if o.scalesA then [e8m0Read (x.scaleAt (wm.sca + blk) i).toNat] else []) ++
      (if o.scalesB then [e8m0Read (x.scaleAt (w0.scb + blk) j).toNat] else [])

/-- An element of a tile, by its place. -/
def Tile.el (t : Tile) (n : Nat) : Nat := (t.data.getD n 0).toNat

/-- Flags joined to a tile's status word (R53). -/
def Tile.orStatus (t : Tile) (fl : Flags) : Word := t.status ||| (fl.setWidth 5 : BitVec 5).setWidth 64

/-- A member's tile after chunk elements k0 to k1 − 1. -/
def Cluster.chunkTile (x : Cluster) (o : Op) (wm w0 : CmdWords) (k0 k1 : Nat) (as bs : List (List Nat)) (t : Tile) : Tile :=
  let (ta, tb, f) := o.mmaTypes
  let cols := o.pair.2.2.1
  let av := as.map fun r => r.map ta.read
  let bv := bs.map fun r => r.map tb.read
  let els := (List.range (32 * cols)).map fun n =>
    let i := n / cols
    let j := n % cols
    chunkElement f (productsOf (av.getD i []) (bv.getD j []) (x.scalesOf o wm w0 i j k0 k1)) (t.el n)
  { tag := if o = .mmaDd then .f64 else .f32
    data := els.map fun e => BitVec.ofNat 64 e.1
    status := els.foldl (fun a e => a ||| (e.2.setWidth 5 : BitVec 5).setWidth 64) t.status }

/-- The A operands of the members, in the order of the slices. -/
def readAs (c : ClusterKey) (ea k0 k1 : Nat) : List Cmd → State → Chk (List (Cmd × List (List Nat)) × State)
  | [], s => .ok ([], s)
  | m :: ms, s => do
    let (a, s1) ← readA s c m ea k0 k1
    let (l, s2) ← readAs c ea k0 k1 ms s1
    return ((m, a) :: l, s2)

/-- The members of the running gang of a command. -/
def Cluster.members (x : Cluster) (m : Cmd) : List Cmd :=
  sortBy (fun d => d.q.val) (x.cmds.filter fun d => d.gang == m.gang && d.st == .running)

/-- R272: the next chunk of a running gang whose member 0 is command i. A check that fails stops all four members before the chunk (R280). -/
def gangStep (s : State) (c : ClusterKey) (i : Nat) (o : Op) : Next :=
  let x := s.clu c
  match x.cmd i with
  | none => .next s
  | some m =>
    let ms := x.members m
    if x.verm.frz || m.st != .running || m.op != some o || m.gang.isNone || m.q != 0 || ms.length != 4 then .next s
    else
      let (ea, eb, cols, ch) := o.pair
      let w0 : CmdWords := m.words
      let k0 := m.pch * ch
      let k1 := min (k0 + ch) w0.k
      let r : Chk (List (Cmd × List (List Nat)) × List (List Nat) × State) := do
        let (as, s1) ← readAs c ea k0 k1 ms s
        let (b, s2) ← readB s1 m eb cols k0 k1
        return (as, b, s2)
      match r with
      | .error .wait => .next s
      | .error (.trap cause _) => .next (s.setClu c (ms.foldl (fun x d => x.setCmd { d with st := .faulted cause }) x))
      | .ok (as, b, s1) =>
        let step (x : Cluster) (e : Cmd × List (List Nat)) : Cluster :=
          let d := e.1
          let wm : CmdWords := d.words
          let n := d.pch + 1
          (x.setTile d.q.val wm.tile (x.chunkTile o wm w0 k0 k1 e.2 b (x.tileAt d.q.val wm.tile))).setCmd
            { d with pch := n, st := if d.steps ≤ n then .finished else .running }
        .next (s1.setClu c (as.foldl step (s1.clu c)))

/-- R272. -/
def execMmaBb (c : ClusterKey) (i : Nat) (s : State) : Next := gangStep s c i .mmaBb
/-- R272. -/
def execMmaE4 (c : ClusterKey) (i : Nat) (s : State) : Next := gangStep s c i .mmaE4
/-- R272. -/
def execMmaE5 (c : ClusterKey) (i : Nat) (s : State) : Next := gangStep s c i .mmaE5
/-- R272. -/
def execMmaDd (c : ClusterKey) (i : Nat) (s : State) : Next := gangStep s c i .mmaDd
/-- R272. -/
def execMmaF4 (c : ClusterKey) (i : Nat) (s : State) : Next := gangStep s c i .mmaF4
/-- R272. -/
def execMmaP8 (c : ClusterKey) (i : Nat) (s : State) : Next := gangStep s c i .mmaP8
/-- R272. -/
def execMmaPi (c : ClusterKey) (i : Nat) (s : State) : Next := gangStep s c i .mmaPi

/-! Tile, status and scale commands. -/

/-- The cluster of a running command's step with its state replaced. -/
def State.mapClu (s : State) (c : ClusterKey) (f : Cluster → Cluster) : State := s.setClu c (f (s.clu c))

/-- R273. -/
def execMzero (c : ClusterKey) (i : Nat) (s : State) : Next :=
  engineStep s c i .mzero fun s m =>
    let w : CmdWords := m.words
    .ok (s.mapClu c fun x => x.setTile m.q.val w.tile Tile.reset, m)

/-- Elements and pattern of row r of a tile as MDRAIN writes them (R274): the bytes and the flags. -/
def drainRow (t : Tile) (dfmt r : Nat) : List Byte × Flags :=
  let (cols, src, size) := match t.tag with
    | .f64 => (16, TyCode.f64, 8)
    | _ => (32, TyCode.f32, 4)
  let one (n : Nat) : List Byte × Flags :=
    let e := t.el (r * cols + n)
    match dfmt with
    | 0 => (leBytes size e, fNone)
    | 1 => let y := convert src .bf16 .rne e; (leBytes 2 y.1, y.2)
    | _ => let y := convert src .e4m3 .rne e; (leBytes 1 y.1, y.2)
  let l := (List.range cols).map one
  (l.flatMap (·.1), l.foldl (fun a e => a ||| e.2) fNone)

/-- The flags of all rows of a drain. DESIGN CHOICE (log 88): they are those of the tile as it stands after row 31; R274 does not say what holds the flags of the rows that a stopped drain made before the tile changed. -/
def drainFlags (t : Tile) (dfmt : Nat) : Flags :=
  (List.range 32).foldl (fun a r => a ||| (drainRow t dfmt r).2) fNone

/-- R274: row PCH; after row 31 the status word with the flags of the roundings. -/
def execMdrain (c : ClusterKey) (i : Nat) (s : State) : Next :=
  engineStep s c i .mdrain fun s m => do
    let w : CmdWords := m.words
    let t := (s.clu c).tileAt m.q.val w.tile
    let s1 ← s.engineWrite m.view (w.p2 + 16 * w.ldd * m.pch) 1 (drainRow t w.dfmt m.pch).1
    if m.pch < 31 then return (s1, m)
    else
      let s2 ← s1.engineWrite m.view (w.p2 + 512 * w.ldd) 8 (leBytes 8 (t.orStatus (drainFlags t w.dfmt)).toNat)
      return (s2, m)

/-- R275. -/
def execMswap (c : ClusterKey) (i : Nat) (s : State) : Next :=
  engineStep s c i .mswap fun s m =>
    let w : CmdWords := m.words
    let q := m.q.val
    .ok (s.mapClu c fun x => (x.setTile q w.tile (x.tileAt q w.tile2)).setTile q w.tile2 (x.tileAt q w.tile), m)

/-- R277: column PCH of the copy. -/
def execMscale (c : ClusterKey) (i : Nat) (s : State) : Next :=
  engineStep s c i .mscale fun s m => do
    let w : CmdWords := m.words
    let (bs, s1) ← s.engineRead m.view (w.p1 + 64 * m.pch) 64 16
    let col := (w.firstCol + m.pch) * 64
    let f (x : Cluster) : Cluster :=
      { x with scale := (bs.zip (List.range 64)).foldl (fun l e => insertKey (col + e.2) e.1 l) x.scale }
    return (s1.mapClu c f, m)

/-- The status word with its flags replaced by bits 4 to 0 of another word (R276). -/
def replaceFlags (old new : Word) : Word := setBits old 0 5 (bits new 0 5)

/-- R276. -/
def execMsts (c : ClusterKey) (i : Nat) (s : State) : Next :=
  engineStep s c i .msts fun s m => do
    let w : CmdWords := m.words
    let n := w.tile % 2
    if w.wr then
      let (bs, s1) ← s.engineRead m.view w.p1 8 8
      let f (x : Cluster) : Cluster :=
        if w.oqs then
          let q := vget x.oq Oq.reset n
          { x with oq := x.oq.setIfInBounds n { q with status := replaceFlags q.status (leWord bs) } }
        else
          let t := x.tileAt m.q.val w.tile
          x.setTile m.q.val w.tile { t with status := replaceFlags t.status (leWord bs) }
      return (s1.mapClu c f, m)
    else
      let x := s.clu c
      let y := if w.oqs then (vget x.oq Oq.reset n).status else (x.tileAt m.q.val w.tile).status
      let s1 ← s.engineWrite m.view w.p1 8 (leBytes 8 y.toNat)
      return (s1, m)

/-! The end of a strand's gang offer (R269). -/

/-- The strand's offer that has not occurred is withdrawn; with result set, a result held for it is discarded too. -/
def State.withdrawGang (s : State) (c : ClusterKey) (who : StrandId) (result : Bool) : State :=
  s.mapClu c fun x => { x with gangOffers := x.gangOffers.map fun o => match o with
    | some g => if g.who = who ∧ (result = true ∨ g.result.isNone = true) then none else some g
    | none => none }

end Sys2Proof.Machine
end

