-- ==== Sys2Proof/Machine/Orth.lean ====
section
/-! DEFINITION. The orthogonal accumulators: their arithmetic (R284, R285), the spill chain (R292), the fold (R291, R320) and the nine commands (R287 to R290, R293). -/

namespace Sys2Proof.Machine

open Sys2Proof

/-! Arithmetic. -/

def Oq.fmt (q : Oq) : Fmt := if q.f32 then fmtF32 else fmtF64
def Oq.ty (q : Oq) : TyCode := if q.f32 then .f32 else .f64
/-- Element size of PREC. -/
def Oq.e (q : Oq) : Nat := if q.f32 then 4 else 8

/-- The sum of up to eight products, rounded once. -/
def dotChunk (l : List (FVal × FVal)) : Nat × Flags :=
  let ps := l.map fun p => mulAll [p.1, p.2]
  let t := sumAll .rne (ps.map (·.1))
  withFlags (ps.foldl (fun a p => a ||| p.2) t.2) (fmtF64.deliver .rne t.1)

/-- Chunks of eight from acc on. -/
def dotLoop : Nat → List (FVal × FVal) → Nat → Flags → Nat × Flags
  | 0, _, acc, fl => (acc, fl)
  | fuel + 1, l, acc, fl =>
    if l.isEmpty then (acc, fl)
    else
      let c := dotChunk (l.take 8)
      let r := fAdd fmtF64 .rne acc c.1
      dotLoop fuel (l.drop 8) r.1 (fl ||| c.2 ||| r.2)

/-- Dot(x, y) as an FP64 pattern (R284). -/
def dot (x y : List FVal) : Nat × Flags := dotLoop (x.length + 1) (x.zip y) 0 fNone

/-- The flags of a list of results. -/
def allFlags (l : List (Nat × Flags)) : Flags := l.foldl (fun a e => a ||| e.2) fNone

/-- FP64 patterns as values. -/
def f64Values (l : List (Nat × Flags)) : List FVal := l.map fun e => fmtF64.read e.1

def Oq.vCols (q : Oq) : List (List FVal) := q.v.map fun c => c.map fun x => q.fmt.read x.toNat
def Oq.tRows (q : Oq) : List (List FVal) := q.t.map fun r => r.map fun x => q.fmt.read x.toNat

/-- The transpose of a k × k matrix. -/
def transpose (k : Nat) (m : List (List FVal)) : List (List FVal) :=
  (List.range k).map fun j => m.map fun r => r.getD j (.fin false 0 0)

/-- A vector after an apply (R285): its elements with the flags of each row's own roundings, and the flags of y and u. tr: M is the transpose of T. -/
def Oq.apply (q : Oq) (tr : Bool) (b : List Nat) : List (Nat × Flags) × Flags :=
  let f := q.fmt
  let vs := q.vCols
  let bv := b.map f.read
  let y := vs.map fun c => dot c bv
  let m := if tr then transpose q.k q.tRows else q.tRows
  let u := m.map fun r => dot r (f64Values y)
  let uv := f64Values u
  let row (e : Nat × Nat) : Nat × Flags :=
    let d := dot (vs.map fun c => c.getD e.1 (.fin false 0 0)) uv
    let x := f.read e.2
    let t := sumAll .rne [x, (fmtF64.read d.1).negate]
    withFlags (d.2 ||| x.readFlag ||| t.2) (f.deliver .rne t.1)
  (((List.range b.length).zip b).map row, allFlags y ||| allFlags u)

/-- Flags joined to the accumulator's status word. -/
def Oq.orStatus (q : Oq) (fl : Flags) : Oq := { q with status := q.status ||| (fl.setWidth 5 : BitVec 5).setWidth 64 }

/-- The number of reflectors, and RCNT with it. -/
def Oq.setK (q : Oq) (k : Nat) : Oq := { q with k := k, status := setBits q.status 16 8 k }

def Cluster.oqAt (x : Cluster) (n : Fin 2) : Oq := x.oq[n]
def Cluster.setOq (x : Cluster) (n : Fin 2) (q : Oq) : Cluster := { x with oq := x.oq.set n q }

/-! The spill chain (R292). -/

/-- An element's bytes. -/
def Oq.elBytes (q : Oq) (x : Word) : List Byte := leBytes q.e x.toNat

/-- The size by which the cursor moves. -/
def Oq.blockSize (q : Oq) : Nat := cdiv (16 + (q.rows + q.k) * q.k * q.e) 16 * 16

/-- The bytes of a chain block. -/
def Oq.block (q : Oq) (applied : Bool) : List Byte :=
  leBytes 8 (q.k * 2 ^ 56 + q.rows * 2 ^ 48 + (if q.f32 then 2 ^ 46 else 0) + (if applied then 2 ^ 45 else 0)) ++
    leBytes 8 q.seq.toNat ++ q.v.flatMap (fun c => c.flatMap q.elBytes) ++ q.t.flatMap (fun r => r.flatMap q.elBytes)

/-- A chain block written, and the cursor moved. DESIGN CHOICE (log 91): the cursor is read in the view of the pusher of the command that writes the block, which may not be the pusher of the QINIT; R254 speaks of the pointers in a command, R292 of no view. -/
def writeBlock (s : State) (c : ClusterKey) (m : Cmd) (applied : Bool) : Chk State := do
  let n := CmdWords.oq m.words
  let q := (s.clu c).oqAt n
  let s1 ← s.engineWrite m.view q.cursor.toNat 16 (q.block applied)
  return s1.mapClu c fun x =>
    x.setOq n { q with cursor := q.cursor + BitVec.ofNat 64 q.blockSize, seq := q.seq + 1 }

/-! The fold (R291, R320). -/

/-- The target tile of each slice. -/
def Cluster.targets (x : Cluster) (q : Oq) : List Tile := (List.range 4).map fun n => x.tileAt n (q.tgt.toNat % 16)

/-- A target tile is tagged with the other format. -/
def Oq.badTag (q : Oq) (t : Tile) : Bool := t.tag == if q.f32 then .f64 else .f32

/-- Column j of the joint tile, its rows below ROWS. -/
def Oq.column (q : Oq) (ts : List Tile) (cols j : Nat) : List Nat :=
  (List.range q.rows).map fun r => (ts.getD (r / 32) Tile.reset).el (r % 32 * cols + j)

/-- The tile of slice n after a fold: the results of each column, by joint row. -/
def Oq.foldTile (q : Oq) (cols : Nat) (res : List (List (Nat × Flags) × Flags)) (n : Nat) (t : Tile) : Tile :=
  let here := (List.range 32).filter fun r => decide (32 * n + r < q.rows)
  let data := (List.range (32 * cols)).map fun i =>
    let r := 32 * n + i / cols
    if r < q.rows then BitVec.ofNat 64 ((((res.getD (i % cols) ([], fNone)).1.getD r (0, fNone)).1))
    else BitVec.ofNat 64 (t.el i)
  let own := res.foldl (fun a c => here.foldl (fun a r => a ||| (c.1.getD (32 * n + r) (0, fNone)).2) a) fNone
  let shared := if here.isEmpty then fNone else res.foldl (fun a c => a ||| c.2) fNone
  { tag := if q.f32 then .f32 else .f64, data := data, status := t.orStatus (own ||| shared) }

/-- Qᵀ applied to the bound target. -/
def foldTarget (s : State) (c : ClusterKey) (q : Oq) : Chk State :=
  let ts := (s.clu c).targets q
  if ts.any q.badTag then .error (.trap .illegalCmd 0)
  else
    let cols := if q.f32 then 32 else 16
    let res := (List.range cols).map fun j => q.apply true (q.column ts cols j)
    .ok (s.mapClu c fun x => (List.range 4).foldl (fun x n =>
      x.setTile n (q.tgt.toNat % 16) (q.foldTile cols res n (ts.getD n Tile.reset))) x)

/-! The commands. -/

/-- The policy of a code. -/
def polOf (n : Nat) : OqPol := match n with | 0 => .trap | 1 => .fold | _ => .spill
def polCode : OqPol → Nat | .trap => 0 | .fold => 1 | .spill => 2

/-- R287. -/
def execQinit (c : ClusterKey) (i : Nat) (s : State) : Next :=
  engineStep s c i .qinit fun s m =>
    let w : CmdWords := m.words
    let q : Oq :=
      { init := true, f32 := w.prec == 1, pol := polOf w.pol, cap := w.cap, rows := w.rows, k := 0, v := [], t := []
        tgt := BitVec.ofNat 5 w.p2, cursor := w[1], seq := 0, status := 0 }
    .ok (s.mapClu c fun x => x.setOq w.oq q, m)

/-- Elements of a precision in bytes. -/
def elementsOfBytes (e : Nat) (bs : List Byte) (n : Nat) : List Word :=
  (List.range n).map fun i => BitVec.ofNat 64 (leNat ((bs.drop (e * i)).take e))

/-- A reflector appended (R288): the accumulator after step 2. -/
def Oq.append (q : Oq) (v : List Word) (tau : Nat) : Oq :=
  let f := q.fmt
  let vv := v.map fun x => f.read x.toNat
  let w := q.vCols.map fun c => dot c vv
  let wv := f64Values w
  let tv := f.read tau
  let col := ((List.range q.k).zip q.tRows).map fun e =>
    let d := dot (e.2.drop e.1) (wv.drop e.1)
    let p := mulAll [tv.negate, fmtF64.read d.1]
    withFlags (d.2 ||| p.2) (f.deliver .rne p.1)
  let t := (q.t.zip col).map (fun e => e.1 ++ [BitVec.ofNat 64 e.2.1]) ++
    [List.replicate q.k 0 ++ [BitVec.ofNat 64 tau]]
  ({ q with v := q.v ++ [v], t := t }.orStatus (allFlags w ||| allFlags col)).setK (q.k + 1)

/-- The accumulator emptied. -/
def Oq.clear (q : Oq) : Oq := { q with v := [], t := [] }.setK 0

/-- R288. A QACC that finds no room stops with ORTH_FULL. -/
def execQacc (c : ClusterKey) (i : Nat) (s : State) : Next :=
  engineStep s c i .qacc fun s m => do
    let w : CmdWords := m.words
    let q := (s.clu c).oqAt w.oq
    let full := decide (q.k = q.cap)
    match m.pch with
    | 0 =>
      if !full then return (s, m)
      else if q.pol = .trap then .error (.trap .orthFull 0)
      else return (← writeBlock s c m (q.pol == .fold), m)
    | 1 =>
      if !full then return (s, m)
      else
        let s1 ← if q.pol = .fold then foldTarget s c q else .ok s
        return (s1.mapClu c fun x => x.setOq w.oq q.clear, m)
    | _ =>
      let (bs, s1) ← s.engineRead m.view w.p1 (q.rows * q.e) q.e
      let tau := w[2].toNat % 2 ^ (8 * q.e)
      return (s1.mapClu c fun x => x.setOq w.oq (q.append (elementsOfBytes q.e bs q.rows) tau), m)

/-- R290. -/
def execQrcp (c : ClusterKey) (i : Nat) (s : State) : Next :=
  engineStep s c i .qrcp fun s m => do
    let w : CmdWords := m.words
    let q := (s.clu c).oqAt w.oq
    let tv := q.tgt.getLsbD 4
    if q.k = 0 then return (s, m)
    else if m.pch = 0 then return (← writeBlock s c m tv, m)
    else
      let s1 ← if tv then foldTarget s c q else .ok s
      return (s1.mapClu c fun x => x.setOq w.oq q.clear, m)

/-- The pieces of a vector of an apply form (R289): pointer and bytes of each. -/
def applyPieces (w : CmdWords) (q : Oq) (right : Bool) (n : Nat) : List (Nat × Nat) :=
  if right then [(w.p1 + 8 * w.qldb * n, q.rows * q.e)]
  else (List.range q.rows).map fun a => (w.p1 + 8 * w.qldb * a + n * q.e, q.e)

/-- Pieces read in turn. -/
def readPieces (v : View) (w : Nat) : List (Nat × Nat) → State → Chk (List Byte × State)
  | [], s => .ok ([], s)
  | (p, n) :: l, s => do
    let (b, s1) ← s.engineRead v p n w
    let (bs, s2) ← readPieces v w l s1
    return (b ++ bs, s2)

/-- Pieces written in turn. -/
def writePieces (v : View) (w : Nat) : List (Nat × Nat) → List Byte → State → Chk State
  | [], _, s => .ok s
  | (p, n) :: l, bs, s => do
    let s1 ← s.engineWrite v p w (bs.take n)
    writePieces v w l (bs.drop n) s1

/-- The vectors of a step read. -/
def readVectors (v : View) (w : CmdWords) (q : Oq) (right : Bool) : List Nat → State → Chk (List (Nat × List Word) × State)
  | [], s => .ok ([], s)
  | n :: l, s => do
    let (bs, s1) ← readPieces v q.e (applyPieces w q right n) s
    let (r, s2) ← readVectors v w q right l s1
    return ((n, elementsOfBytes q.e bs q.rows) :: r, s2)

/-- The vectors of a step written. -/
def writeVectors (v : View) (w : CmdWords) (q : Oq) (right : Bool) : List (Nat × List Word) → State → Chk State
  | [], s => .ok s
  | (n, xs) :: l, s => do
    let s1 ← writePieces v q.e (applyPieces w q right n) (xs.flatMap q.elBytes) s
    writeVectors v w q right l s1

/-- Runs that waited for their word written. -/
def writeLag (v : View) (w : Nat) : List (Nat × List Byte) → State → Chk State
  | [], s => .ok s
  | e :: l, s => do
    let s1 ← s.engineWrite v e.1 w e.2
    writeLag v w l s1

/-- The runs of one vector. -/
def applyRuns (w : CmdWords) (q : Oq) (right : Bool) (n : Nat) (xs : List Word) : List (Nat × List Byte) :=
  ((applyPieces w q right n).zip xs).map fun e => (e.1.1, q.elBytes e.2)

/-- One step of an apply form (R289): all reads before the first write. Where a column of the left forms is half a word of B, the word is read whole with its first column, and written whole with its last (R190). -/
def applyStep (c : ClusterKey) (right tr : Bool) (s : State) (m : Cmd) : StepR := do
  let w : CmdWords := m.words
  let q := (s.clu c).oqAt w.oq
  if q.k = 0 then return (s, m)
  else
    let g := cdiv w.ncol 256
    let lo := m.pch * g
    let hi := lo + min g (w.ncol - lo)
    let halves := !right && q.f32 && hi % 2 == 1 && decide (hi < w.ncol)
    let kept : List (Nat × List Word) := match m.ahead with
      | some (n, bs) => if n = lo then [(lo, elementsOfBytes q.e bs q.rows)] else []
      | none => []
    let ns := (List.range (hi - lo + if halves then 1 else 0)).map (lo + ·)
    let (vs, s1) ← readVectors m.view w q right (ns.drop kept.length) s
    let (mine, next) := (kept ++ vs).partition fun e => decide (e.1 < hi)
    let rs := mine.map fun e => (e.1, q.apply tr (e.2.map fun x => x.toNat))
    let out := rs.map fun e => (e.1, e.2.1.map fun y => BitVec.ofNat 64 y.1)
    let (held, now) := out.partition fun e => halves && e.1 + 1 == hi
    let s2 ← writeLag m.view q.e m.lag s1
    let s3 ← writeVectors m.view w q right now s2
    let lag := held.flatMap fun e => applyRuns w q right e.1 e.2
    let at' ← s3.runPlaces m.view lag
    let fl := rs.foldl (fun a e => a ||| allFlags e.2.1 ||| e.2.2) fNone
    return (s3.mapClu c fun x => x.setOq w.oq (q.orStatus fl),
      { m with lag := lag, lagAt := at', lagPch := if lag.isEmpty then m.lagPch else m.pch,
               ahead := next.head?.map fun e => (e.1, e.2.flatMap q.elBytes) })

/-- R289: b ← Q b. -/
def execQapl (c : ClusterKey) (i : Nat) (s : State) : Next := engineStep s c i .qapl (applyStep c false false)
/-- R289: b ← Qᵀ b. -/
def execQaplt (c : ClusterKey) (i : Nat) (s : State) : Next := engineStep s c i .qaplt (applyStep c false true)
/-- R289: row b ← b Q. -/
def execQapr (c : ClusterKey) (i : Nat) (s : State) : Next := engineStep s c i .qapr (applyStep c true true)
/-- R289: row b ← b Qᵀ. -/
def execQaprt (c : ClusterKey) (i : Nat) (s : State) : Next := engineStep s c i .qaprt (applyStep c true false)

/-! Save and restore (R293). -/

/-- The header of a record. -/
def Oq.header (q : Oq) : List Byte :=
  leBytes 8 ((if q.init then 2 ^ 63 else 0) + (if q.f32 then 2 ^ 61 else 0) + polCode q.pol * 2 ^ 59 + q.cap * 2 ^ 52 +
    q.rows * 2 ^ 44 + q.k * 2 ^ 36 + q.tgt.toNat * 2 ^ 31) ++
    leBytes 8 q.cursor.toNat ++ leBytes 8 q.seq.toNat ++ leBytes 8 q.status.toNat ++ List.replicate 32 0

/-- The pieces of V and T in a record. -/
def Oq.recordPieces (q : Oq) (p : Nat) : List (Nat × Nat) :=
  (List.range q.k).map (fun i => (p + 64 + i * 128 * q.e, q.rows * q.e)) ++
    (List.range q.k).map (fun i => (p + 32832 + i * (256 / q.e) * q.e, q.k * q.e))

/-- R293. -/
def execQsave (c : ClusterKey) (i : Nat) (s : State) : Next :=
  engineStep s c i .qsave fun s m => do
    let w : CmdWords := m.words
    let q := (s.clu c).oqAt w.oq
    let s1 ← s.engineWrite m.view w.p1 8 q.header
    let s2 ← writePieces m.view q.e (q.recordPieces w.p1)
      (q.v.flatMap (fun c => c.flatMap q.elBytes) ++ q.t.flatMap (fun r => r.flatMap q.elBytes)) s1
    return (s2, m)

/-- The accumulator that a header describes, without V and T. -/
def headerOq (bs : List Byte) : Oq :=
  let h := leWord (bs.take 8)
  { init := h.getLsbD 63, f32 := bits h 61 2 == 1, pol := polOf (bits h 59 2), cap := bits h 52 7, rows := bits h 44 8
    k := bits h 36 8, v := [], t := [], tgt := BitVec.ofNat 5 (bits h 31 5), cursor := leWord ((bs.drop 8).take 8)
    seq := BitVec.ofNat 32 (leNat ((bs.drop 16).take 8)), status := leWord ((bs.drop 24).take 8) &&& 0xFF001F }

/-- The record is valid (R293). -/
def headerValid (bs : List Byte) : Bool :=
  let h := leWord (bs.take 8)
  let q := headerOq bs
  let zeros := (bs.drop 32).all fun b => b == 0
  bits h 0 31 == 0 && decide (leNat ((bs.drop 16).take 8) < 2 ^ 32) && zeros &&
    decide (bits h 61 2 < 2) && bits h 59 2 != 3 && decide (1 ≤ q.cap) && decide (q.cap ≤ if q.f32 then 64 else 32) &&
    decide (1 ≤ q.rows) && decide (q.rows ≤ 128) && decide (q.k ≤ q.cap) && bits q.status 16 8 == q.k &&
    winOk q.cursor.toNat 16 && !(q.pol == .fold && !q.tgt.getLsbD 4)

/-- A header that makes the accumulator uninitialised (R293, log 25). -/
def headerOff (bs : List Byte) : Bool := !(leWord (bs.take 8)).getLsbD 63 && (bs.drop 8).all fun b => b == 0

/-- R293. An invalid record stops the command. Entries of T below the diagonal read +0 (R282). -/
def execQload (c : ClusterKey) (i : Nat) (s : State) : Next :=
  engineStep s c i .qload fun s m => do
    let w : CmdWords := m.words
    let (hb, s1) ← s.engineRead m.view w.p1 64 8
    if headerOff hb then return (s1.mapClu c fun x => x.setOq w.oq Oq.reset, m)
    else if !headerValid hb then .error (.trap .illegalCmd 0)
    else
      let q := headerOq hb
      let (bs, s2) ← readPieces m.view q.e (q.recordPieces w.p1) s1
      let nv := q.rows * q.e
      let nt := q.k * q.e
      let tb := bs.drop (q.k * nv)
      let v := (List.range q.k).map fun i => elementsOfBytes q.e (bs.drop (i * nv)) q.rows
      let t := (List.range q.k).map fun i => List.replicate i 0 ++ (elementsOfBytes q.e (tb.drop (i * nt)) q.k).drop i
      return (s2.mapClu c fun x => x.setOq w.oq { q with v := v, t := t }, m)

end Sys2Proof.Machine
end

