-- ==== Sys2Proof/Machine/Fold.lean ====
section
/-! DEFINITION. Fold groups, windows and the deterministic updates (R349 to R359, R385), the write-back of long-latency instructions (R207) and the acceptance of stores (R164), into which the updates enter. -/

namespace Sys2Proof.Machine

open Sys2Proof

/-! The descriptor and the group. -/

def State.memWord (s : State) (loc : Nat) : Word := leWord (getBytes s.mem loc 8)
def State.setMemWord (s : State) (loc : Nat) (x : Word) : State :=
  s.put loc (leBytes 8 x.toNat)

/-- N of a group, and the window that it closes next (R349). -/
def State.foldN (s : State) (desc : Nat) : Nat := bits (s.memWord desc) 48 8 + 1
def State.foldWcl (s : State) (desc : Nat) : Nat := bits (s.memWord (desc + 16)) 48 16
def State.foldJoined (s : State) (desc r : Nat) : Bool := (s.memWord (desc + 32 + 8 * (r / 64))).getLsbD (r % 64)

def State.fold? (s : State) (desc : Nat) : Option FoldGroup := s.folds.find? fun g => g.desc == desc
def State.setFold (s : State) (g : FoldGroup) : State :=
  { s with folds := if s.folds.any (fun h => h.desc == g.desc) then s.folds.map fun h => if h.desc = g.desc then g else h
                    else s.folds ++ [g] }

/-- The group that a strand is a member of. -/
def State.groupOfStrand (s : State) (w : StrandId) : Option FoldGroup := s.folds.find? fun g => g.members.contains w

def FoldGroup.window (g : FoldGroup) (n : Nat) : FoldWin := (g.wins.find? fun x => x.win == n).getD ⟨n, [], [], [], []⟩
/-- Another package has accepted an update of a window: its units are registered with the home (R356). -/
def FoldWin.register (w : FoldWin) (pkg : Nat) : FoldWin := { w with far := if w.far.contains pkg then w.far else w.far ++ [pkg] }
def FoldGroup.setWindow (g : FoldGroup) (x : FoldWin) : FoldGroup :=
  { g with wins := if g.wins.any (fun y => y.win == x.win) then g.wins.map fun y => if y.win = x.win then x else y
                   else g.wins ++ [x] }

/-! FGP and FGW (R350). -/

def fgpMember (x : Word) : Bool := x.getLsbD 0
def fgwWin (x : Word) : Nat := bits x 48 16
def fgwRank (x : Word) : Nat := bits x 40 8
def fgwSeq (x : Word) : Nat := bits x 0 32
def fgwOf (win rank seq : Nat) : Word := BitVec.ofNat 64 (win % 65536 * 2 ^ 48 + rank * 2 ^ 40 + seq)

/-- The next sequence number taken. -/
def Ctx.seqNext (c : Ctx) : Ctx := { c with fgw := setBits c.fgw 0 32 (fgwSeq c.fgw + 1) }

/-! Joining, marking and leaving (R351, R352). -/

/-- The home's check of a descriptor: V and the reserved fields. -/
def State.foldValid (s : State) (desc : Nat) : Bool :=
  let w0 := s.memWord desc
  w0.getLsbD 63 && bits w0 56 7 == 0 && bits w0 32 16 == 0 && bits (s.memWord (desc + 16)) 4 44 == 0 &&
    bits (s.memWord (desc + 24)) 41 23 == 0 && bits (s.memWord (desc + 24)) 9 23 == 0

/-- A strand joins: the rank and the window, or the detail of PROTECTION. -/
def State.foldJoin (s : State) (desc : Nat) (core : CoreKey) (id : Ident) : Except Nat (State × Nat × Nat) :=
  if !s.foldValid desc then .error 6
  else
    let rbase := bits (s.memWord desc) 0 32
    let r := id.lid.toNat - rbase
    if id.lid.toNat < rbase ∨ s.foldN desc ≤ r ∨ s.foldJoined desc r = true then .error 7
    else
      let jm := desc + 32 + 8 * (r / 64)
      let s1 := s.setMemWord jm (s.memWord jm ||| BitVec.ofNat 64 (2 ^ (r % 64)))
      let w3 := s1.memWord (desc + 24)
      let s2 := s1.setMemWord (desc + 24) (setBits w3 32 9 (bits w3 32 9 + 1))
      let g := (s2.fold? desc).getD ⟨desc, id.spid, core, [], [], [], [], none⟩
      .ok (s2.setFold { g with members := g.members ++ [id.who] }, r, s2.foldWcl desc)

/-- A mark of a window by a rank reaches the home. -/
def State.foldMark (s : State) (g : FoldGroup) (rank win : Nat) : State :=
  let x := g.window win
  s.setFold (g.setWindow { x with marks := x.marks ++ [rank] })

/-- A group of which a strand is no member. -/
def FoldGroup.without (g : FoldGroup) (who : StrandId) : FoldGroup := { g with members := g.members.filter (· != who) }

/-- A rank leaves its group with the mark of its open window (R351, R352); the last one fixes where the group ends (R385). -/
def State.foldLeaves (s : State) (g : FoldGroup) (rank win : Nat) : State :=
  let s1 := s.foldMark g rank win
  let g1 := (s1.fold? g.desc).getD g
  let w3 := s1.memWord (g.desc + 24)
  let nl := bits w3 0 9 + 1
  let s2 := s1.setMemWord (g.desc + 24) (setBits w3 0 9 nl)
  s2.setFold { g1 with left := g1.left ++ [rank], fin := if nl = s2.foldN g.desc then some win else g1.fin }

/-- A rank leaves once the window before its own has closed, as FOLDMARK with w0 stalls until then (R351, R352). -/
def State.foldLeavesAt (s : State) (g : FoldGroup) (rank win : Nat) : State :=
  if win = s.foldWcl g.desc then s.foldLeaves g rank win else s.setFold { g with leaves := g.leaves ++ [(rank, win)] }

/-- RETIRE, KILL and fencing leave the group of a strand, wherever the strand is (R352). -/
def State.foldGone (s : State) (a : StrandAt) : State :=
  let who := (s.strand a).id.who
  match s.groupOfStrand who with
  | none => s
  | some g =>
    let fgw := s.regionWord a 54
    ((s.foldLeavesAt (g.without who) (fgwRank fgw) (fgwWin fgw)).setRegionWord a 53 0).setRegionWord a 54 0

/-- Check 2 of R163 as R172, R349 and R354 narrow it (DEDUCED for FOLDMARK: log 26): the pointer lies in window 0x8, or in window 0x9 of this package; far: another package too. -/
def State.detWindow (s : State) (k : CoreKey) (p n : Nat) (far : Bool) : Bool :=
  match s.place k p n with
  | some (.virt _) => true
  | some (.far _ _) => far
  | _ => false

/-- R351. The strand's own pending update holds the mark, an open earlier window stalls it. -/
def execFoldmark (a : SReg) (h : La) (s : State) : Next :=
  let f := footL (rS a.val) []
  issue s f fun s k b =>
    let bk := s.bank k b
    let p := bk.ctx.s a.val
    let m := fgpMember bk.ctx.fgp
    let bad := (!m && p == 0) || (m && p != 0 && bits p 6 58 != bits bk.ctx.fgp 6 58) || p.toNat % 64 != 0
    if bad then .trap (illegal0 21)
    else if s.slatePhase k bk then .trap ⟨.slateRemote, p, 0⟩
    else if m then
      match s.groupOfStrand bk.id.who with
      | none => .trap (illegal0 21)
      | some g =>
        let win := fgwWin bk.ctx.fgw
        let rank := fgwRank bk.ctx.fgw
        if win ≠ s.foldWcl g.desc then .stall .foldmark
        else if bk.pend.any fun q => match q.far with | some (.det _ _ _) => true | _ => false then .wait
        else
          let (s1, c) :=
            if p = 0 then (s.foldLeaves (g.without bk.id.who) rank win, { bk.ctx with fgp := 0, fgw := 0 })
            else (s.foldMark g rank win, { bk.ctx with fgw := fgwOf (win + 1) rank 0 })
          .done (s1.setBank k b { bk.push (bk.pendingOf f h) with ctx := c }) none none
    else if !s.detWindow k p.toNat 64 false then .trap ⟨.addrWindow, p, 0⟩
    else
      match s.issueChecks (s.view k b) p.toNat 64 64 with
      | .error st => st.act p
      | .ok pl =>
        let land := landingFor k pl 8
        if s.landFull land then .wait
        else .done (s.setBank k b (bk.push { bk.pendingOf f h with safe := false, far := some .join, ptr := p, land := land })) none none

/-! Acceptance of updates (R353, R355, R358). -/

/-- The fold unit of a physical address: stack and channel (R393). -/
def foldUnit (pa : Nat) : Nat × Nat := (pa / 2 ^ 36, pa / 256 % 32)

/-- The updates of a window at one address. -/
def FoldWin.upto (w : FoldWin) (addr : Nat) : List FoldUpd := w.upds.filter fun u => u.addr == addr

/-- The place of the first update of a window that a unit accepted (R358). -/
def FoldWin.first? (w : FoldWin) (unit : Nat × Nat) : Option Nat := (w.firsts.find? fun e => e.1 == unit).map (·.2)

/-- Addresses that a window holds at a unit. -/
def FoldWin.addrs (w : FoldWin) (unit : Nat × Nat) : List Nat :=
  ((w.upds.map FoldUpd.addr).eraseDups).filter fun a => foldUnit a == unit

/-- Exact slots of an address: the 17th update takes them (R357). -/
def FoldWin.slots (w : FoldWin) (addr : Nat) : Nat :=
  let us := w.upto addr
  if us.length ≤ 16 then 0 else if us.any FoldUpd.wide then 7 else 1

/-- What a unit holds: address entries, exact slots, registrations. -/
def State.unitLoad (s : State) (unit : Nat × Nat) : Nat × Nat × Nat :=
  let ws := s.folds.flatMap FoldGroup.wins
  ((ws.map fun w => (w.addrs unit).length).sum, (ws.map fun w => ((w.addrs unit).map w.slots).sum).sum,
    (ws.filter fun w => !(w.addrs unit).isEmpty).length)

/-- How a unit answers an update. -/
inductive FoldAnswer where
  | refused
  | overlap
  | accepted (s : State)

/-- An update entered in a window of its group. -/
def State.foldEnter (s : State) (g : FoldGroup) (win : Nat) (u : FoldUpd) : State :=
  let w := g.window win
  let unit := foldUnit u.addr
  let w1 := { w with upds := w.upds ++ [u], firsts := if (w.first? unit).isSome then w.firsts else w.firsts ++ [(unit, s.foldNo)] }
  { s.setFold (g.setWindow w1) with foldNo := s.foldNo + 1 }

/-- A unit is within its capacity (R358). -/
def State.unitFits (s : State) (unit : Nat × Nat) : Bool :=
  let (a, e, r) := s.unitLoad unit
  decide (a ≤ 4096) && decide (e ≤ 256) && decide (r ≤ 64)

/-- The tag and the group of a member's next update. -/
def State.updateTag (s : State) (k : CoreKey) (b : Fin 2) : Option (FoldGroup × Nat × Nat × Nat) :=
  let bk := s.bank k b
  (s.groupOfStrand bk.id.who).map fun g => (g, fgwWin bk.ctx.fgw, fgwRank bk.ctx.fgw, fgwSeq bk.ctx.fgw)

/-- The deterministic update that a bank holds for acceptance: its pointer, width and addend. -/
def Bank.detHeld (b : Bank) : Option (Word × Bool × Word) :=
  match b.store.bind fun h => h.det.map fun d => ((h.lanes.headD (0, [])).1, d.1, d.2) with
  | some x => some x
  | none => b.pend.findSome? fun q => match q.far with
    | some (.det _ wide x) => some (q.ptr, wide, x)
    | _ => none

/-- The update that a bank holds, at its location, with its group and window. -/
def State.detWaiting (s : State) (k : CoreKey) (b : Fin 2) : Option (FoldGroup × Nat × FoldUpd) :=
  match (s.bank k b).detHeld, s.updateTag k b with
  | some (p, wide, x), some (g, win, rank, seq) =>
    let m := if wide then 8 else 4
    match s.place k p.toNat m with
    | some (.virt va) => match s.targetChecks (s.view k b) (.virt va) m .det with
      | .ok ps => some (g, win, ⟨(ps.headD (0, 0)).1, wide, rank, seq, x⟩)
      | .error _ => none
    | _ => none
  | _, _ => none

/-- The updates that wait at the fold units of the package: those of its strands, and those of other packages. -/
def State.updatesWaiting (s : State) : List (FoldGroup × Nat × FoldUpd) :=
  (s.cores.flatMap fun e => (s.detWaiting e.1 0).toList ++ (s.detWaiting e.1 1).toList) ++
    s.foldWaits.filterMap fun e => (s.fold? e.1).map fun g => (g, e.2)

/-- The updates that wait at a unit for a window of which it accepted the first update earlier than of another (R358). -/
def State.olderWaiting (s : State) (unit : Nat × Nat) (w : FoldWin) : List (FoldGroup × Nat × FoldUpd) :=
  s.updatesWaiting.filter fun x =>
    foldUnit x.2.2.addr == unit && match (x.1.window x.2.1).first? unit with
      | none => false
      | some n => ((w.first? unit).map fun m => decide (n < m)).getD true

/-- An update offered to the unit of its location. It is refused where the unit has no room, or where the room belongs to a window whose first update the unit accepted earlier (R358). -/
def State.foldAccept (s : State) (g : FoldGroup) (win : Nat) (u : FoldUpd) : FoldAnswer :=
  let w := g.window win
  let unit := foldUnit u.addr
  let n := if u.wide then 8 else 4
  let clash (v : FoldUpd) : Bool :=
    let m := if v.wide then 8 else 4
    rangesMeet u.addr n v.addr m && !(v.addr == u.addr && v.wide == u.wide)
  if w.upds.any clash then .overlap
  else
    let s1 := s.foldEnter g win u
    let fair (x : FoldGroup × Nat × FoldUpd) : Bool :=
      (s1.foldEnter ((s1.fold? x.1.desc).getD x.1) x.2.1 x.2.2).unitFits unit || !(s.foldEnter x.1 x.2.1 x.2.2).unitFits unit
    if s1.unitFits unit && (s1.unitLoad unit == s.unitLoad unit || (s.olderWaiting unit w).all fair) then .accepted s1 else .refused

/-- An update of a strand at its location: the answer, with the sequence number taken where it is accepted. -/
def State.strandUpdate (s : State) (k : CoreKey) (b : Fin 2) (pa : Nat) (wide : Bool) (x : Word) : FoldAnswer :=
  match s.updateTag k b with
  | none => .refused
  | some (g, win, rank, seq) =>
    match s.foldAccept g win ⟨pa, wide, rank, seq, x⟩ with
    | .accepted s1 => .accepted (s1.setBank k b { s1.bank k b with ctx := (s1.bank k b).ctx.seqNext })
    | r => r

/-- R172, R353: AFADD.det; it is accepted at its write-back. It is ordered after the strand's earlier accesses, an update still to be accepted among them (R359). -/
def execAfaddDet (d : DReg) (c : SReg) (w : WReg) (t : FTy2) (h : La) (s : State) : Next :=
  let f := footL (rS c.val ++ rS w.val) (rS d.val)
  let i : Instr := .afaddDet d c w t h
  issue s f fun s k b =>
    let bk := s.bank k b
    let p := bk.ctx.s w.val
    let n := fty2Bytes t
    if s.relWaits bk .dm then .wait
    else if !fgpMember bk.ctx.fgp then .trap (illegalAt i 8)
    else if fgwSeq bk.ctx.fgw = 2 ^ 32 - 1 then .trap (illegalAt i 20)
    else if !s.detWindow k p.toNat n false then .trap ⟨.addrWindow, p, 0⟩
    else match s.issueChecks (s.view k b) p.toNat n n with
      | .error st => st.act p
      | .ok pl =>
        let x := BitVec.ofNat 64 ((bk.ctx.s c.val).toNat % 2 ^ (8 * n))
        let land := landingFor k pl n
        if s.landFull land then .wait
        else .done (s.setBank k b (bk.push { bk.pendingOf f h with
          safe := false, far := some (.det d (t == .f64) x), ptr := p, spans := [(p.toNat, n)], land := land })) none none

/-- RADD.det (R354): the strand is held until the update is accepted. -/
def issueRaddDet (s : State) (i : Instr) (d : WReg) (n : SReg) (wide : Bool) : Next :=
  issue s (foot (rS d.val ++ rS n.val) []) fun s k b =>
    let bk := s.bank k b
    let p := bk.ctx.s d.val
    let m := if wide then 8 else 4
    if s.relWaits bk .dm then .wait
    else if !fgpMember bk.ctx.fgp then .trap (illegal0 8)
    else if fgwSeq bk.ctx.fgw = 2 ^ 32 - 1 then .trap (illegalAt i 20)
    else if !s.detWindow k p.toNat m true then .trap ⟨.addrWindow, p, 0⟩
    else match s.issueChecks (s.view k b) p.toNat m m with
      | .error st => st.act p
      | .ok _ =>
        let x := BitVec.ofNat 64 ((bk.ctx.s n.val).toNat % 2 ^ (8 * m))
        let held : StoreHeld := ⟨bk.nIssued + 1, bk.curPc, [(p, leBytes m x.toNat)], some (wide, x), s.groupId bk.id.spid, [], false,
          bk.replay.map fun r => (r.todo.headD 0, r)⟩
        if s.landFull (s.storeLanding k (p, leBytes m x.toNat)) then .wait
        else .done (s.setBank k b { bk with store := some held }) none none

/-- R354. -/
def execRaddDetF64 (d : WReg) (n : SReg) (s : State) : Next := issueRaddDet s (.raddDetF64 d n) d n true

/-- R354. -/
def execRaddDetF32 (d : WReg) (n : SReg) (s : State) : Next := issueRaddDet s (.raddDetF32 d n) d n false

/-! Write-back. -/

/-- A pending instruction of a bank written back. -/
def State.writesBack (s : State) (k : CoreKey) (b : Fin 2) (n : Nat) (p : Pending) (ws : List RegWrite) (fl : Flags)
    (late : Option Trap) : State :=
  let bk := s.bank k b
  s.setBank k b (bk.writeBack p ws fl late (bk.pend.eraseIdx n))

/-- The late trap of a pending instruction at its pointer. -/
def Pending.lateTrap (p : Pending) (c : Cause) (d : Nat) : Option Trap := some ⟨c, p.ptr, BitVec.ofNat 8 d⟩

/-- A FOLDMARK that joins reaches its home. -/
def writeBackJoin (s : State) (k : CoreKey) (b : Fin 2) (n : Nat) (p : Pending) : State :=
  let v := s.view k b
  match s.place v.core p.ptr.toNat 64 with
  | none => s.writesBack k b n p [] 0 (p.lateTrap .addrWindow 0)
  | some pl => match s.targetChecks v pl 64 .read with
    | .error .wait => s
    | .error (.trap c d) => s.writesBack k b n p [] 0 (p.lateTrap c d)
    | .ok ps =>
      let pa := (ps.headD (0, 0)).1
      if hbmEnd ≤ pa then s.writesBack k b n p [] 0 (p.lateTrap .protection 6)
      else match s.foldJoin pa k (s.bank k b).id with
        | .error d => s.writesBack k b n p [] 0 (p.lateTrap .protection d)
        | .ok (s1, r, win) =>
          let s2 := s1.writesBack k b n p [] 0 none
          let bk := s2.bank k b
          s2.setBank k b { bk with ctx := { bk.ctx with fgp := setBits p.ptr 0 6 1, fgw := fgwOf win r 0 } }

/-- An AFADD.det reaches the fold unit of its location; refused, it stays pending. -/
def writeBackDet (s : State) (k : CoreKey) (b : Fin 2) (n : Nat) (p : Pending) (d : DReg) (wide : Bool) (x : Word) : State :=
  let v := s.view k b
  let m := if wide then 8 else 4
  match s.place v.core p.ptr.toNat m with
  | none => s.writesBack k b n p [] 0 (p.lateTrap .addrWindow 0)
  | some pl => match s.targetChecks v pl m .det with
    | .error .wait => s
    | .error (.trap c e) => s.writesBack k b n p [] 0 (p.lateTrap c e)
    | .ok ps =>
      let seq := fgwSeq (s.bank k b).ctx.fgw
      match s.strandUpdate k b (ps.headD (0, 0)).1 wide x with
      | .refused => s
      | .overlap => s.writesBack k b n p [] 0 (p.lateTrap .protection 8)
      | .accepted s1 => s1.writesBack k b n p [.s d (BitVec.ofNat 64 seq)] 0 none

/-- R207: the n-th pending instruction of a bank writes its destination. An access to another package needs the reply, which its packets have asked for; a slot changes in program order (R235). -/
def execLongLatencyWriteback (k : CoreKey) (b : Fin 2) (n : Nat) (far : Option FarReply) (s : State) : Next :=
  let bk := s.bank k b
  match bk.pend[n]? with
  | none => .next s
  | some p =>
    match p.far, far with
    | some .join, _ => .next (writeBackJoin s k b n p)
    | some (.det d wide x), _ => .next (writeBackDet s k b n p d wide x)
    | some _, none => .next s
    | some u, some r =>
      let (ws, fl, late) := u.settle p.late p.ptr r
      if s.farLeft p.pkts then .next ((s.farAnswered p.pkts).writesBack k b n p ws fl late) else .next s
    | none, _ => .next (s.writesBack k b n p p.writes p.flags p.late)

/-! Acceptance of stores. -/

/-- A held store or update of a bank is no longer held, with the trap it takes. -/
def State.unhold (s : State) (k : CoreKey) (b : Fin 2) (h : StoreHeld) (t : Option Trap) : State :=
  let bk := s.bank k b
  (s.setBank k b { bk with store := none, trapped := bk.trapped ++ (t.map h.trapRec).toList }).farAnswered h.pkts

/-- The packets of a held store are sent: they wait for their answer. -/
def State.holdSent (s : State) (k : CoreKey) (b : Fin 2) (h : StoreHeld) (ids : List Nat) : State :=
  s.setBank k b { s.bank k b with store := some { h with pkts := ids } }

/-- The lanes of a held store that lie in another package, each with its number. -/
def State.lanesAway (s : State) (k : CoreKey) (h : StoreHeld) : List (Nat × Word × List Byte × Place) :=
  (h.lanes.zipIdx).filterMap fun e => match s.place k e.1.1.toNat e.1.2.length with
    | some (.far pkg va) => some (e.2, e.1.1, e.1.2, .far pkg va)
    | _ => none

/-- The packets of a held store have been performed: a reply says so, or every one is acknowledged (R423). -/
def State.sentMade (s : State) (h : StoreHeld) (far : Option FarReply) : Bool :=
  (far.isSome && s.farLeft h.pkts) || !(s.fab.retry.any fun q => h.pkts.contains q.pkt.opId)

/-- A RADD.det held at its location (R354). -/
def acceptDet (s : State) (k : CoreKey) (b : Fin 2) (h : StoreHeld) (wide : Bool) (x : Word) (far : Option FarReply) : State :=
  let p := (h.lanes.headD (0, [])).1
  let m := if wide then 8 else 4
  let v := s.view k b
  let fail (c : Cause) (d : Nat) : State := s.unhold k b h (some ⟨c, p, BitVec.ofNat 8 d⟩)
  match s.place v.core p.toNat m with
  | none => fail .addrWindow 0
  | some pl =>
    if pl.isFar then
      match s.updateTag k b with
      | none => s
      | some (g, win, rank, seq) =>
        if h.pkts.isEmpty then
          match s.farSend k h.grp pl (.detAdd wide x g.desc rank win seq) [] with
          | .error .wait => s
          | .error (.trap c d) => fail c d
          | .ok (i, s1) => s1.holdSent k b h [i]
        else if !s.sentMade h far then s
        else match far with
          | some (.failed _ c d) => fail (causeOfCode c) d
          | _ =>
            let s1 := s.setFold (g.setWindow ((g.window win).register (pkgOf p)))
            let bk := s1.bank k b
            (s1.setBank k b { bk with ctx := bk.ctx.seqNext }).unhold k b h none
    else match s.targetChecks v pl m (if tagOf p.toNat = 9 then .detF else .det) with
      | .error .wait => s
      | .error (.trap c d) => fail c d
      | .ok ps => match s.strandUpdate k b (ps.headD (0, 0)).1 wide x with
        | .refused => s
        | .overlap => fail .protection 8
        | .accepted s1 => s1.unhold k b h none

/-- A held store whose lanes pass their checks here, with what another package says of those that lie there, or the lowest lane that fails (R165). -/
def State.acceptHere (s : State) (k : CoreKey) (b : Fin 2) (h : StoreHeld) (far : Option FarReply)
    (f : List (Word × List Byte × Place × List (Nat × Nat)) → State) : State :=
  match s.acceptLanes (s.view k b) h.lanes far with
  | .error (_, .wait) => s
  | .error (p, .trap c d) => s.unhold k b h (some ⟨c, p, BitVec.ofNat 8 d⟩)
  | .ok ls => f ls

/-- The lanes of an accepted store that lie here are made, and those of other packages sent. -/
def State.storeAway (s : State) (k : CoreKey) (b : Fin 2) (h : StoreHeld) (away : List (Nat × Word × List Byte × Place))
    (ls : List (Word × List Byte × Place × List (Nat × Nat))) : State :=
  let r := storeLanes s (s.view k b) (ls.filter fun l => !l.2.2.1.isFar)
  match (r.1.farAnswered h.pkts).farSends k h.grp (away.map fun l => (l.2.2.2, .store, l.2.2.1)) with
  | .error _ => s
  | .ok (ids, s1) =>
    let s2 := s1.holdSent k b { h with lanes := away.map fun l => (l.2.1, l.2.2.1), asked := false } ids
    let x := s2.bank k b
    s2.setBank k b { x with trapped := x.trapped ++ (r.2.map h.trapRec).toList }

/-- A held store with lanes in other packages. One lane is sent as it is. Of several, those packages are asked first whether they accept theirs: no lane is made before all are accepted (R165). -/
def State.acceptAway (s : State) (k : CoreKey) (b : Fin 2) (h : StoreHeld) (away : List (Nat × Word × List Byte × Place))
    (far : Option FarReply) : State :=
  if h.pkts.isEmpty then
    let one := h.lanes.length == 1
    match s.farSends k h.grp (away.map fun l => (l.2.2.2, if one then .store else .accept l.2.2.1.length, if one then l.2.2.1 else [])) with
    | .error .wait => s
    | .error (.trap _ _) => s.acceptHere k b h none fun _ => s
    | .ok (ids, s1) => s1.holdSent k b { h with asked := !one } ids
  else if !s.sentMade h far then s
  else match far, h.asked with
    | some (.failed i c d), _ => s.acceptHere k b h (some (.failed i c d)) fun _ => s
    | _, true => s.acceptHere k b h none (s.storeAway k b h away)
    | _, false => s.unhold k b h none

/-- What the store or update that a bank holds does next. A reply is heard once the packets of its lanes are sent. -/
def State.acceptStep (s : State) (k : CoreKey) (b : Fin 2) (h : StoreHeld) (far : Option FarReply) : State :=
  match h.det with
  | some (wide, x) => acceptDet s k b h wide x far
  | none =>
    let away := s.lanesAway k h
    let heard := if h.pkts.isEmpty || !s.farLeft h.pkts then none else far
    if away.isEmpty then s.acceptHere k b h none fun ls => (let r := storeLanes s (s.view k b) ls; r.1.unhold k b h r.2)
    else s.acceptAway k b h away heard

/-- R164, R354: the store or update that a bank holds is accepted, all of its lanes at once, or traps. -/
def execStoreAcceptance (k : CoreKey) (b : Fin 2) (far : Option FarReply) (s : State) : Next :=
  match (s.bank k b).store with
  | none => .next s
  | some h => .next (s.acceptStep k b h far)

/-! Closing (R356, R357). -/

/-- The updates of an address in ascending rank and sequence number. -/
def FoldWin.sorted (w : FoldWin) (addr : Nat) : List FoldUpd := sortBy (fun u => u.rank * 2 ^ 32 + u.seq) (w.upto addr)

/-- The value of an address after the close (R357). -/
def closeValue (f : Fmt) (v : Nat) (us : List Nat) : Nat × Flags :=
  if us.length ≤ 16 then us.foldl (fun a u => withFlags a.2 (fAdd f .rne a.1 u)) (v, fNone)
  else
    let vs := (v :: us).map f.read
    let t := sumAll .rne vs
    withFlags (vs.foldl (fun a x => a ||| x.readFlag) t.2) (f.deliver .rne t.1)

/-- The updates of a window applied at every address, with the flags. -/
def State.closeAll (s : State) (w : FoldWin) : State × Flags :=
  ((w.upds.map FoldUpd.addr).eraseDups).foldl (fun a addr =>
    let us := w.sorted addr
    let wide := us.any FoldUpd.wide
    let n := if wide then 8 else 4
    let f := if wide then fmtF64 else fmtF32
    let y := closeValue f (leNat (getBytes a.1.mem addr n)) (us.map fun u => u.x.toNat)
    (a.1.store [(addr, n)] (leBytes n y.1), a.2 ||| y.2)) (s, fNone)

/-- The window that a group of this package may close now (R356, R385). -/
def State.closable (s : State) (g : FoldGroup) : Option Nat :=
  let w := s.foldWcl g.desc
  let n := s.foldN g.desc
  let x := g.window w
  if (List.range n).all fun r => s.foldJoined g.desc r && (g.left.contains r || x.marks.contains r) then some w else none

/-- A group is finished once it has closed the window that its last leave marked (R385). -/
def FoldGroup.finishedAt (g : FoldGroup) (wcl : Nat) : Bool :=
  match g.fin with
  | some w => (w + 1) % 65536 == wcl
  | none => false

/-- The signal of a group: 1 is added to SIG, held while a link retrains, sent where SIG lies in another package (R349, R385, R391). A signal word that fails a check is left. -/
def State.foldSignal (s : State) (g : FoldGroup) : State :=
  let p := s.memWord (g.desc + 8)
  if p = 0 then s else s.owe ⟨g.core, g.spid, p, .add 1⟩

/-- The ranks that leave now that the window before their own has closed (R352). -/
def State.foldLeft (s : State) (desc : Nat) : State :=
  match s.fold? desc with
  | none => s
  | some g =>
    let (now, later) := g.leaves.partition fun e => e.2 == s.foldWcl desc
    now.foldl (fun s e => s.foldLeaves ((s.fold? desc).getD g) e.1 e.2) (s.setFold { g with leaves := later })

/-- What a home reads at another package to have its window w closed there: the report of its fold units. -/
def closePtr (pkg w : Nat) : Nat := 9 * 2 ^ 60 + pkg % 4096 * 2 ^ 48 + w

/-- How another package stands to the close of window w: not told, told, or its report. -/
def State.closeAsked (s : State) (desc w pkg : Nat) : AskSt := s.asked (.fold desc) 0x72 (closePtr pkg w) 8

/-- The flags that another package has reported for the close of window w (R356). -/
def State.closeReport (s : State) (desc w pkg : Nat) : Option (BitVec 4) :=
  match s.closeAsked desc w pkg with
  | .over bs => some (BitVec.ofNat 4 (leNat bs))
  | _ => none

/-- The home tells another package to close window w: a packet under the group of the home's space id (R435), through a port of the home's die. It waits where that group has no open entry, or the port no room. -/
def State.tellClose (s : State) (g : FoldGroup) (w pkg : Nat) : Option State :=
  let k : CoreKey := (foldUnit g.desc).1 / 2 * 1984
  match s.groupId g.spid, s.portWay (dieOf k) pkg with
  | some i, .ok j =>
    let p := packetUnder i s.fab.nextOp 1 none (.foldClose g.desc w) 0 []
    let x := BitVec.ofNat 64 (closePtr pkg w)
    let op : FabricOp :=
      { id := s.fab.nextOp, sid := 0, who := ⟨0, 0⟩, fsrv := 0, opc := 0x72, da := x, sa := x, amount := 8, sig := 0, core := k,
        spid := g.spid, port := j, handle := i.1, key := i.2, sent := 0, rest := .held [], left := 1, due := 8, failed := none,
        ask := some (.fold g.desc), got := [] }
    if s.portRoom j p then some ((s.addOp op).sendPacket j pkg p) else none
  | _, _ => none

/-- A window of a group of this package closed, every other package that is registered having reported. -/
def State.closeWindow (s : State) (g : FoldGroup) (w : Nat) : State :=
  let x := g.window w
  let (s1, fl) := s.closeAll x
  let told := (x.far.filterMap (s.closeReport g.desc w)).foldl (· ||| ·) (fl.setWidth 4)
  let s2 := s1.dropAsks (.fold g.desc)
  let w2 := s2.memWord (g.desc + 16)
  let s3 := s2.setMemWord (g.desc + 16) (setBits (setBits w2 48 16 (bits w2 48 16 + 1)) 0 4 (BitVec.ofNat 4 (bits w2 0 4) ||| told).toNat)
  let s4 := (s3.foldSignal g).setFold { g with wins := g.wins.filter fun y => y.win != w }
  let s5 := s4.foldLeft g.desc
  match s5.fold? g.desc with
  | some h => if h.finishedAt (s5.foldWcl g.desc) then { s5 with folds := s5.folds.filter fun h => h.desc != g.desc } else s5
  | none => s5

/-- The units of this package close window w of another package's group, whose home tells them to, and report the flags (R356). -/
def State.unitsClose (s : State) (desc w : Nat) : State × Flags :=
  match s.fold? desc with
  | none => (s, fNone)
  | some g =>
    let r := s.closeAll (g.window w)
    (r.1.setFold { g with wins := g.wins.filter fun v => v.win != w }, r.2)

/-- R356: the window that every rank has marked closes at the home: it tells each other package that is registered, and once all have reported the window is closed. A group of another package closes here as its home's packet says. -/
def execWindowClose (desc : Nat) (s : State) : Next :=
  match s.fold? desc with
  | none => .next s
  | some g =>
    if 2 ^ 48 ≤ desc then .next s
    else match s.closable g with
      | none => .next s
      | some w =>
        let far := (g.window w).far
        if far.all fun pkg => (s.closeReport desc w pkg).isSome then .next (s.closeWindow g w)
        else .next (((far.filter fun pkg => s.closeAsked desc w pkg = .none).findSome? (s.tellClose g w)).getD s)

end Sys2Proof.Machine
end

