-- ==== Sys2Proof/Machine/Heap.lean ====
section
/-! DEFINITION. The heap: descriptors (R360), the buddy blocks of an arena (R361), HALLOC and HFREE (R362). The layout of the state area, two bits for each block of each class, is the model's (DESIGN CHOICE, log 27); a zeroed area is an arena of free blocks of the largest class. -/

namespace Sys2Proof.Machine

open Sys2Proof

/-- A heap as its descriptor gives it, with the pieces of its state area. -/
structure Heap where
  desc : Nat
  soft : Bool
  maxlg : Nat
  minlg : Nat
  arena : Word
  len : Nat
  area : List (Nat × Nat)
  deriving DecidableEq, Repr

/-- The descriptor at a location is valid (R360). -/
def State.heapValid (s : State) (desc : Nat) : Bool :=
  let w0 := s.memWord desc
  let lo := bits w0 0 5
  let hi := bits w0 8 5
  w0.getLsbD 63 && bits w0 13 49 == 0 && bits w0 5 3 == 0 && decide (6 ≤ lo) && decide (lo ≤ hi) && decide (hi ≤ 30) &&
    bits (s.memWord (desc + 16)) 48 16 == 0 && s.memWord (desc + 40) == 0 && s.memWord (desc + 48) == 0 &&
    s.memWord (desc + 56) == 0

/-- Bytes of the state area (R360). -/
def areaBytes (len minlg : Nat) : Nat := cdiv len (64 * 2 ^ (minlg + 1)) * 64

/-- The location of byte i of an area's pieces. -/
def pieceByte : List (Nat × Nat) → Nat → Nat
  | [], _ => 0
  | (loc, n) :: ps, i => if i < n then loc + i else pieceByte ps (i - n)

/-- Number of blocks of the largest class. -/
def Heap.roots (h : Heap) : Nat := h.len / 2 ^ h.maxlg

/-- The place of block i of a class among all blocks. -/
def Heap.node (h : Heap) (c i : Nat) : Nat := h.roots * (2 ^ (h.maxlg - c) - 1) + i

/-- The state of block i of a class: 0 free, 1 split, 2 allocated. -/
def State.blockSt (s : State) (h : Heap) (c i : Nat) : Nat :=
  let n := h.node c i
  (getByte s.mem (pieceByte h.area (n / 4))).toNat / 4 ^ (n % 4) % 4

def State.setBlock (s : State) (h : Heap) (c i x : Nat) : State :=
  let n := h.node c i
  let a := pieceByte h.area (n / 4)
  let b := (getByte s.mem a).toNat
  { s with mem := putByte s.mem a (BitVec.ofNat 8 (b - b / 4 ^ (n % 4) % 4 * 4 ^ (n % 4) + x % 4 * 4 ^ (n % 4))) }

/-- Block i of a class is free. -/
def State.isFree (s : State) (h : Heap) (c i : Nat) : Bool :=
  s.blockSt h c i == 0 && (c == h.maxlg || s.blockSt h (c + 1) (i / 2) == 1)

/-- The first free block of a class from i on, of n. -/
def State.freeFrom (s : State) (h : Heap) (c : Nat) : Nat → Nat → Option Nat
  | 0, _ => none
  | n + 1, i => if s.isFree h c i then some i else s.freeFrom h c n (i + 1)

/-- The free block of the smallest class at least c, at the lowest address: its class and number. fuel: classes left. -/
def State.findFree (s : State) (h : Heap) : Nat → Nat → Option (Nat × Nat)
  | 0, _ => none
  | fuel + 1, c =>
    if h.maxlg < c then none
    else match s.freeFrom h c (h.roots * 2 ^ (h.maxlg - c)) 0 with
      | some i => some (c, i)
      | none => s.findFree h fuel (c + 1)

/-- A free block of class c + n halved n times, the lower half kept each time, and allocated: the number of the block of class c. -/
def State.splitTo (s : State) (h : Heap) (c : Nat) : Nat → Nat → State × Nat
  | 0, i => (s.setBlock h c i 2, i)
  | n + 1, i => (s.setBlock h (c + n + 1) i 1).splitTo h c n (2 * i)

/-- A block freed: merged with its buddy while that is free and whole. -/
def State.mergeFrom (s : State) (h : Heap) : Nat → Nat → Nat → State
  | 0, c, i => s.setBlock h c i 0
  | n + 1, c, i =>
    let s1 := s.setBlock h c i 0
    let buddy := if i % 2 = 0 then i + 1 else i - 1
    if s1.blockSt h c buddy = 0 then s1.mergeFrom h n (c + 1) (i / 2) else s1

/-- The class of a request (R362). -/
def Heap.classOf (h : Heap) (size : Nat) : Nat := if size ≤ 2 ^ h.minlg then h.minlg else max h.minlg (Nat.log2 (size - 1) + 1)

/-- The allocated block that starts at an offset of the arena: its class. fuel: classes left. -/
def State.blockAt (s : State) (h : Heap) (off : Nat) : Nat → Nat → Option Nat
  | 0, _ => none
  | fuel + 1, c =>
    if h.maxlg < c then none
    else if off % 2 ^ c = 0 ∧ off < h.len ∧ s.blockSt h c (off / 2 ^ c) = 2 then some c
    else s.blockAt h off fuel (c + 1)

/-- NEXH or NBAD raised, saturating (R360). -/
def State.heapCount (s : State) (desc lo : Nat) : State :=
  let w := s.memWord (desc + 32)
  s.setMemWord (desc + 32) (setBits w lo 32 (min (bits w lo 32 + 1) (2 ^ 32 - 1)))

/-- Why a request does not reach its heap: it waits, or it traps late. -/
inductive HeapStop where
  | wait
  | late (t : Trap)

/-- The checks made at the heap unit (R362). -/
def State.heapAt (s : State) (v : View) (d : Word) (pl : Place) : Except HeapStop Heap :=
  let stop (st : Stop) (p : Word) : HeapStop := match st with
    | .wait => .wait
    | .trap c x => .late ⟨c, p, BitVec.ofNat 8 x⟩
  match s.targetChecks v pl 64 .atomic with
  | .error st => .error (stop st d)
  | .ok ps =>
    let desc := (ps.headD (0, 0)).1
    if hbmEnd ≤ desc ∨ s.heapValid desc = false then .error (.late ⟨.protection, d, 6⟩)
    else
      let w0 := s.memWord desc
      let len := bits (s.memWord (desc + 16)) 0 48
      let lo := bits w0 0 5
      let st := s.memWord (desc + 24)
      let n := areaBytes len lo
      let h (area : List (Nat × Nat)) : Heap := ⟨desc, w0.getLsbD 62, bits w0 8 5, lo, s.memWord (desc + 8), len, area⟩
      match s.issueChecks v st.toNat n 64 with
      | .error e => .error (stop e st)
      | .ok sp => match s.targetChecks v sp n .atomic with
        | .error e => .error (stop e st)
        | .ok area => .ok (h area)

/-- HALLOC at the heap unit: the package after it, the results, the trap. -/
def State.halloc (s : State) (h : Heap) (d : DReg) (size : Word) : State × List RegWrite × Option Trap :=
  let c := h.classOf size.toNat
  match s.findFree h 32 c with
  | none =>
    let s1 := s.heapCount h.desc 32
    if h.soft then (s1, [.s d 0, .hz], none) else (s1, [], some ⟨.heapExhausted, size, 0⟩)
  | some (c', i) =>
    let r := s.splitTo h c (c' - c) i
    (r.1, [.s d (h.arena + BitVec.ofNat 64 (r.2 * 2 ^ c))], none)

/-- HFREE at the heap unit. -/
def State.hfree (s : State) (h : Heap) (p : Word) : State × Option Trap :=
  if p = 0 then (s, none)
  else
    let off := (p - h.arena).toNat
    match s.blockAt h off 32 h.minlg with
    | none => (s.heapCount h.desc 0, some ⟨.heapBadfree, p, 0⟩)
    | some c => (s.mergeFrom h (h.maxlg - c) c (off / 2 ^ c), none)

/-- A request on a heap issues: its checks at the core, a landing slot for its reply (R328), then its service, in program order. -/
def heapAct (s : State) (k : CoreKey) (b : Fin 2) (q : Pending) (d : Word)
    (serve : State → Heap → State × List RegWrite × Option Trap) : Act :=
  let bk := s.bank k b
  let v := s.view k b
  let pend (s : State) (ws : List RegWrite) (late : Option Trap) : Act :=
    let y := s.bank k b
    .done (s.setBank k b (y.push { q with writes := ws, late := late, acq := q.acq && late.isSome, land := (s.place k d.toNat 64).elim [] fun pl => landingFor k pl 8 })) none none
  if tagOf d.toNat ≠ 8 then .trap ⟨.addrWindow, d, 0⟩
  else if d.toNat % 64 ≠ 0 then .trap ⟨.align, d, 0⟩
  else if s.slatePhase k bk then .trap ⟨.slateRemote, d, 0⟩
  else match s.issueChecks v d.toNat 64 64 with
    | .error .wait => .wait
    | .error (.trap c x) => if c = .rangeLocked then pend s [] (some ⟨c, d, BitVec.ofNat 8 x⟩) else .trap ⟨c, d, BitVec.ofNat 8 x⟩
    | .ok pl =>
      if s.landFull (landingFor k pl 8) then .wait
      else match s.heapAt v d pl with
      | .error .wait => .wait
      | .error (.late t) => pend s [] (some t)
      | .ok h => let r := serve s h; pend r.1 r.2.1 r.2.2

/-- R362; it orders as a FENCE.a of scope .dm after it (R363): it waits for the earlier loads and atomics, and one that traps late, and is made anew, holds what follows. -/
def execHalloc (d : DReg) (a c : SReg) (h : La) (s : State) : Next :=
  let f := footL (rS a.val ++ rS c.val) (rS d.val)
  issue s f fun s k b =>
    let bk := s.bank k b
    if bk.pend.any fun p => !p.safe then .wait
    else heapAct s k b { bk.pendingOf f h with safe := false, setsFlags := true, acq := true } (bk.ctx.s a.val) fun s hp =>
      s.halloc hp d (bk.ctx.s c.val)

/-- R362; it orders as a FENCE.r of scope .dm before it (R363). -/
def execHfree (a c : SReg) (h : La) (s : State) : Next :=
  let f := footL (rS a.val ++ rS c.val) []
  issue s f fun s k b =>
    let bk := s.bank k b
    if s.relWaits bk .dm then .wait
    else heapAct s k b { bk.pendingOf f h with safe := false } (bk.ctx.s a.val) fun s hp =>
      let r := s.hfree hp (bk.ctx.s c.val)
      (r.1, [], r.2)

end Sys2Proof.Machine
end

