-- ==== Sys2Proof/Machine/Fuse.lean ====
section
/-! DEFINITION. Quad fusion: FUSE and the fuse event (R340 to R344), the fused stages (R345), UNFUSE (R347) and the fault that ends a fusion (R348). -/

namespace Sys2Proof.Machine

open Sys2Proof

def State.setQuad (s : State) (d pq : Nat) (q : Quad) : State :=
  s.setDie d { s.die d with quads := insertKey pq q (s.die d).quads }

/-- The quad core of a core: the position of its cluster and its role (R341). -/
def State.quadCore (s : State) (k : CoreKey) : Nat := clusterOf k % 4 * 4 + s.cid k

/-- The core that is quad core j. -/
def State.quadCoreAt (s : State) (d pq j : Nat) : CoreKey := s.coreAt (clusterAt d pq (j / 4)) (j % 4)

/-! The fused image (R341). -/

/-- A selector of stage j as a ring of the quad: 16 × cluster + number. -/
def State.stageRing (s : State) (d pq j x : Nat) : Option Nat :=
  let own := clusterAt d pq (j / 4)
  if x / 16 % 2 = 1 then none
  else if x / 2 ^ 15 % 2 = 0 then (if x / 32 % 1024 = 0 then some (own * 16 + x % 16) else none)
  else match s.clusterPhys (x / 2 ^ 13 % 4) (x / 32 % 256) with
    | some c => if quadOf c = (d, pq) then some (c * 16 + x % 16) else none
    | none => none

/-- Every selector's ring, or none where one is no ring of the quad. -/
def allSome : List (Option Nat) → Option (List Nat)
  | [] => some []
  | none :: _ => none
  | some x :: l => (allSome l).map (x :: ·)

/-- The 16-bit selectors of a word, n of them. -/
def selectorsOf (w : Word) (n : Nat) : List Nat := (List.range n).map fun i => bits w (16 * i) 16

/-- NST of an image whose own fields meet the table, and the records below it are to be judged with their configurations. -/
def fusedStages (bs : List Byte) : Option Nat :=
  let h := imgWord bs 0
  let n := bits h 19 5
  let zero (i : Nat) : Bool := imgWord bs i == 0
  if bits h 32 32 == 0x58474651 && bits h 24 8 == 1 && bits h 0 19 == 0 && decide (1 ≤ n) && decide (n ≤ 16) &&
      ((List.range 7).all fun i => zero (1 + i)) &&
      ((List.range 16).all fun j =>
        if j < n then bits (imgWord bs (9 + 8 * j)) 48 16 == 0 && bits (imgWord bs (10 + 8 * j)) 32 32 == 0 &&
          (List.range 5).all fun i => zero (11 + 8 * j + i)
        else (List.range 8).all fun i => zero (8 + 8 * j + i)) then some n
  else none

/-- The stage of a record and a valid configuration, where the record meets R341. -/
def State.stageOf (s : State) (d pq j : Nat) (bs : List Byte) (x : XImage) : Option Stage :=
  let ins := selectorsOf (imgWord bs (9 + 8 * j)) 3
  let outs := selectorsOf (imgWord bs (10 + 8 * j)) 2
  if x.isVector || !((ins.drop x.nsrc).all (· == 0)) || !((outs.drop x.ndst).all (· == 0)) then none
  else match allSome ((ins.take x.nsrc).map (s.stageRing d pq j)), allSome ((outs.take x.ndst).map (s.stageRing d pq j)) with
    | some i, some o => some ⟨x, i, o, none⟩
    | _, _ => none

/-- What the fuse event finds (R344). -/
inductive FuseResult where
  | wait (s : State)
  | fault (s : State) (code : Nat)
  | invalid (s : State) (watch : Option Trap)
  | unsigned (s : State) (watch : Option Trap)
  | start (s : State) (stages : List Stage) (watch : Option Trap)

/-- Why a read of the fuse event does not end: it waits, with the package as far as a request has been sent; or it meets a fault, after the reads before it (R257, R322). -/
inductive FuseStop where
  | held (s : State)
  | fault (s : State) (code : Nat)

/-- A read of n bytes at p by a quad under the leader's view: here, or asked of another package. -/
def State.quadRead (s : State) (d pq : Nat) (v : View) (l : FuseOffer) (p n : Nat) : Except FuseStop (List Byte × State × Option Trap) :=
  let stop : Stop → FuseStop
    | .wait => .held s
    | .trap c _ => .fault s c.code
  match s.issueChecks v p n 256 with
  | .error st => .error (stop st)
  | .ok pl =>
    if pl.isFar then match s.asked (.quad d pq) 0x72 p n with
      | .none => match s.ask (.quad d pq) v l.who l.fsrv 0x72 p n [] with
        | .ok s1 => .error (.held s1)
        | .error st => .error (stop st)
      | .wait => .error (.held s)
      | .failed c _ => .error (.fault s c)
      | .over bs => .ok (bs, s, none)
    else match s.readAt v p n 256 with
      | .error st => .error (stop st)
      | .ok r => .ok r

/-- The configurations of n stages read from stage j up, with the first WATCH trap that the reads meet. -/
def State.readStages (s : State) (d pq : Nat) (v : View) (o : FuseOffer) (bs : List Byte) :
    Nat → Nat → Except FuseStop (State × List (List Byte) × Option Trap)
  | 0, _ => .ok (s, [], none)
  | n + 1, j =>
    match s.quadRead d pq v o (imgWord bs (8 + 8 * j)).toNat imageRead with
    | .error st => .error st
    | .ok (b, s1, w) => match s1.readStages d pq v o bs n (j + 1) with
      | .error st => .error st
      | .ok (s2, l, u) => .ok (s2, b :: l, if w.isSome then w else u)

/-- Each configuration verified by the cluster of its stage: all are signed. -/
def State.verifyStages (s : State) (d pq : Nat) : Nat → List (List Byte) → Bool × State
  | _, [] => (true, s)
  | j, b :: l =>
    let r := s.verifyImage (clusterAt d pq (j / 4)) b
    let t := r.2.verifyStages d pq (j + 1) l
    (r.1 && t.1, t.2)

/-- The images read under the leader's space id, and the first condition of R344 that applies: every read comes before the fused image is judged. Where one waits, all are made anew, but for what another package has answered. -/
def State.fuseReads (s : State) (d pq : Nat) (v : View) (o : FuseOffer) : FuseResult :=
  let stop : FuseStop → FuseResult
    | .held s1 => .wait { s with fab := s1.fab }
    | .fault s1 c => .fault s1 c
  match s.quadRead d pq v o o.ptr.toNat 1088 with
  | .error e => stop e
  | .ok (bs, s1, w) =>
    match s1.readStages d pq v o bs (min (bits (imgWord bs 0) 19 5) 16) 0 with
    | .error e => stop e
    | .ok (s2, imgs, u) =>
      let t := if w.isSome then w else u
      match fusedStages bs with
      | none => .invalid s2 t
      | some n =>
        let st := ((List.range n).zip imgs).map fun e => s2.stageOf d pq e.1 bs (readImage e.2)
        if !(imgs.all imageValid) || st.any Option.isNone then .invalid s2 t
        else
          let r := s2.verifyStages d pq 0 imgs
          if r.1 then .start r.2 (st.filterMap id) t else .unsigned r.2 t

/-! The fuse event. -/

/-- A result held for each of the offers, and the strands go on to take it. -/
def State.fuseResult (s : State) (d pq : Nat) (r : GangResult) : State :=
  let q := s.quad d pq
  let s1 := s.setQuad d pq { q with offers := q.offers.map fun e => (e.1, { e.2 with result := some r }) }
  q.offers.foldl (fun s e => s.release e.2.who .fuse) s1

/-- The WATCH trap that the leader takes when its FUSE returns (R322). -/
def State.fuseWatch (s : State) (who : StrandId) (w : Option Trap) : State :=
  match s.findStrand who with
  | some a => s.setStrand a { s.strand a with watch := w }
  | none => s

/-- The fetch unit of a strand halts after its FUSE; it stays BLOCKED (R344). -/
def State.fuseHalt (s : State) (who : StrandId) : State :=
  match s.findStrand who with
  | some a => s.setStrand a { (s.strand a).advance none with wait := some .fuse, flagged := false }
  | none => s

/-- R344: the fuse event at the sixteenth offer. Where a read has to wait, the requests that it has sent. -/
def State.fuseOccurs (s : State) (d pq : Nat) : Except Fabric State :=
  let q := s.quad d pq
  let os := q.offers.filter fun e => e.2.result.isNone
  if os.length ≠ 16 then .ok (s.dropAsks (.quad d pq))
  else match os.find? fun e => e.1 == 0 with
    | none => .ok s
    | some (_, l) =>
      let sid := match s.findStrand l.who with | some a => s.sidOf a | none => 0
      let ended (t : State) (w : Option Trap) : State := (t.dropAsks (.quad d pq)).fuseWatch l.who w
      match s.fuseReads d pq ⟨l.core, l.spid, sid, .strand false⟩ l with
      | .wait t => .error t.fab
      | .fault t c => .ok ((ended t none).fuseResult d pq (.mismatch c))
      | .invalid t w => .ok ((ended t w).fuseResult d pq (.value minus1))
      | .unsigned t w => .ok ((ended t w).fuseResult d pq (.value minus2))
      | .start t st w =>
        let s1 := ended t w
        let q1 := s1.quad d pq
        let s2 := s1.setQuad d pq { q1 with
          fused := true, stages := st, draining := false, unfuser := none, nst := st.length, endCode := 0, fcause := 0
          counts := Vector.replicate 16 0 }
        .ok (os.foldl (fun s e => s.fuseHalt e.2.who) s2)

/-- Check 5 of R343. -/
def fusePointer (s : State) (k : CoreKey) (b : Fin 2) (p : Word) : Option Act :=
  let t := tagOf p.toNat
  if t ≠ 0 ∧ t ≠ 1 ∧ t ≠ 8 then some (.trap ⟨.addrWindow, p, 0⟩)
  else match s.issueChecks (s.view k b) p.toNat 1088 256 with
    | .error st => some (st.act p)
    | .ok _ => none

/-- R343. -/
def execFuse (d : DReg) (a : WReg) (s : State) : Next :=
  issue s (footT (rS a.val) (rS d.val)) fun s k b =>
    let bk := s.bank k b
    let (dd, pq) := quadOf (clusterOf k)
    let j := s.quadCore k
    let q := s.quad dd pq
    let p := bk.ctx.s a.val
    let me := bk.id.who
    let afresh : Act :=
      if 3 < s.cid k then .trap (illegalAt (.fuse d a) 18)
      else if decide (j = 0) == decide (a.val = 0) then .trap (illegalAt (.fuse d a) 19)
      else if s.slatePhase k bk then .trap ⟨.slateRemote, 0, 0⟩
      else match (if j = 0 then fusePointer s k b p else none) with
        | some t => t
        | none =>
          if !bk.pend.isEmpty then .wait
          else
            let o : FuseOffer := ⟨me, k, b, p, d, bk.id.spid, bk.id.fsrv, none⟩
            let s1 := (s.setQuad dd pq { q with offers := insertKey j o q.offers }).setBank k b
              { bk with wait := some .fuse, held := true, watch := none }
            match s1.fuseOccurs dd pq with
            | .error f => .hold ({ s with fab := f }.holdIssue k b)
            | .ok s2 => .hold s2
    match (if 3 < s.cid k then none else q.offers.find? fun e => e.1 == j) with
    | none => afresh
    | some (_, o) =>
      if o.who ≠ me then .stall .fuseHeld
      else match o.result with
        | none => afresh
        | some r =>
          let s1 := (s.setQuad dd pq { q with offers := q.offers.filter fun e => e.1 != j }).setBank k b { bk with watch := none }
          match r with
          | .value w => finish s1 k b d w bk.watch
          | .mismatch c => .hold (s1.trapNow k b ⟨.fuseFault, 16, BitVec.ofNat 8 c⟩)

/-! A shadow bank swap (R211). -/

/-- A swap is asked for: it is under way, and the core issues nothing until it is made; while the core is fused it is put off (R211, R212). -/
def State.swap (s : State) (k : CoreKey) : State :=
  let c := s.core k
  s.setCore k (if s.fusedCore k then { c with put := true } else { c with swp := true })

/-- The core's cluster is frozen: no swap, spill or restore takes place (R258). -/
def State.frozenAt (s : State) (k : CoreKey) : Bool := (s.clu (clusterOf k)).verm.frz

/-- A swap of the core is under way or put off: no unbind or restore starts. -/
def Core.swapping (c : Core) : Bool := c.swp || c.put

/-- The shadow bank can change places: it is neither being spilled nor restored, and holds no DAMAGED strand (R213). -/
def Core.swapReady (c : Core) : Bool := (c.bank (1 - c.ab)).st == .bound || (c.bank (1 - c.ab)).st == .empty

/-- The banks change places. A strand that becomes active is no longer being unbound (R379). -/
def Core.exchanged (c : Core) : Core :=
  let n := 1 - c.ab
  { c.setBank n { c.bank n with leaving := false } with swp := false, ab := n }

/-- The active bank has become empty beside a bound one, which becomes active at once (R379). -/
def State.emptied (s : State) (k : CoreKey) : State :=
  let c := s.core k
  if (c.bank c.ab).st == .empty && (c.bank (1 - c.ab)).st == .bound && !c.fen && !s.frozenAt k then s.swap k else s

/-- A strand that waits in MGANG or FUSE holds no offer any more, which its spill withdrew: once it is active the instruction issues afresh (R269, R342), and until then it waits on (R313). -/
def State.reissues (s : State) (k : CoreKey) (x : Bank) : Bank :=
  let q := s.quad (dieOf k) (quadOf (clusterOf k)).2
  match x.wait with
  | some .gang =>
    if (s.clu (clusterOf k)).gangOffers.toList.any fun o => o.elim false fun g => g.who == x.id.who then x
    else { x with wait := some .gangAgain }
  | some .fuse => if q.offers.any fun e => e.2.who == x.id.who then x else { x with wait := some .fuseAgain }
  | _ => x

/-- The strand that has become active. -/
def State.activated (s : State) (k : CoreKey) : State := s.setBank k (s.core k).ab (s.reissues k (s.bank k (s.core k).ab))

/-- The active strand of a core stands at an instruction boundary (R211): no store of it awaits acceptance, no operation is short of local completion. -/
def State.atBoundary (s : State) (k : CoreKey) : Bool :=
  let c := s.core k
  (c.bank c.ab).store.isNone && (c.bank c.ab).sending.isNone

/-- What a swap of a core does next: the one under way is made; one that a fusion put off gets under way, at a boundary (R211, R212). -/
def State.swapMove (s : State) (k : CoreKey) : State :=
  let c := s.core k
  if c.fen || s.frozenAt k then s
  else if c.swp && c.swapReady then ((s.setCore k c.exchanged).activated k).emptied k
  else if c.put && !s.fusedCore k && c.swapReady && s.atBoundary k then s.setCore k { c with swp := true, put := false }
  else s

/-! The end of a fusion. -/

/-- The slots of both planes of a core reload (R236). -/
def Bank.planesLost (b : Bank) : Bank :=
  { b with plane := Vector.replicate 8 none
           ctx := { b.ctx with binds := b.ctx.binds.map fun w => if bits w 0 4 = 1 then setBits w 0 4 2 else w } }

def Core.planesLost (c : Core) : Core := { c with b0 := c.b0.planesLost, b1 := c.b1.planesLost }

/-- The sixteen cores with their planes to reload. -/
def State.planesBack (s : State) (d pq : Nat) : State :=
  (List.range 16).foldl (fun s j => s.setCore (s.quadCoreAt d pq j) (s.core (s.quadCoreAt d pq j)).planesLost) s

/-- A fused strand's FUSE returns the count of its stage (R347), and the leader takes its WATCH trap (R322); the stop PC of a frozen strand is what it issues next (R321). -/
def State.fuseReturn (s : State) (q : Quad) (e : Nat × FuseOffer) : State :=
  match s.findStrand e.2.who with
  | some a =>
    let bk := s.strand a
    let s1 := s.setStrand a { bk with wait := none, flagged := false, watch := none, ctx := bk.ctx.setS e.2.d.val (vget q.counts 0 e.1) }
    match bk.watch, a with
    | some t, .bank k b => s1.raise k b ⟨bk.nIssued, bk.pc - 4, t, false, true, none⟩
    | none, .bank k b => s1.skidPc k b
    | _, _ => s1
  | none => s

/-- The fusion of a quad ends by UNFUSE. -/
def State.fusionDone (s : State) (d pq : Nat) : State :=
  let q := s.quad d pq
  let s1 := (q.offers.foldl (fun s e => s.fuseReturn q e) s).planesBack d pq
  s1.setQuad d pq { q with offers := [], fused := false, stages := [], draining := false, unfuser := none, endCode := 1 }

/-- FUSE_FAULT at a fused strand, but for one on a fenced core (R348). -/
def State.fuseTrap (s : State) (j cause : Nat) (o : FuseOffer) : State :=
  match s.findStrand o.who with
  | some (.bank k b) =>
    if (s.core k).fen then s
    else
      let bk := s.bank k b
      (s.setBank k b { bk with wait := none, flagged := false, watch := none, endDue := false }).raise k b
        ⟨bk.nIssued, bk.pc - 4, ⟨.fuseFault, BitVec.ofNat 64 j, BitVec.ofNat 8 cause⟩, false, false, none⟩
  | _ => s

/-- R348: a fault at stage j ends the fusion of a quad. -/
def State.fusionFails (s : State) (d pq j cause : Nat) : State :=
  let q := s.quad d pq
  if !q.fused then s
  else
    let s1 := (s.planesBack d pq).setQuad d pq { q with
      offers := [], fused := false, stages := [], draining := false, unfuser := none
      unheard := q.unheard ++ q.unfuser.toList, endCode := 2, fcause := cause }
    q.offers.foldl (fun s e => s.fuseTrap j cause e.2) s1

/-- R348: a fault that a stage meets away from its rings. -/
def execFusionFault (d pq : Nat) (j : Fin 16) (cause : Nat) (s : State) : Next :=
  .next (if j.val < (s.quad d pq).stages.length then s.fusionFails d pq j.val cause else s)

/-! A stage (R345). -/

/-- The code with which a ring that a stage names ends a fusion: it is disabled or in ordered mode (R348). -/
def State.ringGone (s : State) (r : Nat) : Option Nat :=
  let g := s.ring (r / 16) (r % 16)
  if !g.en || g.mode == 1 then some Cause.illegal.code else none

/-- The code with which a pop ends a fusion: the entry at the ring's head can not be read. -/
def State.popFault (s : State) (r : Nat) : Option Nat :=
  let g := s.ring (r / 16) (r % 16)
  if decide (g.head.toNat < g.front.toNat) && poisoned s.poison (sramBase (r / 16) + g.slotOf g.head.toNat) 8 then
    some Cause.memUncorrectable.code
  else none

/-- R348: a ring that a stage of the running fusion of a quad names is gone: the fusion ends, at the lowest such stage. -/
def State.endGone (s : State) (d pq : Nat) : State :=
  let q := s.quad d pq
  let gone (j : Nat) : Option (Nat × Nat) :=
    (q.stages[j]?.bind fun x => (x.ins ++ x.outs).findSome? s.ringGone).map fun c => (j, c)
  match (List.range q.stages.length).findSome? gone with
  | some (j, c) => s.fusionFails d pq j c
  | none => s

/-- A write of RCFG, with the end of a fusion that it brings about (R239, R348). -/
def State.setRcfg (s : State) (c : ClusterKey) (i : Nat) (v : Word) : State :=
  (s.writeRcfg c i v).endGone (quadOf c).1 (quadOf c).2

/-- R239. -/
def execRcfgWrite (c : ClusterKey) (i : Fin 16) (v : Word) (s : State) : Next := .next (s.setRcfg c i.val v)

/-- One entry popped from each ring, where every one has one. -/
def State.popAll (s : State) : List Nat → Option (List Word × State)
  | [] => some ([], s)
  | r :: l => match s.ringPop (r / 16) (r % 16) with
    | (none, _) => none
    | (some (v, _), s1) => match s1.popAll l with
      | none => none
      | some (vs, s2) => some (v :: vs, s2)

/-- A stage of a quad replaced, and its tuple counted where it has pushed all of it. -/
def State.setStage (s : State) (d pq j : Nat) (x : Stage) (count : Bool) : State :=
  let q := s.quad d pq
  s.setQuad d pq { q with
    stages := q.stages.set j x
    counts := if count then q.counts.setIfInBounds j (vget q.counts 0 j + 1) else q.counts }

/-- The flags of a pass join fcsr of the strand of the stage's core (R344). -/
def State.stageFlags (s : State) (q : Quad) (j : Nat) (fl : Flags) : State :=
  match (q.offers.find? fun e => e.1 == j).bind fun e => s.findStrand e.2.who with
  | some a => s.setStrand a { s.strand a with ctx := (s.strand a).ctx.orFlags fl }
  | none => s

/-- R345, R348: what stage j does next: a ring that it names is gone, and the fusion ends; else it pushes what is left of its tuple, or pops and evaluates the next one. -/
def State.stageStep (s : State) (d pq j : Nat) : State :=
  let q := s.quad d pq
  match q.stages[j]? with
  | none => s
  | some x => match (x.ins ++ x.outs).findSome? s.ringGone with
   | some c => s.fusionFails d pq j c
   | none => match x.tuple with
    | some [] => s.setStage d pq j { x with tuple := none } true
    | some (v :: vs) =>
      let r := x.outs.getD (x.outs.length - (vs.length + 1)) 0
      match s.ringPush (r / 16) (r % 16) 0 v with
      | (none, _) => s
      | (some _, s1) =>
        if vs.isEmpty then s1.setStage d pq j { x with tuple := none } true
        else s1.setStage d pq j { x with tuple := some vs } false
    | none =>
      if q.draining then s
      else match x.ins.findSome? s.popFault with
        | some c => s.fusionFails d pq j c
        | none => match s.popAll x.ins with
          | none => s
          | some (vs, s1) =>
            let rm := match (q.offers.find? fun e => e.1 == j).bind fun e => s1.findStrand e.2.who with
              | some a => (s1.strand a).ctx.rm
              | none => .rne
            let r := x.img.pass rm fun i => vs.getD i 0
            let out := r.1.getD x.img.d0pe 0 :: (if x.img.ndst = 2 then [r.1.getD x.img.d1pe 0] else [])
            (s1.stageFlags q j r.2).setStage d pq j { x with tuple := some out } false

/-- R345: one move of stage j of a fused quad. -/
def execFusedStageStep (d pq : Nat) (j : Fin 16) (s : State) : Next :=
  if (s.quad d pq).fused && !(s.clu (clusterAt d pq (j.val / 4))).verm.frz then .next (s.stageStep d pq j.val) else .next s

/-! UNFUSE (R347). -/

/-- R347. -/
def execUnfuse (d : DReg) (s : State) : Next :=
  issue s (foot [] (rS d.val)) fun s k b =>
    let me := (s.bank k b).id.who
    let (dd, pq) := quadOf (clusterOf k)
    let q := s.quad dd pq
    if s.cid k ≤ 3 then .trap (illegal0 18)
    else if q.unheard.contains me then
      finish (s.setQuad dd pq { q with unheard := q.unheard.filter (· != me) }) k b d 0xFFFFFFFFFFFFFFFD none
    else if q.unfuser == some me then
      if q.stages.all fun x => x.tuple.isNone then finish (s.fusionDone dd pq) k b d 0 none
      else .stall .unfuse
    else if !q.fused || q.unfuser.isSome then finish s k b d minus1 none
    else if q.stages.all fun x => x.tuple.isNone then finish (s.fusionDone dd pq) k b d 0 none
    else
      let s1 := s.setQuad dd pq { q with draining := true, unfuser := some me }
      .hold (s1.setBank k b { s1.bank k b with held := true, wait := some .unfuse })

/-- A strand's fuse offer that has not occurred is withdrawn; with result set, a held result is discarded, and its UNFUSE is forgotten. -/
def State.withdrawFuse (t : State) (k : CoreKey) (who : StrandId) (result : Bool) : State :=
  let (d, pq) := quadOf (clusterOf k)
  let s := t.dropAsks (.quad d pq)
  let q := s.quad d pq
  let deaf := if result then q.unheard.filter (· != who) else q.unheard
  if q.fused then s.setQuad d pq { q with unheard := deaf, unfuser := if result ∧ q.unfuser = some who then none else q.unfuser }
  else s.setQuad d pq { q with
    offers := q.offers.filter fun e => !(e.2.who == who && (result || e.2.result.isNone))
    unheard := deaf
    unfuser := if result ∧ q.unfuser = some who then none else q.unfuser }

end Sys2Proof.Machine
end

