-- ==== Sys2Proof/Machine/Life.lean ====
section
/-! DEFINITION. The duties of a DCC (R324), the journal (R407 to R409), the end of a strand (R87, R124), fencing and hangs (R217), and a strand's creation (R80, R86, R383). -/

namespace Sys2Proof.Machine

open Sys2Proof

/-! Fields of a launch record (R367, R368). -/

def recVer (ws : List Word) : Nat := bits (recWord ws 0) 56 8
def recFix (ws : List Word) : Bool := (recWord ws 0).getLsbD 55
def recBar (ws : List Word) : Bool := (recWord ws 0).getLsbD 54
def recPort (ws : List Word) : Bool := (recWord ws 0).getLsbD 53
def recAfv (ws : List Word) : Bool := (recWord ws 0).getLsbD 52
def recNev (ws : List Word) : Nat := bits (recWord ws 0) 45 7
def recNrg (ws : List Word) : Nat := bits (recWord ws 0) 40 5
def recNok (ws : List Word) : Bool := (recWord ws 0).getLsbD 29
def recWok (ws : List Word) : Bool := (recWord ws 0).getLsbD 28
def recNld (ws : List Word) : Nat := bits (recWord ws 0) 20 8
def recSpid (ws : List Word) : BitVec 20 := (recWord ws 0).setWidth 20
def recEntry (ws : List Word) : Word := recWord ws 1
def recWc (ws : List Word) : Nat := bits (recWord ws 3) 48 16
def recNc (ws : List Word) : Nat := bits (recWord ws 3) 32 16
def recWs (ws : List Word) : Nat := bits (recWord ws 3) 27 5
def recNs (ws : List Word) : Nat := bits (recWord ws 3) 22 5
def recNat (ws : List Word) : Nat := bits (recWord ws 3) 0 16
def recAfter (ws : List Word) : Nat := bits (recWord ws 6) 0 32
def recCpl (ws : List Word) : Word := recWord ws 10

/-! The DCCs. -/

/-- The DCCs run the signed firmware, which carries out their duties (R324, R416). -/
def State.dccRuns (s : State) : Bool := s.boot.stage == 2 || s.boot.stage == 3

/-- A duty of a DCC: nothing before its firmware runs. -/
def State.byDcc (s : State) (r : Next) : Next := if s.dccRuns then r else .next s

/-! The journal. -/

/-- The journal is enabled and used: with TREE = 1 it is not (R382). -/
def State.journals (s : State) : Bool := s.jrn.jcfg.getLsbD 63 && !s.disp.tree

/-- The location of the next record (R407). -/
def State.recordLoc (s : State) : Nat := bits s.jrn.jbase 12 40 * 4096 + 32 * (s.jrn.jseq.toNat % 2 ^ bits s.jrn.jcfg 0 5)

/-- A record would not be performed at once: what it must come before waits (R391, R409). -/
def State.recordWaits (s : State) : Bool :=
  s.journals && (!s.owed.isEmpty || match s.route 0 (dieOfLoc s.recordLoc) with | .error .wait => true | _ => false)

/-- A journal record of a transition at tick t (R408), written after all that the device still owes (R409). -/
def State.journal (s : State) (t : Word) (ln : BitVec 16) (q tr idx : Nat) (w3 : Word) : State :=
  if s.journals then
    let w2 := BitVec.ofNat 64 (ln.toNat * 2 ^ 48 + q % 16 * 2 ^ 44 + tr % 16 * 2 ^ 40 + idx % 2 ^ 40)
    let bs := leBytes 8 s.jrn.jseq.toNat ++ leBytes 8 t.toNat ++ leBytes 8 w2.toNat ++ leBytes 8 w3.toNat
    { s with jrn := { s.jrn with jseq := s.jrn.jseq + 1 } }.owe ⟨0, 0, BitVec.ofNat 64 s.recordLoc, .record bs⟩
  else s

/-! Launches. -/

def State.launch? (s : State) (ln : BitVec 16) : Option Launch := s.disp.launches.find? fun l => l.ln == ln
def State.mapLaunch (s : State) (ln : BitVec 16) (f : Launch → Launch) : State :=
  { s with disp := { s.disp with launches := s.disp.launches.map fun l => if l.ln = ln then f l else l } }

/-! The end of a strand (R87). -/

/-- An operation of which part stands in no retry store is given up: what was sent runs on. -/
def State.dropUnsent (s : State) (who : StrandId) : State :=
  let cut (o : FabricOp) : FabricOp :=
    if o.ofStrand who && !o.rest.isEmpty then
      { o with amount := BitVec.ofNat 64 o.sent, rest := .held [], left := (s.fab.retry.filter fun p => p.pkt.opId == o.id).length }
    else o
  { s with fab := { s.fab with ops := s.fab.ops.map cut } }

/-- The reports of a strand's own traps await no reply any more. -/
def State.dropAwaited (s : State) (who : StrandId) : State :=
  { s with fab := { s.fab with awaiting := s.fab.awaiting.filter fun r => !(r.who == who && (r.kind == 1 || r.kind == 2 || r.kind == 5)) } }

/-- What a strand leaves when it ends or its core is fenced: its offers, its fold group, its gang and fuse offers, the replies that it awaits. discard: results that are held for it go too (R269). -/
def State.letGo (s : State) (a : StrandAt) (discard : Bool) : State :=
  let who := (s.strand a).id.who
  let k := a.core
  (((((s.withdraw a).foldGone a).withdrawGang (clusterOf k) who discard).withdrawFuse k who discard).dropUnsent who).dropAwaited who

/-- The strand enters RETIRED and its bank is freed. DESIGN CHOICE (log 81): the scratchpad bytes of its register region keep what they held before it was bound; R81 and R86 do not say what they hold after an end without a spill. -/
def State.endStrand (s : State) (a : StrandAt) (kill : Bool) : State :=
  let id := (s.strand a).id
  let s1 := (s.letGo a kill).leaveAll a id.who
  let s2 := match a with
    | .bank k b => (s1.setBank k b Bank.empty).emptied k
    | .saved k n => s1.setCore k { s1.core k with unbound := (s1.core k).unbound.eraseIdx n }
  s2.mapLaunch id.ln fun l =>
    { l with ended := id.lid :: l.ended, kills := if kill then l.kills + 1 else l.kills }

/-- The skid record of a core whose strand has retired in the cycles of a stop before it took hold: its bank holds none (R258, R321). -/
def State.skidEnd (s : State) (k : CoreKey) : State :=
  let x := s.clu (clusterOf k)
  if x.verm.frz then s.setClu (clusterOf k) { x with skid := x.skid.setIfInBounds (s.cid k) (s.skidRecord k 0) } else s

/-- R87, R124: what issued before it completes first. -/
def execRetire (s : State) : Next :=
  issueSys s .retire (footT [] []) fun s k b =>
    if !(s.bank k b).pend.isEmpty then .wait
    else .hold (((s.skidIssue k).endStrand (.bank k b) false).skidEnd k)

/-! Fencing and hangs (R217). -/

/-- Outstanding requests of a bank dropped: their landing reservations go with them. -/
def Bank.dropRequests (b : Bank) : Bank := { b with pend := [], store := none, held := false, sending := none }

/-- Remote reads of a core's strands dropped: no reply finds its operation. -/
def State.dropReads (s : State) (k : CoreKey) : State :=
  { s with fab := { s.fab with ops := s.fab.ops.filter fun o => !(o.opc == 0x72 && o.core == k && o.ask.isNone) } }

/-- A core is fenced: it stops, its requests are dropped, the offers of its bound strands are withdrawn; a fusion that it takes part in ends. The underlying code of that fault is 0 (log 28). -/
def State.fence (s : State) (k : CoreKey) : State :=
  let c := s.core k
  if c.fen then s
  else
    let s1 := s.setCore k { c with fen := true, b0 := c.b0.dropRequests, b1 := c.b1.dropRequests }
    let s2 := if s1.fusedCore k then s1.fusionFails (quadOf (clusterOf k)).1 (quadOf (clusterOf k)).2 (s1.quadCore k) 0 else s1
    let bound := (s2.strandsOf k).filter fun a => match a with | .bank _ _ => true | .saved _ _ => false
    (bound.foldl (fun s a => s.letGo a true) s2).dropReads k

/-- R216: FEN written 1. -/
def execFen (k : CoreKey) (s : State) : Next := .next (s.fence k)

/-- The state in which nothing holds the active strand's next instruction (R217). A strand of a fusion counts as running (R346): nothing holds it while its stage could go on. -/
def State.idleRunning (s : State) (k : CoreKey) : Bool :=
  let c := s.core k
  let b := c.bank c.ab
  if s.fusedCore k then
    let q := quadOf (clusterOf k)
    s.thawed k && decide (s.stageStep q.1 q.2 (s.quadCore k) ≠ s)
  else b.runs && b.pend.isEmpty && !b.held && b.wait.isNone && !c.swp && s.thawed k && s.launchStarted b.id.ln

/-- R217: the core is hung, by its hang interval or its pipe self-check; the DCC fences it. -/
def execHang (k : CoreKey) (selfCheck : Bool) (s : State) : Next :=
  let s1 := s.setCore k { s.core k with hung := true }
  if selfCheck || s.idleRunning k then .next (if s.dccRuns then s1.fence k else s1) else .next s

/-! Creation (R80, R86). -/

/-- The handle of a strand's copy of event-table entry x (R370). -/
def State.evhOf (s : State) (l : Launch) (k : CoreKey) (x : Nat) : BitVec 32 :=
  let w := l.lists.events.getD x 0
  let h : Home := match bits w 62 2 with
    | 0 => .cluster (clusterOf k)
    | 1 => .die (dieOf k)
    | _ => .package
  match l.slots.find? fun c => c.entry == x && c.home == h with
  | some c => BitVec.ofNat 32 (s.handleOf h c.slot (s.slot h c.slot).gen.toNat)
  | none => 0

/-- The identity that a launch gives a strand at a position. -/
def State.identFor (s : State) (l : Launch) (k : CoreKey) (lid : BitVec 32) (pos : Fin 2) : Ident where
  lid := lid
  nstr := BitVec.ofNat 32 l.places.length
  pos := pos
  ln := l.ln
  spid := recSpid l.words
  slate := s.ctl.slate
  fsrv := recWord l.words 7
  lch := Vector.ofFn fun i => recWord l.words (12 + i.val)
  evh := (List.range l.lists.events.length).map fun x => s.evhOf l k x

/-- A bank with a strand just created: pc and phase index, the allowance of its launch. -/
def Bank.created (id : Ident) (wsp : BitVec 18) (pc phase tok : Word) : Bank :=
  { Bank.empty with st := .bound, id := id, wsp := wsp, pc := pc &&& pcMask
                    ctx := { Ctx.created with phase := phase, tok := tok } }

/-- The pc and phase index from which a strand of a launch starts again (R383): what its last PHASE recorded, or those of its creation. -/
def Launch.restartAt (l : Launch) (lid : Nat) : Word × Word := lookupD (recEntry l.words, 0) l.phases lid

end Sys2Proof.Machine
end

