-- ==== Sys2Proof/Machine/Launch.lean ====
section
/-! DEFINITION. Launch queues (R364 to R366), the checks of a record (R374), admission and placement (R376, R377), the slot table (R378), swaps (R379), completion and reports (R380 to R382), restart, migration and remap (R383, R384). -/

namespace Sys2Proof.Machine

open Sys2Proof

def State.queue (s : State) (q : Fin 16) : Queue := s.disp.queues[q]
def State.setQueue (s : State) (q : Fin 16) (x : Queue) : State :=
  { s with disp := { s.disp with queues := s.disp.queues.set q x } }

def Queue.en (q : Queue) : Bool := q.lqcfg.getLsbD 63
def Queue.pri (q : Queue) : Nat := bits q.lqcfg 61 2
def Queue.logn (q : Queue) : Nat := bits q.lqcfg 57 4
def Queue.cto (q : Queue) : Nat := bits q.lqcfg 20 20
def Queue.spid (q : Queue) : BitVec 20 := q.lqcfg.setWidth 20

/-- Dispatch's accesses: from die 0, under a space id. -/
def dispatchView (spid : BitVec 20) : View := ⟨0, spid, 0, .engine 5 0⟩

/-- A read by dispatch in window 0x8. -/
def State.dispatchRead (s : State) (spid : BitVec 20) (p : Word) (n w : Nat) : Chk (List Byte) :=
  if tagOf p.toNat ≠ 8 then .error (.trap .addrWindow 0)
  else (s.readAt (dispatchView spid) p.toNat n w).map (·.1)

/-- A write, or an addition, by dispatch in window 0x8: where a check fails nothing is written, and behind a link that retrains it waits (R391). -/
def State.dispatchOwe (s : State) (spid : BitVec 20) (p : Word) (a : OwedAct) : State :=
  if tagOf p.toNat = 8 then s.owe ⟨0, spid, p, a⟩ else s

/-- A word written by dispatch. -/
def State.dispatchWrite (s : State) (spid : BitVec 20) (p : Word) (x : Word) : State := s.dispatchOwe spid p (.write x)

/-- 1 added to a signal word by dispatch. -/
def State.dispatchSignal (s : State) (spid : BitVec 20) (p : Word) : State := s.dispatchOwe spid p (.add 1)

/-- The words of some bytes. -/
def wordsOf (bs : List Byte) (n : Nat) : List Word := (List.range n).map fun i => leWord ((bs.drop (8 * i)).take 8)

/-! The checks of a record (R374). -/

/-- What dispatch reads of a record beside its words: each list, or none where its read meets a fault. -/
structure ReadLists where
  coords : Option (List Nat)
  events : Option (List Word)
  rings : Option (List (Word × Word))
  loads : Option (List (List Word))
  deriving DecidableEq, Repr

def ReadLists.none : ReadLists := ⟨Option.none, Option.none, Option.none, Option.none⟩

/-- The lists as they are kept: those not read are empty. -/
def ReadLists.kept (l : ReadLists) : RecLists := ⟨l.coords.getD [], l.events.getD [], l.rings.getD [], l.loads.getD []⟩

/-- Every list has been read. -/
def ReadLists.whole (l : ReadLists) : Bool := l.coords.isSome && l.events.isSome && l.rings.isSome && l.loads.isSome

/-- One list read under a space id, or none where the read meets a fault. Where it has to wait, so does dispatch (R391). -/
def State.readList (s : State) (sp : BitVec 20) (p : Word) (n w : Nat) : Chk (Option (List Byte)) :=
  if n = 0 then .ok (some [])
  else match s.dispatchRead sp p n w with
    | .ok b => .ok (some b)
    | .error .wait => .error .wait
    | .error (.trap _ _) => .ok none

/-- The lists of a record read under its space id. -/
def State.readLists (s : State) (ws : List Word) : Chk ReadLists := do
  let sp := recSpid ws
  let nat := if recFix ws then recNat ws else 0
  let c ← s.readList sp (recWord ws 4) (4 * nat) 4
  let e ← s.readList sp (recWord ws 8) (8 * recNev ws) 8
  let r ← s.readList sp (recWord ws 9) (16 * recNrg ws) 16
  let l ← s.readList sp (recWord ws 11) (32 * recNld ws) 32
  return {
    coords := c.map fun b => (List.range nat).map fun i => leNat ((b.drop (4 * i)).take 4)
    events := e.map fun b => wordsOf b (recNev ws)
    rings := r.map fun b => (List.range (recNrg ws)).map fun i => (leWord ((b.drop (16 * i)).take 8), leWord ((b.drop (16 * i + 8)).take 8))
    loads := l.map fun b => (List.range (recNld ws)).map fun i => wordsOf (b.drop (32 * i)) 4 }

/-- Fields of a coordinate (R367). -/
def coordDie (c : Nat) : Nat := c / 2 ^ 16 % 4
def coordClu (c : Nat) : Nat := c / 2 ^ 8 % 256
def coordCore (c : Nat) : Nat := c / 2 ^ 5 % 8
def coordPos (c : Nat) : Fin 2 := Fin.ofNat 2 (c / 16)
def coordOk (c : Nat) : Bool := decide (coordClu c < 240) && c % 16 == 0 && decide (c < 2 ^ 18)

/-- No element stands twice. -/
def distinct : List Nat → Bool
  | [] => true
  | x :: l => !l.contains x && distinct l

/-- Reason 1 but for VER: the reserved fields (R367). -/
def reservedOk (ws : List Word) : Bool :=
  (if recFix ws then bits (recWord ws 3) 16 48 == 0 else bits (recWord ws 3) 0 22 == 0) &&
    !(recPort ws && recWord ws 2 != 0) && bits (recWord ws 6) 32 32 == 0 &&
    recWord ws 29 == 0 && recWord ws 30 == 0 && recWord ws 31 == 0

/-- Reason 2. -/
def shapeOk (ws : List Word) (l : RecLists) : Bool :=
  if recFix ws then decide (recNat ws ≠ 0) && l.coords.all coordOk && distinct l.coords
  else decide (recWs ws ≤ 16) && decide (recNs ws ≤ 16) && decide (recWc ws ≤ 480) && decide (recNc ws ≤ 480) &&
    decide (recWs ws * recWc ws + recNs ws * recNc ws ≠ 0)

/-- Reason 4. -/
def kindsOk (ws : List Word) (l : RecLists) : Bool :=
  if recFix ws then l.coords.all fun c => if coordClu c % 4 < 2 then recWok ws else recNok ws
  else (recWc ws == 0 || recWok ws) && (recNc ws == 0 || recNok ws)

/-- The largest count of a value among some. -/
def maxCount (l : List Nat) : Nat := l.foldl (fun a x => max a (l.filter (· == x)).length) 0

/-- The largest number of strands in one home unit of a level (R374). -/
def strandsIn (ws : List Word) (l : RecLists) (lvl : Nat) : Nat :=
  if recFix ws then match lvl with
    | 0 => maxCount (l.coords.map fun c => c / 2 ^ 8)
    | 1 => maxCount (l.coords.map fun c => c / 2 ^ 16)
    | _ => l.coords.length
  else match lvl with
    | 0 => max (if recWc ws = 0 then 0 else recWs ws) (if recNc ws = 0 then 0 else recNs ws)
    | 1 => min (recWc ws) 120 * recWs ws + min (recNc ws) 120 * recNs ws
    | _ => recWc ws * recWs ws + recNc ws * recNs ws

/-- An event entry is well formed (R370, reason 6). -/
def eventOk (ws : List Word) (l : RecLists) (e : Word) : Bool :=
  let lvl := bits e 62 2
  let kind := bits e 59 3
  let n := strandsIn ws l lvl
  bits e 0 58 == 0 && decide (lvl < 3) && decide (kind < 5) &&
    !(e.getLsbD 58 && ((lvl == 0 && decide (8 < n)) || (kind == 2 && decide (2 < n))))

/-- A ring entry is well formed (R239, R372). -/
def ringOk (e : Word × Word) : Bool :=
  let g : Ring := { Ring.reset with rcfg := e.1, rprd := setBits e.2 0 27 0 }
  bits e.2 4 23 == 0 && decide (g.mode < 3) && decide (3 ≤ g.logcap) && decide (g.logcap ≤ 15) &&
    decide (g.base + 8 * 2 ^ g.logcap ≤ sramSize) && (g.mode != 1 || (decide (1 ≤ g.np) && decide (g.np ≤ 16)))

/-- A load-list entry (R371): place, length, offset. -/
def loadPlace (e : List Word) : Nat := bits (e.getD 1 0) 62 2
def loadLen (e : List Word) : Nat := bits (e.getD 1 0) 0 32
def loadOff (e : List Word) : Nat := bits (e.getD 2 0) 0 32
def loadOk (e : List Word) : Bool :=
  let size := if loadPlace e = 0 then 0x40000 else 0x80000
  decide (loadPlace e < 2) && bits (e.getD 1 0) 32 30 == 0 && bits (e.getD 2 0) 32 32 == 0 && e.getD 3 0 == 0 &&
    decide (1 ≤ loadLen e) && decide (loadOff e + loadLen e ≤ size) && loadOff e % 8 == 0 && tagOf (e.getD 0 0).toNat == 8

/-- The end of the spad blocks of a load list, and their ranges. -/
def spadBlocks (l : RecLists) : List (Nat × Nat) := (l.loads.filter fun e => loadPlace e == 0).map fun e => (loadOff e, loadLen e)
def spadEnd (l : RecLists) : Nat := (spadBlocks l).foldl (fun a b => max a (b.1 + b.2)) 0

/-- Reason 11. -/
def loadsOk (ws : List Word) (l : RecLists) : Bool :=
  l.loads.all loadOk && !(recFix ws && decide (0x20000 < spadEnd l) && l.coords.any fun c => decide (4 ≤ coordCore c))

/-- The first reason that refuses a record read at an index (R374). whole: words 1 to 31 could be read; where they could not, word 0 alone is judged. Where a list could not be read, the checks of its entries are passed over. -/
def State.refusal (s : State) (ws : List Word) (whole : Bool) (lists : ReadLists) (idx : Nat) : Option Nat :=
  let l := lists.kept
  let coords (b : Bool) : Bool := recFix ws && lists.coords.isNone || b
  if recVer ws ≠ 1 ∨ (whole = true ∧ reservedOk ws = false) then some 1
  else if whole && (recFix ws && recNat ws == 0 || !coords (shapeOk ws l)) then some 2
  else if whole && !recPort ws && recWord ws 2 != s.ctl.pcsig then some 3
  else if whole && !coords (kindsOk ws l) then some 4
  else if s.disp.budget.toNat < recTok ws then some 5
  else if decide (64 < recNev ws) || !(l.events.all (eventOk ws l)) then some 6
  else if decide (16 < recNrg ws) || !(l.rings.all ringOk) then some 7
  else if whole && recAfv ws && (s.live (recAfter ws)).isNone then some 8
  else if whole && (tagOf (recEntry ws).toNat != 8 || (recEntry ws).toNat % 4 != 0) then some 9
  else if !whole || !lists.whole then some 10
  else if !loadsOk ws l then some 11
  else if (recWord ws 28).toNat ≠ idx then some 12
  else none

/-! Acceptance (R365, R366). -/

/-- The status word of R381. -/
def statusWord (kill stop reason out : Nat) : Word :=
  BitVec.ofNat 64 (min kill (2 ^ 32 - 1) * 2 ^ 32 + min stop 65535 * 2 ^ 16 + reason * 2 ^ 8 + out)

/-- A record joins its queue: the journal, ACC and the acceptance word. An abandoned index is journalled as refused too (R366); any other refusal is when it is reported (R409). -/
def State.accept (s : State) (q : Fin 16) (ws : List Word) (lists : RecLists) (why : Option Nat) : State :=
  let x := s.queue q
  let idx := x.acc.toNat
  let r : QRec := ⟨idx, ws, lists, s.disp.order, why, false, none, none, s.tick⟩
  let s1 := s.journal s.tick 0 q.val 1 idx 0
  let s2 := if why = some 13 then s1.journal s.tick 0 q.val 6 idx (statusWord 0 0 13 3) else s1
  let s3 := s2.setQueue q { x with acc := x.acc + 1, recs := x.recs ++ [r], emptySince := none }
  { s3 with disp := { s3.disp with order := s3.disp.order + 1 } }.dispatchWrite x.spid (x.lqb + 8) (x.acc + 1)

/-- The slot at index ACC. -/
def Queue.slotPtr (x : Queue) : Word := x.lqb + 256 + BitVec.ofNat 64 (256 * (x.acc.toNat % 2 ^ x.logn))

/-- Dispatch examines the slot at ACC (R365). Word 0 is read first; where the rest meets a fault the record is refused with reason 10. It waits where the journal's record could not be performed before ACC advances (R409). -/
def State.examine (s : State) (q : Fin 16) : State :=
  let x := s.queue q
  if !x.en || s.recordWaits then s
  else
    let p := x.slotPtr
    match s.dispatchRead x.spid p 8 8 with
    | .error _ => s
    | .ok b0 =>
      let w0 := leWord b0
      if w0 = 0 then
        (if x.emptySince.isNone then s.setQueue q { x with emptySince := some s.tick.toNat } else s)
      else
        let take (ws : List Word) (whole : Bool) (lists : ReadLists) : State :=
          (s.dispatchWrite x.spid p 0).accept q ws lists.kept (s.refusal ws whole lists x.acc.toNat)
        match s.dispatchRead x.spid p 256 8 with
        | .error .wait => s
        | .error (.trap _ _) => take [w0] false .none
        | .ok b =>
          let ws := wordsOf b 32
          if recVer ws ≠ 1 then take ws true .none
          else match s.readLists ws with
            | .ok lists => take ws true lists
            | .error _ => s

/-- R365. -/
def execRecordAccept (q : Fin 16) (s : State) : Next := .next (s.examine q)

/-- R366: the index at ACC is abandoned: it is claimed, and its slot's word 0 has been and still is 0. -/
def execClaimTimeout (q : Fin 16) (s : State) : Next :=
  let x := s.queue q
  match x.emptySince, s.dispatchRead x.spid x.lqb 8 8, s.dispatchRead x.spid x.slotPtr 8 8 with
  | some t, .ok cb, .ok b0 =>
    if x.en ∧ s.recordWaits = false ∧ x.cto ≠ 0 ∧ t + x.cto ≤ s.tick.toNat ∧ x.acc.toNat < leNat cb ∧ leNat b0 = 0 then
      .next ((s.dispatchWrite x.spid x.slotPtr 0).accept q [] ⟨[], [], [], []⟩ (some 13))
    else .next s
  | _, _, _ => .next s

/-! Placement (R377). -/

/-- The bank that holds the strand of a bind position. -/
def State.posBank (s : State) (k : CoreKey) (pos : Fin 2) : Option (Fin 2) :=
  let c := s.core k
  if c.b0.holds && c.b0.id.pos == pos then some 0
  else if c.b1.holds && c.b1.id.pos == pos then some 1
  else none

/-- ST of a position's slot-table entry (R378). -/
def State.posSt (s : State) (k : CoreKey) (pos : Fin 2) : BankSt :=
  match s.posBank k pos with
  | some b => (s.bank k b).st
  | none => .empty

/-- Workspaces of a core that strands hold, or that admitted launches will. -/
def State.workspaces (s : State) (k : CoreKey) : List Nat :=
  ((s.strandsOf k).map fun a => (s.strand a).wsp.toNat) ++
    s.disp.launches.flatMap fun l => ((l.places.zip (List.range l.places.length)).filter fun e =>
      e.1.core == k && !(l.ended.contains (BitVec.ofNat 32 e.2))).map fun e => e.1.wsp

/-- A workspace meets none of some blocks. -/
def clearOf (wsp : Nat) (bs : List (Nat × Nat)) : Bool := bs.all fun b => !rangesMeet wsp 8192 b.1 b.2

/-- A live launch has strands on a core, or will have. -/
def Launch.onCore (m : Launch) (k : CoreKey) : Bool :=
  (m.places.zip (List.range m.places.length)).any fun e => e.1.core == k && !(m.ended.contains (BitVec.ofNat 32 e.2))

/-- A workspace position that a launch may take on a core: free, and clear of its own spad blocks and those of the launches there. -/
def State.workspaceOk (s : State) (l : RecLists) (k : CoreKey) (wsp : Nat) : Bool :=
  wsp % 8192 == 0 && decide (wsp + 8192 ≤ spadSize k) && !(s.workspaces k).contains wsp && clearOf wsp (spadBlocks l) &&
    s.disp.launches.all fun m => !m.onCore k || clearOf wsp (spadBlocks m.lists)

/-- The workspace positions that a launch may take on a core. -/
def State.freeWorkspaces (s : State) (l : RecLists) (k : CoreKey) : Nat :=
  ((List.range 32).filter fun n => s.workspaceOk l k (8192 * n)).length

/-- A core is available to a launch beside the launches that have strands on it. -/
def State.coreOk (s : State) (l : RecLists) (k : CoreKey) : Bool :=
  let mine := spadBlocks l
  !(s.core k).fen && s.roleExists (clusterOf k) (s.cid k) && decide (spadEnd l ≤ spadSize k) &&
    s.ctl.dup.getLsbD (dieOf k) &&
    s.disp.launches.all fun m =>
      !m.onCore k ||
        ((spadBlocks m.lists).all fun b => mine.all fun a => !rangesMeet a.1 a.2 b.1 b.2) &&
          (s.workspaces k).all fun w => clearOf w mine

/-- A position is free for a launch. -/
def State.posFree (s : State) (l : RecLists) (k : CoreKey) (pos : Fin 2) : Bool :=
  s.posSt k pos == .empty && s.coreOk l k &&
    !(s.disp.launches.any fun m => ((m.places.zip (List.range m.places.length)).any fun e =>
      e.1.core == k && e.1.pos == pos && !(m.created.contains (BitVec.ofNat 32 e.2)))) &&
    decide (0 < s.freeWorkspaces l k)

/-- The positions of a cluster in the order in which they fill. -/
def State.fillOrder (s : State) (c : ClusterKey) : List (CoreKey × Fin 2) :=
  (List.range 8).map (fun r => (s.coreAt c r, 0)) ++ (List.range 8).map (fun r => (s.coreAt c r, 1))

/-- Positions of a cluster free for a launch, n of them. The second of a core needs a workspace beside that of the first. -/
def State.freeIn (s : State) (l : RecLists) (c : ClusterKey) (n : Nat) : List (CoreKey × Fin 2) :=
  ((s.fillOrder c).filter fun p =>
    s.posFree l p.1 p.2 && (p.2 == 0 || !s.posFree l p.1 0 || decide (2 ≤ s.freeWorkspaces l p.1))).take n

/-- Rings of a launch that no live launch holds on a cluster. -/
def State.ringsFree (s : State) (l : RecLists) (c : ClusterKey) : Bool :=
  s.disp.launches.all fun m => !m.ringsAt.contains c ||
    l.rings.all fun e => m.lists.rings.all fun g => bits e.2 0 4 != bits g.2 0 4

/-- Clusters of the launch, in order of their first strand. -/
def clustersOf (ps : List Position) : List ClusterKey := (ps.map fun p => clusterOf p.core).eraseDups

/-- The clusters of a kind that a shape occupies: none where it has no strands there (R372, R377). -/
def occupied (count strands : Nat) : Nat := if strands = 0 then 0 else count

/-- The positions meet the shape of the record. -/
def State.shapeMet (s : State) (ws : List Word) (l : RecLists) (ps : List Position) : Bool :=
  if recFix ws then
    ps.length == l.coords.length && (ps.zip l.coords).all fun e =>
      match s.clusterPhys (coordDie e.2) (coordClu e.2) with
      | some c => e.1.core == s.coreAt c (coordCore e.2) && e.1.pos == coordPos e.2 && s.posFree l e.1.core e.1.pos
      | none => false
  else
    let cs := clustersOf ps
    let isN (c : ClusterKey) : Bool := decide (2 ≤ ((s.clid c).getD 0) % 4)
    let here (c : ClusterKey) : List (CoreKey × Fin 2) := (ps.filter fun p => clusterOf p.core == c).map fun p => (p.core, p.pos)
    let sids := ps.map fun p => (s.sidAt p.core p.pos).toNat
    (cs.filter fun c => !isN c).length == occupied (recWc ws) (recWs ws) && (cs.filter isN).length == occupied (recNc ws) (recNs ws) &&
      cs.all (fun c => (s.clid c).isSome &&
        (let n := if isN c then recNs ws else recWs ws
         let want := s.freeIn l c n
         want.length == n && (here c).length == n && want.all fun p => (here c).contains p)) &&
      sids == sortBy id sids

/-- A placement holds for a record (R376 condition 6, R377). -/
def State.placesOk (s : State) (ws : List Word) (l : RecLists) (ps : List Position) : Bool :=
  s.shapeMet ws l ps && ps.all (fun p => s.workspaceOk l p.core p.wsp) &&
    distinct (ps.map fun p => p.core * 2 ^ 20 + p.wsp) && (clustersOf ps).all fun c => s.ringsFree l c

/-- The homes of an event entry's copies. -/
def copiesOf (e : Word) (ps : List Position) : List Home :=
  match bits e 62 2 with
  | 0 => (clustersOf ps).map Home.cluster
  | 1 => ((ps.map fun p => dieOf p.core).eraseDups).map Home.die
  | _ => [.package]

def slotLimit : Home → Nat
  | .cluster _ => 256
  | .die _ => 4096
  | .package => 1024

/-- The slots meet R370: one free slot for each copy of each entry. -/
def State.slotsOk (s : State) (l : RecLists) (ps : List Position) (cs : List SlotChoice) : Bool :=
  let want := ((List.range l.events.length).zip l.events).flatMap fun e => (copiesOf e.2 ps).map fun h => (e.1, h)
  cs.length == want.length && (want.all fun w => cs.any fun c => c.entry == w.1 && c.home == w.2) &&
    (cs.all fun c => decide (c.slot < slotLimit c.home) && !(s.slot c.home c.slot).alloc) &&
    distinct (cs.map fun c => (s.homeNumber c.home) * 2 ^ 12 + c.slot)

/-! Admission (R376). -/

/-- A record has not started and is not refused. -/
def State.unstarted (s : State) (r : QRec) : Bool :=
  r.refused.isNone && r.outcome.isNone && r.ln.elim true fun n => !s.launchStarted n

/-- The head of a queue: its first record that has not started, admitted or not. -/
def State.head? (s : State) (q : Fin 16) : Option QRec := (s.queue q).recs.find? s.unstarted

/-- A record is incomplete: it has not been refused and has no outcome. -/
def QRec.open? (r : QRec) : Bool := r.refused.isNone && r.outcome.isNone

/-- Conditions 1 to 5 of R376 for a head that is not admitted yet, with R421. -/
def State.startable (s : State) (x : Queue) (r : QRec) : Bool :=
  let earlier := x.recs.filter fun e => decide (e.order < r.order)
  r.ln.isNone && decide ((recWord r.words 5).toNat ≤ s.tick.toNat) && (!recAfv r.words || r.after) &&
    !(earlier.any fun e => e.open? && (recBar e.words || recBar r.words)) &&
    (s.disp.tree || decide (r.idx < x.rep.toNat + 256)) &&
    decide (s.disp.inuse + recTok r.words ≤ s.disp.budget.toNat) && decide (s.ctl.tin.toNat ≤ 45)

/-- A home has a free slot for each entry of its level. -/
def State.slotsFree (s : State) (l : RecLists) (h : Home) : Bool :=
  let n := (l.events.filter fun e => bits e 62 2 == Home.lvl h).length
  decide (n + ((s.resolver h).slots.filter fun e => e.2.alloc).length ≤ slotLimit h)

/-- A cluster can take its part of a launch but for positions: rings and event slots. -/
def State.clusterOk (s : State) (l : RecLists) (c : ClusterKey) : Bool :=
  s.ringsFree l c && s.slotsFree l (.cluster c) && s.slotsFree l (.die (dieOfCluster c))

/-- The core that a coordinate names. -/
def State.coordAt (s : State) (c : Nat) : Option CoreKey :=
  (s.clusterPhys (coordDie c) (coordClu c)).map fun cl => s.coreAt cl (coordCore c)

/-- Some placement of a record is free: positions, workspaces, rings and event slots (R376 condition 6). -/
def State.placeable (s : State) (ws : List Word) (l : RecLists) : Bool :=
  s.slotsFree l .package &&
  if recFix ws then
    l.coords.all fun c => match s.coordAt c with
      | some k => s.posFree l k (coordPos c) && s.clusterOk l (clusterOf k) &&
          decide ((l.coords.filter fun d => s.coordAt d == some k).length ≤ s.freeWorkspaces l k)
      | none => false
  else
    let fits (n : Bool) (w : Nat) : Nat := ((List.range 960).filter fun i =>
      match s.clusterPhys (i / 240) (i % 240) with
      | some c => decide (2 ≤ i % 4) == n && (s.freeIn l c w).length == w && s.clusterOk l c
      | none => false).length
    decide (occupied (recWc ws) (recWs ws) ≤ fits false (recWs ws)) && decide (occupied (recNc ws) (recNs ws) ≤ fits true (recNs ws))

/-- A startable head that is admitted before another: higher PRI, or equal and accepted earlier. -/
def State.outranked (s : State) (q : Fin 16) (r : QRec) : Bool :=
  (List.finRange 16).any fun p =>
    let y := s.queue p
    match s.head? p with
    | some h => p != q && y.en && (decide ((s.queue q).pri < y.pri) || (y.pri == (s.queue q).pri && decide (h.order < r.order))) &&
        s.startable y h && s.placeable h.words h.lists
    | none => false

/-- A launch's rings written on a cluster, enabled or not (R372, R380). -/
def State.launchRings (s : State) (l : RecLists) (c : ClusterKey) (on : Bool) : State :=
  l.rings.foldl (fun s e =>
    let i := bits e.2 0 4
    let s1 := s.setRing c i { s.ring c i with rprd := setBits e.2 0 27 0 }
    s1.setRcfg c i (if on then e.1 else e.1 &&& 0x7FFFFFFFFFFFFFFF)) s

def kindOf (n : Nat) : EvKind := match n with | 0 => .sync | 1 => .bcast | 2 => .xchg | 3 => .gather | _ => .redadd

/-- R376, R377: the head of a queue is admitted with the launch number, positions and slots that the DCC chooses. -/
def execAdmission (q : Fin 16) (ln : BitVec 16) (places : List Position) (slots : List SlotChoice) (s : State) : Next := s.byDcc <|
  let x := s.queue q
  match s.head? q with
  | none => .next s
  | some r =>
    if x.en && s.startable x r && !s.outranked q r && (s.launch? ln).isNone && s.placesOk r.words r.lists places &&
        s.slotsOk r.lists places slots then
      let l : Launch := ⟨ln, q, r.idx, r.words, r.lists, places, slots, [], false, false, [], 0, 0, r.order, 0, [], clustersOf places, 0⟩
      let s1 := s.setQueue q { x with recs := x.recs.map fun e => if e.order = r.order then { e with ln := some ln } else e }
      let s2 := { s1 with disp := { s1.disp with inuse := s1.disp.inuse + recTok r.words, launches := s1.disp.launches ++ [l] } }
      let s3 := slots.foldl (fun s c => s.allocSlot c.home c.slot (kindOf (bits (r.lists.events.getD c.entry 0) 59 3)) []) s2
      .next ((clustersOf places).foldl (fun s c => s.launchRings r.lists c true) s3)
    else .next s

/-! The slot table (R378). -/

def State.slotEntry (s : State) (c : ClusterKey) (n : Fin 16) : SlotEntry := (s.clu c).slots[n]
def State.setSlotEntry (s : State) (c : ClusterKey) (n : Fin 16) (e : SlotEntry) : State :=
  s.setClu c { s.clu c with slots := (s.clu c).slots.set n e }

/-- The core and bind position of an entry. -/
def State.slotCore (s : State) (c : ClusterKey) (n : Fin 16) : CoreKey := s.coreAt c (n.val / 2)
def slotPos (n : Fin 16) : Fin 2 := Fin.ofNat 2 n.val

/-- An entry written by the DCC with an operation, before it is carried out. -/
def goEntry (op : Nat) (ln : BitVec 16) (lid : BitVec 32) (wsp : BitVec 18) : SlotEntry :=
  ⟨BitVec.ofNat 64 (op * 2 ^ 60 + ln.toNat * 2 ^ 32 + lid.toNat), wsp.setWidth 64⟩

/-- ERR or HOLD of an entry. -/
def SlotEntry.setErr (e : SlotEntry) (b : Bool) : SlotEntry := ⟨setBits e.w0 59 1 (if b then 1 else 0), e.w1⟩
def SlotEntry.setHold (e : SlotEntry) (b : Bool) : SlotEntry := ⟨setBits e.w0 58 1 (if b then 1 else 0), e.w1⟩

/-- The operation is refused and changes nothing but ERR. -/
def State.refuseGo (s : State) (c : ClusterKey) (n : Fin 16) : State := s.setSlotEntry c n ((s.slotEntry c n).setErr true)

/-- The strand becomes a participant of each event that its launch binds (R86, R370). -/
def State.bindEvents (s : State) (l : Launch) (k : CoreKey) (who : StrandId) : State :=
  (List.range l.lists.events.length).foldl (fun s x =>
    let e := l.lists.events.getD x 0
    if !e.getLsbD 58 then s
    else
      let h : Home := match bits e 62 2 with | 0 => .cluster (clusterOf k) | 1 => .die (dieOf k) | _ => .package
      match l.slots.find? fun c => c.entry == x && c.home == h with
      | some c => let y := s.slot h c.slot; s.setSlot h c.slot { y with strands := y.strands ++ [who] }
      | none => s) s

/-- A strand bound into an empty bank of a core: the active one if both are empty. -/
def State.bindInto (s : State) (k : CoreKey) (x : Bank) : Option State :=
  let c := s.core k
  let b := if (c.bank c.ab).st == .empty then some c.ab else if (c.bank (1 - c.ab)).st == .empty then some (1 - c.ab) else none
  b.map fun b => s.setBank k b x

/-- R378: create. The strand is one of a launch that the DCC has placed there. The cluster's instruction cache holds nothing of an earlier launch (R203). -/
def execCreate (c : ClusterKey) (slot : Fin 16) (ln : BitVec 16) (lid : BitVec 32) (wsp : BitVec 18) (s : State) : Next := s.byDcc <|
  let k := s.slotCore c slot
  let pos := slotPos slot
  match s.launch? ln with
  | none => .next (s.refuseGo c slot)
  | some l =>
    let placed := match l.places[lid.toNat]? with
      | some p => p.core == k && p.pos == pos && p.wsp == wsp.toNat
      | none => false
    if s.posSt k pos != .empty || !placed || l.created.contains lid || (s.core k).fen then .next (s.refuseGo c slot)
    else match s.bindInto k (Bank.created (s.identFor l k lid pos) wsp (recEntry l.words) 0 (BitVec.ofNat 64 (recTok l.words))) with
      | none => .next (s.refuseGo c slot)
      | some s1 =>
        let s2 := (s1.bindEvents l k ⟨ln, lid⟩).setSlotEntry c slot ((goEntry 1 ln lid wsp).setHold true)
        let all := l.created.length + 1 == l.places.length
        let s3 := (s2.mapLaunch ln fun l => { l with created := lid :: l.created }).mapClu c fun x => { x with icache := [] }
        .next (if all then s3.journal s.tick ln l.q.val 2 l.idx 0 else s3)

/-! What the DCC may do (R379). -/

/-- An offer entry of a strand has occurred or gone stale, or a gang result is held for it. -/
def State.strandDue (s : State) (a : StrandAt) : Bool :=
  let who := (s.strand a).id.who
  ((List.range 8).any fun i => let st := (Offer.mk (s.regionWord a (80 + 2 * i)) 0).st; st == 3 || st == 4) ||
    ((s.clu (clusterOf a.core)).gangOffers.toList.any fun o => match o with
      | some g => g.who == who && g.result.isSome
      | none => false)

/-- The strand is BLOCKED (R84). -/
def Bank.blocked (b : Bank) : Bool := b.wait.elim false WaitKind.blocks

/-- The strand of a core is at the end of a superstep, which is a compute strand's alone, or not in Slate mode (R398). -/
def State.superstepEnd (s : State) (k : CoreKey) (b : Bank) : Bool :=
  !b.id.slate || (decide (s.cid k ≤ 3) && b.boundary && !b.ctx.phase.getLsbD 0)

/-- PRI of the queue of a strand's launch, and the place of its launch in the order of starts. -/
def State.strandPri (s : State) (b : Bank) : Nat := (s.launch? b.id.ln).elim 0 fun l => (s.queue l.q).pri
def State.strandStart (s : State) (b : Bank) : Nat := (s.launch? b.id.ln).elim 0 Launch.startNo

/-- A head that is startable but for its placement has a PRI above that of a strand's launch. -/
def State.headAbove (s : State) (b : Bank) : Bool :=
  (List.finRange 16).any fun q =>
    let x := s.queue q
    x.en && decide (s.strandPri b < x.pri) &&
      match s.head? q with
      | some r => s.startable x r && !s.placeable r.words r.lists
      | none => false

/-- The order in which UNBOUND strands are restored: one with an occurred entry, or that waits for nothing, before one still blocked; then higher PRI; then the earlier start. -/
def State.restoreFirst (s : State) (a b : StrandAt) : Bool :=
  let x := s.strand a
  let y := s.strand b
  let waits (w : StrandAt) : Nat := if (s.strand w).blocked && !s.strandDue w then 1 else 0
  decide (waits a < waits b) || (waits a == waits b &&
    (decide (s.strandPri y < s.strandPri x) || (s.strandPri x == s.strandPri y && decide (s.strandStart x < s.strandStart y))))

/-- R213, R378, R379: restore of the workspace at WSP into the shadow bank, in the order of `State.restoreFirst` among the strands of the core whose positions are free. -/
def execRestore (c : ClusterKey) (slot : Fin 16) (ln : BitVec 16) (lid : BitVec 32) (wsp : BitVec 18) (s : State) : Next := s.byDcc <|
  let k := s.slotCore c slot
  let x := s.core k
  match x.unbound.findIdx? fun b => b.id.who == ⟨ln, lid⟩ && b.wsp == wsp && b.id.pos == slotPos slot with
  | none => .next (s.refuseGo c slot)
  | some n =>
    let b := 1 - x.ab
    let others := (List.range x.unbound.length).filter fun m =>
      s.posSt k (((x.unbound[m]?).getD Bank.empty).id.pos) == .empty && s.restoreFirst (.saved k m) (.saved k n)
    if s.frozenAt k || x.swapping then .next s
    else if s.posSt k (slotPos slot) != .empty || (x.bank b).st != .empty || x.fen then .next (s.refuseGo c slot)
    else if !others.isEmpty then .next s
    else
      let y := (x.unbound[n]?).getD Bank.empty
      let x1 := { x with unbound := x.unbound.eraseIdx n }
      .next ((s.setCore k (x1.setBank b { y with st := .restoring })).setSlotEntry c slot (goEntry 2 ln lid wsp))

/-- The strand of a position that is bound in the shadow bank. -/
def State.shadowAt (s : State) (k : CoreKey) (pos : Fin 2) : Option (Fin 2) :=
  match s.posBank k pos with
  | some b => if (s.bank k b).st == .bound && (s.core k).ab != b then some b else none
  | none => none

/-- An entry after an operation on the strand that it names. -/
def State.noteGo (s : State) (c : ClusterKey) (slot : Fin 16) (op : Nat) (b : Bank) (hold : Bool) : State :=
  s.setSlotEntry c slot ((goEntry op b.id.ln b.id.lid b.wsp).setHold hold)

/-- HOLD of an entry. -/
def SlotEntry.hold (e : SlotEntry) : Bool := e.w0.getLsbD 58

/-- The strand of a core's shadow bank may be unbound: its launch has started, no swap is on the way, and a Slate strand is at the end of a superstep. One in a fusion stays. -/
def State.unbindable (s : State) (k : CoreKey) : Bool :=
  let c := s.core k
  let x := c.bank (1 - c.ab)
  x.st == .bound && !x.leaving && !c.fen && !c.swapping && !s.frozenAt k && s.launchStarted x.id.ln && s.superstepEnd k x &&
    !(s.fusedCore k && x.wait == some .fuse)

/-- Some bank is being unbound: the DCC unbinds one strand at a time, until the head can be placed. -/
def State.unbinding (s : State) : Bool :=
  s.cores.any fun e => e.2.b0.leaving || e.2.b1.leaving || e.2.b0.st == .spilling || e.2.b1.st == .spilling

/-- The strand of a shadow bank is the one that R379 unbinds next: a head of higher PRI can not be placed, and no strand that may be unbound has lower PRI, or equal and a later start. -/
def State.unbindNext (s : State) (k : CoreKey) (x : Bank) : Bool :=
  s.unbindable k && !s.unbinding && s.headAbove x &&
    !(s.cores.any fun e =>
      let y := e.2.bank (1 - e.2.ab)
      s.unbindable e.1 && (decide (s.strandPri y < s.strandPri x) ||
        (s.strandPri y == s.strandPri x && decide (s.strandStart x < s.strandStart y))))

/-- R213, R378, R379: unbind. The spill begins once nothing is pending in the shadow bank. -/
def execUnbind (c : ClusterKey) (slot : Fin 16) (s : State) : Next := s.byDcc <|
  let k := s.slotCore c slot
  match s.shadowAt k (slotPos slot) with
  | none => .next (s.refuseGo c slot)
  | some b =>
    let x := s.bank k b
    if (s.core k).fen then .next (s.refuseGo c slot)
    else if s.unbindNext k x then .next ((s.setBank k b { x with leaving := true }).noteGo c slot 3 x (s.slotEntry c slot).hold)
    else .next s

/-- A swap may be made: at an instruction boundary of the active strand, and in Slate mode at its superstep's end only (R398). A strand that is being unbound stays in the shadow bank. -/
def State.swapAllowed (s : State) (k : CoreKey) : Bool :=
  let c := s.core k
  let y := c.bank (1 - c.ab)
  y.st == .bound && !y.leaving && !c.fen && !c.swapping && !s.frozenAt k && s.atBoundary k && s.superstepEnd k (c.bank c.ab)

/-- R379, first case: the active strand is BLOCKED, the threshold is in force, and the shadow strand is not BLOCKED. -/
def State.thresholdCase (s : State) (k : CoreKey) : Bool :=
  let c := s.core k
  c.cswapthr != 0 && (c.bank c.ab).blocked && !(c.bank (1 - c.ab)).blocked

/-- R379, second case: the shadow strand has an occurred entry or a held result, and the active strand is blocked, waits in WAITT or is parked, or slices are in force. -/
def State.dueCase (s : State) (k : CoreKey) : Bool :=
  let c := s.core k
  let x := c.bank c.ab
  s.strandDue (.bank k (1 - c.ab)) && (x.blocked || x.wait == some .waitt || x.prk || s.disp.slice != 0)

/-- R379, last case: no strand is in the active bank. -/
def State.vacantCase (s : State) (k : CoreKey) : Bool := let c := s.core k; (c.bank c.ab).st == .empty

/-- R211, R378, R379: make active. -/
def execMakeActive (c : ClusterKey) (slot : Fin 16) (s : State) : Next := s.byDcc <|
  let k := s.slotCore c slot
  match s.shadowAt k (slotPos slot) with
  | none => .next (s.refuseGo c slot)
  | some b =>
    if (s.core k).fen then .next (s.refuseGo c slot)
    else if s.swapAllowed k && (s.thresholdCase k || s.dueCase k || s.vacantCase k) then
      .next ((s.swap k).noteGo c slot 4 (s.bank k b) (s.slotEntry c slot).hold)
    else .next s

/-- R213: the spill of the shadow bank, while no swap is under way. Once nothing is pending in it, it unbinds the workspace, and withdraws the gang and fuse offers that have not occurred; then it writes the region with its tags. A strand that waits in MGANG or FUSE goes on waiting (R313). -/
def execSpill (k : CoreKey) (s : State) : Next :=
  let c := s.core k
  let b := 1 - c.ab
  let x := c.bank b
  if c.fen || c.swp || s.frozenAt k then .next s
  else if x.leaving && x.drained && x.trapped.isEmpty then
    let s1 := (s.withdrawGang (clusterOf k) x.id.who false).withdrawFuse k x.id.who false
    .next (s1.setBank k b { s1.bank k b with st := .spilling, leaving := false })
  else if x.st == .spilling then
    let s1 := s.writeRegion k x.wsp.toNat x.ctx
    let c1 := s1.core k
    .next (s1.setCore k { c1.setBank b Bank.empty with
      unbound := c1.unbound ++ [{ x with st := .empty, plane := Vector.replicate 8 none, ctx := Ctx.created, word := none }] })
  else .next s

/-- R213: the restore of the shadow bank, or R96 where a line fails. A strand that was unbound as it waited goes on waiting until it issues (R313). bad: a line whose tag is found not to match, its stored bits having changed. -/
def execRestoreComplete (k : CoreKey) (bad : Option Nat) (s : State) : Next :=
  let c := s.core k
  let b := 1 - c.ab
  let x := c.bank b
  if x.st == .restoring && !c.fen && !s.frozenAt k then
    let loc := spadBase k + x.wsp.toNat
    let s1 := match bad with
      | some n => { s with badTags := (loc + 64 * (n % 78)) :: s.badTags.erase (loc + 64 * (n % 78)) }
      | none => s
    match s1.badLine loc with
    | some off => .next (s1.damage k b off)
    | none => .next (s1.setBank k b { x with st := .bound, ctx := Ctx.ofMemory s1.mem loc })
  else .next s

/-! Swaps by the DCC (R379). -/

/-- R88, R379: the active strand has been BLOCKED longer than the threshold, and the shadow strand is not. -/
def execSwapThreshold (k : CoreKey) (s : State) : Next :=
  s.byDcc (if s.swapAllowed k && s.thresholdCase k then .next (s.swap k) else .next s)

/-- R379: a shadow strand with an occurred entry or a held result becomes active, when the active strand blocks, enters WAITT or parks, or has had its slice. -/
def execTimeSlice (k : CoreKey) (s : State) : Next :=
  s.byDcc (if s.swapAllowed k && s.dueCase k then .next (s.swap k) else .next s)

/-! Start (R371, R378). -/

/-- One load-list entry copied into a scratchpad, where watchpoints see the write (R257), or into a cluster SRAM. -/
def State.loadBlock (s : State) (spid : BitVec 20) (e : List Word) (pl : Place) : Chk State := do
  let bs ← s.dispatchRead spid (e.getD 0 0) (loadLen e) 1
  let s1 := (s.served (dispatchView spid) (s.canon pl) pl (loadLen e) .write).1
  match pl with
  | .spad k off => return s1.put (spadBase k + off) bs
  | .sram c off => return s1.put (sramBase c + off) bs
  | _ => return s1

/-- The places of a load-list entry among those of a launch. -/
def loadTargets (l : Launch) (e : List Word) : List Place :=
  if loadPlace e = 0 then ((l.places.map (·.core)).eraseDups).map fun k => .spad k (loadOff e)
  else (clustersOf l.places).map fun c => .sram c (loadOff e)

/-- The load list carried out in order. -/
def State.loadAll (s : State) (l : Launch) : Chk State :=
  l.lists.loads.foldlM (fun s e => (loadTargets l e).foldlM (fun s pl => s.loadBlock (recSpid l.words) e pl) s) s

/-- R378: LSTART. Every create is made; the load list is copied; the launch will start at the next tick boundary. A block that can not be read holds the start. -/
def execLstart (ln : BitVec 16) (s : State) : Next :=
  match s.launch? ln with
  | none => .next { s with disp := { s.disp with lstart := ln } }
  | some l =>
    if l.created.length = l.places.length ∧ l.lstart = false then
      match s.loadAll l with
      | .error _ => .next s
      | .ok s1 => .next ({ s1 with disp := { s1.disp with lstart := ln } }.mapLaunch ln fun l => { l with lstart := true })
    else .next { s with disp := { s.disp with lstart := ln } }

/-- HOLD cleared in the entries of a launch. -/
def Cluster.release? (x : Cluster) (ln : BitVec 16) : Cluster :=
  { x with slots := x.slots.map fun e => if bits e.w0 32 16 = ln.toNat then e.setHold false else e }

/-- The strands of a launch run in Slate mode where the package does at the start (R397). -/
def Bank.slateMark (b : Bank) (ln : BitVec 16) (on : Bool) : Bank :=
  if b.holds && b.id.ln == ln then { b with id := { b.id with slate := on } } else b

/-- A launch starts: it is journalled before any strand issues (R409). -/
def State.startLaunch (s : State) (l : Launch) : State :=
  let s1 := (clustersOf l.places).foldl (fun s c => s.mapClu c fun x => x.release? l.ln) s
  let s2 := (l.places.map (·.core)).eraseDups.foldl (fun s k =>
    let c := s.core k
    s.setCore k { c with b0 := c.b0.slateMark l.ln s.ctl.slate, b1 := c.b1.slateMark l.ln s.ctl.slate }) s1
  let s3 := s2.mapLaunch l.ln fun l => { l with started := true, startNo := s.disp.order }
  ({ s3 with disp := { s3.disp with order := s3.disp.order + 1 } }).journal s.tick l.ln l.q.val 3 l.idx 0

/-- The launches that LSTART has named start, but not while the inlet is too warm (R421), nor before the journal can hold that they did (R409). -/
def State.startLaunches (s : State) : State :=
  if decide (45 < s.ctl.tin.toNat) || s.recordWaits then s
  else (s.disp.launches.filter fun l => l.lstart && !l.started).foldl State.startLaunch s

/-! Completion (R380 to R382). -/

/-- A one-sided operation of a launch is out. -/
def State.launchOut (s : State) (ln : BitVec 16) : Bool := s.fab.ops.any fun o => o.ask.isNone && o.who.ln == ln && o.out

/-- Every strand has ended, every command that they pushed has completed or stopped (R87), and no gang that holds a token of the launch is on an engine (R8, R271). With TREE = 1 this is the report, and every access of the launch comes before it (R380). -/
def State.launchDone (s : State) (l : Launch) : Bool :=
  l.started && l.ended.length == l.places.length && !(s.disp.tree && s.launchOut l.ln) && s.arraysOf l.ln == 0 &&
    s.clusters.all fun e => !(e.2.cmds.any fun c => c.who.ln == l.ln && c.live)

/-- What a launch leaves in a cluster goes: its stopped commands, with the gang records that they stand in and their nodes, and its early credits (R281, R380). -/
def State.launchGone (s : State) (ln : BitVec 16) (c : ClusterKey) : State :=
  let s1 := ((s.clu c).cmds.filter fun m => m.who.ln == ln).foldl (fun s m =>
    if (s.clu c).cmds.any fun d => d.id == m.id then s.discardCmd c m else s) s
  s1.mapClu c fun y => { y with nodes := y.nodes.map fun e => (e.1, { e.2 with credits := e.2.credits.filter (· != ln) }) }

/-- Status words combined (R382). -/
def combine (a b : Word) : Word :=
  statusWord (bits a 32 32 + bits b 32 32) (bits a 16 16 + bits b 16 16) 0 (max (bits a 0 2) (bits b 0 2))

/-- R380: the launch gives back what it holds. STOP counts the commands left stopped or discarded (R381); one that a remap discarded has not stopped, and does not make the launch faulted (R87, R384; DESIGN CHOICE, log 54). With TREE = 1 its status joins HCOMP (R382). -/
def State.finishLaunch (s : State) (l : Launch) : State :=
  let left := (s.clusters.map fun e => (e.2.cmds.filter fun c => c.who.ln == l.ln).length).sum
  let stops := l.stops + left
  let out := if l.kills = 0 ∧ stops = 0 then 1 else 2
  let s1 : State := l.slots.foldl (fun s c => s.freeSlot c.home c.slot) s
  let s2 : State := l.ringsAt.foldl (fun s c => s.launchRings l.lists c false) s1
  let s3 : State := (s2.clusters.map (·.1)).foldl (fun s c => s.launchGone l.ln c) s2
  let x := s3.queue l.q
  let word := statusWord l.kills (stops + l.dropped) 0 out
  let live := s3.disp.launches.filter fun m => m.ln != l.ln
  let s4 : State := { s3 with disp := { s3.disp with inuse := s3.disp.inuse - recTok l.words, launches := live } }
  if s4.disp.tree then
    let s5 := s4.setQueue l.q { x with recs := x.recs.filter fun r => r.order != l.order }
    { s5 with disp := { s5.disp with hcomp := combine s5.disp.hcomp word, hccnt := s5.disp.hccnt + 1 } }.raiseMsix 0
  else s4.setQueue l.q { x with recs := x.recs.map fun r =>
    if r.order = l.order then { r with outcome := some (out, l.kills, stops + l.dropped), since := s.tick } else r }

/-- R380. -/
def execLaunchCompletion (ln : BitVec 16) (s : State) : Next :=
  match s.launch? ln with
  | none => .next s
  | some l => .next (if s.launchDone l then s.finishLaunch l else s)

/-- R381: the next launch of a queue is reported, in index order, once every access of its strands has been performed (R380): the addition is a release of scope .dm. An abandoned index has no completion pair (R366). -/
def execLaunchReport (q : Fin 16) (s : State) : Next :=
  let x := s.queue q
  match x.recs with
  | [] => .next s
  | r :: rs =>
    let st := match r.refused, r.outcome with
      | some n, _ => some (statusWord 0 0 n 3, 6)
      | none, some (o, k, t) => some (statusWord k t 0 o, if o = 1 then 4 else 5)
      | none, none => none
    match st with
    | none => .next s
    | some (w, tr) =>
      if s.disp.tree || r.ln.elim false s.launchOut then .next s
      else
        let cpl := recCpl r.words
        let s1 := if cpl = 0 ∨ r.refused = some 13 then s
          else (s.dispatchWrite (recSpid r.words) cpl w).dispatchSignal (recSpid r.words) (cpl + 8)
        let s2 := if r.refused = some 13 then s1 else s1.journal r.since (r.ln.getD 0) q.val tr r.idx w
        .next (s2.setQueue q { s2.queue q with recs := rs, rep := (s2.queue q).rep + 1 })

/-! Restart, migration and remap (R383, R384). -/

/-- A strand re-created from its last phase boundary. Its fold membership is left, its event memberships stand. -/
def State.recreate (s : State) (a : StrandAt) (id : Ident) (wsp : BitVec 18) : Bank × State :=
  let x := s.strand a
  let l := s.launch? x.id.ln
  let (pc, ph) := match l with | some l => l.restartAt x.id.lid.toNat | none => (x.pc, 0)
  let tok := match l with | some l => BitVec.ofNat 64 (recTok l.words) | none => 0
  let s1 := s.letGo a true
  let s2 := match l with
    | some l => s1.journal s.tick l.ln l.q.val 7 l.idx (x.id.lid.setWidth 64)
    | none => s1
  (Bank.created id wsp pc ph tok, s2)

/-- A launch has its rings in a cluster, or may have them there (R372). -/
def State.ringsReach (s : State) (l : Launch) (c : ClusterKey) : Bool := l.ringsAt.contains c || s.ringsFree l.lists c

/-- The rings of a launch set in a cluster that it comes to occupy. -/
def State.setRings (s : State) (l : Launch) (c : ClusterKey) : State :=
  if l.ringsAt.contains c then s
  else (s.launchRings l.lists c true).mapLaunch l.ln fun l => { l with ringsAt := l.ringsAt ++ [c] }

/-- R401: a context moves to another position of the package, at its phase boundary, to place a head under R379 (a remap restarts strands itself: execRemap). Every access before the boundary has been made (R200), and the instruction cache of the new cluster holds nothing of an earlier launch (R203). -/
def execMigration (k : CoreKey) (b : Fin 2) (dest : Position) (s : State) : Next := s.byDcc <|
  let x := s.bank k b
  match s.launch? x.id.ln with
  | none => .next s
  | some l =>
    let sameKind := ((s.clid (clusterOf k)).getD 0) % 4 / 2 == ((s.clid (clusterOf dest.core)).getD 0) % 4 / 2
    if x.st == .bound && x.boundary && x.drained && x.trapped.isEmpty && s.superstepEnd k x && s.headAbove x &&
        !s.opsOut x.id.who .dm && !(s.core k).swapping && sameKind && dest.core != k &&
        s.posFree l.lists dest.core dest.pos && s.workspaceOk l.lists dest.core dest.wsp && s.ringsReach l (clusterOf dest.core) then
      let id := { s.identFor l dest.core x.id.lid dest.pos with slate := x.id.slate }
      let (y, s1) := s.recreate (.bank k b) id (BitVec.ofNat 18 dest.wsp)
      let s2 := (s1.setBank k b Bank.empty)
      match s2.bindInto dest.core y with
      | none => .next s
      | some s3 =>
        let s4 := ((s3.emptied k).setRings l (clusterOf dest.core)).mapLaunch l.ln fun l => { l with places := l.places.set x.id.lid.toNat dest }
        .next (s4.mapClu (clusterOf dest.core) fun y => { y with icache := [] })
    else .next s

/-- The strands of a core moved to another one as they restart: each in its bank or its workspace. -/
def State.restartCore (s : State) (k t : CoreKey) : State :=
  let c := s.core k
  let one (s : State) (b : Fin 2) : State :=
    let x := (s.core k).bank b
    if x.holds then
      let r := s.recreate (.bank k b) x.id x.wsp
      (r.2.setBank k b Bank.empty).setBank t b r.1
    else s
  let s1 := one (one s 0) 1
  let s2 := c.unbound.foldl (fun s x =>
    let r := s.recreate (.saved k 0) x.id x.wsp
    let s3 := r.2.setCore k { (r.2.core k) with unbound := (r.2.core k).unbound.tail }
    let s4 := s3.writeRegion t x.wsp.toNat r.1.ctx
    s4.setCore t { (s4.core t) with unbound := (s4.core t).unbound ++ [{ r.1 with st := .empty, ctx := Ctx.created }] }) s1
  let s5 := s2.setCore t { s2.core t with ab := c.ab }
  { s5 with disp := { s5.disp with launches := s5.disp.launches.map fun l =>
      { l with places := l.places.map fun p => if p.core = k then { p with core := t } else p } } }

/-- The launches that have a strand on one of some cores. -/
def State.launchesOn (s : State) (ks : List CoreKey) : List (BitVec 16) :=
  (ks.flatMap fun k => (s.strandsOf k).map fun a => (s.strand a).id.ln).eraseDups

/-- The strands of some launches. -/
def State.strandsIn (s : State) (lns : List (BitVec 16)) : List StrandId :=
  s.cores.flatMap fun e => ((s.strandsOf e.1).map fun a => (s.strand a).id.who).filter fun w => lns.contains w.ln

/-- The deterministic update that a strand holds is accepted before the strand ends, unless a fenced core holds it (R352). -/
def State.settleDet (s : State) (w : StrandAt) : State :=
  match w with
  | .saved _ _ => s
  | .bank k b =>
    if (s.core k).fen then s
    else match (s.bank k b).pend.zipIdx.find? fun e => match e.1.far with | some (.det _ _ _) => true | _ => false with
      | some (p, n) => match p.far with
        | some (.det d wide x) => writeBackDet s k b n p d wide x
        | _ => s
      | none => match (s.bank k b).store with
        | some h => match h.det with
          | some (wide, x) => acceptDet s k b h wide x none
          | none => s
        | none => s

/-- A strand of some launches still holds an update on a core that is not fenced. -/
def State.detHeldBy (s : State) (lns : List (BitVec 16)) : Bool :=
  s.cores.any fun e => !e.2.fen && [e.2.b0, e.2.b1].any fun b => lns.contains b.id.ln && b.detHeld.isSome

/-- The updates that the strands of some launches hold are offered (R352). -/
def State.settleDets (s : State) (lns : List (BitVec 16)) : State :=
  (s.strandsIn lns).foldl (fun s w => match s.findStrand w with | some a => s.settleDet a | none => s) s

/-- The strands of some launches are killed (R384). -/
def State.killLaunches (s : State) (lns : List (BitVec 16)) : State :=
  (s.strandsIn lns).foldl (fun s w => match s.findStrand w with | some a => s.endStrand a true | none => s) s

/-- The launches that have a strand on some cores are killed, once the updates of their strands are accepted. -/
def State.killOn (s : State) (ks : List CoreKey) : State :=
  let lns := s.launchesOn ks
  let s1 := s.settleDets lns
  if s1.detHeldBy lns then s1 else s1.killLaunches lns

/-- CMAP with the fields of two roles exchanged (R384). -/
def cmapSwap (m : BitVec 24) (r : Nat) : BitVec 24 :=
  BitVec.ofNat 24 (((List.range 8).map fun i => cmapAt m (if i = r then 7 else if i = 7 then r else i) * 8 ^ i).sum)

/-- The cores of a physical quad. -/
def quadCores (d pq : Nat) : List CoreKey := (List.range 32).map fun i => (clusterAt d pq (i / 8)) * 8 + i % 8

/-- The spare quads of a die that are not fenced (R330). -/
def State.spareQuads (s : State) (d : Nat) : List Nat :=
  (List.range 62).filter fun pq => (s.quadLog d pq).isNone && (quadCores d pq).all fun k => !(s.core k).fen

/-- A cluster event of a launch as the DCC sets it up in a cluster that takes another's place: its slot and generation, with the launch's strands there as participants where the entry binds them (R370). -/
def State.movedSlot (s : State) (c : ClusterKey) (l : Launch) (e : SlotChoice) : Nat × EvSlot :=
  let y := s.slot e.home e.slot
  let here := (l.places.zip (List.range l.places.length)).filter fun p =>
    clusterOf p.1.core == c && !(l.ended.contains (BitVec.ofNat 32 p.2))
  let bound := (l.lists.events.getD e.entry 0).getLsbD 58
  let ws := if bound then here.map fun p => StrandId.mk l.ln (BitVec.ofNat 32 p.2) else []
  (e.slot, { EvSlot.free with alloc := true, kind := y.kind, gen := y.gen, strands := ws })

/-- A cluster with no commands, no gang offers, no event slots and its rings as at reset. Its accumulators and the rest stand (R282). -/
def Cluster.vacated (x : Cluster) : Cluster :=
  let z := Cluster.reset
  { x with rings := z.rings, cmds := z.cmds, nodes := z.nodes, locks := z.locks, gangOffers := z.gangOffers, res := z.res, slots := z.slots, icache := z.icache }

/-- The commands of a cluster whose quad is remapped are discarded without report: those that have stopped, or are to, and the others, each counted for its launch (R381, R384). -/
def State.countLost (s : State) (cmds : List Cmd) : State :=
  cmds.foldl (fun s m => match m.st with
    | .stopped | .faulted _ => s.countStop m.who.ln
    | _ => s.mapLaunch m.who.ln fun l => { l with dropped := l.dropped + 1 }) s

/-- A cluster takes the place of another: the launches' cluster events are set up in it, their rings are set again, and the old queues are dropped. -/
def State.moveCluster (s : State) (c t : ClusterKey) : State :=
  let x := s.clu c
  let ls := s.disp.launches.filter fun l => l.ringsAt.contains c
  let fix (e : SlotChoice) : SlotChoice := if e.home = .cluster c then { e with home := .cluster t } else e
  let evs := ls.flatMap fun l => (l.slots.filter fun e => e.home == .cluster c).map fun e => s.movedSlot c l e
  let s1 := (s.setClu t { (s.clu t).vacated with
    res := { x.res with slots := evs.foldl (fun a e => insertKey e.1 e.2 a) [] }
    slots := x.slots }).setClu c x.vacated |>.countLost x.cmds
  let s2 := ls.foldl (fun s l => s.launchRings l.lists t true) s1
  { s2 with disp := { s2.disp with launches := s2.disp.launches.map fun l =>
      { l with slots := l.slots.map fix, ringsAt := l.ringsAt.map fun d => if d = c then t else d } } }

/-- A core of the quad is fenced. -/
def State.quadFenced (s : State) (d pq : Nat) : Bool := (quadCores d pq).any fun k => (s.core k).fen

/-- One-sided operations of the strands of some cores are out. -/
def State.opsOutOn (s : State) (ks : List CoreKey) : Bool :=
  ks.any fun k => (s.strandsOf k).any fun a => s.opsOut (s.strand a).id.who .dm

/-- The remap of R384: the DCC remaps a fenced core: a streamer's role to the spare core, a compute core's quad to a spare quad; the strands that were bound restart. The launches that stand on the spare core as it is taken are killed (log 54). A strand restarts once what it accessed before its boundary has been performed (R200). -/
def State.remap (s : State) (k : CoreKey) : State :=
  let c := clusterOf k
  let r := s.cid k
  if !(s.core k).fen then s
  else if 4 ≤ r then
    let spare := s.coreAt c 7
    if r ≠ 7 ∧ cmapAt (s.clu c).cmap 7 = 7 ∧ (s.core spare).fen = false then
      let s0 := s.killOn [spare]
      if (s0.strandsOf spare).isEmpty && !s0.opsOutOn [k] then
        (s0.setClu c { s0.clu c with cmap := cmapSwap (s0.clu c).cmap r }).restartCore k spare
      else s0
    else s.killOn [k]
  else
    let (d, pq) := quadOf c
    match s.quadLog d pq with
    | none => s
    | some q =>
      let s1 := (quadCores d pq).foldl State.fence s
      match s1.spareQuads d with
      | [] => s1.killOn (quadCores d pq)
      | n :: _ =>
        if s1.opsOutOn (quadCores d pq) then s1
        else
          let x := s1.die d
          let s2 := s1.setDie d { x with qmap := x.qmap.setIfInBounds q (BitVec.ofNat 64 (128 + n)) }
          let s3 := (List.range 4).foldl (fun s p => s.moveCluster (clusterAt d pq p) (clusterAt d n p)) s2
          (List.range 32).foldl (fun s i =>
            let cl := clusterAt d pq (i / 8)
            let tl := clusterAt d n (i / 8)
            s.restartCore (s.coreAt cl (i % 8)) (s.coreAt tl (i % 8))) s3

/-- R384. -/
def execRemap (k : CoreKey) (s : State) : Next := s.byDcc (.next (s.remap k))

end Sys2Proof.Machine
end

