-- ==== Sys2Proof/Machine/Server.lean ====
section
/-! DEFINITION. The fault server protocol: reports and the report ring (R440, R441), replies (R442), and what a reply does to a parked strand (R95, R96) or to a stopped command (R251). -/

namespace Sys2Proof.Machine

open Sys2Proof

/-! Reports. -/

/-- The kinds of report that take a reply (R442). -/
def kindReplied (k : Nat) : Bool := k == 1 || k == 2 || k == 3 || k == 5

/-- Words 0 to 31 of a record (R440). -/
def Report.record (r : Report) : List Word :=
  let w0 := BitVec.ofNat 64 (2 ^ 63 + r.kind * 2 ^ 56 + r.tag.toNat * 2 ^ 40 + r.src * 2 ^ 30)
  (([w0, r.server, r.sid] ++ r.words) ++ List.replicate 32 0).take 32

/-- The report that a packet from another package carries (R441). -/
def reportOf (ws : List Word) : Report :=
  let w0 := ws.getD 0 0
  ⟨bits w0 30 10, bits w0 56 7, BitVec.ofNat 16 (bits w0 40 16), ws.getD 1 0, ws.getD 2 0, ⟨0, 0⟩, 0, 0, ws.drop 3⟩

/-- FSRC. -/
def State.ringOn (s : State) : Bool := s.fab.fsrc.getLsbD 63
def State.ringLogn (s : State) : Nat := bits s.fab.fsrc 24 4
def State.ringView (s : State) : View := dispatchView (s.fab.fsrc.setWidth 20)

/-- A record written to the package's own ring where it is enabled, the slot is free and the accesses pass their checks: words 1 to 31, then word 0, then 1 is added to the signal word (R440). -/
def State.ringWrite (s : State) (r : Report) : Option State :=
  let p := s.fab.fsrb.toNat + 256 * (1 + s.fab.ringNext % 2 ^ s.ringLogn)
  if !s.ringOn then none
  else match s.dispatchRead (s.ringView).spid (BitVec.ofNat 64 p) 8 8 with
    | .error _ => none
    | .ok w0 =>
      if (leWord w0).getLsbD 63 then none
      else match s.writeAt s.ringView p 256 (r.record.flatMap fun w => leBytes 8 w.toNat) with
        | .error _ => none
        | .ok s1 =>
          let s2 := s1.dispatchSignal (s.ringView).spid s.fab.fsrb
          some { s2 with fab := { s2.fab with ringNext := s2.fab.ringNext + 1 } }

/-- The n-th of the reports that wait leaves their list. -/
def State.dropReport (s : State) (n : Nat) : State := { s with fab := { s.fab with reports := s.fab.reports.eraseIdx n } }

/-- A report of this package awaits its reply. -/
def State.await (s : State) (r : Report) : State :=
  if kindReplied r.kind ∧ r.src = s.ctl.pkid.toNat then { s with fab := { s.fab with awaiting := s.fab.awaiting ++ [r] } } else s

/-- The n-th report goes to the package's own ring; one for the host raises MSI-X vector 6 (R441). -/
def State.reportHere (s : State) (n : Nat) (r : Report) : State :=
  match s.ringWrite r with
  | none => s
  | some s1 =>
    let s2 := (s1.dropReport n).await r
    if r.server = 0xFFFFFFFFFFFFFFFF then s2.raiseMsix 6 else s2

/-- The report that goes to the host instead. -/
def Report.toHost (r : Report) : Report := { r with server := 0xFFFFFFFFFFFFFFFF }

/-- The n-th report goes to the host from now on (R441). -/
def State.turnReport (s : State) (n : Nat) (r : Report) : State :=
  let t : State := { s with fab := { s.fab with reports := s.fab.reports.set n r.toHost } }
  t.reportHere n r.toHost

/-- The package of a report's server (R441). -/
def Report.target (r : Report) : Nat := r.server.toNat / 16384

/-- A report to a server of another package: it leaves by a port under the handle of the group of its space id. Where no entry is open or no port is up it goes to the host (log 29). -/
def State.reportAway (s : State) (n : Nat) (r : Report) : State :=
  match s.groupId r.spid, s.portWay (r.sid.toNat / 4096 % 4) r.target with
  | some g, .ok j =>
    let p := packetUnder g 0 1 none (.report (r.record.take 12)) 0 []
    if s.portRoom j p then ((s.sendPacket j r.target p).dropReport n).await r else s
  | some _, .error .wait => s
  | _, _ => s.turnReport n r

/-- The package to whose ring a report that waits goes next: one that has come from another package, or is for the host, to this one's. -/
def State.reportRing (s : State) (r : Report) : Nat :=
  if r.src ≠ s.ctl.pkid.toNat ∨ r.server = 0xFFFFFFFFFFFFFFFF then s.ctl.pkid.toNat else r.target

/-- R440, R441: the n-th report that waits is delivered, or waits on. -/
def State.deliverReport (s : State) (n : Nat) (r : Report) : State :=
  if s.reportRing r ≠ s.ctl.pkid.toNat then s.reportAway n r
  else if s.ringOn || r.src != s.ctl.pkid.toNat || r.server == 0xFFFFFFFFFFFFFFFF then s.reportHere n r
  else s.turnReport n r

/-- The reports that wait, each with its place, but for those behind one for the same ring. -/
def State.reportHeads (s : State) : List (Report × Nat) :=
  s.fab.reports.zipIdx.filter fun e => (s.fab.reports.take e.2).all fun r => s.reportRing r != s.reportRing e.1

/-- R440, R441: the oldest report that can be delivered is; those for one ring go in their order. -/
def execFaultReport (s : State) : Next :=
  .next ((s.reportHeads.findSome? fun e => let t := s.deliverReport e.2 e.1; if t = s then none else some t).getD s)

/-! Replies. -/

/-- The registers of a strand, in its bank or in its workspace. -/
def State.ctxOf (s : State) (a : StrandAt) : Ctx :=
  match s.inWorkspace a with
  | some loc => Ctx.ofWords fun i => leWord (getBytes s.mem (loc + 8 * i) 8)
  | none => (s.strand a).ctx

/-- A strand is PARKED (R84). -/
def State.parked (s : State) (a : StrandAt) : Bool := (s.regionWord a 74).getLsbD 1

/-- The strand that a reply to a report reaches: the one that it was made for, parked, or damaged. -/
def State.strandOfReport (s : State) (r : Report) : Option StrandAt :=
  (s.findStrand r.who).filter fun a =>
    if r.kind = 5 then (s.strand a).st == .damaged else (s.strand a).st != .damaged && s.parked a

/-- The stop PC of a strand's core follows a move of its pc (R321). -/
def State.stopPcFollows (s : State) (a : StrandAt) : State :=
  match a with
  | .bank k b => s.skidPc k b
  | .saved _ _ => s

/-- RESUME and SKIP of a parked strand (R95). After a double trap it goes on in its handler; else as ERET from its second line, which clears tstat.H (R94). -/
def State.resumeStrand (s : State) (a : StrandAt) (skip : Bool) : State :=
  let kept : Word := if (s.strand a).dbl.isSome then 0xFFFFFFFFFFFFFFFD else 0xFFFFFFFFFFFFFFFC
  let s1 := s.setRegionWord a 74 (s.regionWord a 74 &&& kept)
  match (s1.strand a).dbl with
  | some d =>
    let x := { s1.strand a with
      dbl := none, replay := none, pc := if skip then d.pc + 4 else d.pc, endDue := skip && (s1.ctxOf a).atEnd d.pc }
    (s1.setStrand a x).stopPcFollows a
  | none =>
    let s2 := if skip then s1.setRegionWord a 67 (s1.regionWord a 67 ||| 0x8000000) else s1
    let x := s2.strand a
    let y := { x with ctx := s2.ctxOf a }.returns
    (s2.setStrand a { y with ctx := x.ctx }).stopPcFollows a

/-- A binding word that an EDIT wrote in a bank is loaded again (R226). -/
def Bank.rebind (b : Bank) (i : Nat) : Bank :=
  if 96 ≤ i ∧ i < 104 then
    { b with ctx := b.ctx.setWord i (bindLoad (b.ctx.word i)), plane := b.plane.setIfInBounds (i - 96) none }
  else b

/-- EDIT of one word of the register region (R95). In tstat it changes H alone: the strand stays PARKED, and a DAMAGED one damaged. -/
def State.editWord (s : State) (a : StrandAt) (off : Nat) (x : Word) : State :=
  let old := s.regionWord a 74
  let x := if off / 8 = 74 then (old &&& 6) ||| (x &&& 1) else x
  let s1 := s.setRegionWord a (off / 8) x
  match s.inWorkspace a with
  | some _ => s1
  | none => s1.setStrand a ((s1.strand a).rebind (off / 8))

/-- EDIT pairs as R442 allows them. -/
def pairsOk (ps : List (Nat × Word)) : Bool := decide (ps.length ≤ 2) && ps.all fun e => e.1 % 8 == 0 && decide (e.1 < regionBytes)

/-- The cluster and command that a report of a stopped command names. -/
def State.stoppedCmd (s : State) (r : Report) : Option (ClusterKey × Cmd) :=
  s.clusters.findSome? fun e =>
    (e.2.cmds.find? fun m => m.st == .stopped && m.who == r.who && m.ptr == r.ptr).map fun m => (e.1, m)

/-- A report no longer awaits a reply. -/
def State.answered (s : State) (r : Report) : State :=
  { s with fab := { s.fab with awaiting := s.fab.awaiting.filter fun q => !(q.tag == r.tag && q.sid == r.sid) } }

/-- A reply to a trap, double trap or restore report. -/
def State.replyStrand (s : State) (r : Report) (code : Nat) (pairs : List (Nat × Word)) : State :=
  match s.strandOfReport r with
  | none => s
  | some a =>
    match code with
    | 1 => if r.kind = 5 then s else (s.answered r).resumeStrand a false
    | 2 => if r.kind = 5 then s else (s.answered r).resumeStrand a true
    | 3 => (s.answered r).endStrand a true
    | 4 => if r.kind = 5 ∨ pairsOk pairs = false then s else pairs.foldl (fun s e => s.editWord a e.1 e.2) s
    | _ => s

/-- A reply to a command report. -/
def State.replyCmd (s : State) (r : Report) (code : Nat) (ptr : Word) : State :=
  if ptr ≠ 0 ∧ ptr ≠ r.ptr then s
  else match s.stoppedCmd r with
    | none => s
    | some (c, m) =>
      match code with
      | 1 => (s.answered r).resumeCmd c m
      | 5 => (s.answered r).discardCmd c m
      | _ => s

/-- A reply (R442): its TAG and sid name a report that awaits one, and its CODE is allowed for the KIND; any other is discarded. -/
def State.applyReply (s : State) (code : Nat) (tag : BitVec 16) (sid ptr : Word) (pairs : List (Nat × Word)) : State :=
  match s.fab.awaiting.find? fun r => r.tag == tag && r.sid == sid with
  | none => s
  | some r =>
    if r.kind = 3 then (if pairs.isEmpty then s.replyCmd r code ptr else s)
    else if ptr = 0 ∧ (code = 4 ∨ pairs.isEmpty = true) then s.replyStrand r code pairs
    else s

/-- A reply record of 64 bytes (R442); one whose other fields are not zero is discarded. -/
def State.applyRecord (s : State) (bs : List Byte) : State :=
  let w := wordsOf bs 8
  let g (i : Nat) : Word := w.getD i 0
  let n := bits (g 3) 0 2
  let pairs := (List.range n).map fun i => ((g (4 + 2 * i)).toNat, g (5 + 2 * i))
  let zeros := bits (g 0) 0 40 == 0 && bits (g 3) 2 62 == 0 && decide (n ≤ 2) &&
    (List.range 4).all fun i => decide (i < 2 * n) || g (4 + i) == 0
  if zeros then s.applyReply (bits (g 0) 56 8) (BitVec.ofNat 16 (bits (g 0) 40 16)) (g 1) (g 2) pairs else s

/-- R95, R251. -/
def execResume (tag : BitVec 16) (sid ptr : Word) (s : State) : Next := .next (s.applyReply 1 tag sid ptr [])

/-- R95. -/
def execSkip (tag : BitVec 16) (sid ptr : Word) (s : State) : Next := .next (s.applyReply 2 tag sid ptr [])

/-- R95. -/
def execKill (tag : BitVec 16) (sid ptr : Word) (s : State) : Next := .next (s.applyReply 3 tag sid ptr [])

/-- R95. -/
def execEdit (tag : BitVec 16) (sid : Word) (pairs : List (Nat × Word)) (s : State) : Next := .next (s.applyReply 4 tag sid 0 pairs)

/-- R251. -/
def execDiscard (tag : BitVec 16) (sid ptr : Word) (s : State) : Next := .next (s.applyReply 5 tag sid ptr [])

end Sys2Proof.Machine
end

