-- ==== Sys2Proof/Machine/Fabric.lean ====
section
/-! DEFINITION. The one-sided operations RWR, RWRS, RRD, RADD and RADDS (R425 to R432), packets at their target (R436), acknowledgements and resends (R423), replies and signal updates (R427, R428), groups (R434), the ports (R422, R450) and time (R439). -/

namespace Sys2Proof.Machine

open Sys2Proof

/-! What a packet does at its target. -/

/-- The view of a packet from a package that entered by a die, under a space id. -/
def fabricView (d : Nat) (spid : BitVec 20) (src : Nat) : View := ⟨d * 1984, spid, 0, .fabric src⟩

/-- How a target answers a packet. -/
inductive Served where
  | wait
  | held (s : State)
  | failed (c : Cause) (d : Nat)
  | ok (s : State) (data : List Byte) (vals : List Word)

/-- Pieces of a range of the target, checked for an access (R436, steps 5 to 7). -/
def State.targetRange (s : State) (v : View) (va n : Nat) (a : Acc) : Chk (List (Nat × Nat)) := s.targetChecks v (.virt va) n a

/-- A write of a packet. -/
def State.packetWrite (s : State) (v : View) (a : Acc) (va : Nat) (bs : List Byte) : Served :=
  match s.targetRange v va bs.length a with
  | .error .wait => .wait
  | .error (.trap c d) => .failed c d
  | .ok ps => .ok (s.store ps bs) [] []

/-- A write of the bytes of an aligned 8-byte word that a mask names, in one piece (R190). -/
def State.packetMasked (s : State) (v : View) (a : Acc) (va : Nat) (m : BitVec 8) (bs : List Byte) : Served :=
  match s.targetRange v va 8 a with
  | .error .wait => .wait
  | .error (.trap c d) => .failed c d
  | .ok ps =>
    let loc := (ps.headD (0, 0)).1
    .ok ((List.range 8).foldl (fun s i => if m.getLsbD i then s.store [(loc + i, 1)] ((bs.drop i).take 1) else s) s) [] []

/-- A read of a packet. -/
def State.packetRead (s : State) (v : View) (va n : Nat) : Served :=
  match s.targetRange v va n .read with
  | .error .wait => .wait
  | .error (.trap c d) => .failed c d
  | .ok ps => .ok s (s.load ps) []

/-- An indivisible update of w bytes: f gives the new value and the flags. -/
def State.packetUpdate (s : State) (v : View) (a : Acc) (va w : Nat) (f : Nat → Nat × Flags) : Served :=
  match s.targetRange v va w a with
  | .error .wait => .wait
  | .error (.trap c d) => .failed c d
  | .ok ps =>
    let old := leNat (s.load ps)
    let r := f old
    .ok (s.store ps (leBytes w r.1)) [] [BitVec.ofNat 64 old, r.2.setWidth 64]

/-- Bytes of an RADD (R429). -/
def rtyBytes : RTy → Nat
  | .s64 | .f64 => 8
  | .s32 | .f32 => 4

/-- The value that an RADD leaves (R429); its flags are discarded. -/
def raddEval (t : RTy) (old x : Nat) : Nat × Flags :=
  match t with
  | .s64 => ((old + x) % 2 ^ 64, 0)
  | .s32 => ((old + x % 2 ^ 32) % 2 ^ 32, 0)
  | .f64 => ((fAdd fmtF64 .rne old x).1, 0)
  | .f32 => ((fAdd fmtF32 .rne old (x % 2 ^ 32)).1, 0)

/-- An update of a fold window that a strand of another package offers (R353, R354): its group is held here under a name of 2^48 and more. One that the unit refuses waits there (R358). -/
def State.packetDet (s : State) (v : View) (va : Nat) (wide : Bool) (x : Word) (desc rank win seq src : Nat) : Served :=
  match s.targetRange v va (if wide then 8 else 4) .farAtomic with
  | .error .wait => .wait
  | .error (.trap c d) => .failed c d
  | .ok ps =>
    let pa := (ps.headD (0, 0)).1
    let key := (src + 1) * 2 ^ 48 + desc % 2 ^ 48
    let g := (s.fold? key).getD ⟨key, v.spid, v.core, [], [], [], [], none⟩
    let wait : Nat × Nat × FoldUpd := (key, win, ⟨pa, wide, rank, seq, x⟩)
    let others := s.foldWaits.filter (· != wait)
    if hbmEnd ≤ pa then .failed .protection 5
    else match s.foldAccept g win ⟨pa, wide, rank, seq, x⟩ with
      | .refused => .held { s with foldWaits := others ++ [wait] }
      | .overlap => .failed .protection 8
      | .accepted s1 => .ok { s1 with foldWaits := others } [] []

/-- 1 added to a signal word of this package for a packet (R427, R436). -/
def State.packetSignal (s : State) (v : View) (a : Acc) (va : Nat) : Served :=
  match s.targetRange v va 8 a with
  | .error .wait => .wait
  | .error (.trap c d) => .failed c d
  | .ok ps =>
    if ps.any fun q => poisoned s.poison q.1 q.2 then .failed .memUncorrectable 0
    else .ok (s.store ps (leBytes 8 ((leNat (s.load ps) + 1) % 2 ^ 64))) [] []

/-- A packet performed. far: it comes from another package, and its writes need F (R336). -/
def State.perform (s : State) (v : View) (far : Bool) (src : Nat) (op : PacketOp) (va : Nat) (bs : List Byte) : Served :=
  let w : Acc := if far then .farWrite else .write
  let u : Acc := if far then .farAtomic else .atomic
  match op with
  | .write | .store => s.packetWrite v w va bs
  | .masked m => s.packetMasked v w va m bs
  | .read n | .load n => s.packetRead v va n
  | .radd t x => s.packetUpdate v u va (rtyBytes t) fun old => raddEval t old x.toNat
  | .atomic op wide x cmp =>
    let n := if wide then 8 else 4
    s.packetUpdate v u va n fun old => (atomEval op (8 * n) old (x.toNat % 2 ^ (8 * n)) (cmp.toNat % 2 ^ (8 * n)), 0)
  | .fadd wide x =>
    if wide then s.packetUpdate v u va 8 fun old => fAdd fmtF64 .rne old x.toNat
    else s.packetUpdate v u va 4 fun old => fAdd fmtF32 .rne old (x.toNat % 2 ^ 32)
  | .detAdd wide x desc rank win seq => s.packetDet v va wide x desc rank win seq src
  | .sig => s.packetSignal v w va
  | .foldClose desc win =>
    let r := s.unitsClose ((src + 1) * 2 ^ 48 + desc % 2 ^ 48) win
    .ok r.1 (leBytes 8 r.2.toNat) []
  | .accept n => match s.targetRange v va n w with
    | .error .wait => .wait
    | .error (.trap c d) => .failed c d
    | .ok _ => .ok s [] []
  | .report ws =>
    if s.ringOn then .ok { s with fab := { s.fab with reports := s.fab.reports ++ [reportOf ws] } } [] []
    else .failed .protection 9

/-! Operations and their failure. -/

/-- R432: the first failure of a one-sided operation is reported; its signal is not updated. An access of an engine or a quad keeps its failure for its maker. -/
def State.failOp (s : State) (id : Nat) (cause d : Nat) : State :=
  match s.fab.ops.find? fun o => o.id == id with
  | none => s
  | some o =>
    if o.failed.isSome then s
    else
      let s1 := s.setOp { o with failed := some (cause, d) }
      if o.ask.isSome then s1
      else s1.report 4 (s.server o.fsrv) o.sid o.who 0 o.spid
        [BitVec.ofNat 64 o.opc, o.da, o.sa, o.amount, o.sig, BitVec.ofNat 64 (d % 256 * 256 + cause % 256)]

/-- Operations of which nothing is left are forgotten, but for an access that its maker has still to hear of. -/
def State.sweepOps (s : State) : State := { s with fab := { s.fab with ops := s.fab.ops.filter fun o => o.out || o.ask.isSome } }

/-- The request of a read has failed: no reply will come. -/
def State.noReplies (s : State) (id : Nat) : State :=
  { s with fab := { s.fab with ops := s.fab.ops.map fun o => if o.id = id ∧ o.opc = 0x72 then { o with due := 0 } else o } }

/-- One packet of an operation is performed or handled. -/
def State.packetDone (s : State) (id : Nat) : State :=
  { s with fab := { s.fab with ops := s.fab.ops.map fun o => if o.id = id then { o with left := o.left - 1 } else o } }

/-! Issue. -/

/-- The operands of a one-sided operation: S(DA), S(SA), S(LN), S(SG), and its code. -/
structure OneSided where
  opc : Nat
  da : Word
  sa : Word
  n : Word
  sg : Word
  deriving DecidableEq, Repr

/-- A signal pointer belongs to the operation. -/
def OneSided.signals (o : OneSided) : Bool := o.opc == 0x71 || o.opc == 0x72 || o.opc == 0x75
def OneSided.isAdd (o : OneSided) : Bool := o.opc == 0x73 || o.opc == 0x75

/-- The remote range of the operation, its local range, and its signal, remote or local. -/
def OneSided.remote (o : OneSided) (t : RTy) : Word × Nat :=
  if o.opc = 0x72 then (o.sa, o.n.toNat) else if o.isAdd then (o.da, rtyBytes t) else (o.da, o.n.toNat)
def OneSided.localRange (o : OneSided) : Option (Word × Nat × Acc) :=
  if o.opc = 0x72 then some (o.da, o.n.toNat, .write) else if o.isAdd then none else some (o.sa, o.n.toNat, .read)

/-- The windows of a local operand (R426). -/
def localWindow (p : Word) : Bool := tagOf p.toNat == 0 || tagOf p.toNat == 1 || tagOf p.toNat == 2 || tagOf p.toNat == 8

/-- Checks 2 to 5 of R426, with the pointers in the order of its table. -/
def State.oneSidedChecks (s : State) (i : Instr) (k : CoreKey) (slate : Bool) (o : OneSided) (t : RTy) : Option Trap :=
  let r := o.remote t
  let bad (p : Word) (n : Nat) (win : Bool) : Bool := !win || (s.place k p.toNat n).isNone
  let remoteSig := o.signals && o.opc != 0x72
  if slate then some ⟨.slateRemote, o.da, 0⟩
  else if (!o.isAdd && (decide (o.n.toNat = 0) || decide (1048576 < o.n.toNat))) || (o.signals && o.sg == 0) then
    some (illegalAt i 23)
  else if o.opc = 0x72 ∧ bad o.da o.n.toNat (localWindow o.da) = true then some ⟨.addrWindow, o.da, 0⟩
  else if bad r.1 r.2 (tagOf r.1.toNat == 9) then some ⟨.addrWindow, r.1, 0⟩
  else if (o.opc = 0x70 ∨ o.opc = 0x71) ∧ bad o.sa o.n.toNat (localWindow o.sa) = true then some ⟨.addrWindow, o.sa, 0⟩
  else if o.opc = 0x72 ∧ bad o.sg 8 (localWindow o.sg) = true then some ⟨.addrWindow, o.sg, 0⟩
  else if remoteSig && (bad o.sg 8 (tagOf o.sg.toNat == 9) || pkgOf o.sg != pkgOf o.da) then some ⟨.addrWindow, o.sg, 0⟩
  else if o.signals && o.sg.toNat % 8 != 0 then some ⟨.align, o.sg, 0⟩
  else if o.isAdd && o.da.toNat % rtyBytes t != 0 then some ⟨.align, o.da, 0⟩
  else none

/-- The pieces of a local range (check 7 of R426). -/
def State.localPieces (s : State) (v : View) (p : Word) (n : Nat) (a : Acc) : Except Act (Place × List (Nat × Nat)) :=
  match s.issueChecks v p.toNat n 1 with
  | .error st => .error (st.act p)
  | .ok pl => match s.targetChecks v pl n a with
    | .error st => .error (st.act p)
    | .ok ps => .ok (pl, ps)

/-- The reply address (R442), and the addresses that only a reply may name (R436). -/
def replyVa : Nat := 0xFFFFFFFFF000

/-- A packet is a reply: an RWR, which has no signal, of exactly 64 bytes at the reply address. -/
def isReply (op : PacketOp) (sig : Option Nat) (va n total : Nat) : Bool :=
  op == .write && sig.isNone && va == replyVa && n == 64 && total == 1

/-- What an operation waits for: where it updates a signal, or carries a reply, every earlier access of the strand that may still be made anew and every operation that is not complete (R197, R428, R443); else an access of the strand to its remote range (R195). -/
def State.opsBefore (s : State) (k : CoreKey) (b : Bank) (o : OneSided) (t : RTy) : Bool :=
  let r := o.remote t
  ((o.signals || (o.opc == 0x70 && vaOf o.da == replyVa && o.n == 64)) && s.relWaits b .dm) ||
    (o.signals && o.opc != 0x72 && s.farBusy k b (.far (pkgOf o.sg) (vaOf o.sg)) 8) ||
    s.farBusy k b (.far (pkgOf r.1) (vaOf r.1)) r.2 || b.heard.any s.delivers

/-- The operation as the fabric holds it, before any packet. -/
def State.newOp (s : State) (k : CoreKey) (b : Fin 2) (o : OneSided) : FabricOp :=
  let bk := s.bank k b
  { id := s.fab.nextOp, sid := s.sid k b, who := bk.id.who, fsrv := bk.id.fsrv, opc := o.opc, da := o.da, sa := o.sa, amount := o.n,
    sig := if o.signals then o.sg else 0, core := k, spid := bk.id.spid, port := 0, handle := 0, key := 0, sent := 0, rest := .held [],
    left := 0, due := 0, failed := none, ask := none, got := [] }

/-- A fault of an operation that is served in this package (R432). -/
def State.failLocal (s : State) (op : FabricOp) (c : Cause) (d : Nat) : State := ((s.addOp op).failOp op.id c.code d).sweepOps

/-- The packets of a payload performed in this package, in ascending address, and the first that fails; none but a reply names the reply address or one above it (R442). -/
def State.performCuts (s : State) (v : View) (va : Nat) (bs : List Byte) : List (Nat × Nat) → Option (Cause × Nat) →
    Option (State × Option (Cause × Nat))
  | [], e => some (s, e)
  | (off, len) :: l, e =>
    if replyVa ≤ va + off then s.performCuts v va bs l (e.orElse fun _ => some (.protection, 10))
    else match s.perform v false 0 .write (va + off) ((bs.drop off).take len) with
    | .wait | .held _ => none
    | .failed c d => s.performCuts v va bs l (e.orElse fun _ => some (c, d))
    | .ok s1 _ _ => s1.performCuts v va bs l e

/-- The accesses of a strand's operation in this package are the fabric's: no WATCH trap is taken for them (R257). -/
def State.fabricSide (s : State) (k : CoreKey) (b : Fin 2) : View := { s.view k b with who := .fabric s.ctl.pkid.toNat }

/-- An operation whose target is this package, once its local ranges have passed (R422). -/
def State.serveHere (s : State) (k : CoreKey) (b : Fin 2) (o : OneSided) (t : RTy) (bs : List Byte) (land sig : Place × List (Nat × Nat)) : Act :=
  let src := s.ctl.pkid.toNat
  let side := s.fabricSide k b
  let v := fabricView (dieOf k) (s.bank k b).id.spid src
  let op := s.newOp k b o
  let signal (s : State) : Option State :=
    match s.packetSignal v .write (vaOf o.sg) with
    | .wait | .held _ => none
    | .failed c d => some (s.failLocal op c d)
    | .ok s1 _ _ => some s1
  if o.opc = 0x72 then
    match s.packetRead v (vaOf o.sa) o.n.toNat with
    | .wait | .held _ => .wait
    | .failed c d => .done (s.failLocal op c d) none none
    | .ok _ data _ =>
      let s1 := (s.served side o.da.toNat land.1 o.n.toNat .write).1.store land.2 data
      .done (s1.signalAdd side o.sg.toNat sig.2 sig.1 1) none none
  else if o.isAdd then
    match s.perform v false src (.radd t o.n) (vaOf o.da) [] with
    | .wait | .held _ => .wait
    | .failed c d => .done (s.failLocal op c d) none none
    | .ok s1 _ _ => if o.signals then (match signal s1 with | none => .wait | some s2 => .done s2 none none) else .done s1 none none
  else if isReply .write (if o.signals then some (vaOf o.sg) else none) (vaOf o.da) o.n.toNat 1 then .done (s.applyRecord bs) none none
  else match s.performCuts v (vaOf o.da) bs (packetCuts (vaOf o.da) o.n.toNat) none with
    | none => .wait
    | some (s1, some (c, d)) => .done (s1.failLocal op c d) none none
    | some (s1, none) => if o.signals then (match signal s1 with | none => .wait | some s2 => .done s2 none none) else .done s1 none none

/-- An operation whose target is another package: one request or add, or a payload, all of it by one port (R422). A payload is read as its packets are copied into the retry store (R427); one that the store does not take at once holds the strand after the instruction (R430). A read waits for its landing slots (R328). -/
def State.serveAway (s : State) (k : CoreKey) (b : Fin 2) (o : OneSided) (t : RTy) (src : List (Nat × Nat)) (g : BitVec 16 × Word) : Act :=
  let r := (o.remote t).1
  match s.portWay (dieOf k) (pkgOf r) with
  | .error st => st.act r
  | .ok j =>
    let op := { s.newOp k b o with port := j, handle := g.1, key := g.2 }
    if o.opc = 0x70 ∨ o.opc = 0x71 then
      let op := { op with rest := .mem src, left := op.cuts.length }
      let s1 := (s.addOp op).copyPayload op
      let waits := s1.fab.ops.any fun e => e.id == op.id && !e.rest.isEmpty
      .done (s1.setBank k b { s1.bank k b with sending := if waits then some op.id else none }) none none
    else
      let op := { op with left := 1, due := if o.opc = 0x72 then o.n.toNat else 0 }
      let sig := if o.opc = 0x75 then some (vaOf o.sg) else none
      let p := if o.opc = 0x72 then packetUnder g op.id 1 none (.read o.n.toNat) (vaOf o.sa) []
        else packetUnder g op.id 1 sig (.radd t o.n) (vaOf o.da) []
      if s.portRoom j p && !s.landFull op.landing then .done ((s.addOp op).sendPacket j (pkgOf r) p) none none else .wait

/-- The local ranges of an operation: the source, or the landing, and the signal, each with its place and pieces. The state is that after the source is read (R257). -/
def State.localOperands (s : State) (k : CoreKey) (b : Fin 2) (o : OneSided) :
    Except Act (State × (Place × List (Nat × Nat)) × (Place × List (Nat × Nat))) := do
  let v := s.view k b
  match o.localRange with
  | none => return (s, (.virt 0, []), (.virt 0, []))
  | some (p, n, a) =>
    let x ← s.localPieces v p n a
    if o.opc = 0x72 then
      let y ← s.localPieces v o.sg 8 .atomic
      return (s, x, y)
    else return ((s.served (s.fabricSide k b) p.toNat x.1 n .read).1, x, (.virt 0, []))

/-- ISSUE of a one-sided operation (R426): the checks in their order, then its effect. -/
def issueOneSided (s : State) (i : Instr) (opc : Nat) (d : WReg) (sr : Option WReg) (n : SReg) (sg : Option WReg) (t : RTy) : Next :=
  let rs := rS d.val ++ (sr.elim [] fun r => rS r.val) ++ rS n.val ++ (sg.elim [] fun r => rS r.val)
  issue s (foot rs []) fun s k b =>
    let bk := s.bank k b
    let o : OneSided := ⟨opc, bk.ctx.s d.val, sr.elim 0 fun r => bk.ctx.s r.val, bk.ctx.s n.val, sg.elim 0 fun r => bk.ctx.s r.val⟩
    match s.oneSidedChecks i k (s.slatePhase k bk) o t with
    | some e => .trap e
    | none =>
      let pkg := pkgOf (o.remote t).1
      if s.opsBefore k bk o t then .wait
      else if pkg = s.ctl.pkid.toNat then
        match s.localOperands k b o with
        | .error a => a
        | .ok (s1, x, sig) => s1.serveHere k b o t (s1.load x.2) x sig
      else match s.groupOf bk.id.spid with
        | none => .trap ⟨.protection, (o.remote t).1, 9⟩
        | some g =>
          if !groupHas g pkg then .trap ⟨.protection, (o.remote t).1, 9⟩
          else match s.localOperands k b o with
            | .error a => a
            | .ok (s1, x, _) => s1.serveAway k b o t x.2 (groupHandle g, vget g.words 0 1)

/-- R427. -/
def execRwr (d r : WReg) (n : SReg) (s : State) : Next := issueOneSided s (.rwr d r n) 0x70 d (some r) n none .s64

/-- R427. -/
def execRwrs (d r : WReg) (n : SReg) (g : WReg) (s : State) : Next := issueOneSided s (.rwrs d r n g) 0x71 d (some r) n (some g) .s64

/-- R428. -/
def execRrd (d r : WReg) (n : SReg) (g : WReg) (s : State) : Next := issueOneSided s (.rrd d r n g) 0x72 d (some r) n (some g) .s64

/-- R429. -/
def execRadd (d : WReg) (n : SReg) (t : RTy) (s : State) : Next := issueOneSided s (.radd d n t) 0x73 d none n none t

/-- R429. -/
def execRadds (d : WReg) (n : SReg) (g : WReg) (t : RTy) (s : State) : Next := issueOneSided s (.radds d n g t) 0x75 d none n (some g) t

/-! Ingress (R436). -/

/-- The die by which a packet of another package enters: that of the like-numbered port (log 30). -/
def ingressDie (p : Packet) : Nat := p.port / 9 % 4

/-- The open entry of a handle, with its index. -/
def State.groupByHandle (s : State) (h : BitVec 16) : Option (Nat × GroupEntry) :=
  s.fab.groups.find? fun e => groupOpen e.2 && groupHandle e.2 == h

/-- REFUSED of an entry counts, saturating (R436). -/
def State.countRefused (s : State) (g : Nat) : State :=
  { s with fab := { s.fab with groups := s.fab.groups.map fun e =>
      if e.1 = g then (e.1, { e.2 with words := e.2.words.set 11 (BitVec.ofNat 64 (min (bits e.2.words[11] 0 32 + 1) (2 ^ 32 - 1))) })
      else e } }

/-- What is handed to the reply channel. -/
def State.say (s : State) (m : OutMsg) : State := { s with fab := { s.fab with out := s.fab.out ++ [m] } }

/-- A packet has been acted on: a repeat of it is discarded (R423). -/
def State.actedOn (s : State) (p : Packet) : State := { s with fab := { s.fab with seen := s.fab.seen ++ [(p.src, p.port, p.seq)] } }

/-- The operation of a packet, among those that have still to update a signal here. -/
def InOp.ofPacket (e : InOp) (src opId : Nat) : Bool := e.src == src && e.opId == opId
def State.dropIn (s : State) (src opId : Nat) : State :=
  { s with fab := { s.fab with inOps := s.fab.inOps.filter fun e => !e.ofPacket src opId } }

/-- The answer to a packet that has been acted on. Where an operation updates a signal here, the packet that completes it is answered by the update, which is made if none has failed (R427, R432). -/
def State.answer (s : State) (p : Packet) (r : AckReply) : State :=
  let s1 := s.actedOn p
  let told := s1.say (.ack p.src p.port p.seq r)
  match p.sigVa with
  | none => told
  | some va =>
    let old := (s.fab.inOps.find? fun e => e.ofPacket p.src p.opId).getD ⟨p.src, p.opId, p.handle, p.key, p.total, false, some va, none⟩
    let new := { old with left := old.left - 1, failed := old.failed || r != .performed }
    let hold (t : State) (e : InOp) : State := { t with fab := { t.fab with inOps := (t.dropIn p.src p.opId).fab.inOps ++ [e] } }
    if new.left ≠ 0 then hold told new
    else if new.failed then told.dropIn p.src p.opId
    else hold s1 { new with last := some (p.port, p.seq) }

/-- A packet refused or failed at its target. -/
def State.refuse (s : State) (p : Packet) (c : Cause) (d : Nat) : State := s.answer p (.failed c.code d)

/-- Replies to a request: the data of an RRD in packets of at most 256 bytes, or the values of a plain access. -/
def State.reply (s : State) (p : Packet) (data : List Byte) (vals : List Word) : State :=
  match p.op with
  | .read n => (packetCuts 0 n).foldl (fun s c => s.say (.data p.src p.opId c.1 ((data.drop c.1).take c.2))) s
  | .foldClose _ _ => s.say (.data p.src p.opId 0 data)
  | .load n => s.say (.value p.src p.port p.seq [zext (8 * n) (leNat data)])
  | .atomic _ _ _ _ | .fadd _ _ => s.say (.value p.src p.port p.seq vals)
  | _ => s

/-- R436: a packet from another package is checked and performed, once. -/
def execPacketIngress (p : Packet) (s : State) : Next :=
  if s.fab.up = 0 ∨ p.src = s.ctl.pkid.toNat ∨ s.fab.seen.contains (p.src, p.port, p.seq) = true then .next s
  else match s.groupByHandle p.handle with
    | none => .next (s.refuse p .protection 9)
    | some (i, g) =>
      if vget g.words 0 1 ≠ p.key ∨ groupHas g p.src = false then .next ((s.countRefused i).refuse p .protection 9)
      else if isReply p.op p.sigVa p.va p.data.length p.total then .next ((s.applyRecord p.data).answer p .performed)
      else if replyVa ≤ p.va then .next (s.refuse p .protection 10)
      else match s.perform (fabricView (ingressDie p) (groupSpid g) p.src) true p.src p.op p.va p.data with
        | .wait => .next s
        | .held s1 => .next s1
        | .failed c d => .next (s.refuse p c d)
        | .ok s1 data vals => .next ((s1.reply p data vals).answer p .performed)

/-- R427, R429: once every packet of an operation is performed, its signal gains 1, under the entry of its handle as it then stands (R437): the checks of R436 are made for it, and the packet that completed the operation is answered with what comes of them (R432). -/
def execRemoteSignalUpdate (src opId : Nat) (s : State) : Next :=
  match s.fab.inOps.find? fun e => e.ofPacket src opId with
  | none => .next s
  | some e => match e.last, e.sigVa with
    | some (port, seq), some va =>
      let tell (t : State) (r : AckReply) : Next := .next ((t.dropIn src opId).say (.ack src port seq r))
      match s.groupByHandle e.handle with
      | none => tell s (.failed Cause.protection.code 9)
      | some (i, g) =>
        if vget g.words 0 1 ≠ e.key ∨ groupHas g src = false then tell (s.countRefused i) (.failed Cause.protection.code 9)
        else if replyVa ≤ va then tell s (.failed Cause.protection.code 10)
        else match s.packetSignal (fabricView (port / 9 % 4) (groupSpid g) src) .farWrite va with
          | .wait | .held _ => .next s
          | .failed c d => tell s (.failed c.code d)
          | .ok s1 _ _ => tell s1 .performed
    | _, _ => .next s

/-! At the issuer (R423, R428, R432). -/

/-- A report that another package does not take goes to the host (R441); one that awaits its reply is the same report still, with the strand and the command pointer that it was made for. -/
def State.reportBack (s : State) (ws : List Word) : State :=
  let r := reportOf ws
  let same (q : Report) : Bool := q.tag == r.tag && q.sid == r.sid
  { s with fab := { s.fab with
      reports := s.fab.reports ++ [((s.fab.awaiting.find? same).getD r).toHost]
      awaiting := s.fab.awaiting.filter fun q => !same q } }

/-- The packets of each plain access of a bank, lane by lane. -/
def Bank.packets (b : Bank) : List (List Nat) := b.pend.map Pending.pkts ++ b.store.toList.map StoreHeld.pkts

/-- The bank of a plain access that a packet belongs to. -/
def State.packetBank (s : State) (id : Nat) : Option (CoreKey × Fin 2) :=
  s.cores.findSome? fun e =>
    if e.2.b0.packets.any (·.contains id) then some (e.1, 0)
    else if e.2.b1.packets.any (·.contains id) then some (e.1, 1) else none

/-- A lower lane of the access that a packet belongs to is not acknowledged: the lowest lane that fails decides (R165), and this one's failure is not heard yet. -/
def State.lowerOut (s : State) (id : Nat) : Bool :=
  match s.packetBank id with
  | none => false
  | some (k, b) =>
    let ids := (((s.bank k b).packets.find? (·.contains id)).getD []).takeWhile (· != id)
    s.fab.retry.any fun q => ids.contains q.pkt.opId

/-- A plain access fails by one of its packets: late for a load or an atomic, at the store for a store (R446), where the lowest lane that fails decides (R165). -/
def State.accessFails (s : State) (id c d : Nat) : State :=
  match s.packetBank id with
  | none => s
  | some (k, b) =>
    let bk := s.bank k b
    match bk.pend.zipIdx.find? fun e => e.1.pkts.contains id with
    | some (p, n) =>
      let lane := match p.far with
        | some (.vector _ _ lanes _ _) => ((lanes[p.pkts.idxOf id]?).map (·.1)).getD 0
        | _ => 0
      match p.far with
      | some u =>
        let r := u.settle p.late p.ptr (.failed lane c d)
        (s.farAnswered p.pkts).writesBack k b n p r.1 r.2.1 r.2.2
      | none => s
    | none => match bk.store with
      | some h => s.acceptStep k b h (some (.failed (((s.lanesAway k h)[h.pkts.idxOf id]?).elim 0 (·.1)) c d))
      | none => s

/-- A packet leaves its retry store, performed or failed, and makes room for what waits. The failure of a plain access is heard with its packet still there: where a lower lane has still to be judged, nothing changes. -/
def State.settle (s : State) (q : RetryPkt) (r : AckReply) : State :=
  let s1 := { s with fab := { s.fab with retry := s.fab.retry.filter fun x => !(x.port == q.port && x.seq == q.seq) } }
  let id := q.pkt.opId
  match r, q.pkt.op with
  | .performed, _ => ((s1.packetDone id).sweepOps).pump
  | .failed _ _, .report ws => (s1.reportBack ws).pump
  | .failed c d, _ =>
    if s1.fab.ops.any fun o => o.id == id then ((((s1.packetDone id).noReplies id).failOp id c d).sweepOps).pump
    else if (s1.packetBank id).isNone then s1.pump
    else s.accessFails id c d

/-- The packet of a retry store that an answer concerns: it has been sent (R399). -/
def State.retryAt (s : State) (port seq : Nat) : Option RetryPkt :=
  s.fab.retry.find? fun q => q.port == port && q.seq == seq && q.sends != 0

/-- R423. -/
def execPacketAck (port seq : Nat) (r : AckReply) (s : State) : Next :=
  match s.retryAt port seq with
  | none => .next s
  | some q => if r ≠ .performed ∧ s.lowerOut q.pkt.opId then .next s else .next (s.settle q r)

/-- R423: a packet is sent again, or after the last send its path is down for the operation. -/
def execPacketResend (port seq : Nat) (s : State) : Next :=
  match s.retryAt port seq with
  | none => .next s
  | some q =>
    if q.sends < s.fab.nsend.toNat then
      .next { s with fab := { s.fab with retry := s.fab.retry.map fun x =>
        if x.port = port ∧ x.seq = seq then { x with sends := x.sends + 1 } else x } }
    else if s.lowerOut q.pkt.opId then .next s
    else .next (s.settle q (.failed Cause.linkDown.code 0))

/-- R428: a reply packet of an RRD lands in the issuer's view; after the last, where none has failed, the local signal gains 1 (R432). The bytes of a read that an engine or a quad has asked for are kept for it. -/
def execRrdReply (opId off : Nat) (bs : List Byte) (s : State) : Next :=
  match s.fab.ops.find? fun o => o.id == opId with
  | none => .next s
  | some o =>
    if o.opc ≠ 0x72 ∨ s.farLeft [opId] = false ∨ bs = [] ∨ o.due < bs.length ∨ o.amount.toNat < off + bs.length then .next s
    else
      let v : View := ⟨o.core, o.spid, o.sid, .fabric (pkgOf o.sa)⟩
      let o1 := { o with due := o.due - bs.length }
      let fails (t : State) (c : Cause) (d : Nat) : Next := .next (((t.setOp o1).failOp opId c.code d).sweepOps)
      if o.ask.isSome then .next (s.setOp { o1 with got := o.got ++ [(off, bs)] })
      else match s.writeAt v (o.da.toNat + off) 1 bs with
      | .error .wait => .next s
      | .error (.trap c d) => fails s c d
      | .ok s1 =>
        if o1.due ≠ 0 ∨ o.failed.isSome = true then .next ((s1.setOp o1).sweepOps)
        else match s1.place o.core o.sig.toNat 8 with
          | none => fails s1 .addrWindow 0
          | some pl => match s1.targetChecks v pl 8 .atomic with
            | .error .wait => .next s
            | .error (.trap c d) => fails s1 c d
            | .ok ps => .next (((s1.setOp o1).signalAdd v o.sig.toNat ps pl 1).sweepOps)

/-! Registers of the fabric block. -/

/-- Writable bits of the words of a group entry (R434). -/
def groupMask (i : Nat) : Word :=
  if i = 0 then 0x8000FFFF000FFFFF else if i < 11 then 0xFFFFFFFFFFFFFFFF else 0

/-- Another open entry has the handle or the space id. -/
def State.groupClash (s : State) (g : Nat) (e : GroupEntry) : Bool :=
  groupOpen e && s.fab.groups.any fun f => f.1 != g && groupOpen f.2 && (groupHandle f.2 == groupHandle e || groupSpid f.2 == groupSpid e)

/-- R434, R437. -/
def execGroupEntryWrite (g : Fin 256) (i : Fin 16) (v : Word) (s : State) : Next :=
  let e : GroupEntry := lookupD ⟨Vector.replicate 16 0⟩ s.fab.groups g.val
  let x : GroupEntry := ⟨e.words.set i (v &&& groupMask i.val)⟩
  if 11 ≤ i.val ∨ (groupOpen e = true ∧ (i.val ≠ 0 ∨ groupOpen x = true)) ∨ s.groupClash g.val x = true then .next s
  else .next { s with fab := { s.fab with groups := insertKey g.val x s.fab.groups } }

/-- R450: a port whose EN is cleared goes down. -/
def execFctlWrite (v : Word) (s : State) : Next :=
  let en : BitVec 36 := v.setWidth 36
  .next { s with fab := { s.fab with en := en, up := s.fab.up &&& en } }

/-- R450. -/
def execGalrilFPortUp (j : Fin 36) (s : State) : Next :=
  if s.fab.en.getLsbD j.val then .next { s with fab := { s.fab with up := s.fab.up ||| BitVec.ofNat 36 (2 ^ j.val) } } else .next s

/-- R422. -/
def execGalrilFPortDown (j : Fin 36) (s : State) : Next :=
  .next { s with fab := { s.fab with up := s.fab.up &&& ~~~(BitVec.ofNat 36 (2 ^ j.val)) } }

/-- R439: a package that is not the source takes the measured offset. stayed: the offset has not left ±20 ns since the last message; SYNC falls when it has. -/
def execSyncMessage (off : BitVec 32) (stayed : Bool) (s : State) : Next :=
  if s.fab.master then .next s
  else
    let near := stayed && decide (-20 ≤ off.toInt) && decide (off.toInt ≤ 20)
    let n := if near then max 1 s.fab.inSync else 0
    .next { s with fab := { s.fab with off := off, inSync := n, sync := s.fab.sync && near } }

end Sys2Proof.Machine
end

