-- ==== Sys2Proof/Machine/Probe.lean ====
section
/-! DEFINITION. The stall watch and the probes (R313 to R318). -/

namespace Sys2Proof.Machine

open Sys2Proof

/-! Waiting strands (R313, R317). -/

/-- No gang result is held for a strand: its gang event has not occurred. A spill withdraws the offer, and the strand waits on (R313). -/
def State.gangWaits (s : State) (k : CoreKey) (w : StrandId) : Bool :=
  !((s.clu (clusterOf k)).gangOffers.toList.any fun o => match o with
    | some g => g.who == w && g.result.isSome
    | none => false)

/-- No fuse result is held for a strand, and it takes no part in a fusion (R346). -/
def State.fuseWaits (s : State) (k : CoreKey) (w : StrandId) : Bool :=
  let q := quadOf (clusterOf k)
  !((s.quad q.1 q.2).offers.any fun e => e.2.who == w && ((s.quad q.1 q.2).fused || e.2.result.isSome))

/-- A strand is waiting under R313, and the detail of its EV_DEADLOCK (R316): blocked with nothing that has occurred, swapped out or not. -/
def State.waitsIn (s : State) (a : StrandAt) : Option Nat :=
  let x := s.strand a
  let w := x.id.who
  if (s.findEntry a fun e => e.st == 2 || e.st == 3 || e.st == 4).isSome then none
  else match x.wait with
    | some .choose => some 0
    | some .gang | some .gangAgain => if s.gangWaits a.core w then some 1 else none
    | some .fuse | some .fuseAgain => if s.fuseWaits a.core w then some 2 else none
    | _ => none

/-- A strand stalls in a completion wait (R317). -/
def Bank.completionWait (b : Bank) : Bool := b.wait.elim false WaitKind.completion

/-- An event that a strand waits on: a slot with its handle, the gang event of a core's cluster, the fuse event of its quad. -/
inductive WaitsOn where
  | slot (h : Home) (n hd : Nat)
  | gang (k : CoreKey)
  | fuse (k : CoreKey)
  deriving DecidableEq, Repr

/-- The events of a waiting strand (R314). -/
def State.waitEvents (s : State) (a : StrandAt) : List WaitsOn :=
  let es := (List.range 8).filterMap fun i =>
    let e := s.entry a i
    if e.st = 1 then (s.live e.handle).map fun x => WaitsOn.slot x.1 x.2 e.handle else none
  es ++ (match s.waitsIn a with
    | some 1 => [.gang a.core]
    | some 2 => [.fuse a.core]
    | _ => [])

def WaitsOn.handle : WaitsOn → Nat
  | .slot _ _ hd => hd
  | _ => 0

/-- The strand in a core's active bank. -/
def State.activeStrand (s : State) (k : CoreKey) : List StrandId :=
  let x := (s.core k).bank (s.core k).ab
  if x.holds then [x.id.who] else []

/-- The missing strand participants of an event; of a wired one, the active strands of the partner cores that have not offered (R314). -/
def State.missing (s : State) : WaitsOn → List StrandId
  | .slot h n hd => (s.slot h n).strands.filter fun w => !s.strandOffers hd w
  | .gang k => (((List.range 4).map (s.coreAt (clusterOf k))).filter (· != k) |>.flatMap s.activeStrand).filter fun w =>
      !((s.clu (clusterOf k)).gangOffers.toList.any fun o => match o with | some g => g.who == w && g.result.isNone | none => false)
  | .fuse k =>
    let (d, pq) := quadOf (clusterOf k)
    (((List.range 16).map (s.quadCoreAt d pq)).filter (· != k) |>.flatMap s.activeStrand).filter fun w =>
      !((s.quad d pq).offers.any fun e => e.2.who == w && e.2.result.isNone)

/-- The missing signal participants of an event. -/
def State.missingSignals (s : State) : WaitsOn → List Signal
  | .slot h n _ => ((s.slot h n).sigs.map (·.2)).filter fun x => !s.signalOffers x
  | _ => []

/-! What can still change a signal (R315). -/

/-- The commands of a cluster can name a place: an SRAM is named only by its own (R160). -/
def Place.inReach (pl : Place) (c : ClusterKey) : Bool := match pl with | .sram d _ => d == c | _ => true

/-- A command in flight writes the word of a signal. -/
def State.commandHits (s : State) (x : Signal) : Bool :=
  match s.place x.core x.ptr.toNat 8 with
  | none => false
  | some pl => s.clusters.any fun e => pl.inReach e.1 && e.2.locks.toList.any fun l => match l with
      | some l => l.dst && l.hits (s.canon pl) 8 x.spid
      | none => false

/-- A place of n bytes under a space id meets one of m bytes under another. -/
def Place.meets (a : Place) (n : Nat) (sa : BitVec 20) (b : Place) (m : Nat) (sb : BitVec 20) : Bool :=
  match a, b with
  | .spad k x, .spad j y => k == j && rangesMeet x n y m
  | .sram c x, .sram e y => c == e && rangesMeet x n y m
  | .virt x, .virt y => sa == sb && rangesMeet x n y m
  | .far p x, .far q y => p == q && rangesMeet x n y m
  | _, _ => false

/-- A remote operation in flight updates the word: the landing or signal of an RRD, or a signal that packets are to update. Pointers are compared by what they name (R162). -/
def State.remoteHits (s : State) (x : Signal) : Bool :=
  match s.place x.core x.ptr.toNat 8 with
  | none => false
  | some pl =>
    let hits (o : FabricOp) (p n : Nat) : Bool := (s.place o.core p n).any fun q => pl.meets 8 x.spid q n o.spid
    (s.fab.ops.any fun o => o.opc == 0x72 && o.failed.isNone && (hits o o.sig.toNat 8 || hits o o.da.toNat o.amount.toNat)) ||
    (s.fab.inOps.any fun o => !o.failed && o.sigVa.any (fun va => pl == .virt va) &&
      (s.fab.groups.any fun g => groupOpen g.2 && groupHandle g.2 == o.handle && groupSpid g.2 == x.spid))

/-- The word is writable over the fabric under an open key; a link that retrains does not change that. -/
def State.fabricWritable (s : State) (x : Signal) : Bool :=
  match s.place x.core x.ptr.toNat 8 with
  | some (.virt va) => (s.groupOf x.spid).isSome && (match s.settled.translate (dieOf x.core) x.spid va with
      | .ok (_, perm) => perm.getLsbD 1 && perm.getLsbD 3
      | .error _ => false)
  | _ => false

/-- A strand of a space id that is not of the set, not waiting, and bound or PARKED. -/
def State.freeActor (s : State) (spid : BitVec 20) (set : List StrandId) : Bool :=
  (s.cores.flatMap fun e => s.strandsOf e.1).any fun a =>
    let x := s.strand a
    x.id.spid == spid && !set.contains x.id.who && (s.waitsIn a).isNone && !x.completionWait &&
      ((match a with | .bank _ _ => true | .saved _ _ => false) || s.parked a)

/-- A command that is queued or running names the event (R72). -/
def State.commandNames (s : State) (hd : Nat) : Bool :=
  s.clusters.any fun e => e.2.cmds.any fun m =>
    CmdWords.evv m.words && (m.st == .queued || m.st == .running || m.st == .finished) &&
      s.handleOf (.cluster e.1) (CmdWords.evs m.words) (CmdWords.evg m.words) == hd

def State.canChange (s : State) (x : Signal) (hd : Nat) (spid : BitVec 20) (set : List StrandId) : Bool :=
  (x.ptr != 0 && (s.commandHits x || s.remoteHits x || s.fabricWritable x)) || s.freeActor spid set || (x.ptr == 0 && s.commandNames hd)

/-! The growth of the set (R314). -/

/-- Why a probe ends with EV_STALL: strands in the set, reason, handle, sid of the missing strand, signal pointer. -/
structure StallEnd where
  n : Nat
  reason : Nat
  handle : Nat
  sid : Word
  ptr : Word
  deriving DecidableEq, Repr

/-- The strand participants of an event that join the set, or the one that is not waiting. -/
def State.scanStrands (s : State) (hd : Nat) : List StrandId → List StrandId → Except StallEnd (List StrandId)
  | set, [] => .ok set
  | set, w :: l =>
    match s.findStrand w with
    | none => .error ⟨set.length, 1, hd, 0, 0⟩
    | some a =>
      if (s.waitsIn a).isSome then s.scanStrands hd (if set.contains w then set else set ++ [w]) l
      else .error ⟨set.length, 1, hd, s.sidOf a, 0⟩

/-- The events of a member examined. -/
def State.scanEvents (s : State) (spid : BitVec 20) : List StrandId → List WaitsOn → Except StallEnd (List StrandId)
  | set, [] => .ok set
  | set, e :: l =>
    let ready : Bool := match e with | .slot h n _ => (s.slot h n).ready | _ => false
    if ready then .error ⟨set.length, 3, e.handle, 0, 0⟩
    else match s.scanStrands e.handle set (s.missing e) with
      | .error x => .error x
      | .ok set1 =>
        match (s.missingSignals e).find? fun x => s.canChange x e.handle spid set1 with
        | some x => .error ⟨set1.length, 2, e.handle, 0, x.ptr⟩
        | none => s.scanEvents spid set1 l

/-- One pass over the set. -/
def State.scanSet (s : State) (spid : BitVec 20) : List StrandId → List StrandId → Except StallEnd (List StrandId)
  | set, [] => .ok set
  | set, w :: l =>
    match s.findStrand w with
    | none => .error ⟨set.length, 1, 0, 0, 0⟩
    | some a => match s.scanEvents spid set (s.waitEvents a) with
      | .error x => .error x
      | .ok set1 => s.scanSet spid set1 l

/-- The set grown until it grows no more; n bounds the passes. -/
def State.growSet (s : State) (spid : BitVec 20) : Nat → List StrandId → Except StallEnd (List StrandId)
  | 0, set => .ok set
  | n + 1, set => match s.scanSet spid set set with
    | .error x => .error x
    | .ok set1 => if set1.length = set.length then .ok set1 else s.growSet spid n set1

/-- Strands of the package. -/
def State.strandCount (s : State) : Nat := (s.cores.map fun e => (s.strandsOf e.1).length).sum

def State.probeSet (s : State) (a : StrandAt) : Except StallEnd (List StrandId) :=
  s.growSet (s.strand a).id.spid (s.strandCount + 1) [(s.strand a).id.who]

/-- What the probe reads of a member. -/
def State.memberView (s : State) (w : StrandId) : MemberView :=
  match s.findStrand w with
  | none => ⟨w, [], none, []⟩
  | some a =>
    let word (x : Signal) : Option Nat := match s.signalRead x with | .ok v => some v | .error _ => none
    ⟨w, (List.range 16).map fun i => s.regionWord a (80 + i), (s.strand a).wait,
      ((s.waitEvents a).flatMap s.missingSignals).map fun x => (x, word x)⟩

/-- The homes of the events that members wait on. -/
def State.homesExamined (s : State) (set : List StrandId) : List Home :=
  (set.flatMap fun w => match s.findStrand w with
    | none => []
    | some a => (s.waitEvents a).filterMap fun e => match e with | .slot h _ _ => some h | _ => none).eraseDups

/-! Reports (R318). -/

def State.probeOf (s : State) : Home → Probe
  | .die d => (s.die d).probe
  | _ => s.probe

def State.setProbe (s : State) (h : Home) (p : Probe) : State :=
  match h with
  | .die d => s.setDie d { s.die d with probe := p }
  | _ => { s with probe := p }

/-- A record written at NEXT; one that the host has not read is lost. -/
def Probe.write (p : Probe) (ws : List Word) : Probe :=
  let old := (p.records[p.next]).getD 0 0
  let lost := bits old 56 7 ≠ 0 ∧ old.getLsbD 63 = false
  { p with records := p.records.set p.next ws, next := p.next + 1
           lost := if lost then BitVec.ofNat 8 (min (p.lost.toNat + 1) 255) else p.lost }

/-- A report of a probe: the record, the copy to the flagged strand's server, MSI-X vector 2. -/
def State.probeReport (s : State) (h : Home) (a : StrandAt) (kind n reason : Nat) (hd : Nat) (sid ptr : Word) : State :=
  let x := s.strand a
  let me := s.sidOf a
  let ws : List Word := [BitVec.ofNat 64 (kind * 2 ^ 56 + n * 2 ^ 40 + reason), me, s.tick, BitVec.ofNat 64 hd, sid, ptr, 0, 0]
  let s1 := s.setProbe h ((s.probeOf h).write ws)
  (s1.report 6 (s1.server x.id.fsrv) me x.id.who 0 x.id.spid ws).raiseMsix 2

/-- The pointer that a REASON 5 record holds (R317). -/
def State.stallPtr (s : State) (a : StrandAt) : Word :=
  let x := s.strand a
  match x.wait with
  | some .foldmark => setBits (s.regionWord a 53) 0 6 0
  | some .phase => (((s.clu (clusterOf a.core)).cmds.find? fun m => m.who == x.id.who && m.live).map Cmd.ptr).getD 0
  | _ => 0

/-! The steps. -/

/-- The probe that a strand's flag goes to (R313). -/
def State.probeHome (s : State) (a : StrandAt) : Home :=
  if (s.waitEvents a).any fun e => match e with | .slot .package _ _ => true | _ => false then .package else .die (dieOf a.core)

/-- A strand stands in the set of a probe that runs (R314). -/
def State.inProbe (s : State) (w : StrandId) : Bool :=
  (s.probe :: s.dies.toList.map Die.probe).any fun p => p.pending.any fun v => v.set.contains w || v.flagged == w

/-- R313: the wait time of a strand has passed WINT; it is flagged once for the wait, and its flag goes to the enabled probe, or is absorbed by one that runs (R314). -/
def execStallFlag (ln : BitVec 16) (lid : BitVec 32) (s : State) : Next :=
  match s.findStrand ⟨ln, lid⟩ with
  | none => .next s
  | some a =>
    let x := s.strand a
    if x.flagged || (s.clu (clusterOf a.core)).evwatch == 0 || ((s.waitsIn a).isNone && !x.completionWait) then .next s
    else
      let s1 := s.setStrand a { x with flagged := true, flagSeen := false }
      let h := s1.probeHome a
      let p := s1.probeOf h
      if !p.en || s1.inProbe x.id.who then .next s1
      else .next (s1.setProbe h { p with pending := p.pending ++ [⟨x.id.who, [], [], []⟩] })

/-- A flag leaves a probe. -/
def State.dropFlag (s : State) (h : Home) (w : StrandId) : State :=
  s.setProbe h { s.probeOf h with pending := (s.probeOf h).pending.filter fun v => v.flagged != w }

/-- R314: a probe examines the set of a flagged strand: it reports a stall, or reads the states again after one resolution. -/
def execProbe (h : Home) (ln : BitVec 16) (lid : BitVec 32) (s : State) : Next :=
  let w : StrandId := ⟨ln, lid⟩
  match (s.probeOf h).pending.find? fun v => v.flagged == w && v.set.isEmpty, s.findStrand w with
  | none, _ => .next s
  | some _, none => .next (s.dropFlag h w)
  | some _, some a =>
    if (s.dropFlag h w).inProbe w then .next (s.dropFlag h w)
    else if (s.strand a).completionWait then .next ((s.dropFlag h w).probeReport h a 1 1 5 0 0 (s.stallPtr a))
    else if (s.waitsIn a).isNone then .next (s.dropFlag h w)
    else match s.probeSet a with
      | .error e => .next ((s.dropFlag h w).probeReport h a 1 e.n e.reason e.handle e.sid e.ptr)
      | .ok set =>
        let p := s.probeOf h
        let v : ProbeView := ⟨w, set, set.map s.memberView, s.homesExamined set⟩
        .next (s.setProbe h { p with pending := p.pending.map fun x => if x.flagged = w then v else x })

/-- EV_DEADLOCK at a member (R316). -/
def State.deadlock (s : State) (w : StrandId) : State :=
  match s.findStrand w with
  | none => s
  | some a => match s.waitsIn a with
    | none => s
    | some d =>
      let hd := ((s.findEntry a fun e => e.st != 0).map fun i => (s.entry a i).handle).getD 0
      let t : Trap := ⟨.evDeadlock, BitVec.ofNat 64 hd, BitVec.ofNat 8 d⟩
      let s1 := (s.withdrawGang (clusterOf a.core) w false).withdrawFuse a.core w false
      let x := s1.strand a
      match a with
      | .bank k b =>
        if x.st = .bound then (s1.setBank k b { x with wait := none, flagged := false }).trapNow k b t
        else s1.setStrand a { x with wait := none, flagged := false, trapped := [x.trapRec (x.nIssued + 1) t], nIssued := x.nIssued + 1 }
      | .saved _ _ =>
        s1.setStrand a { x with wait := none, flagged := false, trapped := [x.trapRec (x.nIssued + 1) t], nIssued := x.nIssued + 1 }

/-- The lowest sid of a set. -/
def State.lowestSid (s : State) (set : List StrandId) : Word :=
  let ns := set.filterMap fun w => (s.findStrand w).map fun a => (s.sidOf a).toNat
  BitVec.ofNat 64 (ns.foldl min (ns.headD 0))

/-- R314: after one resolution of every home examined, the states are read again: the set is confirmed, or the probe reports a change. -/
def execProbeRecheck (h : Home) (s : State) : Next :=
  match (s.probeOf h).pending.find? fun v => !v.set.isEmpty && v.homes.isEmpty with
  | none => .next s
  | some v =>
    let s0 := s.dropFlag h v.flagged
    match s.findStrand v.flagged with
    | none => .next s0
    | some a =>
      let same : Bool := match s.probeSet a with
        | .ok set => set == v.set && set.map s.memberView == v.seen
        | .error _ => false
      let n := v.set.length
      if !same then .next (s0.probeReport h a 1 n 4 0 0 0)
      else
        let s1 := s0.probeReport h a 2 n 0 0 (s.lowestSid v.set) 0
        .next (if (s.probeOf h).trap then v.set.foldl State.deadlock s1 else s1)

end Sys2Proof.Machine
end

