-- ==== Sys2Proof/Machine/Debug.lean ====
section
/-! DEFINITION. The Vermilion stop and single steps (R258 to R260, R321 to R323), and the Ivory trigger with its snapshots (R261, R410 to R412). -/

namespace Sys2Proof.Machine

open Sys2Proof

/-! VCTL (R259). -/

/-- VCTL written: STOP, RUN, RTICK and STEP are the four bits from bit 3 up, 8, 4, 2 and 1. -/
def vctlWord (scope : BitVec 2) (score : Fin 8) (act : Nat) : Word := BitVec.ofNat 64 (scope.toNat * 128 + act * 8 + score.val)

/-- SCOPE and SCORE of a write. -/
def Vermilion.fields (v : Vermilion) (w : Word) : Vermilion :=
  { v with scope := BitVec.ofNat 2 (bits w 7 2), score := Fin.ofNat 8 (bits w 0 3) }

/-- SCOPE and SCORE written. -/
def State.writeFields (s : State) (c : ClusterKey) (w : Word) : State :=
  let x := s.clu c
  let v := x.verm.fields w
  if v = x.verm then s else s.setClu c { x with verm := v }

/-- A cluster that a stop freezes goes on (R259, R323). The skid records stand. -/
def Vermilion.run (v : Vermilion) : Vermilion := { v with frz := false, stepst := .none, stepping := none, grace := false }

/-- A shadow strand beside an active bank that has become empty during the stop becomes active once it ends (R379). -/
def State.emptiedCores (s : State) (c : ClusterKey) : State := (List.range 8).foldl (fun s i => s.emptied (c * 8 + i)) s

/-- R259: the stop that freezes the cluster ends, in its whole scope. -/
def State.endStop (s : State) (c : ClusterKey) : State :=
  let v := (s.clu c).verm
  let mine (x : Cluster) : Bool := x.verm.frz && x.verm.origin == v.origin && x.verm.reach == v.reach
  if !v.frz then s
  else
    let cs := (s.clusters.filter fun e => mine e.2).map (·.1)
    let s1 : State := { s with clusters := s.clusters.map fun e => if mine e.2 then (e.1, { e.2 with verm := e.2.verm.run }) else e }
    cs.foldl State.emptiedCores s1

/-- STEPST of the cluster of a step, and the step over. -/
def State.stepOver (s : State) (c : ClusterKey) (st : StepSt) : State :=
  let x := s.clu c
  s.setClu c { x with verm := { x.verm with stepst := st, stepping := none } }

/-- The skid record after a step (R260): the new stop PC, with SKID 0. -/
def State.skidAfter (s : State) (c : ClusterKey) (k : CoreKey) : State :=
  let x := s.clu c
  s.setClu c { x with skid := x.skid.setIfInBounds (s.cid k) (s.skidRecord k 0) }

/-- R260: a step of the core that SCORE names begins. While one is under way none does (DESIGN CHOICE, log 51); a strand that is blocked ends it at once (R323). -/
def State.stepBegins (s : State) (c : ClusterKey) : State :=
  let x := s.clu c
  let k := s.coreAt c x.verm.score.val
  let b := (s.core k).bank (s.core k).ab
  if x.verm.stepping.isSome then s
  else if b.wait.elim false WaitKind.blocks then s.stepOver c .blocked
  else s.setClu c { x with verm := { x.verm with stepst := .none, grace := false, stepping := some (k, b.nIssued, b.ctx.tb.tstat) } }

/-- A write of VCTL (R259, R323): with one of its four actions it writes SCOPE and SCORE and acts; with several, or none, it writes them alone. RTICK and STEP change nothing while the cluster is not frozen, nor STEP while the core's skid record has V = 0. -/
def State.writeVctl (s : State) (c : ClusterKey) (w : Word) : State :=
  let x := s.clu c
  let t := s.writeFields c w
  match bits w 3 4 with
  | 8 => t.vermilionStop c (bits w 7 2) .debugger
  | 4 => t.endStop c
  | 2 => if x.verm.frz then t.resolve [.cluster c] else s
  | 1 => if x.verm.frz && (vget x.skid ⟨0, 0⟩ (bits w 0 3)).w1.getLsbD 2 then t.stepBegins c else s
  | _ => t

/-- R259: STOP written with a SCOPE; no stop with SCOPE = 0. SCORE is written as it stands. -/
def execStop (c : ClusterKey) (scope : BitVec 2) (s : State) : Next :=
  .next (s.writeVctl c (vctlWord scope (s.clu c).verm.score 8))

/-- R259: RUN written, SCOPE and SCORE as they stand. -/
def execRun (c : ClusterKey) (s : State) : Next :=
  .next (s.writeVctl c (vctlWord (s.clu c).verm.scope (s.clu c).verm.score 4))

/-- R259, R312: RTICK written: one resolution of the home of a frozen cluster. -/
def execRtick (c : ClusterKey) (s : State) : Next :=
  .next (s.writeVctl c (vctlWord (s.clu c).verm.scope (s.clu c).verm.score 2))

/-! Single steps (R260, R323). -/

/-- R260: STEP written with a SCORE, SCOPE as it stands. -/
def execStep (c : ClusterKey) (score : Fin 8) (s : State) : Next :=
  .next (s.writeVctl c (vctlWord (s.clu c).verm.scope score 1))

/-- How a step in progress ends: the instruction has issued and all that it left pending is done, or the strand is blocked, also by a FUSE whose fusion has started. -/
def Bank.stepEnd (b : Bank) (n : Nat) (tstat : Word) : Option StepSt :=
  if !b.holds then some .done
  else if b.wait.elim false WaitKind.blocks then some .blocked
  else if b.nIssued ≤ n then none
  else if b.drained && b.trapped.isEmpty && !b.endDue then
    some (if b.ctx.tb.tstat &&& ~~~tstat &&& 3 = 0 then .done else .trapped)
  else none

/-- The steps in progress that have come to an end end (R260). One that ends BLOCKED leaves the skid record as it is, SKID among it, and so does one that ends STALLED (DESIGN CHOICE, log 80: R260 says only that the stop PC is unchanged). -/
def State.endSteps (s : State) : State :=
  s.clusters.foldl (fun s e =>
    match (s.clu e.1).verm.stepping with
    | none => s
    | some (k, n, t) =>
      match ((s.core k).bank (s.core k).ab).stepEnd n t with
      | none => s
      | some .blocked => s.stepOver e.1 .blocked
      | some st => (s.stepOver e.1 st).skidAfter e.1 k) s

/-- R260: a step whose instruction has been held for 65,536 cycles and has not issued ends STALLED. -/
def execStepTimeout (c : ClusterKey) (s : State) : Next :=
  match (s.clu c).verm.stepping with
  | none => .next s
  | some (k, n, _) =>
    let b := (s.core k).bank (s.core k).ab
    if b.nIssued ≤ n ∧ b.held = true ∧ b.wait.elim false WaitKind.blocks = false then .next (s.stepOver c .stalled) else .next s

/-- R258: the external debug pin. -/
def execExternalDebugPin (c : ClusterKey) (scope : BitVec 2) (s : State) : Next := .next (s.vermilionStop c scope.toNat .pin)

/-! The Ivory trigger (R410, R411). -/

/-- R410. -/
def execArm (s : State) : Next := .next (if s.ivory.st = 2 then { s with ivory := { s.ivory with st := 0 } } else s)

/-- R411. -/
def execHost (s : State) : Next := .next (s.ivoryFire 4 0)

/-- R410. -/
def execIvoryPin (s : State) : Next := .next (s.ivoryFire 3 0)

/-! Snapshots (R261, R412). -/

/-- The code of a bank's state (R216). -/
def BankSt.code : BankSt → Nat
  | .empty => 0 | .bound => 1 | .spilling => 2 | .restoring => 3 | .damaged => 4

/-- cstat of a core (R216). FUSED is that of its quad. -/
def State.cstat (s : State) (k : CoreKey) : Nat :=
  let c := s.core k
  let bit (b : Bool) (n : Nat) : Nat := if b then 2 ^ n else 0
  bit c.fen 15 + bit c.hung 14 + bit (s.quad (quadOf (clusterOf k)).1 (quadOf (clusterOf k)).2).fused 13 + c.ab.val * 4096 + bit c.swp 11 + c.b1.st.code * 256 + c.b0.st.code * 32

/-- Nodes of a cluster in a state. -/
def Cluster.countNodes (x : Cluster) (st : NodeSt) : Nat := (x.nodes.filter fun e => e.2.st == st).length

/-- Words of one snapshot record of a cluster (R261). -/
def State.clusterSnap (s : State) (c : ClusterKey) : Vector Word 32 :=
  let x := s.clu c
  let core (r : Nat) : Core := s.core (s.coreAt c r)
  let half (i : Nat) : Nat := (vget x.rings Ring.reset i).head.toNat % 65536 + (vget x.rings Ring.reset i).front.toNat % 65536 * 65536
  Vector.ofFn fun i =>
    let n := i.val
    if n < 2 then BitVec.ofNat 64 (((List.range 4).map fun j => s.cstat (s.coreAt c (4 * n + j)) * 2 ^ (16 * j)).sum)
    else if n < 18 then
      let k := core ((n - 2) / 2)
      if n % 2 = 0 then k.b0.pc else k.b1.pc
    else if n = 18 then
      BitVec.ofNat 64 (((List.range 6).map fun q => x.queued q % 256 * 256 ^ q).sum + (32 - x.freeLocks) % 256 * 256 ^ 6)
    else if n = 19 then
      BitVec.ofNat 64 (x.countNodes .waiting % 256 + x.countNodes .ready % 256 * 256 + x.countNodes .running % 256 * 65536 +
        x.countNodes .stopped % 256 * 16777216)
    else if n < 28 then BitVec.ofNat 64 (half (2 * (n - 20)) + half (2 * (n - 20) + 1) * 2 ^ 32)
    else 0

/-- GDSTAT of a link (R389). SPARE is the number left in the direction that has fewer (log 55). -/
def GdLink.stat (l : GdLink) : Word :=
  BitVec.ofNat 64 (l.nrt.toNat * 2 ^ 32 + min l.spare[0].toNat l.spare[1].toNat * 256 + l.attempts.val * 4 + l.st.val)

/-- The links that the lanes of a held store cross, with the flits of each request and of its acceptance, as the ways are with every link up. -/
def State.storeLinks (s : State) (k : CoreKey) (b : Fin 2) : List Crossing :=
  let up : State := { s with links := s.links.map fun x => { x with st := 0 } }
  ((s.bank k b).store.elim [] StoreHeld.lanes).flatMap fun e => match s.place k e.1.toNat e.2.length with
    | none => []
    | some pl =>
      if pl.isFar then up.farLinks k e.1 e.2.length 0
      else match up.targetChecks (s.view k b) pl e.2.length .write with
        | .ok ps => up.crossings (dieOf k) ps e.1 e.2.length 0
        | .error _ => []

/-- The links that the packets of one-sided operations, and of the accesses of engines and quads, cross on their way to a port of another die, while they stand in its retry store. -/
def State.packetLinks (s : State) : List Crossing :=
  s.fab.retry.flatMap fun q => match s.fab.ops.find? fun o => o.id == q.pkt.opId with
    | some o => s.linksTo (dieOf o.core) (q.port / 9) o.da q.pkt.data.length 0
    | none => []

/-- Flits in the retry store of a link in a direction, ahead in ring order or back (R326, R390): those of the requests that have crossed it and are not answered, and those of the replies to such as have been performed, which crossed the other way (log 55). -/
def State.linkFlits (s : State) (l : Fin 4) (ahead : Bool) : Nat :=
  let asks (x : Crossing) : Crossing := { x with back := 0 }
  let bank (k : CoreKey) (b : Fin 2) : List Crossing :=
    ((s.bank k b).pend.flatMap fun p => if p.far.isSome then p.links.map asks else p.links) ++
      (if (s.links[l]).st = 0 then (s.storeLinks k b).map asks else [])
  (((s.cores.flatMap fun e => bank e.1 0 ++ bank e.1 1) ++ s.packetLinks.map asks).map fun x =>
    if x.link ≠ l.val then 0 else if x.ahead = ahead then x.out else x.back).sum

/-- The record of a link (R412): GDSTAT; the flits of both directions (log 55); the credits, whose number the spec does not give, are free values (log 5). -/
def State.linkSnap (s : State) (l : Fin 4) : State :=
  let flits := BitVec.ofNat 64 (s.linkFlits l true + s.linkFlits l false * 2 ^ 32)
  let d1 := s.draw
  let d2 := d1.2.draw
  let x := s.links[l]
  { d2.2 with links := d2.2.links.set l { x with snap := #v[x.stat, flits, d1.1, d2.1] } }

/-- The record of a die (R412): the V bits of QMAP, and the walks in flight at each station. -/
def Die.snapWords (d : Die) : Vector Word 8 :=
  let v := ((List.range 60).map fun q => if (vget d.qmap 0 q).getLsbD 7 then 2 ^ q else 0).sum
  let w := ((List.range 16).map fun t => d.walksAt t * 2 ^ (7 * t)).sum
  Vector.ofFn fun i => match i.val with
    | 0 => BitVec.ofNat 64 v
    | 1 => BitVec.ofNat 64 w
    | 2 => BitVec.ofNat 64 (w / 2 ^ 64)
    | _ => 0

/-- PTOK (R364). -/
def State.ptok (s : State) : Word :=
  BitVec.ofNat 64 (s.arraysActive % 1024 * 2 ^ 32 + s.disp.inuse % 1024 * 65536 + s.disp.budget.toNat)

/-- IVSTAT (R410). -/
def Ivory.stat (v : Ivory) : Word := BitVec.ofNat 64 (v.iss.toNat * 2 ^ 40 + v.src.val * 16 + v.st.val)

/-- The record of the package (R412). -/
def State.packageSnap (s : State) : Vector Word 20 :=
  Vector.ofFn fun i =>
    match i.val with
    | 0 => s.ptok
    | 1 => if s.disp.tree then 1 else 0
    | 2 => s.jrn.jseq
    | 3 => s.ivory.stat
    | n + 4 =>
      let q := vget s.disp.queues Queue.reset n
      BitVec.ofNat 64 (q.acc.toNat % 2 ^ 32 * 2 ^ 32 + q.rep.toNat % 2 ^ 32)

/-- The clusters of which anything stands in the tables. -/
def State.liveClusters (s : State) : List ClusterKey :=
  ((s.clusters.map (·.1)) ++ (s.cores.map fun e => clusterOf e.1)).eraseDups

/-- The latch at the boundary that begins tick t + 2, where one is due: every block latches its record; MSI-X vector 4. -/
def State.ivoryLatch (s : State) : State :=
  if s.ivory.st = 1 ∧ s.ivory.armedAt.toNat + 2 ≤ s.tick.toNat then
    let pk := s.packageSnap
    let s1 := s.liveClusters.foldl (fun t c => t.setClu c { t.clu c with snap := s.clusterSnap c }) s
    let s2 : State := (List.finRange 4).foldl State.linkSnap s1
    let s3 : State := { s2 with
      dies := s2.dies.map fun d => { d with snap := d.snapWords }
      ivory := { s2.ivory with st := 2, tick := s.ivory.armedAt + 2, snap := pk } }
    s3.raiseMsix 4
  else s

/-- R411. Each tick's boundary makes the latch that is due at it. -/
def execIvoryLatch (s : State) : Next := .next s.ivoryLatch

end Sys2Proof.Machine
end

