-- ==== Sys2Proof/Machine/Control.lean ====
section
/-! DEFINITION. The Cerulean tick (R9), translation stations (R332, R338), the crossbar (R327), Galril-D links (R389 to R392), the host port (R404, R405), the journal's and modes' registers (R397, R407), boot and keys (R416 to R418), self-test (R413 to R415), memory (R393 to R395), power (R419). -/

namespace Sys2Proof.Machine

open Sys2Proof

/-! Time. -/

/-- SYNC after one more tick (R439). -/
def Fabric.tick (f : Fabric) : Fabric :=
  let n := if f.inSync = 0 then 0 else min 17 (f.inSync + 1)
  { f with inSync := n, sync := f.sync || decide (16 < n) }

/-- The boundary that begins the next tick: snapshots that are due are latched (R411), packets at the egress leave (R399), writes that waited are tried again (R391), dispatch examines every enabled queue (R365), and launches start (R378). -/
def State.tickBoundary (s : State) : State :=
  let s1 := (({ s with tick := s.tick + 1, fab := s.fab.tick } : State).ivoryLatch.sendEgress).flushOwed
  { ((List.finRange 16).foldl State.examine s1).startLaunches with tick := s.tick + 1 }

/-- R9. -/
def execCeruleanTick (s : State) : Next := .next s.tickBoundary

/-- R378: the tick boundary at which HOLD clears in the entries of the launches that LSTART has named. While the inlet is too warm none starts (R421). -/
def execLaunchStart (s : State) : Next :=
  .next (if s.ctl.tin.toNat ≤ 45 ∧ (s.disp.launches.any fun l => l.lstart && !l.started) = true then s.tickBoundary else s)

/-! Translation stations. -/

/-- Low bit and length of the page that a TINV names: 64 KiB, 2 MiB, 1 GiB (R338). -/
def tinvBits (v : Word) : Nat := match bits v 62 2 with | 0 => 16 | 1 => 21 | _ => 30

/-- A held leaf matches an invalidation: it shares a byte with the page named. -/
def tinvHits (v : Word) (e : TlbEntry) : Bool :=
  if v.getLsbD 61 then true
  else if e.spid.toNat ≠ bits v 41 20 then false
  else if bits v 62 2 = 3 then true
  else
    let n := tinvBits v
    let base := bits v 0 41 * 65536 / 2 ^ n * 2 ^ n
    rangesMeet base (2 ^ n) e.page (2 ^ e.bits)

/-- The space-table entry of a space id goes with every page of it, at every station. -/
def tinvSpace (v : Word) (key : Nat) : Bool := v.getLsbD 61 || (bits v 62 2 == 3 && key % 2 ^ 20 == bits v 41 20)

/-- R338: an invalidation begins, and the walks under way began before it; one under way has the write ignored. -/
def execTinv (d : Nat) (v : Word) (s : State) : Next :=
  let x := s.die d
  if x.tinv.isSome then .next s
  else .next (s.setDie d { x with tinv := some v, walks := x.walks.map fun w => { w with early := true } })

/-- R338: all stations have removed the matching entries and finished the walks that began before, and DONE reads 1. -/
def execTstatDone (d : Nat) (s : State) : Next :=
  let x := s.die d
  match x.tinv with
  | none => .next s
  | some v =>
    if x.walks.any Walk.early then .next s
    else .next (s.setDie d { x with
      tinv := none, tlb := x.tlb.filter fun e => !tinvHits v e, spaces := x.spaces.filter fun e => !tinvSpace v e.1 })

/-- The end of a walk: the station keeps the leaf and the space-table entry of one that succeeds, none of one that faults (R339). -/
def State.walkEnds (s : State) (d : Nat) (sp : BitVec 20) (va : Nat) : State :=
  let x := s.die d
  let y := { x with walks := x.walks.filter fun w => !w.serves sp va }
  match s.walked d sp va with
  | .error .wait => s
  | .error (.trap _ _) => s.setDie d y
  | .ok (root, e) => s.setDie d (y.keep sp va root e)

/-- R332, R333, R339: a station that holds no leaf for a page walks for it, at most 64 pages at once: the walk begins, and the next step of it ends it. -/
def execTranslationWalk (d : Nat) (sp : BitVec 20) (va : Nat) (s : State) : Next :=
  let x := s.die d
  let t := stationOf va
  if x.walks.any fun w => w.serves sp va then .next (s.walkEnds d sp va)
  else if (x.held sp va).isSome || decide (walkSlots ≤ x.walksAt t) then
    .next s
  else .next (s.setDie d { x with walks := x.walks ++ [⟨t, sp, va, false⟩] })

/-! The crossbar (R327). -/

/-- Inputs that an output grants in one cycle: a trunk port up to nine. -/
def grantWidth (out : Nat) : Nat := if 78 ≤ out ∧ out ≤ 85 then 9 else 1

/-- The order of an output and channel; at reset by input number (log 31). -/
def Die.order (x : Die) (out : Nat) (reply : Bool) : List Nat :=
  ((x.grants.find? fun g => g.out == out && g.reply == reply).map GrantOrder.order).getD ((List.range 100).filter (· != out))

/-- R327: one cycle of an output on a channel: the requesting inputs that stand earliest are granted, and move to the end. -/
def execCrossbarMessage (d out : Nat) (reply : Bool) (inputs : List Nat) (s : State) : Next :=
  let x := s.die d
  let o := x.order out reply
  let won := (o.filter fun i => inputs.contains i).take (grantWidth out)
  if won.isEmpty || decide (100 ≤ out) then .next s
  else .next (s.setDie d { x with
    grants := (x.grants.filter fun g => !(g.out == out && g.reply == reply)) ++ [⟨out, reply, (o.filter fun i => !won.contains i) ++ won⟩] })

/-! The step of a running command, by its operation. -/

/-- The step of a running command. -/
def Op.step (c : ClusterKey) (i : Nat) : Op → State → Next
  | .mmaBb => execMmaBb c i | .mmaE4 => execMmaE4 c i | .mmaE5 => execMmaE5 c i | .mmaDd => execMmaDd c i
  | .mmaF4 => execMmaF4 c i | .mmaP8 => execMmaP8 c i | .mmaPi => execMmaPi c i
  | .mzero => execMzero c i | .mdrain => execMdrain c i | .mswap => execMswap c i | .mscale => execMscale c i
  | .msts => execMsts c i | .qinit => execQinit c i | .qacc => execQacc c i | .qapl => execQapl c i
  | .qaplt => execQaplt c i | .qapr => execQapr c i | .qaprt => execQaprt c i | .qrcp => execQrcp c i
  | .qsave => execQsave c i | .qload => execQload c i
  | .gthr => execGthr c i | .cpy => execCpy c i | .cpy2d => execCpy2d c i | .fill => execFill c i

/-! Galril-D (R389 to R392). -/

def State.setLink (s : State) (l : Fin 4) (x : GdLink) : State := { s with links := s.links.set l x }

/-- A retrain begins. taken: the direction for which it is to use a spare lane. -/
def GdLink.begin (x : GdLink) (taken : Option (Fin 2)) : GdLink :=
  { x with st := 1, attempts := 0, taken := taken, fails := 0, nrt := BitVec.ofNat 32 (min (x.nrt.toNat + 1) (2 ^ 32 - 1)) }

/-- R390, R391: a replay of a flit; the sixteenth that fails in a row starts a retrain. -/
def execFlitReplay (l : Fin 4) (ok : Bool) (s : State) : Next :=
  let x := s.links[l]
  if x.st ≠ 0 then .next s
  else if ok then .next (s.setLink l { x with fails := 0 })
  else .next (s.setLink l (if 15 ≤ x.fails then x.begin none else { x with fails := x.fails + 1 }))

/-- A lane of a link is under test. -/
def Test.ofLink (t : Test) (l : Fin 4) (d : Fin 2) : Bool :=
  match t.block with
  | .gdLane n e _ => n == l.val && e == d
  | _ => false

/-- A direction in which a lane of the link is under test and waits for a spare lane (R414). -/
def State.laneWaits (s : State) (l : Fin 4) : Option (Fin 2) :=
  (List.finRange 2).find? fun d => (s.links[l]).spare[d] != 0 && s.test.running.any fun t => t.ofLink l d && !t.spare

/-- R391: an up link retrains. spare: to use a spare lane for one under test. -/
def execRetrain (l : Fin 4) (spare : Bool) (s : State) : Next :=
  let x := s.links[l]
  if x.st = 0 then .next (s.setLink l (x.begin (if spare then s.laneWaits l else none))) else .next s

/-- The spare lane that a retrain takes replaces the lane under test (R414). -/
def State.takeLane (s : State) (l : Fin 4) (d : Fin 2) : State :=
  let x := s.links[l]
  if x.spare[d] = 0 ∨ (s.test.running.any fun t => t.ofLink l d && !t.spare) = false then s
  else
    let running := match s.test.running.findIdx? fun t => t.ofLink l d && !t.spare with
      | some i => s.test.running.modify i fun t => { t with spare := true }
      | none => s.test.running
    { s.setLink l { x with spare := x.spare.set d (x.spare[d] - 1) } with test := { s.test with running := running } }

/-- R391: an attempt succeeds and the link is up; a spare lane for which it retrained is in use. What waited for it goes on. -/
def execRetrainComplete (l : Fin 4) (s : State) : Next :=
  let x := s.links[l]
  if x.st = 1 then
    let s1 := match x.taken with
      | some d => s.takeLane l d
      | none => s
    .next (s1.setLink l { s1.links[l] with st := 0, attempts := 0, taken := none }).flushOwed
  else .next s

/-- Dies that a route reaches from die 0 (log 32). -/
def State.reached (s : State) (d : Nat) : Bool := match s.route 0 d with | .error (.trap _ _) => false | _ => true

/-- R388: PCSIG as firmware computes it, once it runs. -/
def State.resign (s : State) : State :=
  if s.ctl.rdy then
    let quads := ((List.range 4).filter fun d => s.ctl.dup.getLsbD d).map fun d =>
      (List.range 60).filter fun q => (vget (s.die d).qmap 0 q).getLsbD 7
    let fit := List.replicate 8 64 ++ s.cxl.toList.map fun p => if p.up then p.fitg.toNat else 0
    { s with ctl := { s.ctl with pcsig := leWord ((sha3 (Config.configRecord s.boot.svn.toNat quads fit s.ctl.slate)).take 8) } }
  else s

/-- The launches that have a strand or a command on some dies. -/
def State.launchesOnDies (s : State) (ds : List Nat) : List (BitVec 16) :=
  (s.launchesOn ((s.cores.map (·.1)).filter fun k => ds.contains (dieOf k)) ++
    (s.clusters.filter fun e => ds.contains (dieOfCluster e.1)).flatMap fun e => e.2.cmds.map fun m => m.who.ln).eraseDups

/-- The commands on some dies stop with LINK_DOWN; those still queued are discarded. Both count for their launches. -/
def State.stopOnDies (s : State) (ds : List Nat) : State :=
  (s.clusters.filter fun e => ds.contains (dieOfCluster e.1)).foldl (fun s e => e.2.cmds.foldl (fun s m => match m.st with
    | .running | .finished => s.setClu e.1 ((s.clu e.1).setCmd { m with st := .faulted .linkDown })
    | .queued => s.dropOne e.1 m
    | _ => s) s) s

/-- The launches with a strand or a command on a die that no route reaches complete as faulted (R392), once the updates that their strands hold are accepted (R352). -/
def State.killLost (s : State) : State :=
  let gone := (List.range 4).filter fun d => !s.ctl.dup.getLsbD d
  let lns := s.launchesOnDies gone
  if !s.ctl.rdy || gone.isEmpty || lns.isEmpty then s
  else
    let s1 := s.settleDets lns
    if s1.detHeldBy lns then s1 else (s1.killLaunches lns).stopOnDies gone

/-- Dies that no route reaches leave DUP, and their launches end (R392). -/
def State.dropDies (s : State) : State :=
  let gone := (List.range 4).filter fun d => s.ctl.dup.getLsbD d && !s.reached d
  let up := gone.foldl (fun (u : BitVec 4) d => u &&& ~~~(BitVec.ofNat 4 (2 ^ d))) s.ctl.dup
  let s1 : State := { s with ctl := { s.ctl with dup := up } }
  if gone.isEmpty then s else s1.killLost.resign

/-- An outstanding request that has crossed a link which goes down takes LINK_DOWN late, at the pointer of the lowest lane that crossed it (R392). -/
def Pending.linkDown (p : Pending) (l : Nat) : Pending :=
  match p.links.find? fun x => x.link == l with
  | some x => { p with late := match p.late with
      | some t => if t.cause == .watch then some ⟨.linkDown, x.ptr, 0⟩ else some t
      | none => some ⟨.linkDown, x.ptr, 0⟩ }
  | none => p

/-- The pointer of the first lane of a held store that is queued for a link: the way to its location crosses it. -/
def State.storeQueued (s : State) (k : CoreKey) (b : Fin 2) (l : Nat) : Option Word :=
  ((s.storeLinks k b).find? fun x => x.link == l).map Crossing.ptr

/-- Requests of a bank that a link's failure completes: late for what has crossed it, at the store for a store queued for it (R392). -/
def State.bankLinkDown (s : State) (l : Nat) (k : CoreKey) (b : Fin 2) : State :=
  let x := s.bank k b
  let s1 := s.setBank k b { x with pend := x.pend.map fun p => p.linkDown l }
  match x.store, s.storeQueued k b l with
  | some h, some p => s1.unhold k b h (some ⟨.linkDown, p, 0⟩)
  | _, _ => s1

/-- The next step of a running command waits for a link alone: with the link up it would go on. -/
def State.stepQueued (s : State) (l : Fin 4) (c : ClusterKey) (m : Cmd) : Bool :=
  let up := s.setLink l { s.links[l] with st := 0 }
  let acts (t : State) : Bool := match m.op with
    | some o => match Op.step c m.id o t with
      | .next r => decide (r ≠ t)
      | _ => false
    | none => false
  m.st == .running && !acts s && acts up

/-- The commands of a cluster that stop as a link goes down: those whose next step is queued for it, and the other members of a gang of which one is (R280). -/
def State.cmdsQueued (s : State) (l : Fin 4) (c : ClusterKey) : List Cmd :=
  let cmds := (s.clu c).cmds
  let ms := cmds.filter fun m => s.stepQueued l c m
  cmds.filter fun m => ms.any fun n => n.id == m.id || (m.st == .running && m.gang.isSome && n.gang == m.gang)

/-- The accesses of engines and quads to another package that have crossed a link, or wait for it, and are not answered, are answered with LINK_DOWN: their maker's step fails with it (R392). -/
def State.asksDown (s : State) (l : Nat) : State :=
  { s with fab := { s.fab with ops := s.fab.ops.map fun o =>
      if o.ask.isSome && o.out && (s.linksTo (dieOf o.core) (o.port / 9) o.da 0 0).any (fun x => x.link == l) then
        { o with left := 0, due := 0, rest := .held [], failed := some (Cause.linkDown.code, 0) }
      else o } }

/-- R392: what a link that retrains and goes down leaves behind: late traps, traps at stores, commands that stop. -/
def State.linkDown (s0 : State) (l : Fin 4) : State :=
  let s := s0.asksDown l.val
  let waiting := s0.clusters.flatMap fun e => (s0.cmdsQueued l e.1).map fun m => (e.1, m)
  let s1 := (s.cores.map (·.1)).foldl (fun s k => (s.bankLinkDown l.val k 0).bankLinkDown l.val k 1) s
  let s2 := waiting.foldl (fun s e => s.setClu e.1 ((s.clu e.1).setCmd { e.2 with st := .faulted .linkDown })) s1
  (((s2.setLink l { s2.links[l] with attempts := 3, st := 2 }).raiseMsix 5).flushOwed).dropDies

/-- R392: an attempt fails; after three the link is down. An attempt for a spare lane is not counted (R391). -/
def execRetrainAttemptFail (l : Fin 4) (s : State) : Next :=
  let x := s.links[l]
  if x.st ≠ 1 ∨ x.taken.isSome = true then .next s
  else if x.attempts.val < 2 then .next (s.setLink l { x with attempts := x.attempts + 1 })
  else .next (s.linkDown l)

/-- R389: UP written at a link that is down. -/
def execUp (l : Fin 4) (s : State) : Next :=
  let x := s.links[l]
  if x.st = 2 then .next (s.setLink l (x.begin none)) else .next s

/-- R389: RT written at a link that is up. -/
def execRt (l : Fin 4) (s : State) : Next :=
  let x := s.links[l]
  if x.st = 0 then .next (s.setLink l (x.begin none)) else .next s

/-! The host port (R404, R405). -/

/-- An atomic of the host on HBM (R171, R404): it returns the old value. One that is not aligned, or that reads poison, changes nothing. -/
def State.hostAtomic (s : State) (pa : Nat) (wide : Bool) (f : Nat → Nat) : State :=
  let n := if wide then 8 else 4
  if pa % n ≠ 0 ∨ hbmEnd < pa + n ∨ poisoned s.poison pa n = true then s
  else
    let old := getBytes s.mem pa n
    { s.store [(pa, n)] (leBytes n (f (leNat old) % 2 ^ (8 * n))) with hostData := old }

/-- R405: a doorbell; dispatch examines the queue. -/
def execLqdb (q : Fin 16) (v : Word) (s : State) : Next :=
  let _ := v
  .next (s.examine q)

/-- R405: any write clears HCOMP. -/
def execHcompWrite (v : Word) (s : State) : Next :=
  let _ := v
  .next { s with disp := { s.disp with hcomp := 0 } }

/-- A launch that has not started gives back what it holds: its strands, slots, rings and tokens. -/
def State.tearDown (s : State) (l : Launch) : State :=
  let s1 := (s.strandsIn [l.ln]).foldl (fun s w => match s.findStrand w with | some a => s.endStrand a false | none => s) s
  let s2 := l.slots.foldl (fun s c => s.freeSlot c.home c.slot) s1
  let s3 := l.ringsAt.foldl (fun s c => (s.launchRings l.lists c false).mapClu c fun x => x.release? l.ln) s2
  { s3 with disp := { s3.disp with inuse := s3.disp.inuse - recTok l.words, launches := s3.disp.launches.filter fun m => m.ln != l.ln } }

/-- A record that has been accepted and not started is refused; no reason of R374 applies, so it is 0 (DESIGN CHOICE, log 35). t: the tick; started: the numbers of the launches that have. -/
def QRec.refuse (t : Word) (started : List (BitVec 16)) (r : QRec) : QRec :=
  if r.refused.isNone && r.outcome.isNone && !(r.ln.any fun n => started.contains n) then
    { r with refused := some 0, ln := none, since := t }
  else r

/-- R364: LQCFG. A write with EN = 1 sets ACC and REP to 0, also where LOGN leaves EN = 0; one with EN = 0 refuses what has not started. -/
def execLqcfgWrite (q : Fin 16) (v : Word) (s : State) : Next :=
  let w := v &&& 0xFE0000FFFFFFFFFF
  let on := decide (4 ≤ bits w 57 4) && decide (bits w 57 4 ≤ 12)
  if w.getLsbD 63 then
    .next (s.setQueue q { s.queue q with lqcfg := if on then w else setBits w 63 1 0, acc := 0, rep := 0, emptySince := none })
  else
    let s1 := (s.disp.launches.filter fun l => l.q == q && !l.started).foldl State.tearDown s
    let x := s1.queue q
    let started := (s1.disp.launches.filter Launch.started).map Launch.ln
    .next (s1.setQueue q { x with lqcfg := w, recs := x.recs.map (QRec.refuse s.tick started), emptySince := none })

/-- R407: JCFG. A write with EN = 1 sets NEXT to 1, also where LOGN leaves EN = 0. -/
def execJcfgWrite (v : Word) (s : State) : Next :=
  let w := v &&& 0x800000000000001F
  let on := w.getLsbD 63 && decide (8 ≤ bits w 0 5) && decide (bits w 0 5 ≤ 20)
  .next { s with jrn := { s.jrn with jcfg := if on then w else setBits w 63 1 0, jseq := if w.getLsbD 63 then 1 else s.jrn.jseq } }

/-- A launch has started and has not been reported. -/
def State.unreported (s : State) : Bool :=
  (s.disp.launches.any fun l => l.started) || s.disp.queues.toList.any fun x => x.recs.any fun r => r.outcome.isSome

/-- R397: PCTL. -/
def execPctlWrite (v : Word) (s : State) : Next :=
  if s.unreported then .next s
  else .next ({ s with ctl := { s.ctl with slate := v.getLsbD 0 } } : State).resign

/-! Boot, keys and attestation (R416 to R418). -/

/-- The checks of the boot ROM on an image (R416). -/
def firmwareOk (f : Firmware) : Bool :=
  f.keyFused && mlDsaVerify f.key (sha3 f.bytes) f.sig && decide (f.counter ≤ f.svn)

/-- A measurement register extended (R416). -/
def extendMeas (m d : List Byte) : List Byte := sha3 (m ++ d)

/-- A CXL port after training: memory fitted in GiB, none where 0. -/
def cxlTrained (fit : List Nat) (p : CxlPort) (i : Nat) : CxlPort :=
  { p with up := decide (fit.getD i 0 ≠ 0), fitg := BitVec.ofNat 11 (min (fit.getD i 0) 1024) }

/-- QMAP as the firmware writes it: an entry that names a fenced quad is given a spare one, or none (R330, R416). -/
def State.bootQuad (s : State) (d q : Nat) : State :=
  match s.quadPhys d q with
  | none => s
  | some pq =>
    if !s.quadFenced d pq then s
    else
      let x := s.die d
      let e : Word := match s.spareQuads d with
        | n :: _ => BitVec.ofNat 64 (128 + n)
        | [] => 0
      s.setDie d { x with qmap := x.qmap.setIfInBounds q e }

/-- The boot ROM on an image (R416): recovery where it does not verify, with an error code that the spec does not give; else it is measured, and the firmware runs. -/
def State.runRom (s : State) (f : Firmware) : State :=
  if firmwareOk f then
    let m := s.boot.meas
    let zero : List Byte := List.replicate 32 0
    { s with boot := { s.boot with
        stage := 2, err := 0, svn := BitVec.ofNat 32 f.svn, meas := #v[sha3 f.bytes, extendMeas m[1] f.confDigest, m[2], zero] } }
  else
    let d := s.draw
    { d.2 with boot := { d.2.boot with stage := 1, err := d.1.setWidth 8 } }

/-- What the firmware does before it sets RDY (R416): links and CXL ports are trained, the Galril-F ports left down; QMAP is written and PCSIG computed. -/
def State.runFirmware (s : State) (fit : List Nat) : State :=
  let s1 : State := { s with
    boot := { s.boot with stage := 3 }
    links := s.links.map fun l => { l with st := 0, attempts := 0 }
    cxl := Vector.ofFn fun i => cxlTrained fit s.cxl[i] i.val
    fab := { s.fab with en := 0, up := 0 }
    ctl := { s.ctl with dup := 15, rdy := true } }
  ((List.range 240).foldl (fun s i => s.bootQuad (i / 60) (i % 60)) s1).resign

/-- R416: boot from the flash, once after reset: the ROM's part, and then, in its next step, the firmware's. Between the two the firmware tests every block (R414): one that does not simply pass is the block of a self-test and its result, and RDY waits for the last (log 38). -/
def execBoot (f : Firmware) (fit : List Nat) (s : State) : Next :=
  if s.boot.stage = 0 then .next (s.runRom f)
  else if s.boot.stage = 2 ∧ s.test.running.isEmpty = true then .next (s.runFirmware fit)
  else .next s

/-- Bytes of the mailbox from its start. -/
def Boot.mail (b : Boot) (n : Nat) : List Byte := (List.range n).map fun i => lookupD 0 b.mailbox i

/-- A command of the mailbox is under way, with these bytes as its argument (R418; how command 1, 2 and 4 lay theirs out is log 56). -/
def Boot.asked (b : Boot) (cmd : Nat) (arg : List Byte) : Bool :=
  b.cmd.toNat == cmd && b.status == 0 && b.len.toNat == arg.length && b.mail arg.length == arg

/-- The outcome of a mailbox command (R418): 1 done, 2 rejected. -/
def Boot.answered (b : Boot) (ok : Bool) : Boot := { b with status := if ok then 1 else 2 }

/-- R416, R418: command 1, an image from the mailbox, while the ROM runs; the firmware that runs rejects it. -/
def execLoadFirmware (f : Firmware) (fit : List Nat) (s : State) : Next :=
  let _ := fit
  if !s.boot.asked 1 (f.bytes ++ f.key ++ f.sig) then .next s
  else if s.boot.stage = 0 ∨ s.boot.stage = 1 then
    let s1 := s.runRom f
    .next { s1 with boot := s1.boot.answered (firmwareOk f) }
  else .next { s with boot := s.boot.answered false }

/-- R417: command 2. -/
def execInstallImageKey (key sig owner : List Byte) (s : State) : Next :=
  let ok := s.boot.stage == 3 && s.boot.ownerDigest == some (sha3 owner) && mlDsaVerify owner (sha3 key) sig
  if !s.boot.asked 2 (key ++ sig ++ owner) then .next s
  else if ok then
    let b := { s.boot with imageKey := some key, meas := s.boot.meas.set 2 (extendMeas s.boot.meas[2] (sha3 key)) }
    .next { s with boot := b.answered true, clusters := s.clusters.map fun e => (e.1, { e.2 with digests := [] }) }
  else .next { s with boot := s.boot.answered false }

/-- Bytes listed as cells from an address, without those that read as the unlisted value. -/
def cellsOf (a : Nat) (bs : List Byte) : List (Nat × Byte) :=
  ((List.range bs.length).map (· + a)).zip bs |>.filter fun e => e.2 != unlisted

/-- A certificate (R418): its fixed fields; the serial number, the key and the signature are the part's own (log 7). -/
def certificate (kind : Nat) (meas : List Byte) : List Byte :=
  let own (at0 n : Nat) : List Byte := (List.range n).map fun i => Config.certificateByte kind meas (at0 + i)
  let zeros (n : Nat) : List Byte := List.replicate n 0
  let head : List Byte := leBytes 4 0x42434531 ++ [1, BitVec.ofNat 8 kind, 0, 0]
  let derived : List Byte := if kind = 2 then meas else []
  head ++ own 8 8 ++ (derived ++ zeros 32).take 32 ++ zeros 16 ++ own 0x40 1312 ++ own 0x560 2420 ++ zeros 12

/-- The quote (R418). -/
def State.quote (s : State) (nonce : List Byte) : List Byte :=
  let body := (nonce ++ List.replicate 32 0).take 32 ++ s.boot.meas.toList.flatMap (fun m => m) ++ leBytes 8 s.ctl.pcsig.toNat ++
    leBytes 8 s.ctl.pkid.toNat ++ leBytes 8 s.tick.toNat ++ List.replicate 8 0
  body ++ (Config.mlDsaSign (sha3 body) ++ (List.replicate 2420 0 : List Byte)).take 2420 ++ (List.replicate 12 0 : List Byte) ++ certificate 2 s.boot.meas[0] ++ certificate 1 s.boot.meas[0]

/-- R418: command 3. The mailbox holds the quote, and LEN its length. -/
def execAttest (nonce : List Byte) (s : State) : Next :=
  if !s.boot.asked 3 nonce then .next s
  else if s.boot.stage = 3 ∧ nonce.length = 32 then
    let b := { s.boot with mailbox := cellsOf 0 (s.quote nonce), len := 10240 }
    .next { s with boot := b.answered true }
  else .next { s with boot := s.boot.answered false }

/-- R417: command 4, once. -/
def execSetOwnerKeyDigest (digest : List Byte) (s : State) : Next :=
  if !s.boot.asked 4 digest then .next s
  else if s.boot.stage = 3 ∧ s.boot.ownerDigest.isNone = true ∧ digest.length = 32 then
    .next { s with boot := { s.boot with ownerDigest := some digest }.answered true }
  else .next { s with boot := s.boot.answered false }

/-! Self-test (R413 to R415). -/

/-- The store, or the direction of a port, whose spares a block takes (R414): a key and the number of spares. -/
def blockSpares : Block → Option (Nat × Nat)
  | .sramBank c core _ 0 => some (c * 64 + core * 4, 2)
  | .sramBank c _ _ st => some (c * 64 + 32 + st, 2)
  | .gfLane port dir _ => some (2 ^ 20 + port * 2 + dir.val, 2)
  | _ => none

/-- Spares of a store or direction that are taken: by failed blocks, and by those under test. -/
def State.sparesUsed (s : State) (key : Nat) : Nat :=
  lookupD 0 s.test.used key + (s.test.running.filter fun t => t.spare && (blockSpares t.block).map (·.1) == some key).length

/-- A spare is free to stand in for a block while it is tested. -/
def State.spareFree (s : State) (b : Block) : Bool :=
  match blockSpares b with
  | some (key, n) => decide (s.sparesUsed key < n)
  | none => false

/-- R413: an error starts the test of its block. A spare bank, or lane of Galril-F, stands in for it; a lane of Galril-D is replaced at a retrain (R414). -/
def execSelfTest (b : Block) (e : ErrKind) (s : State) : Next :=
  if s.test.running.any fun t => t.block == b then .next s
  else
    let t : Test := ⟨b, e, s.tick, s.spareFree b⟩
    let s1 := ({ s with test := { s.test with running := s.test.running ++ [t] } } : State).ivoryFire 2 0
    match b with
    | .gdLane l dir _ =>
      let i : Fin 4 := Fin.ofNat 4 l
      let x := s1.links[i]
      if x.st = 0 ∧ x.spare[dir] ≠ 0 then .next (s1.setLink i (x.begin (some dir))) else .next s1
    | _ => .next s1

def Block.kind : Block → Nat
  | .sramBank _ _ _ _ => 1 | .gdLane _ _ _ => 2 | .gfLane _ _ _ => 3 | .slice _ _ => 4 | .core _ => 5

/-- Word 1 of a record (R415). A port of Galril-F is port p mod 9 of die ⌊p / 9⌋ (R422). -/
def blockWord (b : Block) : Nat :=
  let place (c : ClusterKey) : Nat := dieOfCluster c * 2 ^ 48 + (quadOf c).2 * 2 ^ 42 + c % 4 * 2 ^ 40
  match b with
  | .sramBank c core bank st => place c + core % 8 * 2 ^ 37 + bank % 128 * 2 ^ 30 + st % 4 * 2 ^ 28
  | .gdLane l _ n => l % 16 * 2 ^ 24 + n % 256 * 65536
  | .gfLane p _ n => p / 9 % 4 * 2 ^ 48 + p % 9 * 2 ^ 24 + n % 256 * 65536
  | .slice c n => place c + n % 4
  | .core k => place (clusterOf k) + k % 8 * 2 ^ 37

def ErrKind.code : ErrKind → Nat
  | .corrected => 1 | .uncorrectable => 2 | .hang => 3
def TestResult.code : TestResult → Nat
  | .pass => 1 | .failSpare => 2 | .failNoSpare => 3

/-- A record written to the ring of the log, counted as that of a probe (R415). -/
def SelfTest.write (t : SelfTest) (ws : List Word) : SelfTest :=
  let old := (vget t.records [] t.next.toNat).getD 0 0
  let lost := bits old 60 3 ≠ 0 ∧ old.getLsbD 63 = false
  { t with records := t.records.setIfInBounds t.next.toNat ws, next := t.next + 1
           lost := if lost then BitVec.ofNat 8 (min (t.lost.toNat + 1) 255) else t.lost }

/-- A quad is fenced and remapped (R384). -/
def State.remapQuad (s : State) (c : ClusterKey) : State :=
  ((quadCores (quadOf c).1 (quadOf c).2).foldl State.fence s).remap (s.coreAt c 0)

/-- What follows a failed test, or a passed one (R414). spare: one stands in for the block; it stays in use where the block is retired, and is the block itself where it passes. -/
def State.afterTest (s : State) (b : Block) (spare : Bool) (r : TestResult) : State :=
  match b, r with
  | .sramBank _ _ _ _, .failSpare | .gfLane _ _ _, .failSpare =>
    match blockSpares b with
    | some (key, _) => { s with test := { s.test with used := insertKey key (lookupD 0 s.test.used key + 1) s.test.used } }
    | none => s
  | .sramBank c core _ 0, .failNoSpare => s.fence (c * 8 + core)
  | .sramBank c _ _ _, .failNoSpare => s.remapQuad c
  | .gdLane l dir _, .pass =>
    let i : Fin 4 := Fin.ofNat 4 l
    let x := s.links[i]
    if spare then s.setLink i { x with spare := x.spare.set dir (BitVec.ofNat 8 (min 8 (x.spare[dir].toNat + 1))) } else s
  | .slice c n, .failSpare | .slice c n, .failNoSpare => (s.fence (s.coreAt c n)).remapQuad c
  | .core k, .pass => s.setCore k { s.core k with fen := false, hung := false }
  | _, _ => s

/-- A result that the spares of the block allow: a spare has been taken, or there was none. A slice's spare is a quad. A lane whose retrain is under way has no result yet. -/
def State.resultOk (s : State) (t : Test) (r : TestResult) : Bool :=
  match t.block, r with
  | .core _, _ | .slice _ _, .pass => true
  | .slice c _, .failSpare => !(s.spareQuads (dieOfCluster c)).isEmpty
  | .slice c _, .failNoSpare => (s.spareQuads (dieOfCluster c)).isEmpty
  | .gdLane l dir _, r => (s.links[Fin.ofNat 4 l]).taken != some dir && (r == .pass || (r == .failSpare) == t.spare)
  | _, .pass => true
  | _, .failSpare => t.spare
  | _, .failNoSpare => !t.spare

/-- R413, R415: the result of a test is recorded; MSI-X vector 3. -/
def execSelfTestResult (b : Block) (r : TestResult) (s : State) : Next :=
  match s.test.running.find? fun t => t.block == b with
  | none => .next s
  | some t =>
    if !s.resultOk t r then .next s
    else
      let w0 := BitVec.ofNat 64 (Block.kind b * 2 ^ 60 + TestResult.code r * 2 ^ 58 + ErrKind.code t.err * 2 ^ 56)
      let s1 : State := { s with test := { s.test with running := s.test.running.filter fun x => x.block != b } }
      let s2 : State := { s1 with test := s1.test.write [w0, BitVec.ofNat 64 (blockWord b), t.tick, s.tick] }
      .next ((s2.raiseMsix 3).afterTest b t.spare r)

/-! Memory and power. -/

/-- The words that an uncorrectable read at a location leaves poisoned: a 32-byte sector of HBM (R393), a 64-byte line of a CXL device (R394, log 57), an 8-byte word of a scratchpad or SRAM (R164). -/
def badWords (loc : Nat) : List Nat :=
  let n := if loc < hbmEnd then 32 else if loc < 2 ^ 46 then 64 else 8
  (List.range (n / 8)).map fun i => loc / n * n + 8 * i

/-- The channel of a location of HBM, by 32 × stack + channel (R393). -/
def channelOf (loc : Nat) : Nat := loc / 2 ^ 36 * 32 + loc / 256 % 32

/-- R393: a read of the patrol scrub, or any other, meets an error at a location, or, from 2^48 on, in the tag of the line there (R402). A corrected one counts against its channel of HBM, an uncorrectable one leaves poison. -/
def execPatrolScrub (pa : Nat) (e : ErrKind) (s : State) : Next :=
  match e with
  | .uncorrectable =>
    if 2 ^ 48 ≤ pa then
      let line := (pa - 2 ^ 48) / 64 * 64
      .next { s with badTags := line :: s.badTags.erase line }
    else if pa < hbmEnd ∨ 2 ^ 46 ≤ pa ∨ s.fitted pa then
      .next { s with poison := s.poison ++ (badWords pa).filter fun a => !s.poison.contains a }
    else .next s
  | .corrected =>
    if pa < hbmEnd then
      .next { s with corrected := insertKey (channelOf pa) (lookupD 0 s.corrected (channelOf pa) + 1) s.corrected }
    else .next s
  | .hang => .next s

/-- R419: the end of a 1 ms window. -/
def execPowerWindow (avg : BitVec 12) (tj tin : BitVec 8) (s : State) : Next :=
  let hot := decide (s.ctl.env.toNat < avg.toNat) || decide (100 ≤ tj.toNat)
  let clock := if hot then max 1600 (s.ctl.clock - 100) else min 2700 (s.ctl.clock + 100)
  .next { s with ctl := { s.ctl with
    avg := avg, tj := tj, tin := tin, clock := clock, thr := decide (clock < 2700), tripped := s.ctl.tripped || decide (110 ≤ tj.toNat) } }

/-- R419: TJ reaches 110 °C. -/
def execThermalTrip (s : State) : Next := .next { s with ctl := { s.ctl with tj := 110, tripped := true } }

/-- R395: the link of a CXL port is up, and its memory enumerated. -/
def execCxlLinkUp (p : Fin 16) (fitg : Nat) (ide : Bool) (s : State) : Next :=
  .next ({ s with cxl := s.cxl.set p ⟨ide, true, BitVec.ofNat 11 (min fitg 1024)⟩ } : State).resign

/-- R394: the link of a CXL port is down; none of its memory is fitted. -/
def execCxlLinkDown (p : Fin 16) (s : State) : Next :=
  .next ({ s with cxl := s.cxl.set p { s.cxl[p] with up := false, ide := false } } : State).resign

end Sys2Proof.Machine
end

