-- ==== Sys2Proof/Machine/Reads.lean ====
section
/-! DEFINITION. Reads of the management space and of the command window by the host (R386, R403 to R405, R449): what each listed register returns. An offset that is not listed returns 0, as a field with access W or W1 does. -/

namespace Sys2Proof.Machine

open Sys2Proof

/-- A flag at a bit. -/
def flagAt (b : Bool) (n : Nat) : Nat := if b then 2 ^ n else 0

/-! The package's blocks. -/

/-- R387. -/
def State.readControl (s : State) (off : Nat) : Nat :=
  let c := s.ctl
  match off with
  | 0x00 => flagAt c.slate 0
  | 0x08 => flagAt c.rdy 4 + c.dup.toNat
  | 0x10 => c.pkid.toNat
  | 0x18 => c.pcsig.toNat
  | 0x20 => c.pfsrv.toNat
  | 0x28 => c.avg.toNat * 2 ^ 16 + c.env.toNat
  | 0x30 => flagAt c.thr 16 + c.tin.toNat * 2 ^ 8 + c.tj.toNat
  | _ => 0

/-- R364. -/
def State.readDispatch (s : State) (off : Nat) : Nat :=
  match off with
  | 0x00 => s.ptok.toNat
  | 0x08 => flagAt s.disp.tree 0
  | 0x10 => s.disp.slice.toNat
  | 0x18 => s.disp.lstart.toNat
  | o =>
    if 0x100 ≤ o ∧ o < 0x300 then
      let q := s.queue (Fin.ofNat 16 ((o - 0x100) / 32))
      match o % 32 with
      | 0 => q.lqb.toNat
      | 8 => q.lqcfg.toNat
      | 16 => q.acc.toNat
      | _ => q.rep.toNat
    else 0

/-- The code of an event's kind in a slot record (R298). -/
def EvKind.code : EvKind → Nat
  | .sync => 0 | .bcast => 1 | .xchg => 2 | .gather => 3 | .redadd => 4

/-- A slot record (R298). -/
def EvSlot.record (e : EvSlot) : Nat :=
  flagAt e.alloc 63 + e.kind.code * 2 ^ 60 + e.gen.toNat * 2 ^ 52 + e.sigs.length % 8 * 2 ^ 49 + e.credit.toNat * 2 ^ 33 +
    e.strands.length % 2 ^ 14 * 2 ^ 19 + e.noff % 2 ^ 14 * 2 ^ 5

/-- R318: the registers of a probe. -/
def Probe.read (p : Probe) (off : Nat) : Nat :=
  match off with
  | 0x10 => flagAt p.trap 1 + flagAt p.en 0
  | 0x18 => p.lost.toNat * 2 ^ 8 + p.next.val
  | o => if 0x100 ≤ o ∧ o < 0x500 then ((vget p.records [] ((o - 0x100) / 64)).getD (o % 64 / 8) 0).toNat else 0

/-- R298: the slot records of a home, from 0x1000. -/
def State.readSlots (s : State) (h : Home) (off : Nat) : Nat :=
  if 0x1000 ≤ off ∧ off < 0x1000 + 8 * slotCount h then (s.slot h ((off - 0x1000) / 8)).record else 0

/-- R298, R318, R329: the resolver block of a die or of the package. -/
def State.readResolver (s : State) (h : Home) (p : Probe) (off : Nat) : Nat :=
  if off = 0x08 then (s.resolver h).rot else p.read off + s.readSlots h off

/-- R407. -/
def State.readJournal (s : State) (off : Nat) : Nat :=
  match off with
  | 0x00 => s.jrn.jbase.toNat
  | 0x08 => s.jrn.jcfg.toNat
  | 0x10 => s.jrn.jseq.toNat
  | _ => 0

/-- R410, R412. -/
def State.readIvory (s : State) (off : Nat) : Nat :=
  match off with
  | 0x00 => s.ivory.enables.toNat * 4
  | 0x08 => s.ivory.stat.toNat
  | 0x10 => s.ivory.tick.toNat
  | o => if 0x100 ≤ o ∧ o < 0x1A0 then (vget s.ivory.snap 0 ((o - 0x100) / 8)).toNat else 0

/-- R415. -/
def SelfTest.read (t : SelfTest) (off : Nat) : Nat :=
  if off = 0 then t.lost.toNat * 2 ^ 8 + t.next.toNat
  else if 0x100 ≤ off ∧ off < 0x900 then ((vget t.records [] ((off - 0x100) / 32)).getD (off % 32 / 8) 0).toNat
  else 0

/-- R389, R412. -/
def GdLink.read (l : GdLink) (off : Nat) : Nat :=
  match off with
  | 0x00 => l.stat.toNat
  | o => if 0x80 ≤ o ∧ o < 0xA0 then (vget l.snap 0 ((o - 0x80) / 8)).toNat else 0

/-- CXST, at the start of its block (R395, log 58). -/
def CxlPort.read (p : CxlPort) (off : Nat) : Nat := if off = 0 then flagAt p.ide 17 + flagAt p.up 16 + p.fitg.toNat else 0

/-- R418. -/
def Boot.read (b : Boot) (off : Nat) : Nat :=
  match off with
  | 0x00 => b.svn.toNat * 2 ^ 16 + b.err.toNat * 2 ^ 8 + b.stage.toNat
  | 0x08 => b.len.toNat * 2 ^ 16 + b.status.toNat * 2 ^ 8 + b.cmd.toNat
  | o =>
    if 0x40 ≤ o ∧ o < 0xC0 then leNat (((vget b.meas [] ((o - 0x40) / 32)).drop (o % 32)).take 8)
    else if 0x1000 ≤ o ∧ o < 0x5000 then leNat ((List.range 8).map fun i => lookupD 0 b.mailbox (o - 0x1000 + i))
    else 0

/-- R424, R434, R438 to R440, R450. -/
def State.readFabric (s : State) (off : Nat) : Nat :=
  let f := s.fab
  match off with
  | 0x00 => f.up.toNat
  | 0x08 => f.w2.toNat * 2 ^ 8 + f.w1.toNat * 2 ^ 4 + f.w0.toNat
  | 0x10 => f.nsend.toNat * 2 ^ 16 + f.tmo.toNat
  | 0x18 => flagAt f.sync 63 + flagAt f.master 62 + f.off.toNat
  | 0x20 => f.fsrb.toNat
  | 0x28 => f.fsrc.toNat
  | 0x30 => f.en.toNat
  | o =>
    if 0x1000 ≤ o ∧ o < 0x9000 then
      (vget (lookupD ⟨Vector.replicate 16 0⟩ f.groups ((o - 0x1000) / 128)).words 0 (o % 128 / 8)).toNat
    else 0

/-! The management space of a die (R329). -/

/-- QFSTAT and QFCNT (R346). -/
def Quad.read (q : Quad) (off : Nat) : Nat :=
  if off = 0 then q.offers.length % 32 * 2 ^ 17 + q.nst % 32 * 2 ^ 12 + flagAt q.fused 11 + q.endCode % 8 * 2 ^ 8 + q.fcause % 2 ^ 8
  else if off < 0x88 then (vget q.counts 0 ((off - 8) / 8)).toNat
  else 0

/-- VCTL and VSTAT (R259). -/
def Vermilion.ctl (v : Vermilion) : Nat := v.scope.toNat * 2 ^ 7 + v.score.val

/-- The code of a stop's source, with the watchpoint's number (R259). -/
def StopSrc.code : StopSrc → Nat
  | .watchpoint n => n.val * 2 ^ 24 | .pin => 2 ^ 28 | .debugger => 2 * 2 ^ 28 | .broadcast => 3 * 2 ^ 28

/-- STEPST's code (R259). -/
def StepSt.code : StepSt → Nat
  | .none => 0 | .done => 1 | .trapped => 2 | .blocked => 3 | .stalled => 4

def Vermilion.stat (v : Vermilion) : Nat := v.tick.toNat * 2 ^ 32 + v.src.code + v.stepst.code * 2 ^ 20 + flagAt v.frz 0

/-- EVSTAT of a cluster (R298): ROT, and the FLAG bits of the strands that are flagged. No step of the model is in the middle of a resolution, so BUSY reads 0. -/
def State.evstat (s : State) (c : ClusterKey) : Nat :=
  let flag (i : Nat) : Nat :=
    let b := s.bank (s.coreAt c (i / 2)) (Fin.ofNat 2 i)
    flagAt (b.flagged && !b.flagSeen) (32 + i)
  (s.clu c).res.rot + ((List.range 16).map flag).sum

/-- A word of an entry of the range-lock table (R253). -/
def lockWord (e : Option Lock) (second : Bool) : Nat :=
  match e with
  | none => 0
  | some l => if second then 2 ^ 63 + flagAt l.dst 62 + l.q.val * 2 ^ 59 + l.spid.toNat * 2 ^ 32 + l.len % 2 ^ 32 else l.start.toNat

/-- A word of a ring (R239). -/
def Ring.read (r : Ring) (off : Nat) : Nat :=
  match off with
  | 0 => r.rcfg.toNat
  | 8 => r.rprd.toNat
  | 16 => r.head.toNat
  | _ => r.front.toNat

/-- A word of a watchpoint (R256). -/
def Watch.read (w : Watch) (off : Nat) : Nat :=
  match off with
  | 0 => w.wbase.toNat
  | 8 => w.wctl.toNat
  | 16 => w.wrec.toNat
  | _ => w.waddr.toNat

/-- A word of a slot-table entry (R378): ST is the state of the position's bank, and GO reads 0. -/
def State.readSlotEntry (s : State) (c : ClusterKey) (i : Fin 16) (second : Bool) : Nat :=
  let e := (s.clu c).slots[i]
  if second then e.w1.toNat
  else (setBits (setBits e.w0 63 1 0) 53 3 (s.posSt (s.slotCore c i) (slotPos i)).code).toNat

/-- A register of the block of a core (R216). -/
def State.readCore (s : State) (k : CoreKey) (off : Nat) : Nat :=
  match off with
  | 0 => s.cstat k
  | 8 => (s.core k).cswapthr.toNat
  | 16 => (s.core k).chang.toNat
  | _ => 0

/-- A register of the block of a cluster (R238, R239, R252, R253, R256, R258, R259, R261, R298, R313, R378, R384). -/
def State.readCluster (s : State) (c : ClusterKey) (off : Nat) : Nat :=
  let x := s.clu c
  match off with
  | 0x00 => x.verm.ctl
  | 0x08 => x.verm.stat
  | 0x10 => flagAt x.cqerr 0
  | 0x18 => x.cmap.toNat
  | 0x900 => x.evwatch.toNat
  | 0x908 => s.evstat c
  | o =>
    if 0x40 ≤ o ∧ o < 0xC0 then
      let k := vget x.skid ⟨0, 0⟩ ((o - 0x40) / 16)
      if o % 16 = 0 then k.w0.toNat else k.w1.toNat
    else if 0x100 ≤ o ∧ o < 0x300 then (vget x.rings Ring.reset ((o - 0x100) / 32)).read (o % 32)
    else if 0x400 ≤ o ∧ o < 0x600 then lockWord (vget x.locks none ((o - 0x400) / 16)) (o % 16 == 8)
    else if 0x600 ≤ o ∧ o < 0x700 then (vget x.watch ⟨0, 0, 0, 0⟩ ((o - 0x600) / 32)).read (o % 32)
    else if 0x800 ≤ o ∧ o < 0x900 then (vget x.snap 0 ((o - 0x800) / 8)).toNat
    else if 0xA00 ≤ o ∧ o < 0xB00 then s.readSlotEntry c (Fin.ofNat 16 ((o - 0xA00) / 16)) (o % 16 == 8)
    else if 0x2000 ≤ o ∧ o < 0x2200 then s.readCore (c * 8 + (o - 0x2000) / 64) (o % 64)
    else s.readSlots (.cluster c) o

/-- R329. The translation stations have statistics only, of which the spec lists none. -/
def State.readDie (s : State) (d off : Nat) : Nat :=
  let x := s.die d
  if off = 0x08 then x.sptb.toNat
  else if off = 0x18 then flagAt x.tinv.isNone 0
  else if 0x100 ≤ off ∧ off < 0x140 then (vget x.snap 0 ((off - 0x100) / 8)).toNat
  else if 0x1000 ≤ off ∧ off < 0x1000 + 8 * 60 then (vget x.qmap 0 ((off - 0x1000) / 8)).toNat
  else if 0x10000 ≤ off ∧ off < 0x20000 then s.readResolver (.die d) x.probe (off - 0x10000)
  else if 0xF00000 ≤ off ∧ off < 0xF00000 + 0x100 * 62 then
    let o := off - 0xF00000
    (s.quad d (o / 0x100)).read (o % 0x100)
  else if 0x1000000 ≤ off ∧ off < 0x1000000 + 0x40000 * 62 then
    let o := off - 0x1000000
    s.readCluster (clusterAt d (o / 0x40000) (o / 0x10000 % 4)) (o % 0x10000)
  else 0

/-! The command window (R405), at offsets from 2^29 on. -/

/-- HCOMP, HCCNT, the MSI-X table and its pending bits. -/
def State.readCommandWindow (s : State) (off : Nat) : Nat :=
  match off with
  | 0x100 => s.disp.hcomp.toNat
  | 0x108 => s.disp.hccnt.toNat
  | 0x9000 => s.msix.toNat
  | o => if 0x8000 ≤ o then (vget s.msixTable 0 ((o - 0x8000) / 8)).toNat else 0

/-- What a read of a register returns (R386, R449). -/
def State.readRegister (s : State) (off : Nat) : Word :=
  BitVec.ofNat 64 <|
    if off % 8 ≠ 0 then 0
    else if 2 ^ 29 ≤ off then s.readCommandWindow (off - 2 ^ 29)
    else if 0x4000000 ≤ off then (if off < 0x14000000 then s.readDie (off / 0x4000000 - 1) (off % 0x4000000) else 0)
    else
      let o := off % 0x10000
      match off / 0x10000 with
      | 0 => s.readControl o
      | 1 => s.readDispatch o
      | 2 => s.readResolver .package s.probe o
      | 3 => s.readJournal o
      | 4 => s.readIvory o
      | 5 => s.test.read o
      | 6 => if o < 0x400 then (s.links[Fin.ofNat 4 (o / 0x100)]).read (o % 0x100) else 0
      | 7 => if o < 0x1000 then (s.cxl[Fin.ofNat 16 (o / 0x100)]).read (o % 0x100) else 0
      | 8 => s.boot.read o
      | 9 => s.readFabric o
      | _ => 0

/-- n free values for the bytes of a poisoned read. -/
def State.freeBytes : Nat → State → List Byte × State
  | 0, s => ([], s)
  | n + 1, s =>
    let d := s.draw
    let r := State.freeBytes n d.2
    (d.1.setWidth 8 :: r.1, r.2)

/-- R171, R386, R404, R405: an access of the host. A read of bytes that are poisoned returns free values (log 5); one outside HBM changes nothing. -/
def execHostAccess (a : HostAccess) (s : State) : Next :=
  match a with
  | .read pa n =>
    if hbmEnd < pa + n then .next s
    else if poisoned s.poison pa n then
      let r := State.freeBytes n s
      .next { r.2 with hostData := r.1 }
    else .next { s with hostData := getBytes s.mem pa n }
  | .register off => .next { s with hostData := leBytes 8 (s.readRegister off).toNat }
  | .write pa bs => .next (if hbmEnd < pa + bs.length then s else s.store [(pa, bs.length)] bs)
  | .fetchAdd pa wide x => .next (s.hostAtomic pa wide fun old => old + x.toNat)
  | .swap pa wide x => .next (s.hostAtomic pa wide fun _ => x.toNat)
  | .cas pa wide c x =>
    let n := if wide then 64 else 32
    .next (s.hostAtomic pa wide fun old => if old = c.toNat % 2 ^ n then x.toNat else old)

end Sys2Proof.Machine
end

