-- ==== Sys2Proof/Machine/Manage.lean ====
section
/-! DEFINITION. Writes of the management registers that have no step of their own (R386, R449): the offsets of BAR0, the writable bits, and the limits that an entry states. A register whose write acts (R259, R338, R364, R378, R389, R405, R410, R437, R450 and the like) changes in the step of that name; this step then makes no change but that of the register's plain fields. -/

namespace Sys2Proof.Machine

open Sys2Proof

/-- A field held between two limits. -/
def clamp (lo hi x : Nat) : Nat := max lo (min hi x)

/-! Package control (R387), dispatch (R364), journal (R407), Ivory (R410), fabric (R424). -/

/-- R387. -/
def State.writeControl (s : State) (off : Nat) (v : Word) : State :=
  match off with
  | 0x10 => if s.fab.up = 0 then { s with ctl := { s.ctl with pkid := v.setWidth 10 } } else s
  | 0x20 => { s with ctl := { s.ctl with pfsrv := v } }
  | 0x28 => { s with ctl := { s.ctl with env := BitVec.ofNat 12 (clamp 2200 3200 (bits v 0 12)) } }
  | _ => s

/-- R364. -/
def State.writeDispatch (s : State) (off : Nat) (v : Word) : State :=
  match off with
  | 0x00 => { s with disp := { s.disp with budget := BitVec.ofNat 10 (clamp 0 960 (bits v 0 10)) } }
  | 0x08 => { s with disp := { s.disp with tree := v.getLsbD 0 } }
  | 0x10 => { s with disp := { s.disp with slice := v.setWidth 32 } }
  | o =>
    if 0x100 ≤ o ∧ o < 0x300 ∧ o % 32 = 0 then
      let q : Fin 16 := Fin.ofNat 16 ((o - 0x100) / 32)
      s.setQueue q { s.queue q with lqb := v }
    else s

/-- R424, R438 to R440. -/
def State.writeFabric (s : State) (off : Nat) (v : Word) : State :=
  let f := s.fab
  match off with
  | 0x08 => { s with fab := { f with w0 := v.setWidth 4, w1 := BitVec.ofNat 4 (bits v 4 4), w2 := BitVec.ofNat 4 (clamp 1 15 (bits v 8 4)) } }
  | 0x10 => { s with fab := { f with tmo := BitVec.ofNat 16 (clamp 1 65535 (bits v 0 16)), nsend := BitVec.ofNat 4 (clamp 1 15 (bits v 16 4)) } }
  | 0x18 => { s with fab := { f with master := v.getLsbD 62 } }
  | 0x20 => { s with fab := { f with fsrb := v } }
  | 0x28 =>
    let w := v &&& 0x800000000F0FFFFF
    let on := w.getLsbD 63 && decide (4 ≤ bits w 24 4) && decide (bits w 24 4 ≤ 12)
    { s with fab := { f with fsrc := if on then w else setBits w 63 1 0 } }
  | _ => s

/-- The host has read a record (R318, R415). -/
def markRead (ws : List Word) (v : Word) : List Word := if v.getLsbD 63 then ws.set 0 (setBits (ws.getD 0 0) 63 1 1) else ws

/-- R318: PRCTL, PRHEAD and the READ bits of the records. -/
def Probe.hostWrite (p : Probe) (off : Nat) (v : Word) : Probe :=
  match off with
  | 0x10 => { p with trap := v.getLsbD 1, en := v.getLsbD 0 }
  | 0x18 => if bits v 8 8 = 0 then p else { p with lost := 0 }
  | o =>
    if 0x100 ≤ o ∧ o < 0x500 ∧ o % 64 = 0 then
      let i : Fin 16 := Fin.ofNat 16 ((o - 0x100) / 64)
      { p with records := p.records.set i (markRead p.records[i] v) }
    else p

/-- R415: STHEAD and the READ bits of the records. -/
def SelfTest.hostWrite (t : SelfTest) (off : Nat) (v : Word) : SelfTest :=
  match off with
  | 0x00 => if bits v 8 8 = 0 then t else { t with lost := 0 }
  | o =>
    if 0x100 ≤ o ∧ o < 0x900 ∧ o % 32 = 0 then
      let i : Fin 64 := Fin.ofNat 64 ((o - 0x100) / 32)
      { t with records := t.records.set i (markRead t.records[i] v) }
    else t

/-- R418: MBCMD and the mailbox. A command that is listed is under way from then on; another number is rejected. -/
def Boot.write (b : Boot) (off : Nat) (v : Word) : Boot :=
  if off = 0x08 then
    let n := bits v 0 8
    { b with cmd := BitVec.ofNat 8 n, len := BitVec.ofNat 32 (bits v 16 32), status := if 1 ≤ n ∧ n ≤ 4 then 0 else 2 }
  else if 0x1000 ≤ off ∧ off < 0x5000 then
    { b with mailbox := (List.range 8).foldl (fun m i => insertKey (off - 0x1000 + i) (BitVec.ofNat 8 (bits v (8 * i) 8)) m) b.mailbox }
  else b

/-! The management space of a die (R329). -/

/-- R330: a QMAP entry: a write that names a quad of another valid entry, or a fenced one, is ignored. PCSIG follows the quads in service (R388). -/
def State.writeQmap (s : State) (d q : Nat) (v : Word) : State :=
  let pq := bits v 0 6
  let twice := v.getLsbD 7 && (List.range 60).any fun i => i != q && s.quadPhys d i == some pq
  if 62 ≤ pq ∨ twice = true ∨ s.quadFenced d pq = true then s
  else (s.setDie d { s.die d with qmap := (s.die d).qmap.setIfInBounds q (v &&& 0xBF) }).resign

/-- R384: CMAP takes only the exchange of a fenced streamer's field with field 7. -/
def State.writeCmap (s : State) (c : ClusterKey) (v : Word) : State :=
  let x := s.clu c
  let m : BitVec 24 := v.setWidth 24
  if [4, 5, 6].any fun r => m == cmapSwap x.cmap r && (s.core (s.coreAt c r)).fen then s.setClu c { x with cmap := m } else s

/-- R298: FLAG bits that the host clears. -/
def State.clearFlags (s : State) (c : ClusterKey) (v : Word) : State :=
  (List.range 16).foldl (fun s i =>
    let k := s.coreAt c (i / 2)
    let b : Fin 2 := Fin.ofNat 2 i
    if v.getLsbD (32 + i) && (s.bank k b).flagged then s.setBank k b { s.bank k b with flagSeen := true } else s) s

/-- R378: a slot-table word written with GO = 0, or with GO = 1 and OP = 0: an operation that is not refused, so that ERR is 0. -/
def SlotEntry.write (e : SlotEntry) (second : Bool) (v : Word) : SlotEntry :=
  let y : SlotEntry := if second then ⟨e.w0, v &&& 0x3E000⟩ else ⟨(e.w0 &&& 0x8FFF000000000000) ||| (v &&& 0x7000FFFFFFFFFFFF), e.w1⟩
  if !second && v.getLsbD 63 then y.setErr false else y

/-- R256: a word of a watchpoint. -/
def Watch.write (w : Watch) (i : Nat) (v : Word) : Watch :=
  match i with
  | 0 => { w with wbase := v }
  | 1 => { w with wctl := v &&& 0x0000FFFFFF000000 }
  | 2 => if v.getLsbD 63 then { w with wrec := setBits w.wrec 63 1 0 } else w
  | _ => w

/-- A register of the block of a cluster (R238, R239, R252, R256, R259, R298, R313, R378, R384). -/
def State.writeCluster (s : State) (c : ClusterKey) (off : Nat) (v : Word) : State :=
  let x := s.clu c
  match off with
  | 0x00 => s.writeVctl c v
  | 0x10 => if v.getLsbD 0 then s.setClu c { x with cqerr := false } else s
  | 0x18 => s.writeCmap c v
  | 0x900 => s.setClu c { x with evwatch := v.setWidth 32 }
  | 0x908 => s.clearFlags c v
  | o =>
    if 0x100 ≤ o ∧ o < 0x300 then
      let i : Fin 16 := Fin.ofNat 16 ((o - 0x100) / 32)
      if o % 32 = 8 then s.setClu c { x with rings := x.rings.set i { x.rings[i] with rprd := v &&& 0xFFFFFFFFF8000000 } } else s
    else if 0x600 ≤ o ∧ o < 0x700 then
      let i : Fin 8 := Fin.ofNat 8 ((o - 0x600) / 32)
      s.setClu c { x with watch := x.watch.set i (x.watch[i].write (o % 32 / 8) v) }
    else if 0xA00 ≤ o ∧ o < 0xB00 then
      let i : Fin 16 := Fin.ofNat 16 ((o - 0xA00) / 16)
      if o % 16 = 0 ∧ v.getLsbD 63 = true ∧ bits v 60 3 ≠ 0 then (if bits v 60 3 < 5 then s else s.refuseGo c i)
      else s.setClu c { x with slots := x.slots.set i (x.slots[i].write (o % 16 == 8) v) }
    else if 0x2000 ≤ o ∧ o < 0x2200 then
      let k := c * 8 + (o - 0x2000) / 64
      if o % 64 = 8 then s.setCore k { s.core k with cswapthr := v.setWidth 32 }
      else if o % 64 = 16 ∧ bits v 0 32 ≠ 0 then s.setCore k { s.core k with chang := v.setWidth 32 }
      else s
    else s

/-- A register of the management space of a die (R329). -/
def State.writeDie (s : State) (d off : Nat) (v : Word) : State :=
  if off = 0x08 then s.setDie d { s.die d with sptb := v &&& 0x000FFFFFFF000000 }
  else if 0x1000 ≤ off ∧ off < 0x1000 + 8 * 60 then s.writeQmap d ((off - 0x1000) / 8) v
  else if 0x10000 ≤ off ∧ off < 0x20000 then s.setDie d { s.die d with probe := (s.die d).probe.hostWrite (off - 0x10000) v }
  else if 0x1000000 ≤ off ∧ off < 0x1000000 + 0x40000 * 62 then
    let o := off - 0x1000000
    s.writeCluster (clusterAt d (o / 0x40000) (o / 0x10000 % 4)) (o % 0x10000) v
  else s

/-- The writable bits of a word of the MSI-X table: of a vector's second word, its data and its mask bit (R405, log 58). -/
def msixMask (i : Nat) : Word := if i % 2 = 0 then 0xFFFFFFFFFFFFFFFC else 0x00000001FFFFFFFF

/-- R405: the MSI-X table, in the command window. -/
def State.writeMsix (s : State) (i : Nat) (v : Word) : State :=
  { s with msixTable := s.msixTable.setIfInBounds i (v &&& msixMask i) }

/-- R386: the block of an offset; from 2^29 on, the command window. -/
def State.writeRegister (s : State) (off : Nat) (v : Word) : State :=
  if off % 8 ≠ 0 then s
  else if 2 ^ 29 + 0x8000 ≤ off then s.writeMsix ((off - 2 ^ 29 - 0x8000) / 8) v
  else if 0x4000000 ≤ off then
    if off < 0x14000000 then s.writeDie (off / 0x4000000 - 1) (off % 0x4000000) v else s
  else match off / 0x10000 with
    | 0 => s.writeControl off v
    | 1 => s.writeDispatch (off % 0x10000) v
    | 2 => { s with probe := s.probe.hostWrite (off % 0x10000) v }
    | 3 => if off % 0x10000 = 0 then { s with jrn := { s.jrn with jbase := v &&& 0x000FFFFFFFFFF000 } } else s
    | 4 => if off % 0x10000 = 0 then { s with ivory := { s.ivory with enables := BitVec.ofNat 4 (bits v 2 4) } } else s
    | 5 => { s with test := s.test.hostWrite (off % 0x10000) v }
    | 8 => { s with boot := s.boot.write (off % 0x10000) v }
    | 9 => s.writeFabric (off % 0x10000) v
    | _ => s

/-- R449. -/
def execRegisterWrite (off : Nat) (v : Word) (s : State) : Next := .next (s.writeRegister off v)

end Sys2Proof.Machine
end

