-- ==== Sys2Proof/Machine/Schedule.lean ====
section
/-! DEFINITION. The order in which the agents of the package act where the agenda names none, the fetch of an instruction word (R56, R111, R203), and the placing of one instruction word where the next fetch reads. The spec leaves the order of agents open (R9 to R11): DESIGN CHOICE, log 10. -/

namespace Sys2Proof.Machine

open Sys2Proof

/-! Work that is due. Each entry is a step of the package; one that is not enabled changes nothing. -/

/-- What a bank owes. -/
def State.bankMoves (s : State) (k : CoreKey) (b : Fin 2) : List (State → Next) :=
  let x := s.bank k b
  (if x.trapped.isEmpty then [] else [execTrapEntry k b]) ++
  ((List.range x.pend.length).map fun n => execLongLatencyWriteback k b n none) ++
  (if x.store.isNone then [] else [execStoreAcceptance k b none]) ++
  (if x.endDue then [execLoopEnd k b] else []) ++
  (match x.st with
   | .spilling => [execSpill k]
   | .restoring => [execRestoreComplete k none]
   | .bound => (if x.leaving then [execSpill k] else []) ++
     ((List.finRange 8).filter fun n => bits x.ctx.binds[n] 0 4 == 2 && x.pend.all fun p => p.slot.isNone).map (execReload k b)
   | _ => [])

/-- A swap of a core that is under way or put off. -/
def Core.swapMoves (c : Core) (k : CoreKey) : List (State → Next) := if c.swapping then [fun s => .next (s.swapMove k)] else []

/-- What the engines of a cluster owe. -/
def clusterMoves (c : ClusterKey) (x : Cluster) : List (State → Next) :=
  x.cmds.flatMap fun m => match m.st with
    | .queued => [execCommandLaunch c m.q]
    | .running => (m.op.map fun o => Op.step c m.id o).toList
    | .finished => [execCommandCompletion c m.id]
    | .faulted _ => [execCommandStop c m.id]
    | .stopped => []

/-- Some resolver holds a slot. -/
def State.anySlot (s : State) : Bool := s.homes.any fun h => !(s.resolver h).slots.isEmpty

/-- The resolve boundaries, those of the finest level first (R299). -/
def State.resolveMoves (s : State) : List (State → Next) :=
  if s.anySlot then [execResolution [.cluster 0], execResolution [.die 0], execResolution [.package]] else []

/-- What the probe, quads and stations of a die owe. -/
def dieMoves (d : Nat) (x : Die) : List (State → Next) :=
  (x.probe.pending.filter fun v => v.set.isEmpty).map (fun v => execProbe (.die d) v.flagged.ln v.flagged.lid) ++
  (if x.probe.pending.isEmpty then [] else [execProbeRecheck (.die d)]) ++
  (x.quads.flatMap fun q => if q.2.fused then (List.finRange 16).map (execFusedStageStep d q.1) else []) ++
  (x.walks.map fun w => execTranslationWalk d w.spid w.va) ++
  (if x.tinv.isNone then [] else [execTstatDone d])

/-- What the package as a whole owes. A window that another package's home closes is no work of this one (R356). -/
def State.packageMoves (s : State) : List (State → Next) :=
  (s.probe.pending.filter fun v => v.set.isEmpty).map (fun v => execProbe .package v.flagged.ln v.flagged.lid) ++
  (if s.probe.pending.isEmpty then [] else [execProbeRecheck .package]) ++
  ((s.folds.filter fun g => decide (g.desc < 2 ^ 48)).map fun g => execWindowClose g.desc) ++
  (if s.fab.reports.isEmpty then [] else [execFaultReport]) ++
  (if s.ctl.rdy && s.ctl.dup != 15 then [fun t => .next t.killLost] else []) ++
  (s.disp.launches.map fun l => execLaunchCompletion l.ln) ++
  ((List.finRange 16).filter fun q => !(s.queue q).recs.isEmpty).map execLaunchReport

/-- All that is due, in the order in which it is done: what events deliver before anything else (R310). -/
def State.moves (s : State) : List (State → Next) :=
  ((List.range s.deliveries.length).map execEventDelivery) ++
  (s.cores.flatMap fun e => s.bankMoves e.1 0 ++ s.bankMoves e.1 1 ++ e.2.swapMoves e.1) ++
  (s.clusters.flatMap fun e => clusterMoves e.1 e.2) ++
  s.resolveMoves ++
  ((List.finRange 4).flatMap fun d => dieMoves d.val s.dies[d]) ++
  s.packageMoves

/-- The first of a list of steps that changes the state. -/
def firstMove (s : State) : List (State → Next) → Option State
  | [] => none
  | f :: l =>
    match f s with
    | .next t => if t = s then firstMove s l else some t
    | _ => firstMove s l

/-- The state after the first step that is due. -/
def State.due (s : State) : Option State := firstMove s s.moves

/-! Which core issues. -/

/-- The instruction of the core that issues has been held. -/
def State.heldNow (s : State) : Bool :=
  match s.issuing with
  | some (k, b) => (s.bank k b).held
  | none => true

/-- The next core after the current one, in order of keys and cyclically, on which a strand may issue. -/
def State.nextCore (s : State) : CoreKey :=
  let ks := (s.cores.map (·.1)).filter fun k => (s.issuingOn k).isSome
  match ks.find? fun k => decide (s.cur < k) with
  | some k => k
  | none => ks.headD s.cur

/-- Where the current strand is held, a tick passes and the next core has its turn. -/
def State.turn (s : State) : Next :=
  if s.heldNow then
    match execCeruleanTick s with
    | .next t => .next { t with cur := t.nextCore }
    | o => o
  else .next s

/-- The six cycles of a stop are over (R258). -/
def State.endGrace (s : State) : State :=
  if s.clusters.any fun e => e.2.verm.grace then
    { s with clusters := s.clusters.map fun e => (e.1, { e.2 with verm := { e.2.verm with grace := false } }) }
  else s

/-- Some core is being stepped. -/
def State.stepping (s : State) : Bool := s.clusters.any fun e => e.2.verm.stepping.isSome

/-- The steps that have ended end. -/
def State.closeSteps (s : State) : State := if s.stepping then s.endSteps else s

/-- The steps that the boot block answers while the ROM is in recovery (R416, R418): its commands, and writes and reads of its registers. -/
def bootBlockStep : Instr → Bool
  | .loadFirmware _ _ | .installImageKey _ _ _ | .attest _ | .setOwnerKeyDigest _ => true
  | .registerWrite off _ | .hostAccess (.register off) => off / 0x10000 == 8
  | _ => false

/-! Fetch. -/

/-- The location of the word that a strand fetches (R111, R336). The fetch waits for its landing slots (R328). -/
def State.fetchAt (s : State) (k : CoreKey) (b : Fin 2) : Chk (List (Nat × Nat)) :=
  let p := (s.bank k b).curPc.toNat
  match s.place k p 4 with
  | some (.virt va) => if s.readFull (s.view k b) (.virt va) 4 then .error .wait else s.targetChecks (s.view k b) (.virt va) 4 .fetch
  | _ => .error (.trap .addrWindow 0)

/-- The instruction cache of a cluster at a location whose word in memory is w: it gives the word that it holds. One that memory has changed since is fetched with its old value or its new one, by a free value (R203, log 5), and held so from then on. -/
def State.cacheFetch (s : State) (c : ClusterKey) (loc : Nat) (w : BitVec 32) : BitVec 32 × State :=
  let old := lookupD w (s.clu c).icache loc
  let hold (v : BitVec 32) (t : State) : BitVec 32 × State := (v, t.mapClu c fun x => { x with icache := insertKey loc v x.icache })
  if old = w then hold w s
  else
    let d := s.draw
    hold (if d.1.getLsbD 0 then old else w) d.2

/-- The word that a strand fetches, and the package after the fetch. -/
def State.fetchWord (s : State) (k : CoreKey) (b : Fin 2) : Chk (BitVec 32 × State) :=
  match s.fetchAt k b with
  | .error e => .error e
  | .ok ps =>
    match ps, wordOfBytes (s.load ps) with
    | (loc, _) :: _, some w => .ok (s.cacheFetch (clusterOf k) loc w)
    | _, _ => .error .wait

/-- The word of an instruction that has issued and waits at the strand's pc, which does not issue again (R323). -/
def Bank.waitingWord (b : Bank) : Option (BitVec 32) :=
  match b.word with
  | some (p, w) => if p = b.curPc then some w else none
  | none => none

/-- After the instruction w at address p: a strand that it leaves BLOCKED there has it issued and waiting (R323). -/
def State.noteWord (s : State) (k : CoreKey) (b : Fin 2) (p : Word) (w : BitVec 32) : State :=
  let x := s.bank k b
  if (x.wait.elim false WaitKind.blocks) && x.curPc == p then s.setBank k b { x with word := some (p, w) } else s

/-- A fetch that waits for a link, or that traps at the target instruction with tval the target (R111). -/
def fetchStop (s : State) (k : CoreKey) (b : Fin 2) : Stop → Next
  | .wait => .next (s.holdIssue k b)
  | .trap c d => issueWith s (foot [] []) (fun bk _ => some ⟨c, bk.curPc, BitVec.ofNat 8 d⟩) fun _ _ _ => .wait

/-! A word placed where step fetches. -/

/-- The page tables of space 0 (R333, R337): one page of 1 GiB at physical 0x4000_0000, read, write and execute. -/
def bootTables : List (Nat × Nat) :=
  [(0x0, 0x1001), (0x1000, 0x2001), (0x2000, 0x3001), (0x3000, 0x4000001F)]

/-- The cluster's stop is over, so that its cores issue. -/
def Cluster.thaw (x : Cluster) : Cluster := { x with verm := x.verm.run }

/-- A strand bound to bank 0 of core 0 of die 0, its space mapped and its pc at the start of its program, and nothing that keeps it from issuing. -/
def State.bootStrand (s : State) : State :=
  let s1 : State :=
    { s with
      mem := bootTables.foldl (fun m e => putBytes m e.1 (leBytes 8 e.2)) s.mem
      poison := bootTables.foldl (fun p e => unpoison p e.1 8) s.poison
      ctl := { s.ctl with tripped := false }
      boot := { s.boot with stage := if s.boot.stage = 1 then 3 else s.boot.stage }
      disp := { s.disp with launches := s.disp.launches.filter fun l => l.ln != 0 }
      cur := 0 }
  let s2 := s1.setDie 0 { s1.die 0 with sptb := 0, tlb := [], spaces := [], walks := [] }
  let s3 := s2.setCore 0 { Core.reset with b0 := { Bank.empty with st := .bound, wsp := 0x3E000, pc := 0x8000000000010000 } }
  s3.setClu 0 (s3.clu 0).thaw

/-- The word stored where the strand that issues fetches. -/
def State.placeWord (s : State) (w : Nat) : Option State :=
  match s.issuing with
  | none => none
  | some (k, b) =>
    match s.fetchAt k b with
    | .ok [(loc, 4)] =>
      some ((s.put loc (bytesOfWord w)).mapClu (clusterOf k) fun x => { x with icache := x.icache.filter fun e => e.1 != loc })
    | _ => none

/-- The word w placed, and the turn given to its strand. -/
def State.withWord (s : State) (w : Nat) : State :=
  let s1 := match s.placeWord w with
    | some t => t
    | none => (s.bootStrand.placeWord w).getD s.bootStrand
  if s1.due.isNone && !s1.heldNow then { s1 with agenda := [] } else { s1 with agenda := [.core s1.cur] }

end Sys2Proof.Machine
end

