-- ==== Sys2Proof/Machine/Dispatch.lean ====
section
/-! DEFINITION. One arm per constructor of Instr, each one call of its meaning. -/

namespace Sys2Proof.Machine

open Sys2Proof

def exec (i : Instr) (s : State) : Host.Outcome State Fault Refusal :=
  match i with
  | .add d a b t p => Sys2Proof.Machine.execAdd d a b t p s
  | .sub d a b t p => Sys2Proof.Machine.execSub d a b t p s
  | .mul d a b t p => Sys2Proof.Machine.execMul d a b t p s
  | .mulh d a b t p => Sys2Proof.Machine.execMulh d a b t p s
  | .mulhn d a b t p => Sys2Proof.Machine.execMulhn d a b t p s
  | .and d a b t p => Sys2Proof.Machine.execAnd d a b t p s
  | .or d a b t p => Sys2Proof.Machine.execOr d a b t p s
  | .xor d a b t p => Sys2Proof.Machine.execXor d a b t p s
  | .shl d a b t p => Sys2Proof.Machine.execShl d a b t p s
  | .shr d a b t p => Sys2Proof.Machine.execShr d a b t p s
  | .sha d a b t p => Sys2Proof.Machine.execSha d a b t p s
  | .rol d a b t p => Sys2Proof.Machine.execRol d a b t p s
  | .clz d a t p => Sys2Proof.Machine.execClz d a t p s
  | .ctz d a t p => Sys2Proof.Machine.execCtz d a t p s
  | .popc d a t p => Sys2Proof.Machine.execPopc d a t p s
  | .min d a b t p => Sys2Proof.Machine.execMin d a b t p s
  | .max d a b t p => Sys2Proof.Machine.execMax d a b t p s
  | .minn d a b t p => Sys2Proof.Machine.execMinn d a b t p s
  | .maxn d a b t p => Sys2Proof.Machine.execMaxn d a b t p s
  | .slt d a b t p => Sys2Proof.Machine.execSlt d a b t p s
  | .sltn d a b t p => Sys2Proof.Machine.execSltn d a b t p s
  | .sel d a b p => Sys2Proof.Machine.execSel d a b p s
  | .addi d a x p => Sys2Proof.Machine.execAddi d a x p s
  | .andi d a x p => Sys2Proof.Machine.execAndi d a x p s
  | .ori d a x p => Sys2Proof.Machine.execOri d a x p s
  | .xori d a x p => Sys2Proof.Machine.execXori d a x p s
  | .li d x p => Sys2Proof.Machine.execLi d x p s
  | .lih d x p => Sys2Proof.Machine.execLih d x p s
  | .lea d a b p => Sys2Proof.Machine.execLea d a b p s
  | .leaX2 d a b p => Sys2Proof.Machine.execLeaX2 d a b p s
  | .leaX4 d a b p => Sys2Proof.Machine.execLeaX4 d a b p s
  | .leaX8 d a b p => Sys2Proof.Machine.execLeaX8 d a b p s
  | .chk a b => Sys2Proof.Machine.execChk a b s
  | .div d a b h => Sys2Proof.Machine.execDiv d a b h s
  | .divn d a b h => Sys2Proof.Machine.execDivn d a b h s
  | .rem d a b h => Sys2Proof.Machine.execRem d a b h s
  | .remn d a b h => Sys2Proof.Machine.execRemn d a b h s
  | .divS32 d a b h => Sys2Proof.Machine.execDivS32 d a b h s
  | .divnN32 d a b h => Sys2Proof.Machine.execDivnN32 d a b h s
  | .remS32 d a b h => Sys2Proof.Machine.execRemS32 d a b h s
  | .remnN32 d a b h => Sys2Proof.Machine.execRemnN32 d a b h s
  | .fsqrt d a f r h => Sys2Proof.Machine.execFsqrt d a f r h s
  | .fdiv d a b f r h => Sys2Proof.Machine.execFdiv d a b f r h s
  | .easgn d x h => Sys2Proof.Machine.execEasgn d x h s
  | .earnd d x r h => Sys2Proof.Machine.execEarnd d x r h s
  | .easts d x h => Sys2Proof.Machine.execEasts d x h s
  | .halloc d a b h => Sys2Proof.Machine.execHalloc d a b h s
  | .hfree a b h => Sys2Proof.Machine.execHfree a b h s
  | .foldmark a h => Sys2Proof.Machine.execFoldmark a h s
  | .beq a b o => Sys2Proof.Machine.execBeq a b o s
  | .bne a b o => Sys2Proof.Machine.execBne a b o s
  | .blt a b o => Sys2Proof.Machine.execBlt a b o s
  | .bge a b o => Sys2Proof.Machine.execBge a b o s
  | .bltn a b o => Sys2Proof.Machine.execBltn a b o s
  | .bgen a b o => Sys2Proof.Machine.execBgen a b o s
  | .bz a o => Sys2Proof.Machine.execBz a o s
  | .bnz a o => Sys2Proof.Machine.execBnz a o s
  | .j o => Sys2Proof.Machine.execJ o s
  | .call o => Sys2Proof.Machine.execCall o s
  | .jr a => Sys2Proof.Machine.execJr a s
  | .ret => Sys2Proof.Machine.execRet s
  | .callr a => Sys2Proof.Machine.execCallr a s
  | .loop a n => Sys2Proof.Machine.execLoop a n s
  | .loopi a b c n => Sys2Proof.Machine.execLoopi a b c n s
  | .loopEnd k b => Sys2Proof.Machine.execLoopEnd k b s
  | .nop => Sys2Proof.Machine.execNop s
  | .trap n => Sys2Proof.Machine.execTrap n s
  | .eret => Sys2Proof.Machine.execEret s
  | .swapw a => Sys2Proof.Machine.execSwapw a s
  | .phase => Sys2Proof.Machine.execPhase s
  | .retire => Sys2Proof.Machine.execRetire s
  | .snap => Sys2Proof.Machine.execSnap s
  | .waitt a => Sys2Proof.Machine.execWaitt a s
  | .rds d x p => Sys2Proof.Machine.execRds d x p s
  | .wrs a x => Sys2Proof.Machine.execWrs a x s
  | .ldS8 d b o h => Sys2Proof.Machine.execLdS8 d b o h s
  | .ldN8 d b o h => Sys2Proof.Machine.execLdN8 d b o h s
  | .ldS16 d b o h => Sys2Proof.Machine.execLdS16 d b o h s
  | .ldN16 d b o h => Sys2Proof.Machine.execLdN16 d b o h s
  | .ldS32 d b o h => Sys2Proof.Machine.execLdS32 d b o h s
  | .ldN32 d b o h => Sys2Proof.Machine.execLdN32 d b o h s
  | .ldD d b o h => Sys2Proof.Machine.execLdD d b o h s
  | .stB r b o => Sys2Proof.Machine.execStB r b o s
  | .stH r b o => Sys2Proof.Machine.execStH r b o s
  | .stW r b o => Sys2Proof.Machine.execStW r b o s
  | .stD r b o => Sys2Proof.Machine.execStD r b o s
  | .vld d e b x k h => Sys2Proof.Machine.execVld d e b x k h s
  | .vlds d e b x k h => Sys2Proof.Machine.execVlds d e b x k h s
  | .vldx d e b x k h => Sys2Proof.Machine.execVldx d e b x k h s
  | .vst r e b x k => Sys2Proof.Machine.execVst r e b x k s
  | .vstx r e b x k => Sys2Proof.Machine.execVstx r e b x k s
  | .aadd d c b t r h => Sys2Proof.Machine.execAadd d c b t r h s
  | .amin d c b t r h => Sys2Proof.Machine.execAmin d c b t r h s
  | .amax d c b t r h => Sys2Proof.Machine.execAmax d c b t r h s
  | .axchg d c b t r h => Sys2Proof.Machine.execAxchg d c b t r h s
  | .acas d c b t r h => Sys2Proof.Machine.execAcas d c b t r h s
  | .afadd d c b t r h => Sys2Proof.Machine.execAfadd d c b t r h s
  | .afaddDet d c b t h => Sys2Proof.Machine.execAfaddDet d c b t h s
  | .fence k r => Sys2Proof.Machine.execFence k r s
  | .fadd d a b f r p => Sys2Proof.Machine.execFadd d a b f r p s
  | .fsub d a b f r p => Sys2Proof.Machine.execFsub d a b f r p s
  | .fmul d a b f r p => Sys2Proof.Machine.execFmul d a b f r p s
  | .ffma d a b f r p => Sys2Proof.Machine.execFfma d a b f r p s
  | .ffms d a b f r p => Sys2Proof.Machine.execFfms d a b f r p s
  | .fmin d a b f p => Sys2Proof.Machine.execFmin d a b f p s
  | .fmax d a b f p => Sys2Proof.Machine.execFmax d a b f p s
  | .fcmpEq d a b f p => Sys2Proof.Machine.execFcmpEq d a b f p s
  | .fcmpNe d a b f p => Sys2Proof.Machine.execFcmpNe d a b f p s
  | .fcmpLt d a b f p => Sys2Proof.Machine.execFcmpLt d a b f p s
  | .fcmpLe d a b f p => Sys2Proof.Machine.execFcmpLe d a b f p s
  | .fcmpUn d a b f p => Sys2Proof.Machine.execFcmpUn d a b f p s
  | .fclass d a f p => Sys2Proof.Machine.execFclass d a f p s
  | .fsgnCp d a b f p => Sys2Proof.Machine.execFsgnCp d a b f p s
  | .fsgnNg d a b f p => Sys2Proof.Machine.execFsgnNg d a b f p s
  | .fsgnXr d a b f p => Sys2Proof.Machine.execFsgnXr d a b f p s
  | .fcvt d a y t r => Sys2Proof.Machine.execFcvt d a y t r s
  | .mand d a b => Sys2Proof.Machine.execMand d a b s
  | .mor d a b => Sys2Proof.Machine.execMor d a b s
  | .mxor d a b => Sys2Proof.Machine.execMxor d a b s
  | .mnot d a => Sys2Proof.Machine.execMnot d a s
  | .mpop d a p => Sys2Proof.Machine.execMpop d a p s
  | .bmany a o => Sys2Proof.Machine.execBmany a o s
  | .bmall a o => Sys2Proof.Machine.execBmall a o s
  | .vadd d a b k t r p => Sys2Proof.Machine.execVadd d a b k t r p s
  | .vsub d a b k t r p => Sys2Proof.Machine.execVsub d a b k t r p s
  | .vmul d a b k t r p => Sys2Proof.Machine.execVmul d a b k t r p s
  | .vdiv d a b k f r h => Sys2Proof.Machine.execVdiv d a b k f r h s
  | .vmin d a b k t p => Sys2Proof.Machine.execVmin d a b k t p s
  | .vmax d a b k t p => Sys2Proof.Machine.execVmax d a b k t p s
  | .vand d a b k t p => Sys2Proof.Machine.execVand d a b k t p s
  | .vor d a b k t p => Sys2Proof.Machine.execVor d a b k t p s
  | .vxor d a b k t p => Sys2Proof.Machine.execVxor d a b k t p s
  | .vshl d a b k t p => Sys2Proof.Machine.execVshl d a b k t p s
  | .vshr d a b k t p => Sys2Proof.Machine.execVshr d a b k t p s
  | .vcmpEq d a b k t => Sys2Proof.Machine.execVcmpEq d a b k t s
  | .vcmpNe d a b k t => Sys2Proof.Machine.execVcmpNe d a b k t s
  | .vcmpLt d a b k t => Sys2Proof.Machine.execVcmpLt d a b k t s
  | .vcmpLe d a b k t => Sys2Proof.Machine.execVcmpLe d a b k t s
  | .vcmpUn d a b k t => Sys2Proof.Machine.execVcmpUn d a b k t s
  | .vsel d a b k p => Sys2Proof.Machine.execVsel d a b k p s
  | .vbcast r v k t p => Sys2Proof.Machine.execVbcast r v k t p s
  | .vext r v n t p => Sys2Proof.Machine.execVext r v n t p s
  | .vins r v n t p => Sys2Proof.Machine.execVins r v n t p s
  | .vshuf d a b k p => Sys2Proof.Machine.execVshuf d a b k p s
  | .vredAdd y v r k t p => Sys2Proof.Machine.execVredAdd y v r k t p s
  | .vredMin r v k t p => Sys2Proof.Machine.execVredMin r v k t p s
  | .vredMax r v k t p => Sys2Proof.Machine.execVredMax r v k t p s
  | .vcvt d a y t k r => Sys2Proof.Machine.execVcvt d a y t k r s
  | .vsqrt d a k f r h => Sys2Proof.Machine.execVsqrt d a k f r h s
  | .vabs d a k t p => Sys2Proof.Machine.execVabs d a k t p s
  | .vneg d a k t p => Sys2Proof.Machine.execVneg d a k t p s
  | .viota d k t p => Sys2Proof.Machine.execViota d k t p s
  | .eamac x a b f h => Sys2Proof.Machine.execEamac x a b f h s
  | .eamacNg x a b f h => Sys2Proof.Machine.execEamacNg x a b f h s
  | .eamac3 x a b c f h => Sys2Proof.Machine.execEamac3 x a b c f h s
  | .eamac3Ng x a b c f h => Sys2Proof.Machine.execEamac3Ng x a b c f h s
  | .eaclr x => Sys2Proof.Machine.execEaclr x s
  | .eaadd x r h => Sys2Proof.Machine.execEaadd x r h s
  | .eaaddNg x r h => Sys2Proof.Machine.execEaaddNg x r h s
  | .xop r d a b h => Sys2Proof.Machine.execXop r d a b h s
  | .xcfg r b h => Sys2Proof.Machine.execXcfg r b h s
  | .xdrop r h => Sys2Proof.Machine.execXdrop r h s
  | .offer d e a => Sys2Proof.Machine.execOffer d e a s
  | .choose d => Sys2Proof.Machine.execChoose d s
  | .poll d => Sys2Proof.Machine.execPoll d s
  | .withdraw d => Sys2Proof.Machine.execWithdraw d s
  | .evjoin e => Sys2Proof.Machine.execEvjoin e s
  | .evleave e => Sys2Proof.Machine.execEvleave e s
  | .evbind d e a => Sys2Proof.Machine.execEvbind d e a s
  | .evbindU e a => Sys2Proof.Machine.execEvbindU e a s
  | .rqpush d v a => Sys2Proof.Machine.execRqpush d v a s
  | .rqpop d t a => Sys2Proof.Machine.execRqpop d t a s
  | .qpushSl d a r => Sys2Proof.Machine.execQpushSl d a r s
  | .qpushGth d a => Sys2Proof.Machine.execQpushGth d a s
  | .qpushCpy d a => Sys2Proof.Machine.execQpushCpy d a s
  | .qstat d a => Sys2Proof.Machine.execQstat d a s
  | .mgang d a => Sys2Proof.Machine.execMgang d a s
  | .fuse d a => Sys2Proof.Machine.execFuse d a s
  | .unfuse d => Sys2Proof.Machine.execUnfuse d s
  | .rwr d r n => Sys2Proof.Machine.execRwr d r n s
  | .rwrs d r n g => Sys2Proof.Machine.execRwrs d r n g s
  | .rrd d r n g => Sys2Proof.Machine.execRrd d r n g s
  | .radd d n t => Sys2Proof.Machine.execRadd d n t s
  | .raddDetF64 d n => Sys2Proof.Machine.execRaddDetF64 d n s
  | .raddDetF32 d n => Sys2Proof.Machine.execRaddDetF32 d n s
  | .radds d n g t => Sys2Proof.Machine.execRadds d n g t s
  | .vfma r d a b c k p f => Sys2Proof.Machine.execVfma r d a b c k p f s
  | .vfms r d a b c k p f => Sys2Proof.Machine.execVfms r d a b c k p f s
  | .illegal w => Sys2Proof.Machine.execIllegal w s
  | .mmaBb c x => Sys2Proof.Machine.execMmaBb c x s
  | .mmaE4 c x => Sys2Proof.Machine.execMmaE4 c x s
  | .mmaE5 c x => Sys2Proof.Machine.execMmaE5 c x s
  | .mmaDd c x => Sys2Proof.Machine.execMmaDd c x s
  | .mmaF4 c x => Sys2Proof.Machine.execMmaF4 c x s
  | .mmaP8 c x => Sys2Proof.Machine.execMmaP8 c x s
  | .mmaPi c x => Sys2Proof.Machine.execMmaPi c x s
  | .mzero c x => Sys2Proof.Machine.execMzero c x s
  | .mdrain c x => Sys2Proof.Machine.execMdrain c x s
  | .mswap c x => Sys2Proof.Machine.execMswap c x s
  | .mscale c x => Sys2Proof.Machine.execMscale c x s
  | .msts c x => Sys2Proof.Machine.execMsts c x s
  | .qinit c x => Sys2Proof.Machine.execQinit c x s
  | .qacc c x => Sys2Proof.Machine.execQacc c x s
  | .qapl c x => Sys2Proof.Machine.execQapl c x s
  | .qaplt c x => Sys2Proof.Machine.execQaplt c x s
  | .qapr c x => Sys2Proof.Machine.execQapr c x s
  | .qaprt c x => Sys2Proof.Machine.execQaprt c x s
  | .qrcp c x => Sys2Proof.Machine.execQrcp c x s
  | .qsave c x => Sys2Proof.Machine.execQsave c x s
  | .qload c x => Sys2Proof.Machine.execQload c x s
  | .gthr c x => Sys2Proof.Machine.execGthr c x s
  | .cpy c x => Sys2Proof.Machine.execCpy c x s
  | .cpy2d c x => Sys2Proof.Machine.execCpy2d c x s
  | .fill c x => Sys2Proof.Machine.execFill c x s
  | .commandLaunch c q => Sys2Proof.Machine.execCommandLaunch c q s
  | .commandCompletion c x => Sys2Proof.Machine.execCommandCompletion c x s
  | .commandStop c x => Sys2Proof.Machine.execCommandStop c x s
  | .fusedStageStep d pq j => Sys2Proof.Machine.execFusedStageStep d pq j s
  | .fusionFault d pq j cause => Sys2Proof.Machine.execFusionFault d pq j cause s
  | .longLatencyWriteback k b n far => Sys2Proof.Machine.execLongLatencyWriteback k b n far s
  | .storeAcceptance k b far => Sys2Proof.Machine.execStoreAcceptance k b far s
  | .trapEntry k b => Sys2Proof.Machine.execTrapEntry k b s
  | .resolution homes => Sys2Proof.Machine.execResolution homes s
  | .eventDelivery n => Sys2Proof.Machine.execEventDelivery n s
  | .ceruleanTick => Sys2Proof.Machine.execCeruleanTick s
  | .faultReport => Sys2Proof.Machine.execFaultReport s
  | .resume tag sid ptr => Sys2Proof.Machine.execResume tag sid ptr s
  | .skip tag sid ptr => Sys2Proof.Machine.execSkip tag sid ptr s
  | .kill tag sid ptr => Sys2Proof.Machine.execKill tag sid ptr s
  | .edit tag sid pairs => Sys2Proof.Machine.execEdit tag sid pairs s
  | .discard tag sid ptr => Sys2Proof.Machine.execDiscard tag sid ptr s
  | .stallFlag ln lid => Sys2Proof.Machine.execStallFlag ln lid s
  | .probe h ln lid => Sys2Proof.Machine.execProbe h ln lid s
  | .probeRecheck h => Sys2Proof.Machine.execProbeRecheck h s
  | .hang k selfCheck => Sys2Proof.Machine.execHang k selfCheck s
  | .remap k => Sys2Proof.Machine.execRemap k s
  | .migration k b dest => Sys2Proof.Machine.execMigration k b dest s
  | .swapThreshold k => Sys2Proof.Machine.execSwapThreshold k s
  | .timeSlice k => Sys2Proof.Machine.execTimeSlice k s
  | .create c slot ln lid wsp => Sys2Proof.Machine.execCreate c slot ln lid wsp s
  | .restore c slot ln lid wsp => Sys2Proof.Machine.execRestore c slot ln lid wsp s
  | .unbind c slot => Sys2Proof.Machine.execUnbind c slot s
  | .makeActive c slot => Sys2Proof.Machine.execMakeActive c slot s
  | .spill k => Sys2Proof.Machine.execSpill k s
  | .restoreComplete k bad => Sys2Proof.Machine.execRestoreComplete k bad s
  | .reload k b r => Sys2Proof.Machine.execReload k b r s
  | .recordAccept q => Sys2Proof.Machine.execRecordAccept q s
  | .claimTimeout q => Sys2Proof.Machine.execClaimTimeout q s
  | .admission q ln places slots => Sys2Proof.Machine.execAdmission q ln places slots s
  | .lstart ln => Sys2Proof.Machine.execLstart ln s
  | .launchStart => Sys2Proof.Machine.execLaunchStart s
  | .launchCompletion ln => Sys2Proof.Machine.execLaunchCompletion ln s
  | .launchReport q => Sys2Proof.Machine.execLaunchReport q s
  | .windowClose desc => Sys2Proof.Machine.execWindowClose desc s
  | .stepTimeout c => Sys2Proof.Machine.execStepTimeout c s
  | .stop c scope => Sys2Proof.Machine.execStop c scope s
  | .run c => Sys2Proof.Machine.execRun c s
  | .rtick c => Sys2Proof.Machine.execRtick c s
  | .step c score => Sys2Proof.Machine.execStep c score s
  | .externalDebugPin c scope => Sys2Proof.Machine.execExternalDebugPin c scope s
  | .arm => Sys2Proof.Machine.execArm s
  | .host => Sys2Proof.Machine.execHost s
  | .ivoryPin => Sys2Proof.Machine.execIvoryPin s
  | .ivoryLatch => Sys2Proof.Machine.execIvoryLatch s
  | .tinv d v => Sys2Proof.Machine.execTinv d v s
  | .tstatDone d => Sys2Proof.Machine.execTstatDone d s
  | .translationWalk d sp va => Sys2Proof.Machine.execTranslationWalk d sp va s
  | .crossbarMessage d out reply inputs => Sys2Proof.Machine.execCrossbarMessage d out reply inputs s
  | .flitReplay l ok => Sys2Proof.Machine.execFlitReplay l ok s
  | .retrain l spare => Sys2Proof.Machine.execRetrain l spare s
  | .retrainComplete l => Sys2Proof.Machine.execRetrainComplete l s
  | .retrainAttemptFail l => Sys2Proof.Machine.execRetrainAttemptFail l s
  | .up l => Sys2Proof.Machine.execUp l s
  | .rt l => Sys2Proof.Machine.execRt l s
  | .packetIngress p => Sys2Proof.Machine.execPacketIngress p s
  | .packetAck port seq r => Sys2Proof.Machine.execPacketAck port seq r s
  | .packetResend port seq => Sys2Proof.Machine.execPacketResend port seq s
  | .remoteSignalUpdate src opId => Sys2Proof.Machine.execRemoteSignalUpdate src opId s
  | .rrdReply opId off bytes => Sys2Proof.Machine.execRrdReply opId off bytes s
  | .syncMessage off inSync => Sys2Proof.Machine.execSyncMessage off inSync s
  | .hostAccess a => Sys2Proof.Machine.execHostAccess a s
  | .lqdb q v => Sys2Proof.Machine.execLqdb q v s
  | .hcompWrite v => Sys2Proof.Machine.execHcompWrite v s
  | .lqcfgWrite q v => Sys2Proof.Machine.execLqcfgWrite q v s
  | .rcfgWrite c x v => Sys2Proof.Machine.execRcfgWrite c x v s
  | .jcfgWrite v => Sys2Proof.Machine.execJcfgWrite v s
  | .pctlWrite v => Sys2Proof.Machine.execPctlWrite v s
  | .fctlWrite v => Sys2Proof.Machine.execFctlWrite v s
  | .fen k => Sys2Proof.Machine.execFen k s
  | .groupEntryWrite g x v => Sys2Proof.Machine.execGroupEntryWrite g x v s
  | .registerWrite off v => Sys2Proof.Machine.execRegisterWrite off v s
  | .loadFirmware f fit => Sys2Proof.Machine.execLoadFirmware f fit s
  | .installImageKey key sig owner => Sys2Proof.Machine.execInstallImageKey key sig owner s
  | .attest nonce => Sys2Proof.Machine.execAttest nonce s
  | .setOwnerKeyDigest digest => Sys2Proof.Machine.execSetOwnerKeyDigest digest s
  | .boot f fit => Sys2Proof.Machine.execBoot f fit s
  | .selfTest b e => Sys2Proof.Machine.execSelfTest b e s
  | .patrolScrub pa e => Sys2Proof.Machine.execPatrolScrub pa e s
  | .powerWindow avg tj tin => Sys2Proof.Machine.execPowerWindow avg tj tin s
  | .thermalTrip => Sys2Proof.Machine.execThermalTrip s
  | .galrilFPortUp j => Sys2Proof.Machine.execGalrilFPortUp j s
  | .galrilFPortDown j => Sys2Proof.Machine.execGalrilFPortDown j s
  | .cxlLinkUp p fitg ide => Sys2Proof.Machine.execCxlLinkUp p fitg ide s
  | .cxlLinkDown p => Sys2Proof.Machine.execCxlLinkDown p s
  | .selfTestResult b r => Sys2Proof.Machine.execSelfTestResult b r s

end Sys2Proof.Machine
end

