-- ==== Sys2Proof/Machine/Step.lean ====
section
/-! DEFINITION. One step of the package: the next turn of the agenda, else what is due, else the instruction that the current core fetches. -/

namespace Sys2Proof.Machine

open Sys2Proof

/-- An instruction that leaves its strand BLOCKED stays issued (R323). -/
def notedOutcome (k : CoreKey) (b : Fin 2) (p : Word) (w : BitVec 32) : Host.Outcome State Fault Refusal → Host.Outcome State Fault Refusal
  | .next t => .next (t.noteWord k b p w)
  | o => o

/-- The strand that issues fetches, decodes and runs its instruction. -/
def issueTurn (s : State) : Host.Outcome State Fault Refusal :=
  match s.issuing with
  | none => .next s
  | some (k, b) =>
    match (s.bank k b).waitingWord with
    | some w => exec (decode w) s
    | none =>
      match s.fetchWord k b with
      | .ok (w, s1) => notedOutcome k b (s.bank k b).curPc w (exec (decode w) s1)
      | .error e => fetchStop s k b e

/-- A turn of the agenda. In that of a core whose swap is under way, the swap is made. -/
def runTurn (t : Turn) (s : State) : Host.Outcome State Fault Refusal :=
  match t with
  | .act i => exec i s
  | .core k => if (s.core k).swp then .next (s.swapMove k) else issueTurn { s with cur := k }

/-- A step where the agenda is empty: what is due, else an instruction. -/
def freeTurn (s : State) : Host.Outcome State Fault Refusal :=
  let s0 := s.endGrace
  match s0.due with
  | some t => .next t
  | none =>
    match s0.turn with
    | .next t => issueTurn t
    | o => o

/-- A step ends the single steps that it completes. -/
def settleOutcome : Host.Outcome State Fault Refusal → Host.Outcome State Fault Refusal
  | .next t => .next t.closeSteps
  | o => o

/-- A turn of the boot block, the one thing that a ROM in recovery answers (R416). -/
def Turn.isBoot : Turn → Bool
  | .act i => bootBlockStep i
  | .core _ => false

/-- One step. -/
def step (s : State) : Host.Outcome State Fault Refusal :=
  if s.ctl.tripped then .fault .thermalTrip
  else if s.boot.stage = 1 ∧ (s.agenda.head?.elim false Turn.isBoot) = false then .fault .romHalted
  else
    settleOutcome (match s.agenda with
      | t :: l => runTurn t { s with agenda := l }
      | [] => freeTurn s)

/-- The state with the word w stored where step fetches its next instruction. -/
def State.withFetchWord (s : State) (nbits w : Nat) : State := s.withWord (w % 2 ^ min nbits 32)

end Sys2Proof.Machine
end

