-- ==== Sys2Proof/Safety.lean ====
section
/-! DEFINITION. What the claims say of states and steps in common: a safe step, the invariant, a strand that is ready to issue, and what a conversion gives (R33, R34, R41 to R44). -/

namespace Sys2Proof.Machine

open Sys2Proof

/-- The step goes on. -/
def Goes (o : Host.Outcome State Fault Refusal) : Prop := ∃ t, o = .next t

/-- What every step keeps: memory stands in its canonical form, and the registers that the spec limits stand within their limits: PENV.ENV (R387), PTOK.BUDGET (R364), FRTO (R424), FSHARE.W2 (R438). -/
structure State.Inv (s : State) : Prop where
  mem : Memory.wf s.mem = true
  env : 2200 ≤ s.ctl.env.toNat ∧ s.ctl.env.toNat ≤ 3200
  budget : s.disp.budget.toNat ≤ 960
  sends : s.fab.nsend ≠ 0 ∧ s.fab.tmo ≠ 0
  share : s.fab.w2 ≠ 0

/-- The strand in bank b of core k issues next, and nothing that it issued before is pending, neither a result nor a replay. -/
def Quiet (s : State) (k : CoreKey) (b : Fin 2) : Prop :=
  s.issuing = some (k, b) ∧ (s.bank k b).pend = [] ∧ (s.bank k b).replay = none

/-- The state after an instruction that changes registers of its own strand alone: the registers mapped by f, and the strand past the instruction, or at the target of a taken transfer. -/
def State.ran (s : State) (k : CoreKey) (b : Fin 2) (f : Ctx → Ctx) (goto : Option Word) : State :=
  (s.setBank k b { s.bank k b with ctx := f (s.bank k b).ctx }).complete k b goto none

/-- The state after a long-latency instruction has issued: its registers read, and p pending. -/
def State.sent (s : State) (k : CoreKey) (b : Fin 2) (p : Pending) : State :=
  (s.setBank k b ((s.bank k b).push p)).complete k b none none

/-- The scalar register that an instruction delivers a short-latency result to. -/
def scalarResult : Instr → Option DReg
  | .add d _ _ _ _ | .sub d _ _ _ _ | .mul d _ _ _ _ | .mulh d _ _ _ _ | .mulhn d _ _ _ _ | .and d _ _ _ _ | .or d _ _ _ _
  | .xor d _ _ _ _ | .shl d _ _ _ _ | .shr d _ _ _ _ | .sha d _ _ _ _ | .rol d _ _ _ _ | .clz d _ _ _ | .ctz d _ _ _
  | .popc d _ _ _ | .min d _ _ _ _ | .max d _ _ _ _ | .minn d _ _ _ _ | .maxn d _ _ _ _ | .slt d _ _ _ _ | .sltn d _ _ _ _
  | .sel d _ _ _ | .lea d _ _ _ | .leaX2 d _ _ _ | .leaX4 d _ _ _ | .leaX8 d _ _ _ | .addi d _ _ _ | .andi d _ _ _
  | .ori d _ _ _ | .xori d _ _ _ | .li d _ _ | .lih d _ _ | .rds d _ _ | .fadd d _ _ _ _ _ | .fsub d _ _ _ _ _
  | .fmul d _ _ _ _ _ | .ffma d _ _ _ _ _ | .ffms d _ _ _ _ _ | .fmin d _ _ _ _ | .fmax d _ _ _ _ | .fcmpEq d _ _ _ _
  | .fcmpNe d _ _ _ _ | .fcmpLt d _ _ _ _ | .fcmpLe d _ _ _ _ | .fcmpUn d _ _ _ _ | .fclass d _ _ _ | .fsgnCp d _ _ _ _
  | .fsgnNg d _ _ _ _ | .fsgnXr d _ _ _ _ | .fcvt d _ _ _ _ | .mpop d _ _ | .vext d _ _ _ _ | .vredAdd d _ _ _ _ _
  | .vredMin d _ _ _ _ | .vredMax d _ _ _ _ => some d
  | _ => none

/-- The vector register that an instruction delivers a short-latency result to. -/
def vectorResult : Instr → Option VReg
  | .vadd d _ _ _ _ _ _ | .vsub d _ _ _ _ _ _ | .vmul d _ _ _ _ _ _ | .vmin d _ _ _ _ _ | .vmax d _ _ _ _ _
  | .vand d _ _ _ _ _ | .vor d _ _ _ _ _ | .vxor d _ _ _ _ _ | .vshl d _ _ _ _ _ | .vshr d _ _ _ _ _ | .vsel d _ _ _ _
  | .vshuf d _ _ _ _ | .vbcast _ d _ _ _ | .vins _ d _ _ _ | .vabs d _ _ _ _ | .vneg d _ _ _ _ | .viota d _ _ _
  | .vcvt d _ _ _ _ _ | .vfma _ d _ _ _ _ _ _ | .vfms _ d _ _ _ _ _ _ => some d
  | _ => none

/-- What the conversion of the n-bit pattern x of type st to type dt delivers, as pattern and flags, by the rules of the spec.
- A floating-point destination (R33, R41): a NaN gives the default NaN and IV if it signals, +0 and IV in E2M1; an infinity gives one where the format has it, else the largest finite value with OF and NX; a finite value rounds under R36.
- E8M0 (R42): with 2^k ≤ x < 2^(k+1), one of k and k + 1 by the mode, at the tie the one whose code is even.
- PS2 (R34, R43): of the two neighbours of x in the set of R34 the one that the mode names, at a tie the smaller, in its canonical encoding.
- An integer (R44): the value rounded, or clamped with SAT. -/
def ConvertsTo (st dt : TyCode) (mode : Mode) (x : Nat) (y : Nat × Flags) : Prop :=
  let v := st.read x
  let float (f : Fmt) (nan : Nat) : Prop :=
    (v.isNan = true → y = (nan, if dt = .e2m1 ∨ v = .nan true then fIV else 0)) ∧
    (∀ s, v = .inf s → y = if f.sp = .ieee then (f.signPat s + f.infPat, 0) else (f.signPat s + f.maxPat, fOF ||| fNX)) ∧
    (∀ s m e, v = .fin s m e → y = f.deliver mode v)
  let scale : Prop :=
    (st = .e8m0 → y = (x, 0)) ∧
    (st ≠ .e8m0 →
      (v.isNan = true → y = (0xFF, fIV)) ∧ (v = .inf true → y = (0xFF, fIV)) ∧ (v = .inf false → y = (0xFE, fOF ||| fNX)) ∧
      (∀ s e, v = .fin s 0 e → y = (0x00, fUF ||| fNX)) ∧
      (∀ m e, 0 < m → v = .fin true m e → y = (0xFF, fIV)) ∧
      (∀ m e, 0 < m → v = .fin false m e →
        let l := Nat.log2 m
        let k : Int := e + l
        let exact := m = 2 ^ l
        let r : Int := match mode with
          | .rtz | .rdn => k
          | .rup => if exact then k else k + 1
          | .rne => if 2 * m < 3 * 2 ^ l then k else if 3 * 2 ^ l < 2 * m then k + 1 else if (k + 127) % 2 = 0 then k else k + 1
        y = if 127 < r then (0xFE, fOF ||| fNX) else if r < -127 then (0x00, fUF ||| fNX) else ((r + 127).toNat, if exact then 0 else fNX)))
  let term (t : Nat) : Int := if t % 8 = 7 then 0 else (if 8 ≤ t then -1 else 1) * (2 ^ (6 - t % 8) : Nat)
  let units (c : Nat) : Int := term (c / 16) + term (c % 16)
  let inSet (q : Nat) : Prop := ∃ c, c < 256 ∧ (units c).natAbs = q
  let canonical (c : Nat) : Prop :=
    let q := (units c).natAbs
    (q = 0 → c = 0x77) ∧
    ((∃ e, e ≤ 6 ∧ q = 2 ^ (6 - e)) → c % 16 = 7) ∧
    (q ≠ 0 → (∀ e, e ≤ 6 → q ≠ 2 ^ (6 - e)) → c / 16 % 8 ≤ c % 8 ∧ c % 8 < 7 ∧
      ((∃ z, z < 256 ∧ units z = units c ∧ z / 16 % 8 < 7 ∧ z % 8 < 7 ∧ z / 128 = z / 8 % 2) → c / 128 = c / 8 % 2))
  let weight : Prop :=
    (v.isNan = true → y = (0x77, fIV)) ∧
    (∀ s, v = .inf s → y = (if s then 0x88 else 0x00, fOF ||| fNX)) ∧
    (∀ s m e, v = .fin s m e →
      let a := m * 2 ^ (e + 6).toNat
      let d := 2 ^ (-(e + 6)).toNat
      (128 * d < a → y = (if s then 0x88 else 0x00, fOF ||| fNX)) ∧
      (a ≤ 128 * d → ∃ lo hi : Nat, inSet lo ∧ inSet hi ∧ lo * d ≤ a ∧ (lo * d = a ∨ a < hi * d) ∧ (∀ q, inSet q → q ≤ lo ∨ hi ≤ q) ∧
        let mag := if lo * d = a then lo else match mode with
          | .rtz => lo
          | .rup => if s then lo else hi
          | .rdn => if s then hi else lo
          | .rne => if (lo + hi) * d < 2 * a then hi else lo
        y.1 < 256 ∧ canonical y.1 ∧ units y.1 = (if s then -(mag : Int) else mag) ∧ y.2 = if lo * d = a then 0 else fNX))
  let integer : Prop :=
    let n := dt.width
    let low : Int := if dt.signed then -(2 ^ (n - 1)) else 0
    let top : Int := if dt.signed then 2 ^ (n - 1) - 1 else 2 ^ n - 1
    let pat (i : Int) : Nat := (i % 2 ^ n).toNat
    (v.isNan = true → y = (0, fIV)) ∧
    (∀ s, v = .inf s → y = (pat (if s then low else top), fSAT)) ∧
    (∀ s m e, v = .fin s m e →
      let a := m * 2 ^ e.toNat
      let d := 2 ^ (-e).toNat
      let k := if a % d = 0 then a / d else match mode with
        | .rtz => a / d
        | .rup => if s then a / d else a / d + 1
        | .rdn => if s then a / d + 1 else a / d
        | .rne => if 2 * (a % d) < d ∨ (2 * (a % d) = d ∧ a / d % 2 = 0) then a / d else a / d + 1
      let i : Int := if s then -(k : Int) else k
      y = if i < low then (pat low, fSAT) else if top < i then (pat top, fSAT) else (pat i, if a % d = 0 then 0 else fNX))
  match dt with
  | .f64 => float fmtF64 0x7FF8000000000000
  | .f32 => float fmtF32 0x7FC00000
  | .bf16 => float fmtBf16 0x7FC0
  | .e5m2 => float fmtE5m2 0x7E
  | .e4m3 => float fmtE4m3 0x7F
  | .e2m1 => float fmtE2m1 0
  | .e8m0 => scale
  | .ps2 => weight
  | .s8 | .s16 | .s32 | .s64 | .n8 | .n16 | .n32 | .n64 => integer

/-- Every location outside the pieces reads as before. -/
def KeepsOutside (s t : State) (ps : List (Nat × Nat)) : Prop :=
  ∀ a, (∀ q ∈ ps, a < q.1 ∨ q.1 + q.2 ≤ a) → getByte t.mem a = getByte s.mem a

end Sys2Proof.Machine
end

