-- ==== Sys2Proof/Certificates/Slice0/Obligations.lean ====
section
/-! DEFINITION. The statements for the provers. Results are written from the rules of the spec that each docstring names; `State.ran`, `State.sent` and `Quiet` are those of Safety.lean. -/

open Sys2Proof Sys2Proof.Machine

/-! Scalar instructions. -/

/-- R99, R97: the two-source integer operations compute on the n-bit patterns x and y of their sources, and the result, extended as the type says, is delivered under the destination level. R99: CLZ, CTZ and POPC count the bits of the n-bit pattern x: the positions below n at which x is less than the power, those up to which x is a multiple of the power, and those at which x has a one. -/
def Obligations.IntegerResults : Prop :=
  (∀ (s : State) (k : CoreKey) (b : Fin 2) (d : DReg) (a c : SReg) (t : IntTy) (p : Level), Quiet s k b →
      let n := IntTy.width t
      let x := ((s.bank k b).ctx.s a.val).toNat % 2 ^ n
      let y := ((s.bank k b).ctx.s c.val).toNat % 2 ^ n
      let sx : Int := (x : Int) - 2 ^ n * (x / 2 ^ (n - 1) : Nat)
      let sy : Int := (y : Int) - 2 ^ n * (y / 2 ^ (n - 1) : Nat)
      let m := y % n
      let gives (i : Instr) (z : Nat) : Prop :=
        exec i s = .next (s.ran k b (fun r => r.deliver d p (if t.isSigned then sext n z else zext n z)) none)
      gives (.add d a c t p) ((x + y) % 2 ^ n) ∧ gives (.sub d a c t p) ((x + 2 ^ n - y) % 2 ^ n) ∧
      gives (.mul d a c t p) (x * y % 2 ^ n) ∧ gives (.mulh d a c t p) ((sx * sy / 2 ^ n) % 2 ^ n).toNat ∧
      gives (.mulhn d a c t p) (x * y / 2 ^ n) ∧ gives (.and d a c t p) (x &&& y) ∧
      gives (.or d a c t p) (x ||| y) ∧ gives (.xor d a c t p) (x ^^^ y) ∧
      gives (.shl d a c t p) (x * 2 ^ m % 2 ^ n) ∧ gives (.shr d a c t p) (x / 2 ^ m) ∧
      gives (.sha d a c t p) ((sx / 2 ^ m) % 2 ^ n).toNat ∧
      gives (.rol d a c t p) ((x * 2 ^ m + x / 2 ^ (n - m)) % 2 ^ n) ∧
      gives (.min d a c t p) (if sx ≤ sy then x else y) ∧ gives (.max d a c t p) (if sy ≤ sx then x else y) ∧
      gives (.minn d a c t p) (if x ≤ y then x else y) ∧ gives (.maxn d a c t p) (if y ≤ x then x else y) ∧
      gives (.slt d a c t p) (if sx < sy then 1 else 0) ∧ gives (.sltn d a c t p) (if x < y then 1 else 0)) ∧
  (∀ (s : State) (k : CoreKey) (b : Fin 2) (d : DReg) (a : SReg) (t : IntTy) (p : Level), Quiet s k b →
      let n := IntTy.width t
      let x := ((s.bank k b).ctx.s a.val).toNat % 2 ^ n
      let count (q : Nat → Bool) : Nat := ((List.range n).filter q).length
      let gives (i : Instr) (z : Nat) : Prop :=
        exec i s = .next (s.ran k b (fun r => r.deliver d p (if t.isSigned then sext n z else zext n z)) none)
      gives (.clz d a t p) (count fun m => decide (x < 2 ^ m)) ∧
      gives (.ctz d a t p) (count fun m => decide (x % 2 ^ (m + 1) = 0)) ∧
      gives (.popc d a t p) (count fun m => decide (x / 2 ^ m % 2 = 1)))

/-- R100, R102, R104, R105: SEL, the four LEA, the immediate operations, LI and LIH. R103: CHK changes nothing where the index is below the bound, both read as naturals, and else traps CHK_BOUNDS with the index in tval. -/
def Obligations.AddressImmediateAndCheck : Prop :=
  (∀ (s : State) (k : CoreKey) (b : Fin 2) (d : DReg) (a c : SReg) (i : BitVec 11) (j : BitVec 17) (p : Level), Quiet s k b →
      let x := (s.bank k b).ctx.s a.val
      let y := (s.bank k b).ctx.s c.val
      let z := (s.bank k b).ctx.s d.val
      let gives (q : Instr) (w : Word) : Prop := exec q s = .next (s.ran k b (fun r => r.deliver d p w) none)
      gives (.sel d a c p) (if z ≠ 0 then x else y) ∧
      gives (.lea d a c p) (x + y) ∧ gives (.leaX2 d a c p) (x + y * 2) ∧
      gives (.leaX4 d a c p) (x + y * 4) ∧ gives (.leaX8 d a c p) (x + y * 8) ∧
      gives (.addi d a i p) (x + i.signExtend 64) ∧ gives (.andi d a i p) (x &&& i.signExtend 64) ∧
      gives (.ori d a i p) (x ||| i.signExtend 64) ∧ gives (.xori d a i p) (x ^^^ i.signExtend 64) ∧
      gives (.li d j p) (j.signExtend 64) ∧ gives (.lih d j p) (z * 2 ^ 17 + j.setWidth 64)) ∧
  (∀ (s : State) (k : CoreKey) (b : Fin 2) (a c : SReg), Quiet s k b →
      let x := (s.bank k b).ctx.s a.val
      let y := (s.bank k b).ctx.s c.val
      (x < y → exec (.chk a c) s = .next (s.ran k b id none)) ∧
      (y ≤ x → exec (.chk a c) s = .next (s.trapNow k b ⟨.chkBounds, x, 0⟩)))

/-- R106, R207: a division issues, and what is pending writes the quotient or the remainder of its operands: division by zero gives 2^n − 1 and the dividend, the most negative number by −1 gives itself and 0. That results are computed at the issue and written by a later step is how the model makes the two steps of R207 (log 12). -/
def Obligations.DivisionResults : Prop :=
  ∀ (s : State) (k : CoreKey) (b : Fin 2) (d : DReg) (a c : SReg) (h : La), Quiet s k b →
    let x := (s.bank k b).ctx.s a.val
    let y := (s.bank k b).ctx.s c.val
    let f := footL (rS a.val ++ rS c.val) (rS d.val)
    let gives (i : Instr) (w : Word) : Prop :=
      exec i s = .next (s.sent k b { (s.bank k b).pendingOf f h with writes := [.s d w] })
    let q (n : Nat) (x y : Int) : Int := if y = 0 then 2 ^ n - 1 else if x = -(2 ^ (n - 1)) ∧ y = -1 then x else Int.tdiv x y
    let r (n : Nat) (x y : Int) : Int := if y = 0 then x else if x = -(2 ^ (n - 1)) ∧ y = -1 then 0 else Int.tmod x y
    let x32 := x.setWidth 32
    let y32 := y.setWidth 32
    gives (.div d a c h) (BitVec.ofInt 64 (q 64 x.toInt y.toInt)) ∧
    gives (.divn d a c h) (BitVec.ofInt 64 (q 64 x.toNat y.toNat)) ∧
    gives (.rem d a c h) (BitVec.ofInt 64 (r 64 x.toInt y.toInt)) ∧
    gives (.remn d a c h) (BitVec.ofInt 64 (r 64 x.toNat y.toNat)) ∧
    gives (.divS32 d a c h) ((BitVec.ofInt 32 (q 32 x32.toInt y32.toInt)).signExtend 64) ∧
    gives (.divnN32 d a c h) ((BitVec.ofInt 32 (q 32 x32.toNat y32.toNat)).setWidth 64) ∧
    gives (.remS32 d a c h) ((BitVec.ofInt 32 (r 32 x32.toInt y32.toInt)).signExtend 64) ∧
    gives (.remnN32 d a c h) ((BitVec.ofInt 32 (r 32 x32.toNat y32.toNat)).setWidth 64)

/-! Control transfer. -/

/-- R107, R108, R111, R117, R154: a conditional branch that is not taken goes on; one that is taken leaves the loops that its target lies outside and goes to its target, or traps ADDR_WINDOW where the target lies outside window 0x8. -/
def Obligations.Branches : Prop :=
  ∀ (s : State) (k : CoreKey) (b : Fin 2) (a c : SReg) (m : MReg) (o : BitVec 13) (w : BitVec 19), Quiet s k b →
    let x := (s.bank k b).ctx.s a.val
    let y := (s.bank k b).ctx.s c.val
    let pc := (s.bank k b).curPc
    let gives (i : Instr) (taken : Bool) (off : Word) : Prop :=
      let t := pc + 4 * off
      exec i s = .next (if taken = false then s.ran k b id none
        else if tagOf t.toNat = 8 then s.ran k b (fun r => r.leaveLoops pc t) (some t)
        else s.trapNow k b ⟨.addrWindow, t, 0⟩)
    gives (.beq a c o) (x == y) (o.signExtend 64) ∧ gives (.bne a c o) (x != y) (o.signExtend 64) ∧
    gives (.blt a c o) (decide (x.toInt < y.toInt)) (o.signExtend 64) ∧
    gives (.bge a c o) (decide (y.toInt ≤ x.toInt)) (o.signExtend 64) ∧
    gives (.bltn a c o) (decide (x.toNat < y.toNat)) (o.signExtend 64) ∧
    gives (.bgen a c o) (decide (y.toNat ≤ x.toNat)) (o.signExtend 64) ∧
    gives (.bz a w) (x == 0) (w.signExtend 64) ∧ gives (.bnz a w) (x != 0) (w.signExtend 64) ∧
    gives (.bmany m w) ((s.bank k b).ctx.mask m.val != 0) (w.signExtend 64) ∧
    gives (.bmall m w) ((s.bank k b).ctx.mask m.val == 0xFFFF) (w.signExtend 64)

/-- R109 to R111, R117: a jump goes to its target, CALL and CALLR with the address after them in w31, the register forms reading the target first; the target must lie in window 0x8, and in a register be a multiple of 4. J, JR and RET leave the loops that the target lies outside. At the end of an active body each is ILLEGAL. -/
def Obligations.Jumps : Prop :=
  ∀ (s : State) (k : CoreKey) (b : Fin 2) (a : SReg) (o : BitVec 25), Quiet s k b →
    let pc := (s.bank k b).curPc
    let gives (i : Instr) (t : Word) (reg leave : Bool) (f : Ctx → Ctx) : Prop :=
      exec i s = .next (
        if (s.bank k b).ctx.atEnd pc then s.trapNow k b (illegalAt i 6)
        else if tagOf t.toNat ≠ 8 then s.trapNow k b ⟨.addrWindow, t, 0⟩
        else if reg = true ∧ t.toNat % 4 ≠ 0 then s.trapNow k b ⟨.align, t, 0⟩
        else s.ran k b (fun r => if leave then (f r).leaveLoops pc t else f r) (some t))
    gives (.j o) (pc + 4 * o.signExtend 64) false true id ∧
    gives (.call o) (pc + 4 * o.signExtend 64) false false (fun r => r.setS 31 (pc + 4)) ∧
    gives (.jr a) ((s.bank k b).ctx.s a.val) true true id ∧
    gives .ret ((s.bank k b).ctx.s 31) true true id ∧
    gives (.callr a) ((s.bank k b).ctx.s a.val) true false (fun r => r.setS 31 (pc + 4))

/-! Loops and system instructions. -/

/-- R113, R115: LOOP of zero iterations passes over the body and takes no pair; more than 2^32 − 1 iterations raise LOOP_RANGE; else the pair 0, or where it is active and holds the new body the pair 1, describes the body; with both pairs active, or a body that reaches outside pair 0's, LOOP is ILLEGAL. R114, R115: LOOPI with step 0 raises LOOP_STEP; else it runs ⌈(bd − i) / st⌉ times upward or ⌈(i − bd) / (−st)⌉ times downward, never less than 0: zero iterations pass over the body, too many raise LOOP_RANGE with the count's low bits in tval and bit 64 in tinfo, and a count in range takes a pair as LOOP does, or is ILLEGAL where LOOP is. -/
def Obligations.LoopSetup : Prop :=
  (∀ (s : State) (k : CoreKey) (b : Fin 2) (a : SReg) (n : BitVec 12), Quiet s k b →
      let c := (s.bank k b).ctx
      let pc := (s.bank k b).curPc
      let cnt := (c.s a.val).toNat
      let pair : LoopPair := ⟨((pc + 4) &&& 0x01FFFFFFFFFFFFFC) ||| 1, BitVec.ofNat 64 (n.toNat * 2 ^ 32 + cnt)⟩
      let within := (c.pair 0).contains (pc + 4) = true ∧ (c.pair 0).contains (pc + 4 * BitVec.ofNat 64 n.toNat) = true
      c.atEnd pc = false →
      (cnt = 0 → exec (.loop a n) s = .next (s.ran k b id (some (pc + 4 * BitVec.ofNat 64 (n.toNat + 1))))) ∧
      (2 ^ 32 ≤ cnt → exec (.loop a n) s = .next (s.trapNow k b ⟨.loopRange, c.s a.val, 0⟩)) ∧
      (0 < cnt → cnt < 2 ^ 32 → (c.pair 0).act = false →
        exec (.loop a n) s = .next (s.ran k b (fun r => { r with loops := #v[pair, r.pair 1] }) none)) ∧
      (0 < cnt → cnt < 2 ^ 32 → (c.pair 0).act = true → (c.pair 1).act = false → within →
        exec (.loop a n) s = .next (s.ran k b (fun r => { r with loops := #v[r.pair 0, pair] }) none)) ∧
      (0 < cnt → cnt < 2 ^ 32 → (c.pair 0).act = true → ((c.pair 1).act = true ∨ ¬within) →
        exec (.loop a n) s = .next (s.trapNow k b (illegalAt (.loop a n) 6)))) ∧
  (∀ (s : State) (k : CoreKey) (b : Fin 2) (a : WReg) (x y : SReg) (n : BitVec 7), Quiet s k b →
      let c := (s.bank k b).ctx
      let pc := (s.bank k b).curPc
      let i := (c.s a.val).toInt
      let bd := (c.s x.val).toInt
      let st := ((c.s y.val).setWidth 16).toInt
      let cnt : Nat := if 0 < st then ((bd - i + st - 1) / st).toNat else ((i - bd + -st - 1) / -st).toNat
      let pair : LoopPair := ⟨BitVec.ofNat 64 (a.val * 2 ^ 59) ||| ((pc + 4) &&& 0x01FFFFFFFFFFFFFC) ||| 3,
        BitVec.ofNat 64 (((c.s y.val).setWidth 16).toNat * 2 ^ 48 + n.toNat * 2 ^ 32 + cnt)⟩
      c.atEnd pc = false →
      (st = 0 → exec (.loopi a x y n) s = .next (s.trapNow k b ⟨.loopStep, 0, 0⟩)) ∧
      (st ≠ 0 → cnt = 0 → exec (.loopi a x y n) s = .next (s.ran k b id (some (pc + 4 * BitVec.ofNat 64 (n.toNat + 1))))) ∧
      (st ≠ 0 → 2 ^ 32 ≤ cnt → exec (.loopi a x y n) s =
        .next (s.trapNow k b ⟨.loopRange, BitVec.ofNat 64 cnt, BitVec.ofNat 8 (cnt / 2 ^ 64 % 2)⟩)) ∧
      (st ≠ 0 → 0 < cnt → cnt < 2 ^ 32 →
        let within := (c.pair 0).contains (pc + 4) = true ∧ (c.pair 0).contains (pc + 4 * BitVec.ofNat 64 n.toNat) = true
        ((c.pair 0).act = false → exec (.loopi a x y n) s = .next (s.ran k b (fun r => { r with loops := #v[pair, r.pair 1] }) none)) ∧
        ((c.pair 0).act = true → (c.pair 1).act = false → within →
          exec (.loopi a x y n) s = .next (s.ran k b (fun r => { r with loops := #v[r.pair 0, pair] }) none)) ∧
        ((c.pair 0).act = true → ((c.pair 1).act = true ∨ ¬within) →
          exec (.loopi a x y n) s = .next (s.trapNow k b (illegalAt (.loopi a x y n) 6)))))

/-- R116: end processing at an end address e. Pair 1, where it is active and ends at e, is processed first: an indexed pair steps its index register, its count falls by 1, and its body runs again while the count was above 1; a count of 1 clears ACT and leaves e to pair 0. Pair 0, where it is active and ends at e, is processed likewise, and where no body runs again execution goes on after e. A lone loop stands in pair 0. -/
def Obligations.LoopEndSteps : Prop :=
  ∀ (s : State) (k : CoreKey) (b : Fin 2),
    let x := s.bank k b
    let c := x.ctx
    let e := x.pc - 4
    let ends (g : Ctx) (n : Nat) : Prop := (g.pair n).act = true ∧ (g.pair n).last = e
    let stepped (g : Ctx) (n : Nat) : Ctx :=
      let q := g.pair n
      let g1 := if q.isIndexed then g.setS q.idx (g.s q.idx + q.stepBy) else g
      { g1 with loops := g1.loops.setIfInBounds n ⟨if q.count = 1 then q.w0 &&& 0xFFFFFFFFFFFFFFFE else q.w0, setBits q.w1 0 32 (q.count - 1)⟩ }
    let goes (g : Ctx) (p : Word) : Prop := exec (.loopEnd k b) s = .next ((s.setBank k b { x with ctx := g, pc := p, endDue := false }).skidPc k b)
    let d := stepped c 1
    x.mayEnd = true → (s.core k).ab = b →
    (ends c 1 → 2 ≤ (c.pair 1).count → goes d (c.pair 1).first) ∧
    (ends c 1 → (c.pair 1).count = 1 → ¬ends d 0 → goes d (e + 4)) ∧
    (ends c 1 → (c.pair 1).count = 1 → ends d 0 →
      (2 ≤ (d.pair 0).count → goes (stepped d 0) (d.pair 0).first) ∧ ((d.pair 0).count = 1 → goes (stepped d 0) (e + 4))) ∧
    (¬ends c 1 → ends c 0 → (2 ≤ (c.pair 0).count → goes (stepped c 0) (c.pair 0).first) ∧ ((c.pair 0).count = 1 → goes (stepped c 0) (e + 4)))

/-- R119: NOP changes nothing but the pc. R115, R117: at the end address of an active body LOOP, LOOPI and every SYS instruction, NOP among them, are ILLEGAL with detail 6. That LOOP and LOOPI take that detail there even with a count or a step of 0, and ERET even where H = 0, is the model's reading (log 47, DEDUCED). -/
def Obligations.NopChangesNothing : Prop :=
  ∀ (s : State) (k : CoreKey) (b : Fin 2) (a c : SReg) (w : WReg) (n : BitVec 6) (l : BitVec 12) (m : BitVec 7), Quiet s k b →
    ((s.bank k b).ctx.atEnd (s.bank k b).curPc = false → exec .nop s = .next (s.ran k b id none)) ∧
    ((s.bank k b).ctx.atEnd (s.bank k b).curPc = true →
      let stops (i : Instr) : Prop := exec i s = .next (s.trapNow k b (illegalAt i 6))
      stops .nop ∧ stops (.trap n) ∧ stops .eret ∧ stops (.swapw a) ∧ stops .phase ∧ stops .retire ∧ stops .snap ∧ stops (.waitt a) ∧
      stops (.loop a l) ∧ stops (.loopi w a c m))

/-- R123, R125, R126: SNAP fires the Ivory trigger with the low bits of the sid and goes on; WAITT goes on once the tick counter has reached S(RA) and else is held; PHASE, where no command of the strand is live and no offer entry is occupied, adds 1 to the phase index, leaves the strand at a phase boundary after it, and dispatch records the point. -/
def Obligations.SnapWaitPhase : Prop :=
  ∀ (s : State) (k : CoreKey) (b : Fin 2) (a : SReg), Quiet s k b → (s.bank k b).ctx.atEnd (s.bank k b).curPc = false →
    exec .snap s = .next ((s.ivoryFire 0 ((s.sid k b).setWidth 24)).complete k b none none) ∧
    (((s.bank k b).ctx.s a.val).toNat ≤ s.tick.toNat → exec (.waitt a) s = .next (s.ran k b id none)) ∧
    (s.tick.toNat < ((s.bank k b).ctx.s a.val).toNat →
      exec (.waitt a) s = .next (s.setBank k b { s.bank k b with held := true, wait := some .waitt })) ∧
    (s.pushedLive (clusterOf k) (s.bank k b).id.who = false → (s.bank k b).occupied = false →
      ∃ t, exec .phase s = .next t ∧ (t.bank k b).ctx = { (s.bank k b).ctx with phase := (s.bank k b).ctx.phase + 1 } ∧
        (t.bank k b).pc = (s.bank k b).pc + 4 ∧ (t.bank k b).boundary = true ∧ t.mem = s.mem ∧
        t.disp = (s.recordPhase (s.bank k b).id ((s.bank k b).curPc + 4) ((s.bank k b).ctx.phase + 1)).disp)

/-- R120, R121, R94: TRAP takes its trap with the argument in tval. ERET with tstat.H = 0 is ILLEGAL; with H = 1 it restores l0 to l3, clears H, and with no window instruction issued goes on at tpc, or after it where tinfo.SK is set. R116: where that address lies past the end of a body in which the trap was taken, the strand stands after that end and its end processing is due. That the body is the one that holds the trap's address is the model's reading (log 48). -/
def Obligations.TrapAndReturn : Prop :=
  ∀ (s : State) (k : CoreKey) (b : Fin 2) (n : BitVec 6), Quiet s k b →
    let x := s.bank k b
    x.ctx.atEnd x.curPc = false →
    exec (.trap n) s = .next (s.trapNow k b ⟨.trap, n.setWidth 64, 0⟩) ∧
    (x.h = false → exec .eret s = .next (s.trapNow k b (illegalAt .eret 5))) ∧
    (x.h = true → ∃ t, exec .eret s = .next t ∧ (t.bank k b).ctx.l = x.ctx.tb.tl ∧ (t.bank k b).h = false ∧
      (bits x.ctx.tb.tinfo 8 4 = 0 →
        let goal := if x.ctx.tb.tinfo.getLsbD 27 then x.ctx.tb.tpc + 4 else x.ctx.tb.tpc
        (t.bank k b).replay = none ∧
        (x.passedEnd goal = none → (t.bank k b).pc = goal) ∧
        (∀ e, x.passedEnd goal = some e → (t.bank k b).pc = e + 4 ∧ (t.bank k b).endDue = true)))

/-- R93: a precise trap at a strand with nothing pending, outside a handler and not parked, fills the trap block: the address, the cause word with LATE = 0, the value, tinfo with DONE and ISSUED 0 and SK for TRAP and WATCH, and l0 to l3; it then enters the local handler with H set where troute and twvec say so, and else parks the strand and adds a report of kind 1 for its server. R93, R95: a trap at a strand that is in a handler or parked leaves the trap block but for PRK, parks the strand, and adds a report of kind 2 for its server, which holds the trap block and the new trap's cause code, value and address. R93: trap entry takes the oldest trap that waits once everything that issued before it is done. That a trap with nothing older pending is entered in the step that raises it, and that a report of a double trap holds its cause's code, are the model's choice (log 16). -/
def Obligations.TrapTaken : Prop :=
  (∀ (s : State) (k : CoreKey) (b : Fin 2) (r : TrapRec),
      let x := s.bank k b
      let t := s.raise k b r
      let y := t.bank k b
      x.pend = [] → x.store = none → x.sending = none → x.trapped = [] → x.h = false → x.prk = false → r.seq = x.nIssued → r.late = false → r.replayed = none →
      let c := r.trap.cause
      let sk : Nat := if c = .trap ∨ c = .watch then 2 ^ 27 else 0
      let localOk := x.ctx.tb.troute.getLsbD c.cls = false ∧ x.ctx.tb.twvec ≠ 0 ∧ c.cls ≠ 9
      y.ctx.tb.tpc = r.pc &&& 0xFFFFFFFFFFFFFFFC ∧ y.ctx.tb.tcause = BitVec.ofNat 64 (c.cls * 256 + c.code) ∧
      y.ctx.tb.tval = r.trap.val ∧ y.ctx.tb.tinfo = BitVec.ofNat 64 (sk + r.trap.detail.toNat) ∧ y.ctx.tb.tl = x.ctx.l ∧
      y.ctx.tb.twvec = x.ctx.tb.twvec ∧ y.ctx.tb.troute = x.ctx.tb.troute ∧ y.ctx.w = x.ctx.w ∧
      (localOk → y.h = true ∧ y.prk = false ∧ y.pc = x.ctx.tb.twvec ∧ t.fab.reports = s.fab.reports) ∧
      (¬localOk → y.h = false ∧ y.prk = true ∧ y.pc = r.pc &&& 0xFFFFFFFFFFFFFFFC ∧
        t.fab.reports.length = s.fab.reports.length + 1 ∧
        ∀ q ∈ t.fab.reports.drop s.fab.reports.length, q.kind = 1 ∧ q.server = s.server x.id.fsrv ∧ q.sid = s.sid k b)) ∧
  (∀ (s : State) (k : CoreKey) (b : Fin 2) (r : TrapRec),
      let x := s.bank k b
      let t := s.raise k b r
      x.pend = [] → x.store = none → x.sending = none → x.trapped = [] → (x.h = true ∨ x.prk = true) →
      (t.bank k b).ctx = { x.ctx with tb := x.ctx.tb.setPrk true } ∧ (t.bank k b).prk = true ∧
      t.fab.reports.length = s.fab.reports.length + 1 ∧
      ∀ q ∈ t.fab.reports.drop s.fab.reports.length, q.kind = 2 ∧ q.server = s.server x.id.fsrv ∧ q.sid = s.sid k b ∧
        q.words.getD 0 0 = x.ctx.tb.tpc ∧ q.words.getD 1 0 = x.ctx.tb.tcause ∧ q.words.getD 2 0 = x.ctx.tb.tval ∧
        q.words.getD 6 0 = BitVec.ofNat 64 r.trap.cause.code ∧ q.words.getD 7 0 = r.trap.val ∧ q.words.getD 8 0 = r.pc) ∧
  (∀ (s : State) (k : CoreKey) (b : Fin 2) (r : TrapRec) (l : List TrapRec),
      (s.bank k b).st = .bound → (s.bank k b).pend = [] → (s.bank k b).store = none → (s.bank k b).sending = none →
      (s.bank k b).trapped = r :: l → (∀ q ∈ l, r.seq ≤ q.seq) →
      exec (.trapEntry k b) s = .next (s.enterTrap k b r))

/-- R127, R128, R82: RDS delivers the register that its number names; WRS writes fcsr, tpc (with SK, DONE and ISSUED cleared), tinfo, twvec and troute in their writable bits. -/
def Obligations.SystemRegisters : Prop :=
  ∀ (s : State) (k : CoreKey) (b : Fin 2) (d : DReg) (a : SReg) (p : Level) (i : BitVec 11), Quiet s k b →
    let x := s.bank k b
    let w := x.ctx.s a.val
    let tb := x.ctx.tb
    let clid := (s.clid (clusterOf k)).getD 0
    let reads (n : BitVec 11) (y : Word) : Prop := exec (.rds d n p) s = .next (s.ran k b (fun r => r.deliver d p y) none)
    let writes (n : BitVec 11) (f : Ctx → Ctx) : Prop := exec (.wrs a n) s = .next (s.ran k b f none)
    reads 0x00 (s.sid k b) ∧ reads 0x01 (x.id.lid.setWidth 64) ∧ reads 0x02 (x.id.nstr.setWidth 64) ∧
    reads 0x03 (BitVec.ofNat 64 (s.cid k)) ∧ reads 0x04 (BitVec.ofNat 64 clid) ∧ reads 0x05 (BitVec.ofNat 64 (clid / 4)) ∧
    reads 0x08 (if 2 ≤ clid % 4 then 1 else 0) ∧ reads 0x06 (BitVec.ofNat 64 (dieOf k)) ∧
    reads 0x07 (s.ctl.pkid.setWidth 64) ∧ reads 0x10 (x.wsp.setWidth 64) ∧ reads 0x11 s.tick ∧ reads 0x20 x.ctx.fcsr ∧
    reads 0x30 tb.tpc ∧ reads 0x31 tb.tcause ∧ reads 0x32 tb.tval ∧ reads 0x33 tb.tinfo ∧ reads 0x34 tb.twvec ∧
    reads 0x35 tb.troute ∧ reads 0x36 tb.tstat ∧
    (∀ j : Fin 16, i.toNat = 0x40 + j.val → reads i x.id.lch[j]) ∧
    (∀ h, 0x80 ≤ i.toNat → i.toNat < 0xC0 → x.id.evh[i.toNat - 0x80]? = some h → reads i (h.setWidth 64)) ∧
    writes 0x20 (fun r => { r with fcsr := w &&& 0x833F }) ∧
    writes 0x30 (fun r => { r with tb := { r.tb with tpc := w &&& 0xFFFFFFFFFFFFFFFC, tinfo := r.tb.tinfo &&& 0xFF } }) ∧
    writes 0x33 (fun r => { r with tb := { r.tb with tinfo := w &&& 0xFFFFFFF } }) ∧
    writes 0x34 (fun r => { r with tb := { r.tb with twvec := w &&& 0xFFFFFFFFFFFFFFFC } }) ∧
    writes 0x35 (fun r => { r with tb := { r.tb with troute := w &&& 0x1FF } })

/-- R122: SWAPW onto a free aligned workspace of its own scratchpad writes the strand's registers to the old workspace, loads those of the new one, keeps the allowance and the fold membership, and goes on. R124, R87: RETIRE with nothing pending empties the bank, and the launch counts the strand among those that have ended. -/
def Obligations.WorkspaceAndRetire : Prop :=
  (∀ (s : State) (k : CoreKey) (b : Fin 2) (a : SReg), Quiet s k b →
      let x := s.bank k b
      let o := (s.core k).bank (1 - b)
      let w := (x.ctx.s a.val).toNat
      let m := putBytes s.mem (spadBase k + x.wsp.toNat) x.ctx.spillBytes
      x.ctx.atEnd x.curPc = false → x.store = none → w + 8192 ≤ spadSize k → w % 8192 = 0 → w ≠ x.wsp.toNat → w ≠ o.wsp.toNat →
      x.occupied = false → s.occupiedAt k w = false → (s.writeRegion k x.wsp.toNat x.ctx).badLine (spadBase k + w) = none →
      ∃ t, exec (.swapw a) s = .next t ∧ t.mem = m ∧ (t.bank k b).wsp.toNat = w ∧ (t.bank k b).pc = x.pc + 4 ∧
        (t.bank k b).ctx = { Ctx.ofMemory m (spadBase k + w) with tok := x.ctx.tok, fgp := x.ctx.fgp, fgw := x.ctx.fgw }) ∧
  (∀ (s : State) (k : CoreKey) (b : Fin 2), Quiet s k b → (s.bank k b).ctx.atEnd (s.bank k b).curPc = false →
      ∃ t, exec .retire s = .next t ∧ t.bank k b = Bank.empty ∧
        ∀ l ∈ s.disp.launches, l.ln = (s.bank k b).id.ln →
          ∃ m ∈ t.disp.launches, m.ln = l.ln ∧ (s.bank k b).id.lid ∈ m.ended)

/-- R67, R68: a word that fails a check of R67 traps ILLEGAL at itself, with the word in tval. -/
def Obligations.IllegalWordTraps : Prop :=
  ∀ (s : State) (k : CoreKey) (b : Fin 2) (w : BitVec 32), Quiet s k b →
    ∃ d, exec (.illegal w) s = .next (s.trapNow k b ⟨.illegal, w.setWidth 64, d⟩)

/-! Memory. -/

/-- R166, R163: a load whose checks pass in this package reads its bytes as it issues and leaves pending the value extended as its root says, with the WATCH trap that the access hit and the reservations of R328. It finds room for them at its port and at the trunk ports that its reply crosses (log 79, DESIGN CHOICE), and nothing out that it is ordered after (R195). That the bytes are read at the issue is the model's choice of one execution that R189 to R203 allow (log 4). -/
def Obligations.LoadResults : Prop :=
  ∀ (s : State) (k : CoreKey) (b : Fin 2) (d : DReg) (w : WReg) (o : BitVec 7) (h : La), Quiet s k b →
    let v := s.view k b
    let gives (i : Instr) (n : Nat) (signed : Bool) : Prop :=
      let p := (s.bank k b).ctx.s w.val + o.signExtend 64 * BitVec.ofNat 64 n
      ∀ (pl : Place) (ps : List (Nat × Nat)), s.issueChecks v p.toNat n n = .ok pl → pl.isFar = false →
        s.targetChecks v pl n .read = .ok ps →
        let r := s.served v p.toNat pl n .read
        let x := leNat (s.load ps)
        let q := (s.bank k b).pendingOf (footL (rS w.val) (rS d.val)) h
        let links := s.crossings (dieOf k) ps p 0 n
        s.farBusy k (s.bank k b) pl n = false → s.landFull (landingFor k pl n ++ links.map Crossing.landing) = false →
        exec i s = .next ((r.1.sent k b
          { q with safe := false, writes := [.s d (if signed then sext (8 * n) x else zext (8 * n) x)], late := r.2,
                   ptr := p, spans := [(p.toNat, n)], land := landingFor k pl n, links := links }).skidStart s k)
    gives (.ldS8 d w o h) 1 true ∧ gives (.ldN8 d w o h) 1 false ∧ gives (.ldS16 d w o h) 2 true ∧
    gives (.ldN16 d w o h) 2 false ∧ gives (.ldS32 d w o h) 4 true ∧ gives (.ldN32 d w o h) 4 false ∧
    gives (.ldD d w o h) 8 false

/-- R163, R166, R167: a scalar load or store whose bytes lie in no region traps ADDR_WINDOW, and one that lies in a region at a pointer that is no multiple of its size traps ALIGN, with the pointer in tval. -/
def Obligations.WindowAndAlignment : Prop :=
  ∀ (s : State) (k : CoreKey) (b : Fin 2) (d : DReg) (r : SReg) (w : WReg) (o : BitVec 7) (x : BitVec 12) (h : La), Quiet s k b →
    let stops (i : Instr) (n : Nat) (p : Word) : Prop :=
      (s.place k p.toNat n = none → exec i s = .next (s.trapNow k b ⟨.addrWindow, p, 0⟩)) ∧
      ((s.place k p.toNat n).isSome = true → p.toNat % n ≠ 0 → exec i s = .next (s.trapNow k b ⟨.align, p, 0⟩))
    let lp (n : Nat) : Word := (s.bank k b).ctx.s w.val + o.signExtend 64 * BitVec.ofNat 64 n
    let sp (n : Nat) : Word := (s.bank k b).ctx.s w.val + x.signExtend 64 * BitVec.ofNat 64 n
    stops (.ldS8 d w o h) 1 (lp 1) ∧ stops (.ldN8 d w o h) 1 (lp 1) ∧ stops (.ldS16 d w o h) 2 (lp 2) ∧
    stops (.ldN16 d w o h) 2 (lp 2) ∧ stops (.ldS32 d w o h) 4 (lp 4) ∧ stops (.ldN32 d w o h) 4 (lp 4) ∧
    stops (.ldD d w o h) 8 (lp 8) ∧ stops (.stB r w x) 1 (sp 1) ∧ stops (.stH r w x) 2 (sp 2) ∧
    stops (.stW r w x) 4 (sp 4) ∧ stops (.stD r w x) 8 (sp 8)

/-- R167, R164: a scalar store into the strand's own scratchpad is made as it issues, at the location that its checks give; a store elsewhere holds the strand with its bytes, and with the group of its space id (R435), until it is accepted. A store waits first for what the strand has out that it is ordered after (R195), and one that is held for a landing slot for its answer (R328). That the store is made at the issue, or held with its bytes, is the model's choice of one execution that R189 to R203 allow (log 4). -/
def Obligations.StoreResults : Prop :=
  ∀ (s : State) (k : CoreKey) (b : Fin 2) (r : SReg) (w : WReg) (o : BitVec 12), Quiet s k b →
    let x := s.bank k b
    let v := s.view k b
    let gives (i : Instr) (n : Nat) : Prop :=
      let p := x.ctx.s w.val + o.signExtend 64 * BitVec.ofNat 64 n
      let bs := leBytes n (x.ctx.s r.val).toNat
      (∀ off, s.issueChecks v p.toNat n n = .ok (.spad k off) → s.farBusy k x (.spad k off) n = false →
        let t := s.served v p.toNat (.spad k off) n .write
        exec i s = .next (((t.1.store [(spadBase k + off, n)] bs).complete k b none t.2).skidStart s k)) ∧
      (∀ pl, s.issueChecks v p.toNat n n = .ok pl → (∀ off, pl ≠ .spad k off) → s.farBusy k x pl n = false →
        s.landFull (s.storeLanding k (p, bs)) = false →
        exec i s = .next ((s.setBank k b { x with store := some ⟨x.nIssued + 1, x.curPc, [(p, bs)], none, s.groupId x.id.spid, [], false, none⟩ }).complete k b none none)) ∧
      (∀ pl, s.issueChecks v p.toNat n n = .ok pl → s.farBusy k x pl n = true → exec i s = .next (s.holdIssue k b))
    gives (.stB r w o) 1 ∧ gives (.stH r w o) 2 ∧ gives (.stW r w o) 4 ∧ gives (.stD r w o) 8

/-- R164: the acceptance of a held store of one lane in this package stores its bytes at the locations that the checks away from the core give, and releases the strand; a check that fails there traps at the store with its pointer. -/
def Obligations.StoreIsAccepted : Prop :=
  ∀ (s : State) (k : CoreKey) (b : Fin 2) (h : StoreHeld) (p : Word) (bs : List Byte) (pl : Place),
    let v := s.view k b
    (s.bank k b).store = some h → h.det = none → h.lanes = [(p, bs)] → s.place k p.toNat bs.length = some pl → pl.isFar = false →
    (∀ ps, s.targetChecks v pl bs.length .write = .ok ps →
      let r := s.served v p.toNat pl bs.length .write
      exec (.storeAcceptance k b none) s = .next ((r.1.store ps bs).unhold k b h r.2)) ∧
    (∀ c e, s.targetChecks v pl bs.length .write = .error (.trap c e) →
      exec (.storeAcceptance k b none) s = .next (s.unhold k b h (some ⟨c, p, BitVec.ofNat 8 e⟩)))

/-- R167, R169: the frame of the stores. From a quiet strand, whose store lies in its own scratchpad and is ordered after nothing that is out (R195), every byte of memory outside the lanes' bytes reads as before, and no register of the strand changes but the trap block, which a WATCH trap writes. The lanes' addresses are those that the meanings compute. That the bytes stand in memory after the issuing step is the model's choice of one execution (log 4, DESIGN CHOICE). -/
def Obligations.StoreFrame : Prop :=
  ∀ (s : State) (k : CoreKey) (b : Fin 2) (i : Instr) (lanes : List (Word × List Byte)) (r : SReg) (y z : VSrc) (e : EWid) (w : WReg)
    (o : BitVec 12) (x : BitVec 6) (m : MReg) (off : Word → Nat), Quiet s k b →
    let c := (s.bank k b).ctx
    let bytes (n : Nat) : List Byte := leBytes n (c.s r.val).toNat
    let act := activeLanes (c.mask m.val)
    ((i = .stB r w o ∧ lanes = [(stPointer c w o 1, bytes 1)]) ∨ (i = .stH r w o ∧ lanes = [(stPointer c w o 2, bytes 2)]) ∨
     (i = .stW r w o ∧ lanes = [(stPointer c w o 4, bytes 4)]) ∨ (i = .stD r w o ∧ lanes = [(stPointer c w o 8, bytes 8)]) ∨
     (i = .vst y e w x m ∧ lanes = act.map fun j => (vAddr c w x (ewBytes e) j, laneBytes c y (ewBytes e) j)) ∨
     (i = .vstx y e w z m ∧ lanes = act.map fun j => (vAddrX c w z (ewBytes e) j, laneBytes c y (ewBytes e) j))) →
    (∀ q ∈ lanes, s.issueChecks (s.view k b) q.1.toNat q.2.length q.2.length = .ok (.spad k (off q.1)) ∧
      s.farBusy k (s.bank k b) (.spad k (off q.1)) q.2.length = false) →
    ∃ t, exec i s = .next t ∧ t.mem = lanes.foldl (fun a q => putBytes a (spadBase k + off q.1) q.2) s.mem ∧
      KeepsOutside s t (lanes.map fun q => (spadBase k + off q.1, q.2.length)) ∧
      { (t.bank k b).ctx with tb := c.tb } = c

/-- R169: a vector load whose active lanes all pass their checks in this package leaves pending a vector whose active lanes hold their bytes zero-extended and whose other lanes hold what they held. The addresses of the lanes are those of each form, the ports have room for the lanes' replies (R328; the trunk ports by log 79, DESIGN CHOICE), and nothing is out that a lane is ordered after (R195). That the bytes are read at the issue is the model's choice (log 4). -/
def Obligations.VectorLoadResults : Prop :=
  ∀ (s : State) (k : CoreKey) (b : Fin 2) (d : VReg) (e : EWid) (w : WReg) (x : BitVec 6) (y : SReg) (z : VSrc) (m : MReg) (h : La), Quiet s k b →
    let c := (s.bank k b).ctx
    let n := ewBytes e
    let v := s.view k b
    let act := activeLanes (c.mask m.val)
    let gives (i : Instr) (addr : Nat → Word) : Prop :=
      ∀ (pl : Nat → Place) (ps : Nat → List (Nat × Nat)),
        (∀ j ∈ act, s.issueChecks v (addr j).toNat n n = .ok (pl j) ∧ (pl j).isFar = false ∧ s.targetChecks v (pl j) n .read = .ok (ps j) ∧
          s.farBusy k (s.bank k b) (pl j) n = false) →
        s.landFull ((act.flatMap fun j => landingFor k (pl j) n) ++
          (act.flatMap fun j => s.crossings (dieOf k) (ps j) (addr j) 0 n).map Crossing.landing) = false →
        ∃ t p u, exec i s = .next t ∧ t.mem = s.mem ∧ (t.bank k b).ctx = c ∧ (t.bank k b).pend = [p] ∧ p.writes = [.v d u] ∧
          (∀ j : Fin 16, j.val ∈ act → u[j] = zext (8 * n) (leNat (s.load (ps j)))) ∧
          (∀ j : Fin 16, j.val ∉ act → u[j] = (c.vec d.val)[j])
    gives (.vld d e w x m h) (fun j => c.s w.val + x.signExtend 64 * BitVec.ofNat 64 (16 * n) + BitVec.ofNat 64 (j * n)) ∧
    gives (.vlds d e w y m h) (fun j => c.s w.val + BitVec.ofNat 64 j * c.s y.val) ∧
    gives (.vldx d e w z m h) (fun j => c.s w.val + (c.vec z.val).getD j 0 * BitVec.ofNat 64 n)

/-- R171: an atomic whose checks pass in this package, with room for its reply (R328; at the trunk ports by log 79, DESIGN CHOICE) and nothing out that it is ordered after (R195), stores the new value at once and leaves the old one pending, sign-extended; AFADD adds in floating point, rounds to nearest even, leaves the old pattern zero-extended and the flags of the sum, and in Slate mode is ILLEGAL (R399). That it is performed at the issue is the model's choice of one execution that R189 to R203 allow (log 4). -/
def Obligations.AtomicResults : Prop :=
  ∀ (s : State) (k : CoreKey) (b : Fin 2) (d : DReg) (a : SReg) (w : WReg) (t : ATy) (u : FTy2) (sc : Scope) (h : La), Quiet s k b →
    let c := (s.bank k b).ctx
    let v := s.view k b
    let p := c.s w.val
    let gives (i : Instr) (n : Nat) (f : Foot) (flags : Bool) (new : Nat → Nat × Flags) : Prop :=
      ∀ (pl : Place) (ps : List (Nat × Nat)), s.opsOut (s.bank k b).id.who sc = false →
        s.issueChecks v p.toNat n n = .ok pl → pl.isFar = false → s.targetChecks v pl n .atomic = .ok ps →
        let links := s.crossings (dieOf k) ps p n n
        s.farBusy k (s.bank k b) pl n = false → s.landFull (landingFor k pl n ++ links.map Crossing.landing) = false →
        let r := s.served v p.toNat pl n .atomic
        let old := leNat (s.load ps)
        exec i s = .next (((r.1.store ps (leBytes n (new old).1)).sent k b { (s.bank k b).pendingOf f h with
          safe := false, setsFlags := flags, writes := [.s d (if flags then zext (8 * n) old else sext (8 * n) old)],
          flags := (new old).2, late := r.2, acq := sc != .st && !links.isEmpty, ptr := p, spans := [(p.toNat, n)],
          land := landingFor k pl n, links := links }).skidStart s k)
    let n := atyBytes t
    let x := (c.s a.val).toNat % 2 ^ (8 * n)
    let cmp := (c.s d.val).toNat % 2 ^ (8 * n)
    let sg (y : Nat) : Int := signedOf (8 * n) y
    let f := footL (rS a.val ++ rS w.val) (rS d.val)
    gives (.aadd d a w t sc h) n f false (fun old => ((old + x) % 2 ^ (8 * n), 0)) ∧
    gives (.amin d a w t sc h) n f false (fun old => (if sg old ≤ sg x then old else x, 0)) ∧
    gives (.amax d a w t sc h) n f false (fun old => (if sg x ≤ sg old then old else x, 0)) ∧
    gives (.axchg d a w t sc h) n f false (fun _ => (x, 0)) ∧
    gives (.acas d a w t sc h) n (footL (rS a.val ++ rS w.val ++ rS d.val) (rS d.val)) false (fun old => (if old = cmp then x else old, 0)) ∧
    ((s.bank k b).id.slate = false →
      gives (.afadd d a w u sc h) (fty2Bytes u) f true (fun old => fAdd u.fmt .rne old ((c.s a.val).toNat % 2 ^ (8 * fty2Bytes u)))) ∧
    ((s.bank k b).id.slate = true → exec (.afadd d a w u sc h) s = .next (s.trapNow k b (illegalAt (.afadd d a w u sc h) 22)))

/-- R175, R431: FENCE of a strand with nothing pending goes on: an acquire at once, the other kinds once no one-sided operation of the strand is out in the scope, and until then they are held. R207, R40: the write-back of a pending instruction of this package, with no slot to change, writes its results in their order, ORs its flags into fcsr, and removes it; one that failed late writes nothing and leaves its trap waiting with LATE = 1. -/
def Obligations.FenceAndWriteBack : Prop :=
  (∀ (s : State) (k : CoreKey) (b : Fin 2) (kd : FenceKind) (sc : Scope), Quiet s k b →
      ((kd = .acq ∨ s.opsOut (s.bank k b).id.who sc = false) → exec (.fence kd sc) s = .next (s.ran k b id none)) ∧
      (kd ≠ .acq → s.opsOut (s.bank k b).id.who sc = true → exec (.fence kd sc) s = .next (s.holdIssue k b))) ∧
  (∀ (s : State) (k : CoreKey) (b : Fin 2) (n : Nat) (p : Pending), (s.bank k b).pend[n]? = some p → p.far = none → p.slot = none →
      let x := s.bank k b
      (p.late = none → exec (.longLatencyWriteback k b n none) s = .next (s.setBank k b { x with
        ctx := (p.writes.foldl Ctx.writeReg x.ctx).orFlags p.flags, pend := x.pend.eraseIdx n })) ∧
      (∀ t, p.late = some t → t.cause ≠ .watch → exec (.longLatencyWriteback k b n none) s = .next (s.setBank k b { x with
        pend := x.pend.eraseIdx n, trapped := x.trapped ++ [⟨p.seq, p.pc, t, true, false, p.replayed⟩] })))

/-! Floating point, vectors, masks and exact accumulators. -/

/-- R36, R40, R135, R136: FADD, FSUB, FMUL, FFMA and FFMS compute exactly on the values that the patterns in the low bits of their sources encode, round once in the mode of the rounding position, deliver the pattern zero-extended, and OR the operation's flags into fcsr. FFMA and FFMS take RD as the third source. -/
def Obligations.FloatArithmetic : Prop :=
  ∀ (s : State) (k : CoreKey) (b : Fin 2) (d : DReg) (a c : SReg) (f : FTy) (r : Rnd) (p : Level), Quiet s k b →
    let x := (s.bank k b).ctx
    let m : Mode := match r with | .mode q => q | .dyn => modeOf (bits x.fcsr 8 2)
    let v (j : Nat) : FVal := f.fmt.read ((x.s j).toNat % 2 ^ f.fmt.width)
    let sum (u w : FVal) (fl : Flags) : Nat × Flags :=
      let e := sumAll m [u, w]
      withFlags (fl ||| u.readFlag ||| w.readFlag ||| e.2) (f.fmt.deliver m e.1)
    let prod := mulAll [v a.val, v c.val]
    let gives (i : Instr) (y : Nat × Flags) : Prop :=
      exec i s = .next (s.ran k b (fun q => (q.deliver d p (zext f.fmt.width y.1)).orFlags y.2) none)
    gives (.fadd d a c f r p) (sum (v a.val) (v c.val) 0) ∧
    gives (.fsub d a c f r p) (sum (v a.val) (v c.val).negate 0) ∧
    gives (.fmul d a c f r p) (withFlags prod.2 (f.fmt.deliver m prod.1)) ∧
    gives (.ffma d a c f r p) (sum prod.1 (v d.val) prod.2) ∧
    gives (.ffms d a c f r p) (sum prod.1 (v d.val).negate prod.2)

/-- R137 to R140: FMIN and FMAX deliver an operand's own pattern, or the default NaN where both are NaNs; FCMP delivers 1 or 0 by the order of the values; FCLASS the one bit of the class; FSGN the magnitude of the first operand under the chosen sign. -/
def Obligations.FloatSelections : Prop :=
  ∀ (s : State) (k : CoreKey) (b : Fin 2) (d : DReg) (a c : SReg) (f : FTy) (p : Level), Quiet s k b →
    let g := f.fmt
    let x := ((s.bank k b).ctx.s a.val).toNat % 2 ^ g.width
    let y := ((s.bank k b).ctx.s c.val).toNat % 2 ^ g.width
    let u := g.read x
    let v := g.read y
    let quiet := u.readFlag ||| v.readFlag
    let nan := u.isNan || v.isNan
    let below := fLt u v || (fEq u v && u.neg? && !v.neg?)
    let half := 2 ^ (g.eb + g.mb)
    let m := x % 2 ^ g.mb
    let top := decide (x / 2 ^ g.mb % 2 ^ g.eb = 2 ^ g.eb - 1)
    let neg := decide (half ≤ x)
    let gives (i : Instr) (w : Word) (fl : Flags) : Prop :=
      exec i s = .next (s.ran k b (fun q => (q.deliver d p w).orFlags fl) none)
    let bit (z : Bool) : Word := if z then 1 else 0
    let signs (z : Bool) : Word := zext g.width (x % half + if z then half else 0)
    gives (.fmin d a c f p) (zext g.width (if u.isNan && v.isNan then g.nanPat else if u.isNan then y else if v.isNan then x else if below then x else y)) quiet ∧
    gives (.fmax d a c f p) (zext g.width (if u.isNan && v.isNan then g.nanPat else if u.isNan then y else if v.isNan then x else if below then y else x)) quiet ∧
    gives (.fcmpEq d a c f p) (bit (!nan && !fLt u v && !fLt v u)) quiet ∧
    gives (.fcmpNe d a c f p) (bit (nan || fLt u v || fLt v u)) quiet ∧
    gives (.fcmpLt d a c f p) (bit (fLt u v)) (if nan then fIV else 0) ∧
    gives (.fcmpLe d a c f p) (bit (!nan && !fLt v u)) (if nan then fIV else 0) ∧
    gives (.fcmpUn d a c f p) (bit nan) quiet ∧
    gives (.fclass d a f p) (BitVec.ofNat 64 (2 ^ (if top then (if m = 0 then (if neg then 0 else 7) else if m < 2 ^ (g.mb - 1) then 8 else 9)
      else if x / 2 ^ g.mb % 2 ^ g.eb = 0 then (if m = 0 then (if neg then 3 else 4) else if neg then 2 else 5) else if neg then 1 else 6))) 0 ∧
    gives (.fsgnCp d a c f p) (signs (decide (half ≤ y))) 0 ∧
    gives (.fsgnNg d a c f p) (signs (decide (y < half))) 0 ∧
    gives (.fsgnXr d a c f p) (signs (decide (half ≤ x) != decide (half ≤ y))) 0

/-- R41 to R44, R143, R151: FCVT and VCVT convert the value of the source pattern to the destination type, with the flags that ConvertsTo gives from R33, R34 and R41 to R44, and deliver it on both levels, sign-extended where the type is a signed integer; VCVT in the active lanes, the others kept. That the NaN of E8M0 signals nothing, that E8M0 to E8M0 keeps every code, and that a PS2 weight of value 0 reads as +0 are the model's choice (logs 70 and 59). -/
def Obligations.Conversions : Prop :=
  ∀ (s : State) (k : CoreKey) (b : Fin 2) (d : DReg) (a : SReg) (e : VReg) (c : VSrc) (n : MReg) (st dt : TyCode) (r : Rnd), Quiet s k b →
    let x := (s.bank k b).ctx
    let m : Mode := match r with | .mode q => q | .dyn => modeOf (bits x.fcsr 8 2)
    let put (y : Nat) : Word := if dt.signed then sext dt.width y else zext dt.width y
    (∃ y, ConvertsTo st dt m ((x.s a.val).toNat % 2 ^ st.width) y ∧
      exec (.fcvt d a st dt r) s = .next (s.ran k b (fun q => (q.deliver d .both (put y.1)).orFlags y.2) none)) ∧
    (∃ lane : Nat → Nat × Flags, (∀ j, j < 16 → ConvertsTo st dt m (((x.vec c.val).getD j 0).toNat % 2 ^ st.width) (lane j)) ∧
      exec (.vcvt e c st dt n r) s = .next (s.ran k b (fun q =>
        (q.deliverV e .both (Vector.ofFn fun j => if (x.mask n.val).getLsbD j.val then put (lane j.val).1 else (x.vec e.val)[j])).orFlags
          ((List.range 16).foldl (fun o j => if (x.mask n.val).getLsbD j then o ||| (lane j).2 else o) 0)) none))

/-- R141, R149, R157, R52: FDIV, FSQRT, VDIV, VSQRT and the reads of an accumulator issue, and what is pending writes the result, with the flags of those that set flags: the quotient or root rounded; −1, 0 or 1 by the sign of the held value; the held value rounded to FP64, or the default NaN and IV where the status holds IV or OF; the status word. -/
def Obligations.LongResults : Prop :=
  ∀ (s : State) (k : CoreKey) (b : Fin 2) (d : DReg) (a c : SReg) (e : VReg) (u v : VSrc) (n : MReg) (f : FTy2) (f3 : FTy) (r : Rnd) (x : XAcc) (h : La), Quiet s k b →
    let g := (s.bank k b).ctx
    let m : Mode := match r with | .mode q => q | .dyn => modeOf (bits g.fcsr 8 2)
    let pat (q : Fmt) (w : Word) : Nat := w.toNat % 2 ^ q.width
    let acc := g.xa[x]
    let gives (i : Instr) (ft : Foot) (w : RegWrite) (fl : Flags) (sets : Bool) : Prop :=
      exec i s = .next (s.sent k b { (s.bank k b).pendingOf ft h with writes := [w], flags := fl, setsFlags := sets })
    let lanes (i : Instr) (ft : Foot) (q : Nat → Nat × Flags) : Prop :=
      gives i ft (.v e (Vector.ofFn fun j => if (g.mask n.val).getLsbD j.val then zext f.fmt.width (q j.val).1 else (g.vec e.val)[j]))
        ((List.range 16).foldl (fun o j => if (g.mask n.val).getLsbD j then o ||| (q j).2 else o) 0) true
    let quo := fDiv f.fmt m (pat f.fmt (g.s a.val)) (pat f.fmt (g.s c.val))
    let root := fSqrt f3.fmt m (pat f3.fmt (g.s a.val))
    let rounded := fmtF64.deliver m (.fin (decide (acc.value.toInt < 0)) acc.value.toInt.natAbs (-3232))
    let bad := acc.status.getLsbD 0 || acc.status.getLsbD 1
    gives (.fdiv d a c f r h) (footL (rS a.val ++ rS c.val) (rS d.val)) (.s d (zext f.fmt.width quo.1)) quo.2 true ∧
    gives (.fsqrt d a f3 r h) (footL (rS a.val) (rS d.val)) (.s d (zext f3.fmt.width root.1)) root.2 true ∧
    lanes (.vdiv e u v n f r h) (footL (rV u.val ++ rV v.val ++ rM n.val) (rV e.val)) (fun j =>
      fDiv f.fmt m (pat f.fmt ((g.vec u.val).getD j 0)) (pat f.fmt ((g.vec v.val).getD j 0))) ∧
    lanes (.vsqrt e u n f r h) (footL (rV u.val ++ rM n.val) (rV e.val)) (fun j => fSqrt f.fmt m (pat f.fmt ((g.vec u.val).getD j 0))) ∧
    gives (.easgn d x h) (footL [] (rS d.val)) (.s d (if acc.value.toInt < 0 then -1 else if acc.value = 0 then 0 else 1)) 0 false ∧
    gives (.earnd d x r h) (footL [] (rS d.val)) (.s d (if bad then 0x7FF8000000000000 else BitVec.ofNat 64 rounded.1)) (if bad then fIV else rounded.2) true ∧
    gives (.easts d x h) (footL [] (rS d.val)) (.s d acc.status) 0 false

/-- R49 to R51, R155, R156: a step on finite operands adds the exact product of its factors, in units of 2^−3232, to the held value modulo 2^6400, or subtracts it, and counts 1; an infinity or a NaN among them sets IV in the status and leaves the value; EACLR zeroes value, count and status, and leaves a pending entry with LA 0 (R62); EAADD adds or subtracts the other held value, adds its count and ORs its status. A count beyond 2^64 − 1 stays there and sets OF. -/
def Obligations.ExactSteps : Prop :=
  ∀ (s : State) (k : CoreKey) (b : Fin 2) (x y : XAcc) (a c e : SReg) (f : FTy2) (h : La), Quiet s k b →
    let bk := s.bank k b
    let g := bk.ctx
    let v (r : SReg) : FVal := f.fmt.read ((g.s r.val).toNat % 2 ^ f.fmt.width)
    let full (q : ExactAcc) (n : Nat) : ExactAcc :=
      if q.count.toNat + n < 2 ^ 64 then { q with count := q.count + BitVec.ofNat 64 n }
      else { q with count := 0xFFFFFFFFFFFFFFFF, status := q.status ||| 2 }
    let sent (i : Instr) (ft : Foot) (q : ExactAcc) : Prop :=
      exec i s = .next ((s.setBank k b { bk.push (bk.pendingOf ft h) with ctx := { g with xa := g.xa.set x q } }).complete k b none none)
    let f2 := footL (rS a.val ++ rS c.val) []
    let f3 := footL (rS a.val ++ rS c.val ++ rS e.val) []
    let old := g.xa[x]
    let other := g.xa[y]
    let wrong := full { old with status := old.status ||| 1 } 1
    (∀ (s1 s2 : Bool) (m1 m2 : Nat) (e1 e2 : Int), v a = .fin s1 m1 e1 → v c = .fin s2 m2 e2 →
      let two : Int := (if s1 = s2 then 1 else -1) * (m1 * m2 * 2 ^ (e1 + e2 + 3232).toNat : Nat)
      sent (.eamac x a c f h) f2 (full { old with value := old.value + BitVec.ofInt 6400 two } 1) ∧
      sent (.eamacNg x a c f h) f2 (full { old with value := old.value - BitVec.ofInt 6400 two } 1)) ∧
    (∀ (s1 s2 s3 : Bool) (m1 m2 m3 : Nat) (e1 e2 e3 : Int), v a = .fin s1 m1 e1 → v c = .fin s2 m2 e2 → v e = .fin s3 m3 e3 →
      let three : Int := (if (s1 != s2) = s3 then 1 else -1) * (m1 * m2 * m3 * 2 ^ (e1 + e2 + e3 + 3232).toNat : Nat)
      sent (.eamac3 x a c e f h) f3 (full { old with value := old.value + BitVec.ofInt 6400 three } 1) ∧
      sent (.eamac3Ng x a c e f h) f3 (full { old with value := old.value - BitVec.ofInt 6400 three } 1)) ∧
    (((v a).isNan || (v a).isInf || (v c).isNan || (v c).isInf) = true →
      sent (.eamac x a c f h) f2 wrong ∧ sent (.eamacNg x a c f h) f2 wrong) ∧
    (((v a).isNan || (v a).isInf || (v c).isNan || (v c).isInf || (v e).isNan || (v e).isInf) = true →
      sent (.eamac3 x a c e f h) f3 wrong ∧ sent (.eamac3Ng x a c e f h) f3 wrong) ∧
    exec (.eaclr x) s = .next ((s.setBank k b { bk.push (bk.pendingOf (footL [] []) 0) with ctx := { g with xa := g.xa.set x ⟨0, 0, 0⟩ } }).complete k b none none) ∧
    sent (.eaadd x y h) (footL [] []) (full { old with value := old.value + other.value, status := old.status ||| other.status } other.count.toNat) ∧
    sent (.eaaddNg x y h) (footL [] []) (full { old with value := old.value - other.value, status := old.status ||| other.status } other.count.toNat)

/-- R153: the mask operations, on all 16 bits; a write to m0 is discarded. MPOP counts the ones. R146: VCMP writes all 16 bits of its mask: a bit is set exactly in an active lane whose condition holds. Of integers un never holds and no flag is raised; of floating-point values the conditions are those of R138, and IV is raised for the active lanes: by eq, ne and un where an operand is a signalling NaN, by lt and le where one is a NaN. -/
def Obligations.MasksAndCompares : Prop :=
  (∀ (s : State) (k : CoreKey) (b : Fin 2) (d x y : MReg) (e : DReg) (p : Level), Quiet s k b →
      let c := (s.bank k b).ctx
      let gives (i : Instr) (w : BitVec 16) : Prop :=
        exec i s = .next (s.ran k b (fun r => if d.val = 0 then r else { r with m := r.m.setIfInBounds d.val w }) none)
      gives (.mand d x y) (c.mask x.val &&& c.mask y.val) ∧ gives (.mor d x y) (c.mask x.val ||| c.mask y.val) ∧
      gives (.mxor d x y) (c.mask x.val ^^^ c.mask y.val) ∧ gives (.mnot d x) (~~~ c.mask x.val) ∧
      exec (.mpop e x p) s = .next (s.ran k b (fun r =>
        r.deliver e p (BitVec.ofNat 64 ((List.range 16).filter fun j => (c.mask x.val).getLsbD j).length)) none)) ∧
  (∀ (s : State) (k : CoreKey) (b : Fin 2) (d m : MReg) (a c : VSrc) (t : VTy), Quiet s k b →
      let x := (s.bank k b).ctx
      let n := vtyWidth t
      let A (j : Nat) : Nat := ((x.vec a.val).getD j 0).toNat % 2 ^ n
      let C (j : Nat) : Nat := ((x.vec c.val).getD j 0).toNat % 2 ^ n
      let iv (y : Nat) : Int := if vtySigned t then (y : Int) - 2 ^ n * (y / 2 ^ (n - 1) : Nat) else y
      let U (j : Nat) : FVal := (vtyFmt t).read (A j)
      let V (j : Nat) : FVal := (vtyFmt t).read (C j)
      let act (j : Nat) : Bool := (x.mask m.val).getLsbD j
      let nan (j : Nat) : Bool := (U j).isNan || (V j).isNan
      let signal (j : Nat) : Bool := decide (U j = .nan true) || decide (V j = .nan true)
      let gives (i : Instr) (h : Int → Int → Bool) (g raises : Nat → Bool) : Prop :=
        ∃ (w : BitVec 16) (fl : Flags), exec i s = .next (s.ran k b (fun o => (o.setM d.val w).orFlags fl) none) ∧
          (∀ j, j < 16 → w.getLsbD j = (act j && if t.isInt then h (iv (A j)) (iv (C j)) else g j)) ∧
          fl = if !t.isInt && (List.range 16).any (fun j => act j && raises j) then fIV else 0
      gives (.vcmpEq d a c m t) (fun u v => decide (u = v)) (fun j => !nan j && !fLt (U j) (V j) && !fLt (V j) (U j)) signal ∧
      gives (.vcmpNe d a c m t) (fun u v => decide (u ≠ v)) (fun j => nan j || fLt (U j) (V j) || fLt (V j) (U j)) signal ∧
      gives (.vcmpLt d a c m t) (fun u v => decide (u < v)) (fun j => fLt (U j) (V j)) nan ∧
      gives (.vcmpLe d a c m t) (fun u v => decide (u ≤ v)) (fun j => !nan j && !fLt (V j) (U j)) nan ∧
      gives (.vcmpUn d a c m t) (fun _ _ => false) nan signal)

/-- R133, R134, R145, R147, R148, R150: the lane-wise operations: each active lane gets the operation of the source lanes, fitted to the type, each other lane keeps what it held, and the flags of the active lanes are ORed into fcsr. VSEL chooses in all lanes by the mask; VSHUF takes the lane that the second source names, or 0 above 15. -/
def Obligations.VectorResults : Prop :=
  ∀ (s : State) (k : CoreKey) (b : Fin 2) (d : VReg) (a c e : VSrc) (sr : SReg) (m : MReg) (t : VTy) (f : FTy2) (r : Rnd) (md : Mode) (p : Level), Quiet s k b →
    let x := (s.bank k b).ctx
    let q : Mode := match r with | .mode z => z | .dyn => modeOf (bits x.fcsr 8 2)
    let n := vtyWidth t
    let act (j : Nat) : Bool := (x.mask m.val).getLsbD j
    let A (j : Nat) : Nat := ((x.vec a.val).getD j 0).toNat % 2 ^ n
    let C (j : Nat) : Nat := ((x.vec c.val).getD j 0).toNat % 2 ^ n
    let fit (y : Nat) : Word := if vtySigned t then sext n y else zext n y
    let sg (y : Nat) : Int := (y : Int) - 2 ^ n * (y / 2 ^ (n - 1) : Nat)
    let lanes (i : Instr) (z : Nat → Word × Flags) : Prop :=
      exec i s = .next (s.ran k b (fun o => (o.deliverV d p
        (Vector.ofFn fun j => if act j.val then (z j.val).1 else (x.vec d.val)[j])).orFlags
        ((List.range 16).foldl (fun w j => if act j then w ||| (z j).2 else w) 0)) none)
    let int (i : Instr) (z : Nat → Nat) : Prop := t.isInt = true → lanes i fun j => (fit (z j), 0)
    let flt (i : Instr) (z : Nat → Nat × Flags) : Prop := t.isInt = false → lanes i fun j => (zext n (z j).1, (z j).2)
    let pf (v : VSrc) (j : Nat) : Nat := ((x.vec v.val).getD j 0).toNat % 2 ^ f.fmt.width
    int (.vadd d a c m t r p) (fun j => (A j + C j) % 2 ^ n) ∧ flt (.vadd d a c m t r p) (fun j => fAdd (vtyFmt t) q (A j) (C j)) ∧
    int (.vsub d a c m t r p) (fun j => (A j + 2 ^ n - C j) % 2 ^ n) ∧ flt (.vsub d a c m t r p) (fun j => fSub (vtyFmt t) q (A j) (C j)) ∧
    int (.vmul d a c m t r p) (fun j => A j * C j % 2 ^ n) ∧ flt (.vmul d a c m t r p) (fun j => fMul (vtyFmt t) q (A j) (C j)) ∧
    int (.vmin d a c m t p) (fun j => if vtySigned t then (if sg (A j) ≤ sg (C j) then A j else C j) else min (A j) (C j)) ∧
    int (.vmax d a c m t p) (fun j => if vtySigned t then (if sg (C j) ≤ sg (A j) then A j else C j) else max (A j) (C j)) ∧
    flt (.vmin d a c m t p) (fun j => fMinMax (vtyFmt t) false (A j) (C j)) ∧
    flt (.vmax d a c m t p) (fun j => fMinMax (vtyFmt t) true (A j) (C j)) ∧
    lanes (.vand d a c m t p) (fun j => (fit (A j &&& C j), 0)) ∧ lanes (.vor d a c m t p) (fun j => (fit (A j ||| C j), 0)) ∧
    lanes (.vxor d a c m t p) (fun j => (fit (A j ^^^ C j), 0)) ∧
    lanes (.vshl d a c m t p) (fun j => (fit (A j * 2 ^ (C j % n) % 2 ^ n), 0)) ∧
    lanes (.vshr d a c m t p) (fun j => (fit (if vtySigned t then ((sg (A j) / 2 ^ (C j % n)) % 2 ^ n).toNat else A j / 2 ^ (C j % n)), 0)) ∧
    int (.vabs d a m t p) (fun j => (sg (A j)).natAbs) ∧ flt (.vabs d a m t p) (fun j => (A j % 2 ^ (n - 1), 0)) ∧
    int (.vneg d a m t p) (fun j => (2 ^ n - A j) % 2 ^ n) ∧ flt (.vneg d a m t p) (fun j => ((A j + 2 ^ (n - 1)) % 2 ^ n, 0)) ∧
    int (.viota d m t p) (fun j => j) ∧ flt (.viota d m t p) (fun j => (((vtyFmt t).deliver .rne (.fin false j 0)).1, 0)) ∧
    lanes (.vfma md d a c e m p f) (fun j => let y := fFma f.fmt md (pf a j) (pf c j) (pf e j) false; (zext f.fmt.width y.1, y.2)) ∧
    lanes (.vfms md d a c e m p f) (fun j => let y := fFma f.fmt md (pf a j) (pf c j) (pf e j) true; (zext f.fmt.width y.1, y.2)) ∧
    lanes (.vbcast sr d m t p) (fun _ => (fit (x.s sr.val).toNat, 0)) ∧
    lanes (.vshuf d a c m p) (fun j => (let y := ((x.vec c.val).getD j 0).toNat; if y < 16 then (x.vec a.val).getD y 0 else 0, 0)) ∧
    exec (.vsel d a c m p) s = .next (s.ran k b (fun o => o.deliverV d p
      (Vector.ofFn fun j => if act j.val then (x.vec a.val)[j] else (x.vec c.val)[j])) none)

/-- R47, R150: VEXT delivers one lane fitted to the type; VINS writes one lane and keeps the others; VRED delivers the sum, the least or the greatest of the active lanes of an integer type; of a floating-point type it combines the lanes in the tree of R47, four levels of nodes, each of which rounds once, or passes on the one input that is present, with the flags of every node; with no active lane it delivers 0, the largest or the smallest value of any type. -/
def Obligations.LaneMovesAndReductions : Prop :=
  ∀ (s : State) (k : CoreKey) (b : Fin 2) (d : DReg) (a : VSrc) (r : SReg) (e : VReg) (j : Fin 16) (m : MReg) (t : VTy) (q : Rnd) (p : Level), Quiet s k b →
    let x := (s.bank k b).ctx
    let n := vtyWidth t
    let fit (y : Nat) : Word := if vtySigned t then sext n y else zext n y
    let act := (List.range 16).filter fun i => (x.mask m.val).getLsbD i
    let A (i : Nat) : Nat := ((x.vec a.val).getD i 0).toNat % 2 ^ n
    let iv (y : Nat) : Int := if vtySigned t then (y : Int) - 2 ^ n * (y / 2 ^ (n - 1) : Nat) else y
    let mode : Mode := match q with | .mode z => z | .dyn => modeOf (bits x.fcsr 8 2)
    let node (f : Nat → Nat → Nat × Flags) (l : Nat → Option Nat × Flags) (i : Nat) : Option Nat × Flags :=
      let u := l (2 * i)
      let v := l (2 * i + 1)
      match u.1, v.1 with
      | some g, some h => (some (f g h).1, u.2 ||| v.2 ||| (f g h).2)
      | some g, none => (some g, u.2 ||| v.2)
      | none, o => (o, u.2 ||| v.2)
    let leaves (i : Nat) : Option Nat × Flags := (if (x.mask m.val).getLsbD i then some (A i) else none, 0)
    let tree (f : Nat → Nat → Nat × Flags) (y : Word) (fl : Flags) : Prop :=
      let root := node f (node f (node f (node f leaves))) 0
      fl = root.2 ∧ ∀ z, root.1 = some z → y = fit z
    exec (.vext d a j t p) s = .next (s.ran k b (fun o => o.deliver d p (fit ((x.vec a.val)[j]).toNat)) none) ∧
    exec (.vins r e j t p) s = .next (s.ran k b (fun o => o.deliverV e p ((x.vec e.val).set j (fit (x.s r.val).toNat))) none) ∧
    (∃ y fl, exec (.vredAdd d a q m t p) s = .next (s.ran k b (fun o => (o.deliver d p y).orFlags fl) none) ∧
      (t.isInt = true → y = fit ((act.map A).sum % 2 ^ n) ∧ fl = 0) ∧ (act = [] → y = 0 ∧ fl = 0) ∧ (t.isInt = false → tree (fAdd (vtyFmt t) mode) y fl)) ∧
    (∃ y fl, exec (.vredMin d a m t p) s = .next (s.ran k b (fun o => (o.deliver d p y).orFlags fl) none) ∧
      (t.isInt = true → fl = 0 ∧ (act ≠ [] → ∃ i ∈ act, y = fit (A i) ∧ ∀ h ∈ act, iv (A i) ≤ iv (A h))) ∧
      (act = [] → y = fit (if t.isInt then (if vtySigned t then 2 ^ (n - 1) - 1 else 2 ^ n - 1) else (vtyFmt t).infPat)) ∧
      (t.isInt = false → tree (fMinMax (vtyFmt t) false) y fl)) ∧
    (∃ y fl, exec (.vredMax d a m t p) s = .next (s.ran k b (fun o => (o.deliver d p y).orFlags fl) none) ∧
      (t.isInt = true → fl = 0 ∧ (act ≠ [] → ∃ i ∈ act, y = fit (A i) ∧ ∀ h ∈ act, iv (A h) ≤ iv (A i))) ∧
      (act = [] → y = fit (if t.isInt then (if vtySigned t then 2 ^ (n - 1) else 0) else (vtyFmt t).infPat + 2 ^ (n - 1))) ∧
      (t.isInt = false → tree (fMinMax (vtyFmt t) true) y fl))

/-! Graph array, events and rings. -/

/-- R225, R229, R231, R236: XDROP leaves an empty binding pending for its slot. XCFG reads the image at its pointer as it issues and leaves pending the binding: the pointer with state code 3 for an invalid image, 4 for an unsigned one, and 1 with the segment configured else. The reload of a slot in state 2 does the same at once, and a check that fails gives code 5. The ports have room for the image's reply (R328; the trunk ports by log 79, DESIGN CHOICE), and for XCFG nothing is out that it is ordered after (R195). A pointer in a window that R229 does not allow is such a failure of a reload. How a signature is checked is FIPS 204, which is outside the spec (log 7); that the image is read as XCFG issues is log 4, and that a reload hit by a watchpoint is recorded and does not trap is log 74 (DESIGN CHOICE). -/
def Obligations.GraphBindings : Prop :=
  ∀ (s : State) (k : CoreKey) (b : Fin 2) (n : Fin 8) (r : WReg) (h : La), k % 8 < 4 →
    let x := s.bank k b
    let v := s.view k b
    let signed (bs : List Byte) : Bool := (s.clu (clusterOf k)).digests.contains (sha3 (bs.take 0x440)) ||
      (match s.boot.imageKey with | some key => mlDsaVerify key (sha3 (bs.take 0x440)) ((bs.drop 0x440).take 2420) | none => false)
    let code (bs : List Byte) : Nat := if !imageValid bs then 3 else if signed bs then 1 else 4
    let seg (bs : List Byte) : Option XImage := if code bs = 1 then some (readImage bs) else none
    let word (p : Word) (st : Nat) : Word := setBits (setBits p 0 8 0) 0 4 st
    (Quiet s k b → exec (.xdrop n h) s = .next (s.sent k b { x.pendingOf (footL [] []) h with slot := some ⟨n, 0, none⟩ })) ∧
    (Quiet s k b →
      let p := x.ctx.s r.val
      (tagOf p.toNat = 0 ∨ tagOf p.toNat = 1 ∨ tagOf p.toNat = 8) →
      ∀ pl ps, s.issueChecks v p.toNat 3584 256 = .ok pl → s.readFull v pl 0xDB4 = false → s.farBusy k x pl 0xDB4 = false → s.targetChecks v pl 0xDB4 .read = .ok ps →
        s.landFull ((s.crossings (dieOf k) ps p 0 0xDB4).map Crossing.landing) = false →
        ∃ t pd, exec (.xcfg n r h) s = .next t ∧ t.mem = s.mem ∧ (t.bank k b).ctx = x.ctx ∧ (t.bank k b).pend = [pd] ∧
          pd.slot = some ⟨n, word p (code (s.load ps)), seg (s.load ps)⟩ ∧ pd.writes = [] ∧ pd.safe = false) ∧
    (x.st = .bound → bits x.ctx.binds[n] 0 4 = 2 → (∀ q ∈ x.pend, q.slot = none) → (s.core k).fen = false →
      let p := setBits x.ctx.binds[n] 0 8 0
      let allowed := tagOf p.toNat = 0 ∨ tagOf p.toNat = 1 ∨ tagOf p.toNat = 8
      (∀ pl ps, allowed → s.issueChecks v p.toNat 3584 256 = .ok pl → s.readFull v pl 0xDB4 = false → s.targetChecks v pl 0xDB4 .read = .ok ps →
        ∃ t, exec (.reload k b n) s = .next t ∧ t.mem = s.mem ∧ t.bank k b = { x with
          ctx := { x.ctx with binds := x.ctx.binds.set n (word p (code (s.load ps))) }, plane := x.plane.set n (seg (s.load ps)) }) ∧
      ((¬allowed ∨ ∃ c d, s.issueChecks v p.toNat 3584 256 = .error (.trap c d)) →
        exec (.reload k b n) s = .next (s.setBank k b { x with
          ctx := { x.ctx with binds := x.ctx.binds.set n (word p 5) }, plane := x.plane.set n none })))

/-- R223, R232 to R234: XOP of a slot in state 1 whose fields pass the check runs the segment's elements in order on the sources, in every lane for a vector segment, writes the destinations' results and ORs the flags; a segment of long latency leaves them pending. A slot in any state but 1 and 2 traps XOP_UNLOADED with the slot and the state, a core without a graph array ILLEGAL. -/
def Obligations.GraphOperation : Prop :=
  ∀ (s : State) (k : CoreKey) (b : Fin 2) (n : Fin 8) (d a c : BitVec 6) (h : La) (x : XImage), Quiet s k b →
    let bk := s.bank k b
    let i : Instr := .xop n d a c h
    let st := bits bk.ctx.binds[n] 0 4
    (8 ≤ k % 8 + 4 → exec i s = .next (s.trapNow k b (illegalAt i 15))) ∧
    (k % 8 < 4 → st ≠ 1 → st ≠ 2 → exec i s = .next (s.trapNow k b ⟨.xopUnloaded, BitVec.ofNat 64 n.val, BitVec.ofNat 8 st⟩)) ∧
    (k % 8 < 4 → st = 1 → bk.plane[n] = some x → xopCheck x d.toNat a.toNat c.toNat = none →
      let lane (j : Nat) : List Word × Flags := x.pass bk.ctx.rm (xopSource x bk.ctx d.toNat a.toNat c.toNat j)
      let lanes := List.range (if x.isVector then 16 else 1)
      let res (vec : Bool) (e m : Nat) : RegWrite :=
        if vec then .v (Fin.ofNat 16 m) (Vector.ofFn fun j => (if x.isVector then (lane j.val).1 else if j.val = 0 then (lane 0).1 else []).getD e 0)
        else .s (Fin.ofNat 40 m) ((lane 0).1.getD e 0)
      let ws := res x.d0v x.d0pe d.toNat :: if x.ndst = 2 then [res x.d1v x.d1pe (d.toNat + 1)] else []
      let fl := lanes.foldl (fun o j => o ||| (lane j).2) 0
      (x.ll = false → exec i s = .next (s.ran k b (fun q => (ws.foldl Ctx.writeReg q).orFlags fl) none)) ∧
      (x.ll = true → exec i s = .next (s.sent k b { bk.pendingOf (xopFoot (some x) d.toNat a.toNat c.toNat) h with
        writes := ws, flags := fl, setsFlags := true, xop := some n })))

/-- R183, R185, R186: OFFER of a live event of which the strand is a participant, with a valid payload, fills the lowest empty entry and gives its index in RD. CHOOSE and POLL take the lowest entry that has occurred: RD receives its index, its flags join fcsr, it becomes empty; with none occurred the lowest stale entry traps EV_STALE; with neither POLL gives −1 and CHOOSE blocks the strand, which a stop under way counts (R321); with no entry occupied POLL gives −2. WITHDRAW gives the index of the entry that is committed or occurred, or −1, and empties the others. That OFFER waits while a one-sided operation of the strand is out, and that the accesses of a strand that has taken an occurrence wait for the deliveries that it owes, which the strand's bank notes, is how the model keeps R196 (log 4). -/
def Obligations.OffersAndChoices : Prop :=
  ∀ (s : State) (k : CoreKey) (b : Fin 2) (d : DReg) (e : EvRef) (a : SReg) (j : Fin 8), Quiet s k b →
    let x := s.bank k b
    let c := x.ctx
    let st (m : Fin 8) : Nat := bits c.offers[m].w0 29 3
    let hd (m : Fin 8) : Nat := bits c.offers[m].w0 32 32
    let ev := EvRef.handle x e
    let takes (i : Instr) : Prop := ∃ t, exec i s = .next t ∧ t.mem = s.mem ∧ (t.bank k b).pc = x.pc + 4 ∧
      (∀ y, y ∈ (t.bank k b).heard ↔ (y ∈ x.heard ∨ y = hd j) ∧ ∃ z ∈ s.deliveries, z.handle = y) ∧
      (t.bank k b).ctx = Ctx.setS { c.orFlags (BitVec.ofNat 6 (bits c.offers[j].w0 18 4)) with offers := c.offers.set j ⟨0, 0⟩ } d.val (BitVec.ofNat 64 j.val)
    let gives (i : Instr) (w : Word) : Prop := exec i s = .next (s.ran k b (fun r => r.setS d.val w) none)
    let blocks : Next := .next ((s.setBank k b { x with wait := some .choose, held := true }).skidBlocks s k b)
    x.id.slate = false →
    (∀ (m : Home) (n : Nat) (w0 w1 : Word) (s1 : State), s.opsOut x.id.who .dm = false → EvRef.beyond x e = false → s.live ev = some (m, n) → x.id.who ∈ (s.slot m n).strands →
      st j = 0 → (∀ y : Fin 8, y < j → st y ≠ 0) → (∀ y : Fin 8, st y ≠ 2 ∧ st y ≠ 3 ∧ (st y ≠ 0 → hd y ≠ ev)) →
      (if a.val = 0 then (.ok (0, 0, s, none) : Except Act _) else s.readDescriptor (s.view k b) (c.s a.val)) = .ok (w0, w1, s1, none) →
      s1.payloadOk k ⟨w0, w1⟩ = true →
      ∃ t, exec (.offer d e a) s = .next t ∧ t.mem = s.mem ∧
        (t.bank k b).ctx = Ctx.setS { c with offers := c.offers.set j ⟨BitVec.ofNat 64 (ev * 2 ^ 32 + 2 ^ 29) ||| w0, w1⟩ } d.val (BitVec.ofNat 64 j.val)) ∧
    (st j = 3 → (∀ y : Fin 8, y < j → st y ≠ 3) → takes (.choose d) ∧ takes (.poll d)) ∧
    (st j = 4 → (∀ y : Fin 8, st y ≠ 3) → (∀ y : Fin 8, y < j → st y ≠ 4) →
      exec (.choose d) s = .next (s.trapNow k b ⟨.evStale, BitVec.ofNat 64 (hd j), 0⟩) ∧
      exec (.poll d) s = .next (s.trapNow k b ⟨.evStale, BitVec.ofNat 64 (hd j), 0⟩)) ∧
    (st j ≠ 0 → (∀ y : Fin 8, st y ≠ 3 ∧ st y ≠ 4) → gives (.poll d) (-1) ∧
      exec (.choose d) s = blocks) ∧
    ((∀ y : Fin 8, st y = 0) → gives (.poll d) (-2) ∧ exec (.choose d) s = .next (s.trapNow k b ⟨.illegal, 0, 12⟩)) ∧
    (∃ w t, exec (.withdraw d) s = .next t ∧ t.mem = s.mem ∧
      (t.bank k b).ctx = Ctx.setS { c with offers := c.offers.map fun o => if (bits o.w0 29 3 = 1 ∨ bits o.w0 29 3 = 4) then (⟨0, 0⟩ : Offer) else o } d.val w ∧
      ((∀ y : Fin 8, st y ≠ 2 ∧ st y ≠ 3) → w = -1) ∧
      ((st j = 2 ∨ st j = 3) → (∀ y : Fin 8, y < j → st y ≠ 2 ∧ st y ≠ 3) → w = BitVec.ofNat 64 j.val))

/-- R187, R188: while no link on the way to the home retrains, EVJOIN adds the strand to the participants of a live event that can take it; EVLEAVE removes it, and empties its offers of that event; EVBIND adds a signal participant with the threshold and pointer of a valid descriptor, whose index RD receives; EVBIND.U removes the one that its register names. That the index is the lowest free one is the model's choice (log 71, DESIGN CHOICE), as is the reading of the event reference from a register (log 72) and that the count of participants is checked before the descriptor is read (log 83). -/
def Obligations.Participants : Prop :=
  ∀ (s : State) (k : CoreKey) (b : Fin 2) (d : DReg) (e : EvRef) (a : SReg) (m : Home) (n : Nat), Quiet s k b →
    let x := s.bank k b
    let ev := EvRef.handle x e
    let y := s.slot m n
    EvRef.beyond x e = false → s.live ev = some (m, n) → s.homeWaits k m = false →
    (joinRefused m y k = false → x.id.who ∉ y.strands → ∃ t, exec (.evjoin e) s = .next t ∧ t.mem = s.mem ∧
      t.slot m n = { y with strands := y.strands ++ [x.id.who] } ∧ (t.bank k b).ctx = x.ctx) ∧
    (x.id.who ∈ y.strands → ∃ t, exec (.evleave e) s = .next t ∧ t.mem = s.mem ∧
      t.slot m n = { y with strands := y.strands.filter (· != x.id.who) } ∧
      (t.bank k b).ctx = { x.ctx with offers := x.ctx.offers.map fun o => if (bits o.w0 29 3 = 1 ∧ bits o.w0 32 32 = s.handleOf m n y.gen.toNat) then (⟨0, 0⟩ : Offer) else o }) ∧
    (∀ (w0 w1 : Word) (s1 : State) (j : Nat), y.sigs.length < 4 → s.readDescriptor (s.view k b) (x.ctx.s a.val) = .ok (w0, w1, s1, none) →
      s1.signalOk k w0.toNat = true → s1.slot m n = y → j < 4 → (∀ z ∈ y.sigs, z.1 ≠ j) → (∀ q, q < j → ∃ z ∈ y.sigs, z.1 = q) →
      ∃ t, exec (.evbind d e a) s = .next t ∧ t.mem = s.mem ∧ (t.slot m n).sigs = insertKey j ⟨w0, w1, 0, k, x.id.spid⟩ y.sigs ∧
        (t.bank k b).ctx = x.ctx.setS d.val (BitVec.ofNat 64 j)) ∧
    ((∃ z ∈ y.sigs, z.1 = (x.ctx.s a.val).toNat) → ∃ t, exec (.evbindU e a) s = .next t ∧ t.mem = s.mem ∧
      t.slot m n = { y with sigs := y.sigs.filter fun z => z.1 != (x.ctx.s a.val).toNat } ∧ (t.bank k b).ctx = x.ctx)

/-- R239, R242, R243: a push into an enabled ring of the strand's own cluster that is not ordered gives −1 and changes nothing where the ring is full, and else the ticket: the value stands at the ticket's entry, and the frontier and the data signal advance over every written entry. A pop gives the value and the ticket of the head and adds 1 to the space signal, or gives 0 and −1 where nothing is poppable. A write of RCFG that enables a ring zeroes its counters, its data signal, and sets its space signal to its capacity. That a BASE, DSIG or SSIG which is no multiple of 8 bytes is read in units of 8 bytes is the model's reading (log 23, DEDUCED). The clauses for a MODE that is not 1 take in the reserved MODE 0b11: that it enables the ring as one of arrival order is the model's choice (log 75, DESIGN CHOICE). No delivery is owed that the strand's accesses wait for (R196). -/
def Obligations.Rings : Prop :=
  ∀ (s : State) (k : CoreKey) (b : Fin 2) (d u : DReg) (v a : SReg) (i : Fin 16) (w : Word),
    let x := s.bank k b
    let cl := clusterOf k
    let g := (s.clu cl).rings[i]
    let cap := 2 ^ bits g.rcfg 57 4
    let place (t : Nat) : Nat := sramBase cl + (bits g.rcfg 41 16 * 8 + 8 * (t % cap))
    let dsig := sramBase cl + bits g.rcfg 22 16 * 8
    let ssig := sramBase cl + bits g.rcfg 3 16 * 8
    let bump (m : List (Nat × Byte)) (p n : Nat) : List (Nat × Byte) := putBytes m p (leBytes 8 ((leNat (getBytes m p 8) + n) % 2 ^ 64))
    (Quiet s k b → s.owedTo k = false → s.slatePhase k x = false → x.id.slate = false → g.rcfg.getLsbD 63 = true → x.ctx.s a.val = BitVec.ofNat 64 i.val →
      (bits g.rcfg 61 2 ≠ 1 →
        let t := g.arrival.toNat
        (g.head.toNat + cap ≤ t → exec (.rqpush d v a) s = .next (s.ran k b (fun r => r.setS d.val (-1)) none)) ∧
        (∀ n, t < g.head.toNat + cap → (∀ j < n, g.front.toNat + j ∈ t :: g.written) → g.front.toNat + n ∉ t :: g.written →
          ∃ s1, exec (.rqpush d v a) s = .next s1 ∧ (s1.bank k b).ctx = x.ctx.setS d.val (BitVec.ofNat 64 t) ∧
            s1.mem = bump (putBytes s.mem (place t) (leBytes 8 (x.ctx.s v.val).toNat)) dsig n ∧
            ((s1.clu cl).rings[i]).arrival = g.arrival + 1 ∧ ((s1.clu cl).rings[i]).front = BitVec.ofNat 64 (g.front.toNat + n))) ∧
      (g.head.toNat < g.front.toNat → poisoned s.poison (place g.head.toNat) 8 = false →
        ∃ s1, exec (.rqpop d u a) s = .next s1 ∧ s1.mem = bump s.mem ssig 1 ∧ ((s1.clu cl).rings[i]).head = g.head + 1 ∧
          (s1.bank k b).ctx = (x.ctx.setS d.val (leWord (getBytes s.mem (place g.head.toNat) 8))).setS u.val g.head) ∧
      (g.front.toNat ≤ g.head.toNat → exec (.rqpop d u a) s = .next (s.ran k b (fun r => (r.setS d.val 0).setS u.val (-1)) none))) ∧
    (w.getLsbD 63 = true → 3 ≤ bits w 57 4 → bits w 57 4 ≤ 15 → bits w 61 2 ≠ 1 → bits w 41 16 * 8 + 8 * 2 ^ bits w 57 4 ≤ sramSize →
      ∃ t, exec (.rcfgWrite cl i w) s = .next t ∧
        (t.clu cl).rings[i] = { g with rcfg := w, head := 0, front := 0, arrival := 0, ranks := Vector.replicate 16 0, written := [] } ∧
        t.mem = putBytes (putBytes s.mem (sramBase cl + bits w 22 16 * 8) (leBytes 8 0)) (sramBase cl + bits w 3 16 * 8) (leBytes 8 (2 ^ bits w 57 4)))

/-! Commands, gangs and fusion. -/

/-- R77, R195, R249, R252: QPUSH of a strand with no one-sided operation out, whose word can be read and passes the checks of R77, gives −1 where the queue is full, −2 where the lock table lacks room, and else 0, with the command at the end of its queue; a failed check traps, after the read, whose watchpoint hits count (R322). That a running command counts toward its queue's depth is the model's choice (log 77). QSTAT reads no memory where a command of the word is held: it gives 0 where it is queued, and PST = 2 with the step where it runs; where none is held it gives word 0's low 11 bits. -/
def Obligations.CommandPush : Prop :=
  ∀ (s s1 : State) (k : CoreKey) (b : Fin 2) (d : DReg) (a : WReg) (n : Fin 4) (loc : Nat) (bs : List Byte), Quiet s k b →
    let x := s.bank k b
    let cl := clusterOf k
    let p := x.ctx.s a.val
    let cw := cmdWordsOf bs
    let put (t : State) (w : Word) : Prop := t.mem = s.mem ∧ (t.bank k b).ctx = x.ctx.setS d.val w
    let held (q : Nat) : Nat := ((s1.clu cl).cmds.filter fun m => decide (m.st ≠ .stopped) && m.q.val == q).length
    let free := ((s1.clu cl).locks.toList.filter fun l => l.isNone).length
    let tok := s1.allowance x.id.ln x.ctx.tok.toNat
    let pushes (i : Instr) (q : Fin 6) (room : Nat) : Prop :=
      s.opsOut x.id.who .dm = false → s.readCommand (s.view k b) p 32 = .ok (loc, bs, s1, none) →
      (∀ t, s1.checkCmd k q.val p loc cw tok false = some t → exec i s = .next ((s1.trapNow k b t).skidStart s k)) ∧
      (s1.checkCmd k q.val p loc cw tok false = none →
        let need := pushRanges ((opOf cw.cop).getD .mzero) cw q.val
        (room ≤ held q.val → ∃ t, exec i s = .next t ∧ put t (-1) ∧ (t.clu cl).cmds = (s1.clu cl).cmds) ∧
        (held q.val < room → free < need → ∃ t, exec i s = .next t ∧ put t (-2) ∧ (t.clu cl).cmds = (s1.clu cl).cmds) ∧
        (held q.val < room → need ≤ free → (s1.clu cl).cmdAt loc = none →
          ∃ t m, exec i s = .next t ∧ put t 0 ∧ (t.clu cl).cmds = (s1.clu cl).cmds ++ [m] ∧
            m.q = q ∧ m.words = cw ∧ m.st = .queued ∧ m.pch = bits cw[0] 0 8 ∧ m.loc = loc ∧ m.core = k ∧ m.who = x.id.who ∧ m.tok = tok))
    pushes (.qpushSl d a n) ⟨n.val, by omega⟩ 32 ∧ pushes (.qpushGth d a) 4 32 ∧ pushes (.qpushCpy d a) 5 64 ∧
    (∀ pl, s.commandPlace (s.view k b) p 8 = .ok pl →
      (∀ m, (s.clu cl).cmdAt pl.loc = some m → m.st ≠ .stopped → exec (.qstat d a) s = .next (s.ran k b (fun r =>
        r.setS d.val (if m.st = .queued then 0 else BitVec.ofNat 64 (0x200 + min m.pch (m.steps - 1)))) none)) ∧
      ((∀ m, (s.clu cl).cmdAt pl.loc = some m → m.st = .stopped) → s.readCommand (s.view k b) p 8 = .ok (loc, bs, s1, none) →
        ∃ t, exec (.qstat d a) s = .next t ∧ put t (BitVec.ofNat 64 (leNat bs % 2048))))

/-- R267 to R269: MGANG of a strand with no one-sided operation out, whose word passes its checks, while some other slice has no offer, leaves its offer and blocks the strand. The fourth offer makes the gang event: GANG_MISMATCH where the words or the space ids differ, with the first that differs; −1 where a queue is full; −2 where the lock table lacks room; else 0, and the four commands stand as one gang at the ends of their queues. Each slice holds the result; the MGANG that issues again takes it and empties its slice, or traps. R343, R344: FUSE of a strand whose checks pass holds its offer and blocks the strand. The sixteenth offer makes the quad read the images: a fault holds FUSE_FAULT for all sixteen, an image that is not valid −1, one that is not signed −2; else the fusion runs, its stages are those of the image, and the sixteen strands stand after their FUSEs, blocked. The FUSE that issues again takes a result that is held. R347: UNFUSE of a quad that runs no fusion, or that another UNFUSE drains, gives −1; of one that a fault has ended, −3 where it was stalled; of a fused one it gives 0 once the stages hold no tuple: every fused strand's FUSE returns its stage's count, and the fusion has ended with code 1; until then it stalls and no stage pops. MGANG and FUSE of a core that is none of 0 to 3, and UNFUSE of one that is, are ILLEGAL 18. How far a read of images has come stands in the fabric's list (R344, R423). That running and finished commands count to a queue's depth (log 77), and the order of the image reads, whose first failure decides (log 34), are the model's choices (DESIGN CHOICE). -/
def Obligations.GangAndFusion : Prop :=
  ∀ (s : State) (k : CoreKey) (b : Fin 2) (d : DReg) (a : WReg), Quiet s k b →
    let x := s.bank k b
    let cl := clusterOf k
    let n := s.cid k
    let me := x.id.who
    let p := x.ctx.s a.val
    let dq := quadOf cl
    let q := s.quad dq.1 dq.2
    let j := s.quadCore k
    let tok := s.allowance x.id.ln x.ctx.tok.toNat
    (3 < n → exec (.mgang d a) s = .next (s.trapNow k b (illegalAt (.mgang d a) 18))) ∧
    (3 < n → exec (.fuse d a) s = .next (s.trapNow k b (illegalAt (.fuse d a) 18))) ∧
    (∀ loc bs s1, n ≤ 3 → s.opsOut me .dm = false → (s.clu cl).gangOffers[n]? = some none → s.readCommand (s.view k b) p 32 = .ok (loc, bs, s1, none) →
      s1.checkCmd k n p loc (cmdWordsOf bs) tok true = none →
      ((∃ m : Fin 4, m.val ≠ n ∧ (s1.clu cl).gangOffers[m] = none) →
        ∃ t o, exec (.mgang d a) s = .next t ∧ t.mem = s.mem ∧ (t.bank k b).wait = some .gang ∧ (t.bank k b).ctx = x.ctx ∧
          (t.clu cl).gangOffers[n]? = some (some o) ∧ o.who = me ∧ o.words = cmdWordsOf bs ∧ o.result = none) ∧
      (∀ os : Fin 4 → GangOffer,
        (∀ m, (os m).result = none ∧ clusterOf (os m).core = cl ∧ (s1.clu cl).cmdAt (os m).loc = none ∧
          (m.val ≠ n → (s1.clu cl).gangOffers[m] = some (os m)) ∧
          (m.val = n → os m = ⟨me, s.sid k b, k, p, loc, cmdWordsOf bs, x.id.spid, x.id.fsrv, tok, none⟩)) →
        let field (i : Nat) (m : Fin 4) : Nat :=
          let w : CmdWords := (os m).words
          match i with
          | 1 => bits w[0] 56 8 | 2 => bits w[3] 48 12 | 3 => w[2].toNat | 4 => bits w[3] 24 12 | 5 => bits w[3] 8 8 | 6 => bits w[3] 6 1
          | _ => (os m).spid.toNat
        let differs (i : Nat) : Prop := ∃ m, field i m ≠ field i 0
        let full : Prop := ∃ m : Fin 4, 32 ≤ ((s1.clu cl).cmds.filter fun y => decide (y.st ≠ .stopped) && y.q.val == m.val).length
        let free := ((s1.clu cl).locks.toList.filter fun l => l.isNone).length
        let need := ((List.finRange 4).map fun m => pushRanges ((opOf (bits (os m).words[0] 56 8)).getD .mzero) (os m).words m.val).sum
        let holds (t : State) (r : GangResult) : Prop := exec (.mgang d a) s = .next t ∧ t.mem = s.mem ∧ (t.bank k b).ctx = x.ctx ∧
          ∀ m : Fin 4, (t.clu cl).gangOffers[m] = some { os m with result := some r }
        (∀ i, 1 ≤ i → i ≤ 7 → differs i → (∀ h, 1 ≤ h → h < i → ¬differs h) → ∃ t, holds t (.mismatch i) ∧ (t.clu cl).cmds = (s1.clu cl).cmds) ∧
        ((∀ i, 1 ≤ i → i ≤ 7 → ¬differs i) →
          (full → ∃ t, holds t (.value (-1)) ∧ (t.clu cl).cmds = (s1.clu cl).cmds) ∧
          (¬full → free < need → ∃ t, holds t (.value (-2)) ∧ (t.clu cl).cmds = (s1.clu cl).cmds) ∧
          (¬full → need ≤ free → ∃ t g, holds t (.value 0) ∧ ∃ ms : List Cmd, (t.clu cl).cmds = (s1.clu cl).cmds ++ ms ∧
            ms.map (fun y => (y.q.val, y.words)) = (List.finRange 4).map (fun m => (m.val, (os m).words)) ∧
            ∀ y ∈ ms, y.gang = some g ∧ y.st = .queued)))) ∧
    (∀ o w, (s.clu cl).gangOffers[n]? = some (some o) → o.who = me → o.result = some (.value w) → x.watch = none →
      ∃ t, exec (.mgang d a) s = .next t ∧ t.mem = s.mem ∧ (t.bank k b).ctx = x.ctx.setS d.val w ∧ (t.clu cl).gangOffers[n]? = some none) ∧
    (∀ o e, (s.clu cl).gangOffers[n]? = some (some o) → o.who = me → o.result = some (.mismatch e) → x.h = false → x.prk = false → x.trapped = [] → x.store = none →
      x.sending = none →
      ∃ t, exec (.mgang d a) s = .next t ∧ (t.bank k b).ctx.tb.tval = o.ptr ∧ bits (t.bank k b).ctx.tb.tcause 0 8 = Cause.gangMismatch.code) ∧
    (n ≤ 3 → (∀ e ∈ q.offers, e.1 ≠ j) → (j = 0 ↔ a.val ≠ 0) → s.slatePhase k x = false →
      (j = 0 → (tagOf p.toNat = 0 ∨ tagOf p.toNat = 1 ∨ tagOf p.toNat = 8) ∧ ∃ pl, s.issueChecks (s.view k b) p.toNat 1088 256 = .ok pl) →
      let offers := insertKey j ⟨me, k, b, p, d, x.id.spid, x.id.fsrv, none⟩ q.offers
      let os := offers.filter fun e => e.2.result.isNone
      let s1 := (s.setQuad dq.1 dq.2 { q with offers := offers }).setBank k b { x with wait := some .fuse, held := true, watch := none }
      (os.length ≠ 16 → ∃ t, exec (.fuse d a) s = .next t ∧ t.mem = s.mem ∧ (t.bank k b).wait = some .fuse ∧ (t.bank k b).ctx = x.ctx ∧
        (t.quad dq.1 dq.2).offers = offers ∧ (t.quad dq.1 dq.2).fused = q.fused) ∧
      (∀ l, os.length = 16 → os.find? (fun e => e.1 == 0) = some (0, l) →
        let r := s1.fuseReads dq.1 dq.2 ⟨l.core, l.spid, (s1.findStrand l.who).elim 0 s1.sidOf, .strand false⟩ l
        let ends (t0 : State) (g : GangResult) : Prop := ∃ t, exec (.fuse d a) s = .next t ∧ t.mem = t0.mem ∧
          (t.quad dq.1 dq.2).offers = (t0.quad dq.1 dq.2).offers.map fun e => (e.1, { e.2 with result := some g })
        match r with
        | .wait t0 => exec (.fuse d a) s = .next ({ s with fab := t0.fab }.holdIssue k b)
        | .fault t0 c => ends t0 (.mismatch c)
        | .invalid t0 _ => ends t0 (.value (-1))
        | .unsigned t0 _ => ends t0 (.value (-2))
        | .start t0 st w =>
          let z := (t0.dropAsks (.quad dq.1 dq.2)).fuseWatch l.who w
          let y := z.setQuad dq.1 dq.2 { z.quad dq.1 dq.2 with
            fused := true, stages := st, draining := false, unfuser := none, nst := st.length, endCode := 0, fcause := 0, counts := Vector.replicate 16 0 }
          exec (.fuse d a) s = .next (((os.foldl (fun y e => y.fuseHalt e.2.who) y).skidBlocks s k b).skidStart s k))) ∧
    (∀ (y : State) who kk bb, y.findStrand who = some (.bank kk bb) → (y.bank kk bb).replay = none →
      let z := (y.fuseHalt who).bank kk bb
      z.pc = (y.bank kk bb).pc + 4 ∧ z.wait = some .fuse ∧ z.ctx = (y.bank kk bb).ctx ∧ (y.fuseHalt who).mem = y.mem) ∧
    (∀ o, n ≤ 3 → q.offers.find? (fun e => e.1 == j) = some (j, o) → o.who = me →
      (∀ w, o.result = some (.value w) → x.watch = none →
        ∃ t, exec (.fuse d a) s = .next t ∧ t.mem = s.mem ∧ (t.bank k b).ctx = x.ctx.setS d.val w ∧
          (t.quad dq.1 dq.2).offers = q.offers.filter fun e => e.1 != j) ∧
      (∀ c, o.result = some (.mismatch c) → x.h = false → x.prk = false → x.trapped = [] → x.store = none → x.sending = none →
        ∃ t, exec (.fuse d a) s = .next t ∧ (t.bank k b).ctx.tb.tval = 16 ∧ bits (t.bank k b).ctx.tb.tcause 0 8 = Cause.fuseFault.code)) ∧
    (n ≤ 3 → exec (.unfuse d) s = .next (s.trapNow k b ⟨.illegal, 0, 18⟩)) ∧
    (3 < n → me ∈ q.unheard → ∃ t, exec (.unfuse d) s = .next t ∧ t.mem = s.mem ∧ (t.bank k b).ctx = x.ctx.setS d.val (-3) ∧
      (t.quad dq.1 dq.2).unheard = q.unheard.filter fun y => y != me) ∧
    (3 < n → me ∉ q.unheard → q.unfuser ≠ some me → (q.fused = false ∨ q.unfuser ≠ none) → exec (.unfuse d) s = .next (s.ran k b (fun r => r.setS d.val (-1)) none)) ∧
    (3 < n → me ∉ q.unheard → q.fused = true → (q.unfuser = none ∨ q.unfuser = some me) → (∀ g ∈ q.stages, g.tuple = none) →
      let y := ((q.offers.foldl (fun y e => y.fuseReturn q e) s).planesBack dq.1 dq.2).setQuad dq.1 dq.2 { q with
        offers := [], fused := false, stages := [], draining := false, unfuser := none, endCode := 1 }
      exec (.unfuse d) s = .next (((y.setBank k b { y.bank k b with ctx := (y.bank k b).ctx.setS d.val 0 }).complete k b none none).skidStart s k)) ∧
    (∀ (y : State) e kk bb, y.findStrand e.2.who = some (.bank kk bb) → (y.bank kk bb).watch = none →
      let z := (y.fuseReturn q e).bank kk bb
      z.ctx = (y.bank kk bb).ctx.setS e.2.d.val (vget q.counts 0 e.1) ∧ z.wait = none ∧ z.pc = (y.bank kk bb).pc ∧ (y.fuseReturn q e).mem = y.mem) ∧
    (3 < n → me ∉ q.unheard → q.fused = true → q.unfuser = none → (∃ g ∈ q.stages, g.tuple ≠ none) →
      ∃ t, exec (.unfuse d) s = .next t ∧ t.mem = s.mem ∧ (t.bank k b).wait = some .unfuse ∧ (t.bank k b).ctx = x.ctx ∧
        (t.quad dq.1 dq.2).draining = true ∧ (t.quad dq.1 dq.2).unfuser = some me ∧ (t.quad dq.1 dq.2).fused = true)

/-- R73, R190, R254, R255, R279, R310: a step of a running copy command, in a cluster that is not frozen and is owed no delivery, or one whose accesses to another package are under way: CPY moves its next piece of 128·⌈LEN / 32768⌉ bytes, CPY2D its next ⌈NROW / 256⌉ rows, FILL writes word 1 over its next piece, and GTHR takes the row that its next index names, with the indexes of one aligned word read together; the step counts, and after the last the command has finished. A read or a write of any of them that fails stops the command before the step with its cause. Where the pointers of a CPY in this package are multiples of 8, a step moves its own bytes alone; else, or towards another package, copyRead, copyWrite and copyPut say what it makes (logs 53 and 64). That a step of every command reads all before it writes is the model's choice (log 4, DESIGN CHOICE). -/
def Obligations.CopySteps : Prop :=
  ∀ (s s1 s2 : State) (c : ClusterKey) (i : Nat) (m m1 m2 : Cmd) (bs ix : List Byte) (rows : List (Nat × List Byte)) (cause : Cause) (e : Nat),
    let w : CmdWords := m.words
    let v := m.view
    let runs (o : Op) : Prop := (s.clu c).cmd i = some m ∧ m.st = .running ∧ m.op = some o ∧
      (s.asks (.cmd m.id) = true ∨ ((s.clu c).verm.frz = false ∧ (m.q = 5 → s.deliversIn c = false)))
    let after (t : State) (y : Cmd) : Next := .next ((t.setClu c ((t.clu c).setCmd
      { y with pch := m.pch + 1, st := if m.steps ≤ m.pch + 1 then .finished else .running })).dropAsks (.cmd m.id))
    let failed : Next := .next ((s.setClu c ((s.clu c).setCmd { m with st := .faulted cause })).dropAsks (.cmd m.id))
    let here (t : State) (p n : Nat) : Prop := ∃ pl, t.issueChecks v p n 1 = .ok pl ∧ pl.isFar = false
    let stops : EngStop := .stop (.trap cause e)
    let len := bits w[3] 32 32
    let piece := 128 * ((len + 32767) / 32768)
    let o := m.pch * piece
    let n := min piece (len - o)
    let src := w[1].toNat + o
    let dst := w[2].toNat + o
    let next := if o + n < len then some (dst + n) else none
    let g := (bits w[3] 32 16 + 255) / 256
    let r0 := m.pch * g
    let nr := min g (bits w[3] 32 16 - r0)
    let next2 := if r0 + nr < bits w[3] 32 16 then some (w[2].toNat + (r0 + nr) * bits w[3] 0 16) else none
    let whole := m.lag = [] ∧ m.lagAt = [] ∧ m.ahead = none ∧ m.runs = [] ∧ 0 < n ∧ w[1].toNat % 8 = 0 ∧ w[2].toNat % 8 = 0 ∧ here s src n
    let fill := (List.replicate (n / 8) (leBytes 8 w[1].toNat)).flatten
    let ip := w[2].toNat + 2 * m.pch
    let iw := max 2 (min (w[2].toNat + 2 * bits w[3] 56 8) ((ip + 9) / 8 * 8) - ip)
    let row (k : Nat) : Nat := w[1].toNat + k * bits w[3] 32 12 * 16
    let rowb := bits w[3] 44 12 * 16
    (runs .cpy → whole → here s1 dst n → s.engineRead v src n 1 = .ok (bs, s1) → bs.length = n →
      s1.engineWrite v dst 1 bs = .ok s2 → exec (.cpy c i) s = after s2 m) ∧
    (runs .cpy → whole → s.engineRead v src n 1 = .error (.trap cause e) → exec (.cpy c i) s = failed) ∧
    (runs .cpy → whole → here s1 dst n → s.engineRead v src n 1 = .ok (bs, s1) → bs.length = n →
      s1.engineWrite v dst 1 bs = .error (.trap cause e) → exec (.cpy c i) s = failed) ∧
    (runs .cpy → m.runs = [] →
      (s.copyRead m (w[1].toNat + len) src n = .error stops → exec (.cpy c i) s = failed) ∧
      (s.copyRead m (w[1].toNat + len) src n = .ok (bs, s1, m1) →
        (s1.copyWrite { m1 with runs := [(dst, bs)] } next [(dst, bs)] = .ok (s2, m2) → exec (.cpy c i) s = after s2 m2) ∧
        (s1.copyWrite { m1 with runs := [(dst, bs)] } next [(dst, bs)] = .error stops → exec (.cpy c i) s = failed))) ∧
    (runs .cpy → m.runs ≠ [] →
      (s.copyWrite m next m.runs = .ok (s2, m2) → exec (.cpy c i) s = after s2 m2) ∧
      (s.copyWrite m next m.runs = .error stops → exec (.cpy c i) s = failed)) ∧
    (runs .cpy2d → m.runs = [] →
      (readRows m nr r0 s = .error stops → exec (.cpy2d c i) s = failed) ∧
      (readRows m nr r0 s = .ok (rows, s1, m1) →
        (s1.copyWrite { m1 with runs := rows } next2 rows = .ok (s2, m2) → exec (.cpy2d c i) s = after s2 m2) ∧
        (s1.copyWrite { m1 with runs := rows } next2 rows = .error stops → exec (.cpy2d c i) s = failed))) ∧
    (runs .cpy2d → m.runs ≠ [] →
      (s.copyWrite m next2 m.runs = .ok (s2, m2) → exec (.cpy2d c i) s = after s2 m2) ∧
      (s.copyWrite m next2 m.runs = .error stops → exec (.cpy2d c i) s = failed)) ∧
    (runs .fill → n % 8 = 0 → here s dst n →
      (s.engineWrite v dst 1 fill = .ok s2 → exec (.fill c i) s = after s2 m) ∧
      (s.engineWrite v dst 1 fill = .error (.trap cause e) → exec (.fill c i) s = failed)) ∧
    (runs .fill →
      (s.copyMay m dst n = .error stops → exec (.fill c i) s = failed) ∧
      (s.copyMay m dst n = .ok () → (s.copyPut m dst fill = .ok s2 → exec (.fill c i) s = after s2 m) ∧
        (s.copyPut m dst fill = .error stops → exec (.fill c i) s = failed))) ∧
    (runs .gthr → m.ahead = none → here s ip iw → s.engineRead v ip iw 1 = .ok (ix, s1) → ix.length = iw →
      (s1.engineRead v (row (leNat (ix.take 2))) rowb 16 = .ok (bs, s2) → exec (.gthr c i) s = after s2
        { m with ahead := if iw = 2 then none else some (ip + 2, ix.drop 2), rows := m.rows.take m.pch ++ [bs] }) ∧
      (s1.engineRead v (row (leNat (ix.take 2))) rowb 16 = .error (.trap cause e) → exec (.gthr c i) s = failed)) ∧
    (runs .gthr → m.ahead = none → here s ip iw → s.engineRead v ip iw 1 = .error (.trap cause e) → exec (.gthr c i) s = failed) ∧
    (runs .gthr → m.ahead = some (ip, ix) → 2 ≤ ix.length →
      (s.engineRead v (row (leNat (ix.take 2))) rowb 16 = .ok (bs, s2) → exec (.gthr c i) s = after s2 { m with rows := m.rows.take m.pch ++ [bs] }) ∧
      (s.engineRead v (row (leNat (ix.take 2))) rowb 16 = .error (.trap cause e) → exec (.gthr c i) s = failed))

/-- R265, R272: a chunk of a running gang whose four operands can be read: every element of each member's tile becomes the sum, rounded once more, of what it held and of the chunk's products with their scales, summed exactly and rounded to nearest even; the flags join the tile's status word; every member counts the chunk, and has finished with the last. That a chunk is one step which reads before it writes is the model's choice (log 4), as are that a PS2 weight of value 0 reads as +0 (log 59) and that the NaN code of E8M0 signals nothing (log 70) (DESIGN CHOICE). -/
def Obligations.MatrixChunks : Prop :=
  ∀ (s s1 s2 : State) (c : ClusterKey) (i : Nat) (m : Cmd) (as : List (Cmd × List (List Nat))) (b : List (List Nat)),
    let x := s.clu c
    let w0 : CmdWords := m.words
    let ms := x.members m
    let chunk (op : Instr) (o : Op) (ea eb cols ch : Nat) (ta tb : TyCode) (f : Fmt) (tag : TileTag) : Prop :=
      let k0 := m.pch * ch
      let k1 := min (k0 + ch) (bits w0[3] 48 12)
      x.cmd i = some m → m.st = .running → m.op = some o → m.gang.isSome = true → m.q = 0 → x.verm.frz = false →
      ms.map (fun d => d.q.val) = [0, 1, 2, 3] → readAs c ea k0 k1 ms s = .ok (as, s1) → readB s1 m eb cols k0 k1 = .ok (b, s2) →
      ∃ t, exec op s = .next t ∧ t.mem = s2.mem ∧ (∀ e ∈ as,
        let wm : CmdWords := e.1.words
        let old := (s2.clu c).tileAt e.1.q.val (bits wm[3] 60 4)
        let el (p : Nat) : Nat × Flags :=
          let prods := productsOf ((e.2.getD (p / cols) []).map ta.read) ((b.getD (p % cols) []).map tb.read)
            ((s2.clu c).scalesOf o wm w0 (p / cols) (p % cols) k0 k1)
          let sum := sumAll .rne (prods.map (·.1))
          let part := f.deliver .rne sum.1
          let r := fAdd f .rne (old.data.getD p 0).toNat part.1
          (r.1, prods.foldl (fun a q => a ||| q.2) sum.2 ||| part.2 ||| r.2)
        let new := (t.clu c).tileAt e.1.q.val (bits wm[3] 60 4)
        new.tag = tag ∧ new.data = (List.range (32 * cols)).map (fun p => BitVec.ofNat 64 (el p).1) ∧
        new.status = (List.range (32 * cols)).foldl (fun a p => a ||| BitVec.ofNat 64 ((el p).2.toNat % 32)) old.status) ∧
        ((ms.map fun d => d.id).Nodup → (t.clu c).cmds = (s2.clu c).cmds.map fun y => match as.find? (fun e => e.1.id == y.id) with
          | some e => { e.1 with pch := e.1.pch + 1, st := if e.1.steps ≤ e.1.pch + 1 then .finished else .running }
          | none => y)
    chunk (.mmaBb c i) .mmaBb 16 16 32 32 .bf16 .bf16 fmtF32 .f32 ∧ chunk (.mmaE4 c i) .mmaE4 8 8 32 32 .e4m3 .e4m3 fmtF32 .f32 ∧
    chunk (.mmaE5 c i) .mmaE5 8 8 32 32 .e5m2 .e5m2 fmtF32 .f32 ∧ chunk (.mmaDd c i) .mmaDd 64 64 16 8 .f64 .f64 fmtF64 .f64 ∧
    chunk (.mmaF4 c i) .mmaF4 4 4 32 64 .e2m1 .e2m1 fmtF32 .f32 ∧ chunk (.mmaP8 c i) .mmaP8 8 8 32 64 .e4m3 .ps2 fmtF32 .f32 ∧
    chunk (.mmaPi c i) .mmaPi 8 8 32 64 .s8 .ps2 fmtF32 .f32

/-- R273 to R277: MZERO makes its tile EMPTY with no flag; MSWAP exchanges two tiles; MDRAIN writes its next row, and with the last the status word with the flags of the roundings; MSCALE copies its next column of 64 scales; MSTS writes a status word, of a tile or of an accumulator, or replaces its flags. Each step counts, and after the last the command has finished. -/
def Obligations.TileCommands : Prop :=
  ∀ (s s1 s2 : State) (c : ClusterKey) (i : Nat) (m : Cmd) (bs : List Byte),
    let w : CmdWords := m.words
    let v := m.view
    let q := m.q.val
    let tile := bits w[3] 60 4
    let runs (o : Op) : Prop := (s.clu c).cmd i = some m ∧ m.st = .running ∧ m.op = some o ∧
      (s.asks (.cmd m.id) = true ∨ ((s.clu c).verm.frz = false ∧ (m.q = 5 → s.deliversIn c = false)))
    let after (t : State) : State :=
      (t.setClu c ((t.clu c).setCmd { m with pch := m.pch + 1, st := if m.steps ≤ m.pch + 1 then .finished else .running })).dropAsks (.cmd m.id)
    let old := (s.clu c).tileAt q tile
    let row := drainRow old (bits w[3] 1 2) m.pch
    let fl := drainFlags old (bits w[3] 1 2)
    let counted (t : State) : Prop := (t.clu c).cmd i = some { m with pch := m.pch + 1, st := if m.steps ≤ m.pch + 1 then .finished else .running }
    (runs .mzero → ∃ t, exec (.mzero c i) s = .next t ∧ t.mem = s.mem ∧ counted t ∧ (t.clu c).tileAt q tile = ⟨.empty, [], 0⟩) ∧
    (runs .mswap → ∃ t, exec (.mswap c i) s = .next t ∧ t.mem = s.mem ∧ counted t ∧
      (t.clu c).tileAt q tile = (s.clu c).tileAt q (bits w[3] 56 4) ∧ (t.clu c).tileAt q (bits w[3] 56 4) = old) ∧
    (runs .mdrain → m.pch < 31 → s.engineWrite v (w[2].toNat + 16 * bits w[3] 36 12 * m.pch) 1 row.1 = .ok s1 →
      exec (.mdrain c i) s = .next (after s1)) ∧
    (runs .mdrain → m.pch = 31 → s.engineWrite v (w[2].toNat + 16 * bits w[3] 36 12 * 31) 1 row.1 = .ok s1 →
      s1.engineWrite v (w[2].toNat + 512 * bits w[3] 36 12) 8 (leBytes 8 (old.status ||| BitVec.ofNat 64 (fl.toNat % 32)).toNat) = .ok s2 →
      exec (.mdrain c i) s = .next (after s2)) ∧
    (runs .mscale → bits w[3] 16 8 + m.pch < 256 → bs.length = 64 → s.engineRead v (w[1].toNat + 64 * m.pch) 64 16 = .ok (bs, s1) →
      ∃ t, exec (.mscale c i) s = .next t ∧ t.mem = s1.mem ∧ counted t ∧
        (∀ j, j < 64 → (t.clu c).scaleAt (bits w[3] 16 8 + m.pch) j = bs.getD j 0) ∧
        (∀ col j, j < 64 → col ≠ bits w[3] 16 8 + m.pch → (t.clu c).scaleAt col j = (s1.clu c).scaleAt col j)) ∧
    (runs .msts → w[3].getLsbD 3 = false →
      s.engineWrite v w[1].toNat 8 (leBytes 8 (if w[3].getLsbD 4 then ((s.clu c).oq[tile % 2]?.getD Oq.reset).status else old.status).toNat) = .ok s1 →
      exec (.msts c i) s = .next (after s1)) ∧
    (runs .msts → w[3].getLsbD 3 = true → w[3].getLsbD 4 = false → s.engineRead v w[1].toNat 8 8 = .ok (bs, s1) →
      ∃ t, exec (.msts c i) s = .next t ∧ t.mem = s1.mem ∧ counted t ∧ (t.clu c).tileAt q tile =
        { (s1.clu c).tileAt q tile with status := setBits ((s1.clu c).tileAt q tile).status 0 5 (leNat bs % 32) }) ∧
    (runs .msts → w[3].getLsbD 3 = true → w[3].getLsbD 4 = true → s.engineRead v w[1].toNat 8 8 = .ok (bs, s1) →
      ∃ t, exec (.msts c i) s = .next t ∧ t.mem = s1.mem ∧ counted t ∧
        (let y := (s1.clu c).oq[tile % 2]?.getD Oq.reset
         (t.clu c).oq[tile % 2]? = some { y with status := setBits y.status 0 5 (leNat bs % 32) }))

/-- R282, R285, R287 to R293: QINIT makes the accumulator of its words, with no reflector; QACC with room appends the reflector that it reads; the apply forms of an accumulator without a reflector change nothing, and with one write b − V·(T·(Vᵀ·b)), T transposed for the transposed product; QRCP without a reflector changes nothing, and else writes a block and empties it; QSAVE writes the record and QLOAD of an invalid record stops with ILLEGAL_CMD. Each step counts. Where a step of QAPL or QAPLT on FP32 columns ends amid an aligned word (R190), it reads the next column with its last one, and that one's bytes are written with the next step's (log 53, DESIGN CHOICE). -/
def Obligations.OrthogonalCommands : Prop :=
  ∀ (s s1 s2 s3 : State) (c : ClusterKey) (i : Nat) (m : Cmd) (bs : List Byte) (vs : List (Nat × List Word)) (places : List (Nat × Nat)),
    let w : CmdWords := m.words
    let v := m.view
    let n := CmdWords.oq w
    let q := (s.clu c).oq[n]
    let runs (o : Op) : Prop := (s.clu c).cmd i = some m ∧ m.st = .running ∧ m.op = some o ∧
      (s.asks (.cmd m.id) = true ∨ ((s.clu c).verm.frz = false ∧ (m.q = 5 → s.deliversIn c = false)))
    let after (t : State) : State :=
      (t.setClu c ((t.clu c).setCmd { m with pch := m.pch + 1, st := if m.steps ≤ m.pch + 1 then .finished else .running })).dropAsks (.cmd m.id)
    let put (t : State) (y : Oq) : State := t.setClu c ((t.clu c).setOq n y)
    let pol (j : Nat) : OqPol := match j with | 0 => .trap | 1 => .fold | _ => .spill
    let applies (op : Instr) (o : Op) (right tr : Bool) : Prop :=
      (runs o → q.k = 0 → exec op s = .next (after s)) ∧
      (runs o → q.k ≠ 0 →
        let ncol := bits w[3] 32 12
        let g := (ncol + 255) / 256
        let lo := m.pch * g
        let hi := lo + min g (ncol - lo)
        let halves : Bool := !right && q.f32 && hi % 2 == 1 && decide (hi < ncol)
        let kept := (m.ahead.filter fun a => a.1 == lo).toList.map fun a => (lo, elementsOfBytes q.e a.2 q.rows)
        let ns := (List.range (hi - lo + if halves then 1 else 0)).map fun j => lo + j
        let rs := ((kept ++ vs).filter fun e => decide (e.1 < hi)).map fun e => (e.1, q.apply tr (e.2.map fun y => y.toNat))
        let out := rs.map fun e => (e.1, e.2.1.map fun y => BitVec.ofNat 64 y.1)
        let waits (e : Nat × List Word) : Bool := halves && e.1 + 1 == hi
        let lag := (out.filter waits).flatMap fun e => applyRuns w q right e.1 e.2
        readVectors v w q right (ns.drop kept.length) s = .ok (vs, s1) → writeLag v q.e m.lag s1 = .ok s2 →
        writeVectors v w q right (out.filter fun e => !waits e) s2 = .ok s3 → s3.runPlaces v lag = .ok places →
        exec op s = .next (let t := put s3 (q.orStatus (rs.foldl (fun a e => a ||| allFlags e.2.1 ||| e.2.2) 0))
          (t.setClu c ((t.clu c).setCmd { m with
            lag := lag, lagAt := places, lagPch := if lag.isEmpty then m.lagPch else m.pch
            ahead := (((kept ++ vs).filter fun e => !decide (e.1 < hi)).head?).map fun e => (e.1, e.2.flatMap q.elBytes)
            pch := m.pch + 1, st := if m.steps ≤ m.pch + 1 then .finished else .running })).dropAsks (.cmd m.id)))
    (runs .qinit → exec (.qinit c i) s = .next (after (put s ⟨true, decide (bits w[3] 61 2 = 1), pol (bits w[3] 59 2), bits w[3] 52 7,
      bits w[3] 44 8, 0, [], [], BitVec.ofNat 5 w[2].toNat, w[1], 0, 0⟩))) ∧
    (runs .qacc → q.k ≠ q.cap → m.pch < 2 → exec (.qacc c i) s = .next (after s)) ∧
    (runs .qacc → q.k ≠ q.cap → m.pch = 2 → s.engineRead v w[1].toNat (q.rows * q.e) q.e = .ok (bs, s1) →
      exec (.qacc c i) s = .next (after (put s1 (q.append (elementsOfBytes q.e bs q.rows) (w[2].toNat % 2 ^ (8 * q.e)))))) ∧
    (runs .qacc → q.k = q.cap → m.pch = 0 → q.pol = .trap →
      exec (.qacc c i) s = .next ((s.setClu c ((s.clu c).setCmd { m with st := .faulted .orthFull })).dropAsks (.cmd m.id))) ∧
    applies (.qapl c i) .qapl false false ∧ applies (.qaplt c i) .qaplt false true ∧ applies (.qapr c i) .qapr true true ∧
    applies (.qaprt c i) .qaprt true false ∧
    (runs .qrcp → q.k = 0 → exec (.qrcp c i) s = .next (after s)) ∧
    (runs .qrcp → q.k ≠ 0 → m.pch = 0 → s.engineWrite v q.cursor.toNat 16 (q.block (q.tgt.getLsbD 4)) = .ok s1 →
      exec (.qrcp c i) s = .next (after (put s1 { q with cursor := q.cursor + BitVec.ofNat 64 q.blockSize, seq := q.seq + 1 }))) ∧
    (runs .qrcp → q.k ≠ 0 → m.pch ≠ 0 → q.tgt.getLsbD 4 = false → exec (.qrcp c i) s = .next (after (put s q.clear))) ∧
    (runs .qsave → s.engineWrite v w[1].toNat 8 q.header = .ok s1 → q.k = 0 → q.v = [] → q.t = [] → exec (.qsave c i) s = .next (after s1)) ∧
    (runs .qload → s.engineRead v w[1].toNat 64 8 = .ok (bs, s1) → headerOff bs = true → exec (.qload c i) s = .next (after (put s1 Oq.reset))) ∧
    (runs .qload → s.engineRead v w[1].toNat 64 8 = .ok (bs, s1) → headerOff bs = false → headerValid bs = true → (headerOq bs).k = 0 →
      exec (.qload c i) s = .next (after (put s1 (headerOq bs)))) ∧
    (runs .qload → s.engineRead v w[1].toNat 64 8 = .ok (bs, s1) → headerOff bs = false → headerValid bs = false →
      exec (.qload c i) s = .next ((s.setClu c ((s.clu c).setCmd { m with st := .faulted .illegalCmd })).dropAsks (.cmd m.id)))

/-- R8, R73, R74, R247, R250, R251, R271, R283: the oldest ready command of the copy queue launches while fewer than four are on its engine; the one of a slice's queue while nothing is on the engine, an orthogonal command and a gang while nothing is on any slice and the declared TOK of the launch grants an array; what the launch finds wrong stops it with ILLEGAL_CMD. A completion writes word 0 back with PST = 3 and the step count, frees the node, drops the command and decrements its successor. A stop writes word 0 back with the cause's PST, leaves command and node stopped, and adds a report of kind 3; bytes of a copy that waited for the rest of their word are written first. That a command of 256 steps writes 0 as its step count, and that such bytes are written at a stop, is the model's choice (log 53, DESIGN CHOICE). -/
def Obligations.CommandLifecycle : Prop :=
  ∀ (s : State) (c : ClusterKey) (i : Nat) (q : Fin 6) (m : Cmd),
    let x := s.clu c
    let w : CmdWords := m.words
    let nid := bits w[0] 48 8
    let suc := bits w[0] 36 8
    let word (pst pch : Nat) : List Byte := leBytes 8 (setBits w[0] 0 11 (pst * 256 + pch % 256)).toNat
    let away := ∀ k off, placeOfLoc m.loc = .spad k off →
      (s.core k).fen = false ∧ (s.core k).meetsBound off 8 = false ∧ (s.core k).meetsSpilling off 8 = false
    let begun := x.begin m
    (x.verm.frz = false → x.head q.val = some m → m.isOrth = false → m.gang = none →
      ((q = 5 ∧ (x.cmds.filter fun d => d.q == 5 && d.onEngine).length < 4) ∨
       (q.val < 4 ∧ x.busy q.val = false ∧ x.orthHolds = false ∧ s.sliceHeld c q.val = false) ∨
       (q = 4 ∧ x.busy 4 = false ∧ x.readsLatch (bits w[3] 0 2) = false)) →
      exec (.commandLaunch c q) s = .next (s.setClu c (if begun.launchFault m then begun.setCmd { m with st := .faulted .illegalCmd } else begun))) ∧
    (x.verm.frz = false → x.head q.val = some m → m.isOrth = true → q.val < 4 →
      (∀ n, n < 4 → x.busy n = false ∧ s.sliceHeld c n = false) → s.arraysOf m.who.ln < s.allowance m.who.ln m.tok →
      exec (.commandLaunch c q) s = .next (s.setClu c (if begun.launchFault m then begun.setCmd { m with st := .faulted .illegalCmd } else begun))) ∧
    (∀ g m0 l, x.verm.frz = false → x.head q.val = some m → m.isOrth = false → m.gang = some g → q.val < 4 → x.orthHolds = false →
      (∀ n, n < 4 → x.busy n = false ∧ s.sliceHeld c n = false) → x.gangReady g = m0 :: l → l.length = 3 → s.arraysOf m0.who.ln < s.allowance m0.who.ln m0.tok →
      (∀ d ∈ m0 :: l, CmdWords.gl d.words = true → x.gathers d.q.val = false) →
      let ms := (m0 :: l).map fun d => { d with gln := m0.who.ln }
      let y := ms.foldl Cluster.begin x
      exec (.commandLaunch c q) s = .next (s.setClu c
        (if ms.any y.launchFault then ms.foldl (fun z d => z.setCmd { d with st := .faulted .illegalCmd }) y else y))) ∧
    (x.cmd i = some m → m.st = .finished → x.verm.frz = false → away → (∀ d ∈ x.cmds, d.again = false) → w[0].getLsbD 27 = false →
      bits w[0] 28 8 = 0 → suc ≠ nid → nid ≠ 0 →
      ∃ t, exec (.commandCompletion c i) s = .next t ∧ t.mem = putBytes s.mem m.loc (word 3 m.steps) ∧
        (t.clu c).cmds = x.cmds.filter (fun d => d.id != m.id) ∧ (t.clu c).node nid = { x.node nid with st := .free, count := 0 } ∧
        (suc ≠ 0 → (x.node suc).st = .waiting → (t.clu c).node suc = { x.node suc with
          count := (x.node suc).count - 1, st := if (x.node suc).count ≤ 1 then .ready else .waiting })) ∧
    (∀ cause, x.cmd i = some m → m.st = .faulted cause → x.verm.frz = false → away → nid ≠ 0 → m.lag = [] → m.dropped = false →
      ∃ t r, exec (.commandStop c i) s = .next t ∧ t.mem = putBytes s.mem m.loc (word cause.pst m.pch) ∧
        (t.clu c).cmd i = some { m with st := .stopped, lag := [], lagAt := [], ahead := none, runs := [] } ∧ (t.clu c).node nid = { x.node nid with st := .stopped } ∧
        t.fab.reports = s.fab.reports ++ [r] ∧ r.kind = 3 ∧ r.words = [m.ptr, BitVec.ofNat 64 cause.code, BitVec.ofNat 64 cause.pst, BitVec.ofNat 64 m.pch]) ∧
    (∀ cause, x.cmd i = some m → m.st = .faulted cause → x.verm.frz = false → away → m.lag ≠ [] → m.lagAt ≠ [] →
      (∀ p ∈ m.lagAt, ∀ k off, spadOfLoc p.1 = some (k, off) → (s.core k).meetsSpilling off p.2 = false) →
      ∃ t, exec (.commandStop c i) s = .next t ∧ t.mem = putBytes (s.store m.lagAt (m.lag.flatMap fun e => e.2)).mem m.loc (word cause.pst m.pch))

/-! Folds, heap and one-sided operations. -/

/-- R351, R353, R354, R356, R357, R361, R362: FOLDMARK of a member whose window is the one that closes next marks it and opens the next, and with the null pointer leaves; of a strand that is no member it leaves the join pending. AFADD.det of a member leaves its update pending, RADD.det holds the strand with it, and of a strand that is no member both are ILLEGAL. HALLOC takes the lowest free block of the smallest class that has one, and gives its address in RD; without one it gives 0 and sets HZ in a soft heap, and traps HEAP_EXHAUSTED late in the others. HFREE of a null pointer does nothing, of a pointer that starts an allocated block it frees that block, which is merged with its buddy while that is free, and of a pointer that starts no allocated block traps HEAP_BADFREE late. The close of a window adds its updates at each location, FP64 or FP32, one by one in ascending rank and sequence number, or, where they are more than 16, in one exact sum. A window of a group of this package closes once every rank has joined and has marked it or left: WCL gains 1, and the flags join it with those that other packages have reported; a window of another package's group closes as its home's packet says, and the flags are reported. The state of a block is read by the model's own layout of the state area (log 27), and the home's order of marks is the order of the steps (log 33). A group with a signal word, or with ranks that leave at the close, does more at a close than this says (R349, R352, R385). The requests find a landing slot at their port (R328). -/
def Obligations.FoldsAndHeap : Prop :=
  ∀ (s : State) (k : CoreKey) (b : Fin 2) (a e : SReg) (w : WReg) (d : DReg) (t : FTy2) (h : La) (g : FoldGroup) (hp : Heap) (pl : Place),
    let x := s.bank k b
    let p := x.ctx.s a.val
    let v := s.view k b
    let member := x.ctx.fgp.getLsbD 0
    let win := bits x.ctx.fgw 48 16
    let rank := bits x.ctx.fgw 40 8
    let f := footL (rS a.val) []
    (Quiet s k b → s.slatePhase k x = false → member = true → s.groupOfStrand x.id.who = some g → win = s.foldWcl g.desc →
      (p ≠ 0 → p.toNat % 64 = 0 → bits p 6 58 = bits x.ctx.fgp 6 58 →
        exec (.foldmark a h) s = .next (let y := s.foldMark g rank win
          (y.setBank k b { x.push (x.pendingOf f h) with ctx := { x.ctx with fgw := BitVec.ofNat 64 ((win + 1) % 65536 * 2 ^ 48 + rank * 2 ^ 40) } }).complete k b none none)) ∧
      (p = 0 → exec (.foldmark a h) s = .next (let y := s.foldLeaves (g.without x.id.who) rank win
          (y.setBank k b { x.push (x.pendingOf f h) with ctx := { x.ctx with fgp := 0, fgw := 0 } }).complete k b none none))) ∧
    (Quiet s k b → s.slatePhase k x = false → member = false → p ≠ 0 → p.toNat % 64 = 0 → ∀ va, s.issueChecks v p.toNat 64 64 = .ok (.virt va) → s.landFull (landingFor k (.virt va) 8) = false →
      exec (.foldmark a h) s = .next (s.sent k b { x.pendingOf f h with safe := false, far := some .join, ptr := p, land := landingFor k (.virt va) 8 })) ∧
    (Quiet s k b → s.opsOut x.id.who .dm = false →
      let q := x.ctx.s w.val
      let upd (wide : Bool) : Word := BitVec.ofNat 64 ((x.ctx.s a.val).toNat % 2 ^ (if wide then 64 else 32))
      let wide := decide (t = .f64)
      (member = false → exec (.afaddDet d a w t h) s = .next (s.trapNow k b (illegalAt (.afaddDet d a w t h) 8)) ∧
        exec (.raddDetF64 w a) s = .next (s.trapNow k b ⟨.illegal, 0, 8⟩) ∧ exec (.raddDetF32 w a) s = .next (s.trapNow k b ⟨.illegal, 0, 8⟩)) ∧
      (member = true → bits x.ctx.fgw 0 32 < 2 ^ 32 - 1 →
        (∀ va, s.issueChecks v q.toNat (fty2Bytes t) (fty2Bytes t) = .ok (.virt va) → s.landFull (landingFor k (.virt va) (fty2Bytes t)) = false →
          exec (.afaddDet d a w t h) s = .next (s.sent k b { x.pendingOf (footL (rS a.val ++ rS w.val) (rS d.val)) h with
            safe := false, far := some (.det d wide (upd wide)), ptr := q, spans := [(q.toNat, fty2Bytes t)],
            land := landingFor k (.virt va) (fty2Bytes t) })) ∧
        ((∃ va, s.issueChecks v q.toNat 8 8 = .ok (.virt va)) → s.landFull (s.storeLanding k (q, leBytes 8 (upd true).toNat)) = false →
          exec (.raddDetF64 w a) s = .next ((s.setBank k b { x with
          store := some ⟨x.nIssued + 1, x.curPc, [(q, leBytes 8 (upd true).toNat)], some (true, upd true), s.groupId x.id.spid, [], false, none⟩ }).complete k b none none)) ∧
        ((∃ va, s.issueChecks v q.toNat 4 4 = .ok (.virt va)) → s.landFull (s.storeLanding k (q, leBytes 4 (upd false).toNat)) = false →
          exec (.raddDetF32 w a) s = .next ((s.setBank k b { x with
          store := some ⟨x.nIssued + 1, x.curPc, [(q, leBytes 4 (upd false).toNat)], some (false, upd false), s.groupId x.id.spid, [], false, none⟩ }).complete k b none none)))) ∧
    (Quiet s k b → tagOf p.toNat = 8 → p.toNat % 64 = 0 → s.slatePhase k x = false → s.issueChecks v p.toNat 64 64 = .ok pl →
      s.landFull (landingFor k pl 8) = false → s.heapAt v p pl = .ok hp →
      let size := x.ctx.s e.val
      let c := if size.toNat ≤ 2 ^ hp.minlg then hp.minlg else max hp.minlg (Nat.log2 (size.toNat - 1) + 1)
      let q := { x.pendingOf (footL (rS a.val ++ rS e.val) (rS d.val)) h with safe := false, setsFlags := true, land := landingFor k pl 8 }
      (∀ c' i, c ≤ c' → c' ≤ hp.maxlg → hp.maxlg < 32 → i < hp.roots * 2 ^ (hp.maxlg - c') → s.isFree hp c' i = true →
        (∀ j, j < i → s.isFree hp c' j = false) → (∀ n j, c ≤ n → n < c' → j < hp.roots * 2 ^ (hp.maxlg - n) → s.isFree hp n j = false) →
        ∃ y, exec (.halloc d a e h) s = .next y ∧ (y.bank k b).ctx = x.ctx ∧
          (y.bank k b).pend = [{ q with writes := [.s d (hp.arena + BitVec.ofNat 64 (i * 2 ^ c'))] }] ∧ y.blockSt hp c (i * 2 ^ (c' - c)) = 2) ∧
      ((∀ n j, c ≤ n → n ≤ hp.maxlg → j < hp.roots * 2 ^ (hp.maxlg - n) → s.isFree hp n j = false) →
        ∃ y, exec (.halloc d a e h) s = .next y ∧ (y.bank k b).ctx = x.ctx ∧
          (y.bank k b).pend = [if hp.soft then { q with writes := [.s d 0, .hz] } else { q with late := some ⟨.heapExhausted, size, 0⟩, acq := true }]) ∧
      (s.opsOut x.id.who .dm = false →
        let r := { x.pendingOf (footL (rS a.val ++ rS e.val) []) h with safe := false, land := landingFor k pl 8 }
        let off := (size - hp.arena).toNat
        (size = 0 → exec (.hfree a e h) s = .next (s.sent k b r)) ∧
        (∀ n, size ≠ 0 → hp.minlg ≤ n → n ≤ hp.maxlg → hp.maxlg < 32 → off < hp.len → off % 2 ^ n = 0 → s.blockSt hp n (off / 2 ^ n) = 2 →
          (∀ j, hp.minlg ≤ j → j < n → s.blockSt hp j (off / 2 ^ j) ≠ 2) →
          let buddy := if off / 2 ^ n % 2 = 0 then off / 2 ^ n + 1 else off / 2 ^ n - 1
          ∃ y, exec (.hfree a e h) s = .next y ∧ (y.bank k b).ctx = x.ctx ∧ (y.bank k b).pend = [r] ∧ y.blockSt hp n (off / 2 ^ n) = 0 ∧
            (n < hp.maxlg → s.blockSt hp n buddy = 0 → y.blockSt hp (n + 1) (off / 2 ^ (n + 1)) = 0)) ∧
        (size ≠ 0 → (∀ n, hp.minlg ≤ n → n ≤ hp.maxlg → (size - hp.arena).toNat < hp.len → (size - hp.arena).toNat % 2 ^ n = 0 →
            s.blockSt hp n ((size - hp.arena).toNat / 2 ^ n) ≠ 2) →
          ∃ y, exec (.hfree a e h) s = .next y ∧ (y.bank k b).ctx = x.ctx ∧ (y.bank k b).pend = [{ r with late := some ⟨.heapBadfree, size, 0⟩ }]))) ∧
    (∀ (desc : Nat) (z : FoldWin) (r : Nat → BitVec 4), s.fold? desc = some g →
      let word (m : List (Nat × Byte)) (o : Nat) : Word := leWord (getBytes m (desc + o) 8)
      let added (f : Fmt) (o : Nat) (us : List Nat) : Nat × Flags :=
        if us.length ≤ 16 then us.foldl (fun y u => ((fAdd f .rne y.1 u).1, y.2 ||| (fAdd f .rne y.1 u).2)) (o, 0)
        else
          let vs := (o :: us).map f.read
          let sum := sumAll .rne vs
          ((f.deliver .rne sum.1).1, vs.foldl (fun y u => y ||| u.readFlag) sum.2 ||| (f.deliver .rne sum.1).2)
      let closed := ((z.upds.map fun u => u.addr).eraseDups).foldl (fun (y : List (Nat × Byte) × Flags) addr =>
        let us := sortBy (fun u => u.rank * 2 ^ 32 + u.seq) (z.upds.filter fun u => u.addr == addr)
        let wide := us.any fun u => u.wide
        let n := if wide then 8 else 4
        let r := added (if wide then fmtF64 else fmtF32) (leNat (getBytes y.1 addr n)) (us.map fun u => u.x.toNat)
        (putBytes y.1 addr (leBytes n r.1), y.2 ||| r.2)) (s.mem, 0)
      let rest : FoldGroup := { g with wins := g.wins.filter fun y => y.win != z.win }
      (∀ (p : Packet) (i fd : Nat) (e : GroupEntry), s.fab.up ≠ 0 → p.src ≠ s.ctl.pkid.toNat → (p.src, p.port, p.seq) ∉ s.fab.seen →
        s.groupByHandle p.handle = some (i, e) → e.words[1] = p.key → groupHas e p.src = true → p.va < replyVa →
        p.op = .foldClose fd z.win → desc = (p.src + 1) * 2 ^ 48 + fd % 2 ^ 48 → g.wins.find? (fun y => y.win == z.win) = some z →
        ∃ y, exec (.packetIngress p) s = .next y ∧ y.mem = closed.1 ∧ y.fold? desc = some rest ∧
          .data p.src p.opId 0 (leBytes 8 closed.2.toNat) ∈ y.fab.out) ∧
      (desc < 2 ^ 48 → g.wins.find? (fun y => y.win == bits (word s.mem 16) 48 16) = some z →
        (∀ pkg ∈ z.far, s.closeReport desc z.win pkg = some (r pkg)) → g.leaves = [] → g.fin = none →
        (∀ i, i ≤ bits (word s.mem 0) 48 8 → (leWord (getBytes s.mem (desc + 32 + 8 * (i / 64)) 8)).getLsbD (i % 64) = true ∧ (i ∈ g.left ∨ i ∈ z.marks)) →
        word closed.1 8 = 0 →
        let o := word closed.1 16
        ∃ y, exec (.windowClose desc) s = .next y ∧ y.fold? desc = some rest ∧
          y.mem = putBytes closed.1 (desc + 16) (leBytes 8 (setBits (setBits o 48 16 (bits o 48 16 + 1)) 0 4 (BitVec.ofNat 4 (bits o 0 4) ||| (z.far.map r).foldl (· ||| ·) (closed.2.setWidth 4)).toNat).toNat)))

/-- R422, R427 to R429: a one-sided operation whose target is this package, whose checks pass and before which nothing must be performed, is performed as it issues (log 20, DESIGN CHOICE): RADD adds at its location, RADDS then adds 1 to its signal word, RWR writes its payload, or, with 64 bytes at the reply address, is a reply and is applied (R442), RWRS then adds 1 to its signal word, RRD writes what it read into the local range and adds 1 to the local signal word. A check of R426 that fails traps. -/
def Obligations.OneSidedOperations : Prop :=
  ∀ (s s1 s2 s3 : State) (k : CoreKey) (b : Fin 2) (d r g : WReg) (n : SReg) (t : RTy) (land sig : Place × List (Nat × Nat))
    (data : List Byte) (vals : List Word), Quiet s k b →
    let x := s.bank k b
    let S (j : Nat) : Word := x.ctx.s j
    let own := s.ctl.pkid.toNat
    let here (i : Instr) (o : OneSided) (ty : RTy) : Prop := s.oneSidedChecks i k (s.slatePhase k x) o ty = none ∧
      s.opsBefore k x o ty = false ∧ pkgOf (o.remote ty).1 = own ∧ s.localOperands k b o = .ok (s1, land, sig)
    let bs := s1.load land.2
    let v := fabricView (dieOf k) (s1.bank k b).id.spid s1.ctl.pkid.toNat
    let side := s1.fabricSide k b
    let done (y : State) : Next := .next ((y.complete k b none none).skidStart s k)
    let rwr : OneSided := ⟨0x70, S d.val, S r.val, S n.val, 0⟩
    let rwrs : OneSided := ⟨0x71, S d.val, S r.val, S n.val, S g.val⟩
    let rrd : OneSided := ⟨0x72, S d.val, S r.val, S n.val, S g.val⟩
    let radd : OneSided := ⟨0x73, S d.val, 0, S n.val, 0⟩
    let radds : OneSided := ⟨0x75, S d.val, 0, S n.val, S g.val⟩
    let payload (o : OneSided) : Option (State × Option (Cause × Nat)) :=
      s1.performCuts v ((S d.val).toNat % 2 ^ 48) bs (packetCuts ((S d.val).toNat % 2 ^ 48) o.n.toNat) none
    (here (.radd d n t) radd t → s1.perform v false s1.ctl.pkid.toNat (.radd t (S n.val)) ((S d.val).toNat % 2 ^ 48) [] = .ok s2 data vals →
      exec (.radd d n t) s = done s2) ∧
    (here (.radds d n g t) radds t → s1.perform v false s1.ctl.pkid.toNat (.radd t (S n.val)) ((S d.val).toNat % 2 ^ 48) [] = .ok s2 data vals →
      s2.packetSignal v .write ((S g.val).toNat % 2 ^ 48) = .ok s3 [] [] → exec (.radds d n g t) s = done s3) ∧
    (here (.rwr d r n) rwr .s64 → payload rwr = some (s2, none) → exec (.rwr d r n) s = done s2) ∧
    (here (.rwr d r n) rwr .s64 → (S d.val).toNat % 2 ^ 48 = replyVa → S n.val = 64 → exec (.rwr d r n) s = done (s1.applyRecord bs)) ∧
    (here (.rwrs d r n g) rwrs .s64 → payload rwrs = some (s2, none) → s2.packetSignal v .write ((S g.val).toNat % 2 ^ 48) = .ok s3 [] [] →
      exec (.rwrs d r n g) s = done s3) ∧
    (here (.rrd d r n g) rrd .s64 → s1.packetRead v ((S r.val).toNat % 2 ^ 48) (S n.val).toNat = .ok s2 data vals →
      exec (.rrd d r n g) s = done (((s1.served side (S d.val).toNat land.1 (S n.val).toNat .write).1.store land.2 data).signalAdd side
        (S g.val).toNat sig.2 sig.1 1)) ∧
    (∀ e,
      (s.oneSidedChecks (.rwr d r n) k (s.slatePhase k x) rwr .s64 = some e → exec (.rwr d r n) s = .next (s.trapNow k b e)) ∧
      (s.oneSidedChecks (.rwrs d r n g) k (s.slatePhase k x) rwrs .s64 = some e → exec (.rwrs d r n g) s = .next (s.trapNow k b e)) ∧
      (s.oneSidedChecks (.rrd d r n g) k (s.slatePhase k x) rrd .s64 = some e → exec (.rrd d r n g) s = .next (s.trapNow k b e)) ∧
      (s.oneSidedChecks (.radd d n t) k (s.slatePhase k x) radd t = some e → exec (.radd d n t) s = .next (s.trapNow k b e)) ∧
      (s.oneSidedChecks (.radds d n g t) k (s.slatePhase k x) radds t = some e → exec (.radds d n g t) s = .next (s.trapNow k b e)))

/-- R423, R427, R428, R432, R436: a packet that names no open entry is refused with PROTECTION 9 and changes no memory; one whose entry, key and member agree is performed and remembered, and answered at once unless its operation has a signal here: then the packet that completes the operation is answered by the update of the signal. A packet that is remembered changes nothing. At the reply address and above, an RWR of exactly 64 bytes at it is applied as a reply, and any other packet is refused with PROTECTION 10. An acknowledgement removes a packet that has been sent from its retry store; a resend counts, and after the last the packet leaves the store, and no payload takes its room where none waits. Once every packet of an operation has been performed, its signal word gains 1 under the entry of its handle, or the checks of R436 refuse it, and its last packet is answered so. A reply of an RRD writes its bytes, and what is still due falls; after the last the local signal gains 1. A packet enters at the die of its port's number by the model's choice (log 30). -/
def Obligations.FabricPackets : Prop :=
  ∀ (s s1 : State) (p : Packet) (i : Nat) (g : GroupEntry) (q : RetryPkt) (o : FabricOp) (e : InOp) (port seq src op off va : Nat) (bs data : List Byte) (vals : List Word)
    (pl : Place) (ps : List (Nat × Nat)),
    let act := s.fab.up ≠ 0 ∧ p.src ≠ s.ctl.pkid.toNat ∧ (p.src, p.port, p.seq) ∉ s.fab.seen
    ((p.src, p.port, p.seq) ∈ s.fab.seen → exec (.packetIngress p) s = .next s) ∧
    (act → s.groupByHandle p.handle = none → ∃ t, exec (.packetIngress p) s = .next t ∧ t.mem = s.mem ∧
      (p.src, p.port, p.seq) ∈ t.fab.seen ∧ .ack p.src p.port p.seq (.failed Cause.protection.code 9) ∈ t.fab.out) ∧
    (act → s.groupByHandle p.handle = some (i, g) → g.words[1] = p.key → groupHas g p.src = true → p.va < replyVa →
      s.perform (fabricView (ingressDie p) (groupSpid g) p.src) true p.src p.op p.va p.data = .ok s1 data vals →
      ∃ t, exec (.packetIngress p) s = .next t ∧ t.mem = s1.mem ∧ (p.src, p.port, p.seq) ∈ t.fab.seen ∧
        (p.sigVa = none → .ack p.src p.port p.seq .performed ∈ t.fab.out) ∧
        (p.sigVa = some va → p.total = 1 → (∀ y ∈ s1.fab.inOps, ¬(y.src = p.src ∧ y.opId = p.opId)) →
          ∃ y ∈ t.fab.inOps, y.src = p.src ∧ y.opId = p.opId ∧ y.left = 0 ∧ y.failed = false ∧ y.sigVa = some va ∧ y.last = some (p.port, p.seq))) ∧
    (let reply := p.op = .write ∧ p.sigVa = none ∧ p.va = replyVa ∧ p.data.length = 64 ∧ p.total = 1
     act → s.groupByHandle p.handle = some (i, g) → g.words[1] = p.key → groupHas g p.src = true → replyVa ≤ p.va →
      (reply → ∃ t, exec (.packetIngress p) s = .next t ∧ t.mem = (s.applyRecord p.data).mem ∧ .ack p.src p.port p.seq .performed ∈ t.fab.out) ∧
      (¬ reply → ∃ t, exec (.packetIngress p) s = .next t ∧ t.mem = s.mem ∧ .ack p.src p.port p.seq (.failed Cause.protection.code 10) ∈ t.fab.out)) ∧
    (s.fab.retry.find? (fun y => y.port == port && y.seq == seq) = some q → q.sends ≠ 0 → (∀ y ∈ s.fab.ops, y.rest.isEmpty = true) →
      (∃ t, exec (.packetAck port seq .performed) s = .next t ∧ t.mem = s.mem ∧ t.fab.retry = s.fab.retry.filter fun y => !(y.port == port && y.seq == seq)) ∧
      (q.sends < s.fab.nsend.toNat → exec (.packetResend port seq) s = .next { s with fab := { s.fab with
        retry := s.fab.retry.map fun y => if y.port = port ∧ y.seq = seq then { y with sends := y.sends + 1 } else y } }) ∧
      (s.fab.nsend.toNat ≤ q.sends → s.lowerOut q.pkt.opId = false → (∀ ws, q.pkt.op ≠ .report ws) → (∃ y ∈ s.fab.ops, y.id = q.pkt.opId) →
        ∃ t, exec (.packetResend port seq) s = .next t ∧ t.mem = s.mem ∧
        t.fab.retry = s.fab.retry.filter fun y => !(y.port == port && y.seq == seq))) ∧
    (s.fab.inOps.find? (fun z => z.src == src && z.opId == op) = some e → e.last = some (port, seq) → e.sigVa = some va →
      let told (y : State) (z : AckReply) : Prop := exec (.remoteSignalUpdate src op) s = .next
        { y with fab := { y.fab with inOps := y.fab.inOps.filter (fun x => !(x.src == src && x.opId == op)), out := y.fab.out ++ [.ack src port seq z] } }
      (s.groupByHandle e.handle = none → told s (.failed Cause.protection.code 9)) ∧
      (s.groupByHandle e.handle = some (i, g) →
        ((g.words[1] ≠ e.key ∨ groupHas g src = false) → told (s.countRefused i) (.failed Cause.protection.code 9)) ∧
        (g.words[1] = e.key → groupHas g src = true → replyVa ≤ va → told s (.failed Cause.protection.code 10)) ∧
        (g.words[1] = e.key → groupHas g src = true → va < replyVa →
          (s.packetSignal (fabricView (port / 9 % 4) (groupSpid g) src) .farWrite va = .ok s1 [] [] → told s1 .performed) ∧
          (∀ c d, s.packetSignal (fabricView (port / 9 % 4) (groupSpid g) src) .farWrite va = .failed c d → told s (.failed c.code d))))) ∧
    (s.fab.ops.find? (fun z => z.id == op) = some o → o.opc = 0x72 → s.farLeft [op] = true → o.ask = none → bs ≠ [] → off + bs.length ≤ o.amount.toNat →
      let w : View := ⟨o.core, o.spid, o.sid, .fabric (pkgOf o.sa)⟩
      s.writeAt w (o.da.toNat + off) 1 bs = .ok s1 →
      (bs.length < o.due → exec (.rrdReply op off bs) s = .next ((s1.setOp { o with due := o.due - bs.length }).sweepOps)) ∧
      (bs.length = o.due → o.failed = none → s1.place o.core o.sig.toNat 8 = some pl → s1.targetChecks w pl 8 .atomic = .ok ps →
        exec (.rrdReply op off bs) s = .next (((s1.setOp { o with due := 0 }).signalAdd w o.sig.toNat ps pl 1).sweepOps)))

/-- R389 to R392, R394, R395, R422, R434, R437, R439, R450: the ports of the fabric: FCTL sets EN, and a port whose EN is cleared goes down; a port comes up only while enabled. A group entry that is open takes no write but the one that closes it; a closed one takes the writable bits. A SYNC message sets the offset at a package that is no source. A failed replay counts, and the sixteenth begins a retrain, which an RT write begins at an up link and an UP write at a down one; a retrain that completes makes the link up, with one spare lane fewer in the direction for which it retrained, and what waited for it goes on; a third failed attempt takes it down, as linkDown says. A CXL port's link sets UP and the memory fitted. Which dies a link's loss cuts off, and what becomes of the requests and launches there, is the model's reading (log 32, DEDUCED). -/
def Obligations.PortsAndLinks : Prop :=
  ∀ (s : State) (v : Word) (j : Fin 36) (g : Fin 256) (i : Fin 16) (off : BitVec 32) (st spare : Bool) (l : Fin 4) (p : Fin 16) (n : Nat) (ide : Bool),
    let f := s.fab
    let bit : BitVec 36 := BitVec.ofNat 36 (2 ^ j.val)
    let x := s.links[l]
    let e : GroupEntry := lookupD ⟨Vector.replicate 16 0⟩ f.groups g.val
    let mask : Word := if i.val = 0 then 0x8000FFFF000FFFFF else if i.val < 11 then 0xFFFFFFFFFFFFFFFF else 0
    let y : GroupEntry := ⟨e.words.set i (v &&& mask)⟩
    let start (z : Option (Fin 2)) : State := s.setLink l { x with st := 1, attempts := 0, taken := z, fails := 0, nrt := BitVec.ofNat 32 (min (x.nrt.toNat + 1) (2 ^ 32 - 1)) }
    exec (.fctlWrite v) s = .next { s with fab := { f with en := v.setWidth 36, up := f.up &&& v.setWidth 36 } } ∧
    (f.en.getLsbD j.val = true → exec (.galrilFPortUp j) s = .next { s with fab := { f with up := f.up ||| bit } }) ∧
    (f.en.getLsbD j.val = false → exec (.galrilFPortUp j) s = .next s) ∧
    exec (.galrilFPortDown j) s = .next { s with fab := { f with up := f.up &&& ~~~ bit } } ∧
    (e.words[0].getLsbD 63 = false → i.val < 11 → s.groupClash g.val y = false →
      exec (.groupEntryWrite g i v) s = .next { s with fab := { f with groups := insertKey g.val y f.groups } }) ∧
    (e.words[0].getLsbD 63 = true → (i.val ≠ 0 ∨ v.getLsbD 63 = true) → exec (.groupEntryWrite g i v) s = .next s) ∧
    (e.words[0].getLsbD 63 = true → i.val = 0 → v.getLsbD 63 = false →
      exec (.groupEntryWrite g i v) s = .next { s with fab := { f with groups := insertKey g.val y f.groups } }) ∧
    (f.master = true → exec (.syncMessage off st) s = .next s) ∧
    (f.master = false →
      let near := st && decide (-20 ≤ off.toInt) && decide (off.toInt ≤ 20)
      exec (.syncMessage off st) s = .next { s with fab := { f with off := off, inSync := if near then max 1 f.inSync else 0, sync := f.sync && near } }) ∧
    (x.st = 0 → exec (.flitReplay l true) s = .next (s.setLink l { x with fails := 0 }) ∧
      (x.fails < 15 → exec (.flitReplay l false) s = .next (s.setLink l { x with fails := x.fails + 1 })) ∧
      (15 ≤ x.fails → exec (.flitReplay l false) s = .next (start none)) ∧
      exec (.retrain l spare) s = .next (start (if spare then s.laneWaits l else none)) ∧ exec (.rt l) s = .next (start none)) ∧
    (x.st = 2 → exec (.up l) s = .next (start none)) ∧
    (x.st = 1 →
      (x.taken = none → exec (.retrainComplete l) s = .next (s.setLink l { x with st := 0, attempts := 0, taken := none }).flushOwed) ∧
      (∀ z y, x.taken = some z → x.spare[z] ≠ 0 → s.test.running.findIdx? (fun t => t.ofLink l z && !t.spare) = some y →
        let up := s.setLink l { x with st := 0, attempts := 0, taken := none, spare := x.spare.set z (x.spare[z] - 1) }
        let used := s.test.running.modify y fun t => { t with spare := true }
        exec (.retrainComplete l) s = .next ({ up with test := { s.test with running := used } } : State).flushOwed) ∧
      (x.taken = none → x.attempts.val < 2 → exec (.retrainAttemptFail l) s = .next (s.setLink l { x with attempts := x.attempts + 1 })) ∧
      (x.taken = none → 2 ≤ x.attempts.val → exec (.retrainAttemptFail l) s = .next (s.linkDown l)) ∧
      (x.taken = none → 2 ≤ x.attempts.val → s.cores = [] → s.clusters = [] → (∀ o ∈ s.fab.ops, o.ask = none) →
        exec (.retrainAttemptFail l) s = .next (((s.setLink l { x with attempts := 3, st := 2 }).raiseMsix 5).flushOwed).dropDies)) ∧
    (∃ t, exec (.cxlLinkUp p n ide) s = .next t ∧ t.mem = s.mem ∧ t.cxl = s.cxl.set p ⟨ide, true, BitVec.ofNat 11 (min n 1024)⟩) ∧
    (∃ t, exec (.cxlLinkDown p) s = .next t ∧ t.mem = s.mem ∧ t.cxl = s.cxl.set p { s.cxl[p] with up := false, ide := false })

/-! Events, faults and the management of cores and launches. -/

/-- R81, R178, R258, R299, R300, R303, R306, R307, R310, R312, R345, R348: a boundary of a level is one of every finer level, for each home that does not skip it. A resolution in which no event is ready changes no memory and owes no delivery; one in which a single event is ready that has no signal participants and whose strands all offer it makes that event occur, sets its credit to 0 and advances its home's rotation; RTICK does so for the home of a frozen cluster. A delivery that is owed waits while its cluster is frozen, unless that cluster is its event's home (log 78), a spill of a region that it writes is pending, or a link that its pieces cross retrains (R391); else it writes its pieces into the landing buffer and completes its entry. A stage with its tuple's last value to push pushes it and counts; while the ring is full nothing changes. A fault of a stage ends the fusion with code 2 and its cause, an UNFUSE that was stalled will return −3, and each fused strand takes FUSE_FAULT at its FUSE, with the stage in tval, the cause in tinfo, and SK = 0. The order in which a home takes its events is that of R303 to R307; that a delivery's bytes are captured when its event occurs is the model's choice (log 15). -/
def Obligations.EventsAndStages : Prop :=
  ∀ (s s1 : State) (c0 : ClusterKey) (homes : List Home) (c : Claim) (k : CoreKey) (b : Fin 2) (n d pq cause : Nat) (dl : Delivery) (j : Fin 16) (x : Stage) (v : Word),
    let nothing (i : Instr) : Prop := ∃ t, exec i s = .next t ∧ t.mem = s.mem ∧ t.deliveries = s.deliveries
    let occurs (i : Instr) : Prop := ∃ t, exec i s = .next t ∧ (t.slot c.home c.slot).credit = 0 ∧
      (t.resolver c.home).rot = (((s1.occur c).resolver c.home).rot + 1) % slotCount c.home ∧
      t.mem = (s1.occur c).mem ∧ t.deliveries = (s1.occur c).deliveries ∧ t.cores = (s1.occur c).cores
    let q := s.quad d pq
    let r := x.outs.getD (x.outs.length - 1) 0
    let bh := s.boundaryHomes homes
    (∀ h, h ∈ bh ↔ h ∈ s.homes ∧ s.skips h = false ∧ ∃ g ∈ homes, Home.lvl h ≤ Home.lvl g) ∧
    ((s.snapshot bh).2 = [] → nothing (.resolution homes)) ∧
    (s.snapshot bh = (s1, [c]) → c.sigs = [] → (∀ y ∈ c.parts, s1.strandOffers c.handle y = true) → occurs (.resolution homes)) ∧
    ((s.clu c0).verm.frz = true → (s.snapshot [.cluster c0]).2 = [] → nothing (.rtick c0)) ∧
    ((s.clu c0).verm.frz = true → s.snapshot [.cluster c0] = (s1, [c]) → c.sigs = [] → (∀ y ∈ c.parts, s1.strandOffers c.handle y = true) → occurs (.rtick c0)) ∧
    ((s.clu c0).verm.frz = false → exec (.rtick c0) s = .next s) ∧
    (s.deliveries[n]? = some dl → s.deliveryWaits dl = true → exec (.eventDelivery n) s = .next s) ∧
    (s.deliveries[n]? = some dl → (s.core dl.core).fen = false → s.deliveryWaits dl = false → (∀ y ∈ dl.segs, (s.core dl.core).meetsBound y.1 y.2.length = false) →
      s.findStrand dl.who = some (.bank k b) → (s.bank k b).st = .bound → bits (s.bank k b).ctx.offers[dl.entry].w0 29 3 = 2 →
      let o := (s.bank k b).ctx.offers[dl.entry]
      ∃ t, exec (.eventDelivery n) s = .next t ∧ t.deliveries = s.deliveries.eraseIdx n ∧
        t.mem = dl.segs.foldl (fun m y => putBytes m (spadBase dl.core + y.1) y.2) s.mem ∧
        (t.bank k b).ctx = { (s.bank k b).ctx with
          offers := (s.bank k b).ctx.offers.set dl.entry ⟨setBits (setBits o.w0 29 3 3) 18 4 dl.flags.toNat, o.w1⟩ }) ∧
    (q.fused = true → (s.clu (clusterAt d pq (j.val / 4))).verm.frz = false → q.stages[j.val]? = some x → x.tuple = some [v] → (x.ins ++ x.outs).findSome? s.ringGone = none →
      (∀ t1 y, s.ringPush (r / 16) (r % 16) 0 v = (some t1, y) → exec (.fusedStageStep d pq j) s = .next (y.setStage d pq j.val { x with tuple := none } true)) ∧
      (∀ y, s.ringPush (r / 16) (r % 16) 0 v = (none, y) → exec (.fusedStageStep d pq j) s = .next s)) ∧
    (q.fused = true → j.val < q.stages.length →
      let ended : Quad := { q with offers := [], fused := false, stages := [], draining := false, unfuser := none
                                   unheard := q.unheard ++ q.unfuser.toList, endCode := 2, fcause := cause }
      let t := q.offers.foldl (fun y e => y.fuseTrap j.val cause e.2) ((s.planesBack d pq).setQuad d pq ended)
      exec (.fusionFault d pq j cause) s = .next t ∧ t.mem = s.mem ∧ t.quad d pq = ended) ∧
    (∀ (y : State) (o : FuseOffer), y.findStrand o.who = some (.bank k b) → (y.core k).fen = false →
      let x := y.bank k b
      let z := (y.fuseTrap j.val cause o).bank k b
      x.pend = [] → x.store = none → x.sending = none → x.trapped = [] → x.h = false → x.prk = false →
      z.ctx.tb.tpc = (x.pc - 4) &&& 0xFFFFFFFFFFFFFFFC ∧ bits z.ctx.tb.tcause 0 8 = Cause.fuseFault.code ∧ z.ctx.tb.tval = BitVec.ofNat 64 j.val ∧
      z.ctx.tb.tinfo = BitVec.ofNat 64 (cause % 256) ∧ (y.fuseTrap j.val cause o).mem = y.mem) ∧
    (q.fused = false → exec (.fusionFault d pq j cause) s = .next s)

/-- R95, R116, R251, R313 to R318, R440 to R442: a report for this package's server leaves the list once its record stands in the ring, and awaits its reply where its kind takes one; while the ring has no place it waits; with the ring off it goes to the host. One for another package's server leaves by a port with its words 0 to 11. RESUME and SKIP of a parked strand clear PRK and H and go on at tpc, or after it, or at the end of the body that they leave so; of one that a double trap has parked, they clear PRK alone and go on in the handler. KILL empties its bank; EDIT writes words of its register region, of tstat H alone, and loads a binding word that it writes again; DISCARD drops a stopped command. A strand that waits longer than WINT is flagged; a probe of one in a completion wait reports reason 5, and one that finds a set unchanged reports a stall. That EDIT writes H alone of tstat and loads a binding is the model's reading (log 61), and so are the count 1 of reason 5 (log 40), the return to tpc (log 18) and past a body's end (log 48). -/
def Obligations.FaultServer : Prop :=
  ∀ (s : State) (k : CoreKey) (b : Fin 2) (c : ClusterKey) (m : Cmd) (r : Report) (rs : List Report) (tag : BitVec 16) (sid v : Word) (i : Nat) (h : Home) (w : ProbeView),
    let x := s.bank k b
    let pk := s.ctl.pkid.toNat
    let host : Word := 0xFFFFFFFFFFFFFFFF
    let awaits := s.fab.awaiting.find? (fun y => y.tag == tag && y.sid == sid) = some r
    let parked := awaits ∧ s.strandOfReport r = some (.bank k b) ∧ x.st = .bound
    let mine := parked ∧ r.kind = 1 ∧ x.dbl = none
    let fresh := bits x.ctx.tb.tinfo 8 4 = 0
    let tpc := x.ctx.tb.tpc &&& 0xFFFFFFFFFFFFFFFC
    let back (goal : Word) : Word := match ({ x with ctx := Ctx.ofWords x.ctx.word } : Bank).passedEnd goal with | some e => e + 4 | none => goal
    (s.fab.reports = [] → exec .faultReport s = .next s) ∧
    (s.fab.reports = r :: rs → (r.src = pk → r.server = host ∨ r.target = pk) →
      (∀ s1, s.ringWrite r = some s1 → exec .faultReport s = .next (
        let t := { s1 with fab := { s1.fab with reports := s1.fab.reports.eraseIdx 0 } }
        let u := if (r.kind = 1 ∨ r.kind = 2 ∨ r.kind = 3 ∨ r.kind = 5) ∧ r.src = t.ctl.pkid.toNat then { t with fab := { t.fab with awaiting := t.fab.awaiting ++ [r] } } else t
        if r.server = host then u.raiseMsix 6 else u)) ∧
      (s.ringWrite r = none → (s.ringOn = true ∨ r.src ≠ pk ∨ r.server = host) → (∀ y ∈ rs, s.reportRing y = pk) → exec .faultReport s = .next s) ∧
      (s.ringOn = false → r.src = pk → r.server ≠ host →
        exec .faultReport s = .next { s with fab := { s.fab with reports := { r with server := host } :: rs } })) ∧
    (∀ g j, s.fab.reports = r :: rs → r.src = pk → r.server ≠ host → r.target ≠ pk → s.groupId r.spid = some g → s.portWay (r.sid.toNat / 4096 % 4) r.target = .ok j →
      let p := packetUnder g 0 1 none (.report (r.record.take 12)) 0 []
      s.portRoom j p = true → exec .faultReport s = .next (((s.sendPacket j r.target p).dropReport 0).await r)) ∧
    (mine → fresh → ∃ t, exec (.resume tag sid 0) s = .next t ∧ t.mem = s.mem ∧ (t.bank k b).prk = false ∧ (t.bank k b).h = false ∧
      (t.bank k b).pc = back (if x.ctx.tb.tinfo.getLsbD 27 then tpc + 4 else tpc)) ∧
    (mine → fresh → ∃ t, exec (.skip tag sid 0) s = .next t ∧ t.mem = s.mem ∧ (t.bank k b).prk = false ∧ (t.bank k b).h = false ∧ (t.bank k b).pc = back (tpc + 4)) ∧
    (∀ d, parked → r.kind = 2 → x.dbl = some d →
      (∃ t, exec (.resume tag sid 0) s = .next t ∧ t.mem = s.mem ∧ (t.bank k b).prk = false ∧ (t.bank k b).h = x.h ∧ (t.bank k b).pc = d.pc) ∧
      (∃ t, exec (.skip tag sid 0) s = .next t ∧ t.mem = s.mem ∧ (t.bank k b).prk = false ∧ (t.bank k b).h = x.h ∧ (t.bank k b).pc = d.pc + 4)) ∧
    (mine → ∃ t, exec (.kill tag sid 0) s = .next t ∧ t.bank k b = Bank.empty) ∧
    (mine → 8 * i < regionBytes → ∃ t, exec (.edit tag sid [(8 * i, v)]) s = .next t ∧ t.mem = s.mem ∧ (t.bank k b).ctx =
      if i = 74 then x.ctx.setWord 74 (x.ctx.word 74 &&& 6 ||| v &&& 1)
      else if 96 ≤ i ∧ i < 104 then (x.ctx.setWord i v).setWord i (bindLoad v)
      else x.ctx.setWord i v) ∧
    (awaits → r.kind = 3 → s.stoppedCmd r = some (c, m) → m.gang = none → ∃ t, exec (.discard tag sid 0) s = .next t ∧ t.mem = s.mem ∧
      (t.clu c).cmds = (s.clu c).cmds.filter fun y => y.id != m.id) ∧
    (s.findStrand x.id.who = some (.bank k b) → x.flagged = false → (s.clu (clusterOf k)).evwatch ≠ 0 → ((s.waitsIn (.bank k b)).isSome = true ∨ x.completionWait = true) →
      ∃ t, exec (.stallFlag x.id.ln x.id.lid) s = .next t ∧ t.mem = s.mem ∧ (t.bank k b) = { x with flagged := true, flagSeen := false }) ∧
    ((s.probeOf h).pending.find? (fun y => y.flagged == x.id.who && y.set.isEmpty) = some w → s.findStrand x.id.who = some (.bank k b) → (s.dropFlag h x.id.who).inProbe x.id.who = false → x.completionWait = true →
      exec (.probe h x.id.ln x.id.lid) s = .next ((s.dropFlag h x.id.who).probeReport h (.bank k b) 1 1 5 0 0 (s.stallPtr (.bank k b)))) ∧
    ((s.probeOf h).pending.find? (fun y => !y.set.isEmpty && y.homes.isEmpty) = some w → s.findStrand w.flagged = some (.bank k b) → (s.probeOf h).trap = false →
      s.probeSet (.bank k b) = .ok w.set → w.set.map s.memberView = w.seen →
      exec (.probeRecheck h) s = .next ((s.dropFlag h w.flagged).probeReport h (.bank k b) 2 w.set.length 0 0 (s.lowestSid w.set) 0))

/-- R96, R200, R211, R213, R214, R217, R269, R324, R342, R378, R379, R383, R384, R398, R401: create binds a strand of its launch at the record's entry, with HOLD set, and is refused with ERR where no launch has the number. Restore takes the unbound strand whose turn it is into the shadow bank, and the restore that completes loads its registers from the workspace, or leaves it DAMAGED where a tag does not match. Unbind takes the strand of the lowest priority where a head of higher priority can not be placed; its spill unbinds the workspace once nothing is pending, and writes the registers to it. Make active, the swap threshold and the time slice put a swap under way in the cases that allow one, or put it off where the core is fused; then the banks change places, and a strand whose gang or fuse offer has been withdrawn issues once more. FEN stops a core and drops its requests and remote reads; a hang fences the core. A remap of a fenced streamer without strands exchanges its role with the spare's. A migration, made to place such a head, re-creates its strand at the destination from its last phase boundary, once its accesses are made and where its launch's rings may stand, and finds the instruction cache empty there. Until its firmware runs (from stage 2 on, log 38) a DCC does none of this, and a hang sets HUNG alone. Which strand the spill engine takes, and when, is an argument of the step (log 36), and so is a damaged line (log 41). A strand that is being unbound stands as a mark in its bank (log 52), an exchange is made in two steps (logs 21, 60), and a migrated strand keeps what log 62 says. -/
def Obligations.CoreManagement : Prop :=
  ∀ (s s3 : State) (c : ClusterKey) (k : CoreKey) (slot : Fin 16) (ln : BitVec 16) (lid : BitVec 32) (wsp : BitVec 18) (l : Launch) (b : Fin 2) (n : Nat) (dest : Position),
    let kc := s.coreAt c (slot.val / 2)
    let pos : Fin 2 := Fin.ofNat 2 slot.val
    let x := s.core kc
    let y := s.core k
    let sh := 1 - y.ab
    let swapped : State := s.setCore k (if s.fusedCore k then { y with put := true } else { y with swp := true })
    let exchanged : State := s.setCore k { y.setBank sh { y.bank sh with leaving := false } with swp := false, ab := sh }
    let dcc := s.dccRuns = true
    (s.dccRuns = false → ∀ i ∈ [.create c slot ln lid wsp, .restore c slot ln lid wsp, .unbind c slot, .makeActive c slot, .swapThreshold k, .timeSlice k, .migration k b dest, .remap k], exec i s = .next s) ∧
    (dcc → s.launch? ln = none → exec (.create c slot ln lid wsp) s = .next (s.setSlotEntry c slot ((s.slotEntry c slot).setErr true))) ∧
    (dcc → s.launch? ln = some l → s.posSt kc pos = .empty → l.places[lid.toNat]? = some ⟨kc, pos, wsp.toNat⟩ → lid ∉ l.created → x.fen = false → (x.bank x.ab).st = .empty →
      ∃ t, exec (.create c slot ln lid wsp) s = .next t ∧
        t.bank kc x.ab = Bank.created (s.identFor l kc lid pos) wsp (recEntry l.words) 0 (BitVec.ofNat 64 (recTok l.words)) ∧ (t.slotEntry c slot).hold = true) ∧
    (∀ u, dcc → x.unbound.findIdx? (fun z => z.id.who == ⟨ln, lid⟩ && z.wsp == wsp && z.id.pos == pos) = some n → x.unbound[n]? = some u → s.frozenAt kc = false → x.swp = false → x.put = false →
      s.posSt kc pos = .empty → (x.bank (1 - x.ab)).st = .empty → x.fen = false →
      (∀ m z, x.unbound[m]? = some z → s.posSt kc z.id.pos = .empty → s.restoreFirst (.saved kc m) (.saved kc n) = false) →
      ∃ t, exec (.restore c slot ln lid wsp) s = .next t ∧ t.mem = s.mem ∧ t.bank kc (1 - x.ab) = { u with st := .restoring } ∧ (t.core kc).unbound = x.unbound.eraseIdx n) ∧
    ((y.bank sh).st = .restoring → y.fen = false → s.frozenAt k = false →
      (s.badLine (spadBase k + (y.bank sh).wsp.toNat) = none → exec (.restoreComplete k none) s =
        .next (s.setBank k sh { s.bank k sh with st := .bound, ctx := Ctx.ofMemory s.mem (spadBase k + (y.bank sh).wsp.toNat) })) ∧
      (∀ m, ∃ t, exec (.restoreComplete k (some m)) s = .next t ∧ (t.bank k sh).st = .damaged)) ∧
    (dcc → s.shadowAt kc pos = some b → s.unbindNext kc (s.bank kc b) = true →
      ∃ t, exec (.unbind c slot) s = .next t ∧ t.mem = s.mem ∧ t.bank kc b = { s.bank kc b with leaving := true }) ∧
    ((y.bank sh).leaving = true → (y.bank sh).drained = true → (y.bank sh).trapped = [] → y.fen = false → y.swp = false → s.frozenAt k = false →
      ∃ t, exec (.spill k) s = .next t ∧ t.mem = s.mem ∧ t.bank k sh = { s.bank k sh with st := .spilling, leaving := false }) ∧
    ((y.bank sh).st = .spilling → (y.bank sh).leaving = false → y.fen = false → y.swp = false → s.frozenAt k = false →
      ∃ t, exec (.spill k) s = .next t ∧ t.mem = putBytes s.mem (spadBase k + (y.bank sh).wsp.toNat) (y.bank sh).ctx.spillBytes ∧ t.bank k sh = Bank.empty ∧
        (t.core k).unbound.length = y.unbound.length + 1) ∧
    (dcc → s.shadowAt kc pos = some b → x.fen = false → s.swapAllowed kc = true → (s.thresholdCase kc = true ∨ s.dueCase kc = true ∨ s.vacantCase kc = true) → s.fusedCore kc = false →
      ∃ t, exec (.makeActive c slot) s = .next t ∧ t.mem = s.mem ∧ (t.core kc).swp = true ∧ (t.core kc).ab = x.ab) ∧
    (y.fen = false → s.frozenAt k = false →
      (y.swp = true → (y.bank sh).st = .bound → s.swapMove k = exchanged.setBank k sh (exchanged.reissues k (exchanged.bank k sh))) ∧
      (y.swp = false → y.put = true → s.fusedCore k = false → ((y.bank sh).st = .bound ∨ (y.bank sh).st = .empty) → s.atBoundary k = true → s.swapMove k = s.setCore k { y with swp := true, put := false })) ∧
    (dcc → s.swapAllowed k = true →
      (y.cswapthr ≠ 0 → (y.bank y.ab).blocked = true → (y.bank sh).blocked = false → exec (.swapThreshold k) s = .next swapped) ∧
      (s.strandDue (.bank k sh) = true →
        ((y.bank y.ab).blocked = true ∨ (y.bank y.ab).wait = some .waitt ∨ (y.bank y.ab).prk = true ∨ s.disp.slice ≠ 0) → exec (.timeSlice k) s = .next swapped)) ∧
    (y.fen = true → exec (.fen k) s = .next s) ∧
    (y.fen = false → y.b0.st = .empty → y.b1.st = .empty → s.fusedCore k = false →
      exec (.fen k) s = .next ((s.setCore k { y with fen := true, b0 := y.b0.dropRequests, b1 := y.b1.dropRequests }).dropReads k)) ∧
    (dcc → exec (.hang k true) s = exec (.fen k) (s.setCore k { y with hung := true })) ∧
    (s.dccRuns = false → exec (.hang k true) s = .next (s.setCore k { y with hung := true })) ∧
    (s.idleRunning k = false → exec (.hang k false) s = .next s) ∧
    (y.fen = false → exec (.remap k) s = .next s) ∧
    (dcc → y.fen = true → 4 ≤ s.cid k → s.cid k ≠ 7 → cmapAt (s.clu (clusterOf k)).cmap 7 = 7 → (s.core (s.coreAt (clusterOf k) 7)).fen = false →
      s.strandsOf (s.coreAt (clusterOf k) 7) = [] → s.opsOutOn [k] = false → y.b0.st = .empty → y.b1.st = .empty → y.unbound = [] →
      ∃ t, exec (.remap k) s = .next t ∧ t.mem = s.mem ∧ (t.clu (clusterOf k)).cmap = cmapSwap (s.clu (clusterOf k)).cmap (s.cid k)) ∧
    (dcc → s.launch? (s.bank k b).id.ln = some l → (s.bank k b).st = .bound → (s.bank k b).boundary = true → (s.bank k b).drained = true →
      (s.bank k b).trapped = [] → s.superstepEnd k (s.bank k b) = true → s.headAbove (s.bank k b) = true → s.opsOut (s.bank k b).id.who .dm = false → y.swp = false → y.put = false → ((s.clid (clusterOf k)).getD 0) % 4 / 2 = ((s.clid (clusterOf dest.core)).getD 0) % 4 / 2 →
      dest.core ≠ k → s.posFree l.lists dest.core dest.pos = true → s.workspaceOk l.lists dest.core dest.wsp = true → s.ringsReach l (clusterOf dest.core) = true →
      let id := { s.identFor l dest.core (s.bank k b).id.lid dest.pos with slate := (s.bank k b).id.slate }
      let z := s.recreate (.bank k b) id (BitVec.ofNat 18 dest.wsp)
      z.1 = Bank.created id (BitVec.ofNat 18 dest.wsp) (l.restartAt (s.bank k b).id.lid.toNat).1 (l.restartAt (s.bank k b).id.lid.toNat).2 (BitVec.ofNat 64 (recTok l.words)) ∧
      ((z.2.setBank k b Bank.empty).bindInto dest.core z.1 = some s3 → exec (.migration k b dest) s =
        .next ((((s3.emptied k).setRings l (clusterOf dest.core)).mapLaunch l.ln fun l => { l with places := l.places.set (s.bank k b).id.lid.toNat dest }).mapClu (clusterOf dest.core) fun e => { e with icache := [] })))

/-- R364 to R366, R371, R376, R378, R380 to R382, R405, R421: dispatch takes a record whose words can be read into its queue, with the reason that refuses it, on word 0 alone where the rest can not be read; a doorbell makes it look; an index that is claimed and whose slot has stayed empty is refused with reason 13. The head of a queue that may start is admitted once the DCC's firmware runs (log 38): its allowance is in use and its launch stands. LSTART of a launch whose strands are all created and that loads nothing marks it, and at the next tick boundary every launch so marked starts, but not while the inlet exceeds 45 °C. A launch that is done gives its allowance back and leaves the list; its report leaves the queue once no one-sided operation of it is out. HCOMP is cleared by any write; LQCFG with EN = 1 sets the counts of a queue to 0 and enables it where LOGN allows; with EN = 0 it disables it, refuses its records that have not started, and no launch of it is left that has not. Which clusters the DCC picks is an argument of the step (log 36); what a write of LQCFG does to the records that a queue holds is the model's reading (log 35), and the start at a tick boundary is its choice (log 67). -/
def Obligations.Dispatching : Prop :=
  ∀ (s : State) (q : Fin 16) (v : Word) (ln : BitVec 16) (l : Launch) (r : QRec) (rs : List QRec) (places : List Position) (slots : List SlotChoice) (b0 bs : List Byte),
    let x := s.disp.queues[q]
    let slot := x.lqb + 256 + BitVec.ofNat 64 (256 * (x.acc.toNat % 2 ^ bits x.lqcfg 57 4))
    let sp : BitVec 20 := x.lqcfg.setWidth 20
    exec (.lqdb q v) s = exec (.recordAccept q) s ∧
    (x.lqcfg.getLsbD 63 = false → exec (.recordAccept q) s = .next s) ∧
    (s.recordWaits = true → exec (.recordAccept q) s = .next s) ∧
    (∀ lists, x.lqcfg.getLsbD 63 = true → s.recordWaits = false → s.dispatchRead sp slot 8 8 = .ok b0 → leWord b0 ≠ 0 →
      let taken (ws : List Word) (whole : Bool) : Prop := ∃ t y, exec (.recordAccept q) s = .next t ∧ t.disp.queues[q].recs = x.recs ++ [y] ∧
        t.disp.queues[q].acc = x.acc + 1 ∧ y.words = ws ∧ y.lists = lists.kept ∧ y.idx = x.acc.toNat ∧ y.refused = s.refusal ws whole lists x.acc.toNat
      (s.dispatchRead sp slot 256 8 = .ok bs →
        let ws := wordsOf bs 32
        (recVer ws ≠ 1 → lists = .none → taken ws true) ∧ (recVer ws = 1 → s.readLists ws = .ok lists → taken ws true)) ∧
      (∀ cause info, s.dispatchRead sp slot 256 8 = .error (.trap cause info) → lists = .none → taken [leWord b0] false)) ∧
    (∀ t0, x.lqcfg.getLsbD 63 = true → s.recordWaits = false → x.emptySince = some t0 → bits x.lqcfg 20 20 ≠ 0 → t0 + bits x.lqcfg 20 20 ≤ s.tick.toNat →
      s.dispatchRead sp x.lqb 8 8 = .ok b0 → x.acc.toNat < leNat b0 → s.dispatchRead sp slot 8 8 = .ok bs → leNat bs = 0 →
      ∃ t y, exec (.claimTimeout q) s = .next t ∧ t.disp.queues[q].recs = x.recs ++ [y] ∧ t.disp.queues[q].acc = x.acc + 1 ∧ y.refused = some 13) ∧
    (s.dccRuns = false → exec (.admission q ln places slots) s = .next s) ∧
    (s.dccRuns = true → s.head? q = some r → x.lqcfg.getLsbD 63 = true → s.startable x r = true → s.outranked q r = false → s.launch? ln = none →
      s.placesOk r.words r.lists places = true → s.slotsOk r.lists places slots = true →
      ∃ t, exec (.admission q ln places slots) s = .next t ∧ t.disp.inuse = s.disp.inuse + bits (r.words.getD 0 0) 30 10 ∧
        t.disp.launches = s.disp.launches ++ [⟨ln, q, r.idx, r.words, r.lists, places, slots, [], false, false, [], 0, 0, r.order, 0, [], clustersOf places, 0⟩]) ∧
    (s.launch? ln = none → exec (.lstart ln) s = .next { s with disp := { s.disp with lstart := ln } }) ∧
    (s.launch? ln = some l → l.created.length = l.places.length → l.lstart = false → l.lists.loads = [] →
      exec (.lstart ln) s = .next { s with disp := { s.disp with lstart := ln, launches := s.disp.launches.map fun m => if m.ln = ln then { m with lstart := true } else m } }) ∧
    (45 < s.ctl.tin.toNat → exec .launchStart s = .next s) ∧
    (s.ctl.tin.toNat ≤ 45 → ∃ t, exec .launchStart s = .next t ∧ (s.journals = false → ∀ m ∈ t.disp.launches, m.lstart = true → m.started = true) ∧
      (∀ m ∈ t.disp.launches, m.started = true → ∃ n ∈ s.disp.launches, n.ln = m.ln ∧ (n.started = true ∨ n.lstart = true)) ∧
      ((∃ m ∈ s.disp.launches, m.lstart = true ∧ m.started = false) → t.tick = s.tick + 1)) ∧
    (s.launch? ln = some l → s.launchDone l = true → s.disp.tree = false → ∃ t, exec (.launchCompletion ln) s = .next t ∧
      let live := s.disp.launches.filter fun m => m.ln != ln
      t.disp.inuse = s.disp.inuse - bits (l.words.getD 0 0) 30 10 ∧ t.disp.launches.map Launch.ln = live.map Launch.ln ∧
      ((∀ e ∈ s.clusters, ∀ m ∈ e.2.cmds, m.who.ln = ln → m.gang = none) → t.disp.launches = live)) ∧
    (s.launch? ln = some l → s.launchDone l = false → exec (.launchCompletion ln) s = .next s) ∧
    (x.recs = r :: rs → s.disp.tree = false → (∀ n, r.ln = some n → s.launchOut n = false) → (r.refused ≠ none ∨ r.outcome ≠ none) → ∃ t, exec (.launchReport q) s = .next t ∧
      t.disp.queues[q].recs = rs ∧ t.disp.queues[q].rep = x.rep + 1) ∧
    (∀ n, x.recs = r :: rs → r.ln = some n → s.launchOut n = true → exec (.launchReport q) s = .next s) ∧
    exec (.hcompWrite v) s = .next { s with disp := { s.disp with hcomp := 0 } } ∧
    (let w := v &&& 0xFE0000FFFFFFFFFF
     (w.getLsbD 63 = true → exec (.lqcfgWrite q v) s = .next (s.setQueue q { x with
       lqcfg := if 4 ≤ bits w 57 4 ∧ bits w 57 4 ≤ 12 then w else setBits w 63 1 0, acc := 0, rep := 0, emptySince := none })) ∧
     (w.getLsbD 63 = false → ∃ t, exec (.lqcfgWrite q v) s = .next t ∧ t.disp.queues[q].lqcfg = w ∧
       (∀ y ∈ t.disp.queues[q].recs, y.refused ≠ none ∨ y.outcome ≠ none ∨ ∃ m ∈ t.disp.launches, y.ln = some m.ln ∧ m.started = true) ∧
       ∀ m ∈ t.disp.launches, m.q = q → m.started = true))

/-- R258 to R260, R321 to R323, R410 to R412: a stop freezes every cluster of its scope, RUN ends it; a step or RTICK written while the cluster is not frozen changes nothing, SCOPE and SCORE included; a step is ignored also where the core's record is not valid, ends BLOCKED where the strand is blocked, and else is under way; one whose instruction is held and has not issued in time ends STALLED. That a step written during another changes SCORE alone is the model's choice (log 51). The Ivory trigger fires while it is idle, and two ticks later latches; ARM makes it idle again. When the six cycles of a stop and the time of a step are over is an input of the model (log 13). -/
def Obligations.DebugControl : Prop :=
  ∀ (s : State) (c : ClusterKey) (scope : BitVec 2) (score : Fin 8),
    let v := (s.clu c).verm
    let k := s.coreAt c score.val
    let y := (s.core k).bank (s.core k).ab
    let valid : Bool := (vget (s.clu c).skid ⟨0, 0⟩ score.val).w1.getLsbD 2
    let blocked (x : Bank) : Bool := x.wait.elim false WaitKind.blocks
    let fired (src : Fin 5) : State := { s with ivory := { s.ivory with st := 1, src := src, iss := 0, armedAt := s.tick } }
    (∀ d ∈ scopeClusters c scope.toNat, (∃ t, exec (.stop c scope) s = .next t ∧ t.mem = s.mem ∧ (t.clu d).verm.frz = true) ∧
      (∃ t, exec (.externalDebugPin c scope) s = .next t ∧ t.mem = s.mem ∧ (t.clu d).verm.frz = true)) ∧
    (v.frz = false → exec (.run c) s = .next s) ∧
    (v.frz = true → ∃ t, exec (.run c) s = .next t ∧ t.mem = s.mem ∧ (t.clu c).verm.frz = false) ∧
    ((v.frz = false ∨ valid = false) → exec (.step c score) s = .next s) ∧
    (v.frz = true → valid = true → v.stepping ≠ none → ∃ t, exec (.step c score) s = .next t ∧ t.mem = s.mem ∧ t.cores = s.cores ∧ t.clu c = { s.clu c with verm := { v with score := score } }) ∧
    (v.frz = false → s.writeCluster c 0 (vctlWord scope score 1) = s ∧ s.writeCluster c 0 (vctlWord scope score 2) = s) ∧
    (v.frz = true → valid = true → v.stepping = none →
      (blocked y = true → exec (.step c score) s = .next (s.setClu c { s.clu c with verm := { v with score := score, stepst := .blocked, stepping := none } })) ∧
      (blocked y = false → exec (.step c score) s = .next (s.setClu c { s.clu c with verm := { v with
        score := score, stepst := .none, grace := false, stepping := some (k, y.nIssued, y.ctx.tb.tstat) } }))) ∧
    (v.stepping = none → exec (.stepTimeout c) s = .next s) ∧
    (∀ j n t, v.stepping = some (j, n, t) →
      let z := (s.core j).bank (s.core j).ab
      (n < z.nIssued ∨ z.held = false ∨ blocked z = true → exec (.stepTimeout c) s = .next s) ∧
      (z.nIssued ≤ n → z.held = true → blocked z = false →
      exec (.stepTimeout c) s = .next (s.setClu c { s.clu c with verm := { v with stepst := .stalled, stepping := none } }))) ∧
    (s.ivory.st = 0 → exec .host s = .next (fired 4) ∧ (s.ivory.enables.getLsbD 3 = true → exec .ivoryPin s = .next (fired 3)) ∧
      (s.ivory.enables.getLsbD 3 = false → exec .ivoryPin s = .next s) ∧ exec .arm s = .next s ∧ exec .ivoryLatch s = .next s) ∧
    (s.ivory.st = 2 → exec .arm s = .next { s with ivory := { s.ivory with st := 0 } } ∧ exec .host s = .next s) ∧
    (s.ivory.st = 1 → exec .host s = .next s ∧ (s.ivory.armedAt.toNat + 2 ≤ s.tick.toNat → ∃ t, exec .ivoryLatch s = .next t ∧ t.mem = s.mem ∧
      t.ivory.st = 2 ∧ t.ivory.tick = s.ivory.armedAt + 2 ∧ t.msix.getLsbD 4 = true))

/-- R9, R171, R327, R332, R333, R338, R393, R404, R413 to R415: a tick adds 1 to the counter. TINV begins an invalidation unless one is under way, and its end removes the leaves that it names. An invalidation ends once the walks that began before it are over. A station begins a walk where it holds no leaf and has a place for it; a walk that succeeds keeps its leaf. The crossbar grants an output's earliest requesting inputs and puts them last. A write of the host to HBM stores its bytes, an atomic updates its word and returns the old one, a read returns bytes of it or a register. A scrub that meets an uncorrectable error poisons the sector, one that meets a corrected error counts it against its channel. A test of a block is noted once, and its result is recorded with MSI-X vector 3. An output's order before its first grant is the model's choice (log 31), and a walk reads memory as it stands (log 11). That an access past the end of HBM changes nothing is the model's reading (log 39), and so is 0 for a register at an offset that is no multiple of 8 (log 65). -/
def Obligations.DieAndHost : Prop :=
  ∀ (s : State) (d out pa va : Nat) (reply : Bool) (inputs : List Nat) (v x y : Word) (sp : BitVec 20) (bs : List Byte) (b : Block) (e : ErrKind) (r : TestResult) (t0 : Test),
    let die := s.die d
    let order := die.order out reply
    let won := (order.filter fun i => inputs.contains i).take (grantWidth out)
    let old := leNat (getBytes s.mem pa 8)
    let atomic (a : HostAccess) (new : Nat) : Prop := pa % 8 = 0 → pa + 8 ≤ hbmEnd → poisoned s.poison pa 8 = false →
      exec (.hostAccess a) s = .next { s.store [(pa, 8)] (leBytes 8 (new % 2 ^ 64)) with hostData := leBytes 8 old }
    (∃ t, exec .ceruleanTick s = .next t ∧ t.tick = s.tick + 1) ∧
    (die.tinv = none → exec (.tinv d v) s = .next (s.setDie d { die with tinv := some v, walks := die.walks.map fun w => { w with early := true } })) ∧ (die.tinv ≠ none → exec (.tinv d v) s = .next s) ∧
    (die.tinv = none → exec (.tstatDone d) s = .next s) ∧
    (die.tinv = some v → (∃ w ∈ die.walks, w.early = true) → exec (.tstatDone d) s = .next s) ∧
    (die.tinv = some v → (∀ w ∈ die.walks, w.early = false) → ∃ t, exec (.tstatDone d) s = .next t ∧ t.mem = s.mem ∧ (t.die d).tinv = none ∧
      (∀ q, q ∈ (t.die d).tlb ↔ q ∈ die.tlb ∧ tinvHits v q = false) ∧ ∀ q, q ∈ (t.die d).spaces ↔ q ∈ die.spaces ∧ tinvSpace v q.1 = false) ∧
    ((∀ w ∈ die.walks, w.serves sp va = false) → (∀ z ∈ die.tlb, z.station = stationOf va → z.spid = sp → z.page ≠ va / 2 ^ z.bits * 2 ^ z.bits) →
      exec (.translationWalk d sp va) s = .next (if walkSlots ≤ (die.walks.filter fun w => w.station == stationOf va).length then s
        else s.setDie d { die with walks := die.walks ++ [⟨stationOf va, sp, va, false⟩] })) ∧
    (∀ root q, (∃ w ∈ die.walks, w.serves sp va = true) → s.spaceRoot d sp va = .ok root → s.walkFrom d sp va walkLevels root = .ok q →
      s.fitted (q.pa + va % 2 ^ q.bits) = true →
      ∃ t, exec (.translationWalk d sp va) s = .next t ∧ t.mem = s.mem ∧ q ∈ (t.die d).tlb ∧ ∀ w ∈ (t.die d).walks, w.serves sp va = false) ∧
    (out < 100 → won ≠ [] → exec (.crossbarMessage d out reply inputs) s = .next (s.setDie d { die with
      grants := (die.grants.filter fun g => !(g.out == out && g.reply == reply)) ++ [⟨out, reply, (order.filter fun i => !won.contains i) ++ won⟩] })) ∧
    (won = [] → exec (.crossbarMessage d out reply inputs) s = .next s) ∧
    (hbmEnd < pa + va → exec (.hostAccess (.read pa va)) s = .next s) ∧
    (pa + va ≤ hbmEnd → poisoned s.poison pa va = false → exec (.hostAccess (.read pa va)) s = .next { s with hostData := getBytes s.mem pa va }) ∧
    exec (.hostAccess (.register pa)) s = .next { s with hostData := leBytes 8 (s.readRegister pa).toNat } ∧
    (pa % 8 ≠ 0 → s.readRegister pa = 0) ∧
    (pa + bs.length ≤ hbmEnd → exec (.hostAccess (.write pa bs)) s = .next (s.store [(pa, bs.length)] bs)) ∧
    (hbmEnd < pa + bs.length → exec (.hostAccess (.write pa bs)) s = .next s) ∧
    atomic (.fetchAdd pa true x) (old + x.toNat) ∧ atomic (.swap pa true x) x.toNat ∧ atomic (.cas pa true y x) (if old = y.toNat then x.toNat else old) ∧
    (pa < hbmEnd → ∃ t, exec (.patrolScrub pa .uncorrectable) s = .next t ∧ t.mem = s.mem ∧ ∀ i, i < 4 → pa / 32 * 32 + 8 * i ∈ t.poison) ∧
    (pa < hbmEnd → exec (.patrolScrub pa .corrected) s = .next { s with
      corrected := insertKey (channelOf pa) (lookupD 0 s.corrected (channelOf pa) + 1) s.corrected }) ∧
    ((∀ z ∈ s.test.running, z.block ≠ b) → ∃ t, exec (.selfTest b e) s = .next t ∧ t.mem = s.mem ∧
      t.test.running = s.test.running ++ [⟨b, e, s.tick, s.spareFree b⟩]) ∧
    ((∃ z ∈ s.test.running, z.block = b) → exec (.selfTest b e) s = .next s) ∧
    (s.test.running.find? (fun z => z.block == b) = some t0 → s.resultOk t0 r = true →
      ∃ t, exec (.selfTestResult b r) s = .next t ∧ t.test.running = s.test.running.filter (fun z => z.block != b) ∧ t.msix.getLsbD 3 = true)

/-- R387, R397, R407, R416 to R419, R449: a write of a register of BAR0 sets the bits that its entry makes writable: PENV and PFSRV among them; an offset that is no multiple of 8 names none. JCFG with EN = 1 sets the journal's sequence to 1 and enables it where LOGN allows. PCTL is ignored while a launch is unreported. An image that verifies runs, and its firmware sets RDY once no block is under test; a mailbox command is answered where it has been given; keys and quotes are taken only by the firmware, the owner digest once. A power window records its averages and moves the clock by 100 MHz between 1,600 and 2,700; 110 °C trips. How a signature is verified is `mlDsaVerify`, ML-DSA-44 written out (log 7), and both cases are stated; the layout of a command's argument is log 56. That a boot takes two steps and that LoadFirmware is rejected once firmware runs are the model's choices (log 38); that an offset which is no multiple of 8 names no register is its reading (log 17). -/
def Obligations.PackageControl : Prop :=
  ∀ (s : State) (v : Word) (off : Nat) (f : Firmware) (fit : List Nat) (key sig owner nonce digest : List Byte) (avg : BitVec 12) (tj tin : BitVec 8),
    let ok := f.keyFused = true ∧ mlDsaVerify f.key (sha3 f.bytes) f.sig = true ∧ f.counter ≤ f.svn
    let told (st : Nat) : State := { s with boot := { s.boot with status := BitVec.ofNat 8 st } }
    let image := f.bytes ++ f.key ++ f.sig
    let given := key ++ sig ++ owner
    (off % 8 ≠ 0 → exec (.registerWrite off v) s = .next s) ∧
    exec (.registerWrite 0x20 v) s = .next { s with ctl := { s.ctl with pfsrv := v } } ∧
    exec (.registerWrite 0x28 v) s = .next { s with ctl := { s.ctl with env := BitVec.ofNat 12 (max 2200 (min 3200 (bits v 0 12))) } } ∧
    exec (.registerWrite 0x30000 v) s = .next { s with jrn := { s.jrn with jbase := v &&& 0x000FFFFFFFFFF000 } } ∧
    (let w := v &&& 0x800000000000001F
     let on := w.getLsbD 63 = true ∧ 8 ≤ bits w 0 5 ∧ bits w 0 5 ≤ 20
     (on → exec (.jcfgWrite v) s = .next { s with jrn := { s.jrn with jcfg := w, jseq := 1 } }) ∧
     (¬on → exec (.jcfgWrite v) s = .next { s with jrn := { s.jrn with jcfg := setBits w 63 1 0, jseq := if w.getLsbD 63 then 1 else s.jrn.jseq } })) ∧
    (s.unreported = true → exec (.pctlWrite v) s = .next s) ∧
    (s.unreported = false → ∃ t, exec (.pctlWrite v) s = .next t ∧ t.mem = s.mem ∧ t.ctl.slate = v.getLsbD 0) ∧
    (s.boot.stage = 0 → ∃ t, exec (.boot f fit) s = .next t ∧ t.mem = s.mem ∧ t.ctl.rdy = s.ctl.rdy ∧
      (ok → t.boot.stage = 2 ∧ t.boot.meas[0] = sha3 f.bytes) ∧ (¬ok → t.boot.stage = 1)) ∧
    (s.boot.stage = 2 → s.test.running ≠ [] → exec (.boot f fit) s = .next s) ∧
    (s.boot.stage = 2 → s.test.running = [] → ∃ t, exec (.boot f fit) s = .next t ∧ t.mem = s.mem ∧ t.boot.stage = 3 ∧ t.ctl.rdy = true ∧ t.ctl.dup = 15) ∧
    (s.boot.stage ≠ 0 → s.boot.stage ≠ 2 → exec (.boot f fit) s = .next s) ∧
    (s.boot.asked 1 image = false → exec (.loadFirmware f fit) s = .next s) ∧
    (s.boot.asked 1 image = true → (s.boot.stage = 0 ∨ s.boot.stage = 1) → ∃ t, exec (.loadFirmware f fit) s = .next t ∧ t.mem = s.mem ∧
      (ok → t.boot.stage = 2 ∧ t.boot.status = 1) ∧ (¬ok → t.boot.stage = 1 ∧ t.boot.status = 2)) ∧
    (s.boot.asked 1 image = true → s.boot.stage ≠ 0 → s.boot.stage ≠ 1 → exec (.loadFirmware f fit) s = .next (told 2)) ∧
    (s.boot.asked 2 given = true → s.boot.stage = 3 → s.boot.ownerDigest = some (sha3 owner) → ∃ t, exec (.installImageKey key sig owner) s = .next t ∧ t.mem = s.mem ∧
      (mlDsaVerify owner (sha3 key) sig = true → t.boot.imageKey = some key ∧ t.boot.status = 1 ∧ t.boot.meas[2] = sha3 (s.boot.meas[2] ++ sha3 key)) ∧
      (mlDsaVerify owner (sha3 key) sig = false → t = told 2)) ∧
    (s.boot.asked 2 given = false → exec (.installImageKey key sig owner) s = .next s) ∧ (s.boot.asked 3 nonce = false → exec (.attest nonce) s = .next s) ∧
    (s.boot.asked 4 digest = false → exec (.setOwnerKeyDigest digest) s = .next s) ∧
    (s.boot.stage ≠ 3 → (s.boot.asked 2 given = true → exec (.installImageKey key sig owner) s = .next (told 2)) ∧
      (s.boot.asked 3 nonce = true → exec (.attest nonce) s = .next (told 2)) ∧ (s.boot.asked 4 digest = true → exec (.setOwnerKeyDigest digest) s = .next (told 2))) ∧
    (s.boot.asked 3 nonce = true → s.boot.stage = 3 → nonce.length = 32 → ∃ t, exec (.attest nonce) s = .next t ∧ t.mem = s.mem ∧ t.boot.len = 10240 ∧ t.boot.status = 1) ∧
    (s.boot.asked 4 digest = true → s.boot.stage = 3 → digest.length = 32 → s.boot.ownerDigest = none →
      exec (.setOwnerKeyDigest digest) s = .next (let t := told 1; { t with boot := { t.boot with ownerDigest := some digest } })) ∧
    (s.boot.asked 4 digest = true → s.boot.ownerDigest ≠ none → exec (.setOwnerKeyDigest digest) s = .next (told 2)) ∧
    (let hot := s.ctl.env.toNat < avg.toNat ∨ 100 ≤ tj.toNat
     let clock := if hot then max 1600 (s.ctl.clock - 100) else min 2700 (s.ctl.clock + 100)
     exec (.powerWindow avg tj tin) s = .next { s with ctl := { s.ctl with
       avg := avg, tj := tj, tin := tin, clock := clock, thr := decide (clock < 2700), tripped := s.ctl.tripped || decide (110 ≤ tj.toNat) } }) ∧
    exec .thermalTrip s = .next { s with ctl := { s.ctl with tj := 110, tripped := true } }

/-! The machine as a whole. -/

/-- R206, R207, R92: the frame of the instructions that deliver a short-latency scalar or vector result. From every state in which they go on, whatever is pending, and whether they complete, wait or trap: memory keeps every byte, every other bank keeps everything, and of the strand's own registers only the destination, the last results, the flags of fcsr and, in a trap, the trap block change. -/
def Obligations.ResultFrame : Prop :=
  ∀ (s t : State) (i : Instr) (k : CoreKey) (b : Fin 2), s.issuing = some (k, b) → exec i s = .next t →
    let c := (s.bank k b).ctx
    let e := (t.bank k b).ctx
    let rest (q r : Ctx) : Prop := { r with w := q.w, o := q.o, l := q.l, fcsr := q.fcsr, v := q.v, vl := q.vl, tb := q.tb } = q
    let common : Prop := t.mem = s.mem ∧ (∀ j y, (j, y) ≠ (k, b) → t.bank j y = s.bank j y) ∧ rest c e ∧ e.fcsr = c.fcsr ||| (e.fcsr &&& 0x3F)
    (∀ d, scalarResult i = some d → common ∧ e.v = c.v ∧ e.vl = c.vl ∧ ∀ r, r < 40 → r ≠ d.val → e.s r = c.s r) ∧
    (∀ d, vectorResult i = some d → common ∧ e.w = c.w ∧ e.o = c.o ∧ e.l = c.l ∧ ∀ r, r < 16 → r ≠ d.val → e.vec r = c.vec r)

/-- R207, R208: with one pending instruction, an ADD waits once the window is over. In the window it raises LA_VIOLATION where it reads the pending destination, else where it writes it, else where it writes a register that the pending instruction reads, else where it pushes the last results while the pending instruction reads one of them, with the specifier in tval and the case in tinfo. Else it executes, or waits where the pending instruction is an acquire, behind which the model holds every instruction (log 4). -/
def Obligations.LookaheadContract : Prop :=
  ∀ (s : State) (k : CoreKey) (b : Fin 2) (p : Pending) (d : DReg) (a c : SReg) (l : Level) (r : Nat), s.issuing = some (k, b) →
    let x := s.bank k b
    let i : Instr := .add d a c .n64 l
    let dest := if l = .last then 0 else d.val
    let offends (n : Nat) : Prop := exec i s = .next (s.trapNow k b ⟨.laViolation, BitVec.ofNat 64 r, BitVec.ofNat 8 n⟩)
    x.pend = [p] → x.replay = none →
    (p.la < x.nIssued + 1 - p.seq → exec i s = .next (s.holdIssue k b)) ∧
    (x.nIssued + 1 - p.seq ≤ p.la → 0 < r →
      (p.dests = [.s r] → (a.val = r ∨ c.val = r) → offends 1) ∧
      (p.dests = [.s r] → a.val ≠ r → c.val ≠ r → dest = r → offends 2) ∧
      (p.dests = [] → p.reads = [.s r] → dest = r → offends 3) ∧
      (p.dests = [] → p.reads = [.s r] → dest ≠ r → 40 ≤ r → l ≠ .main → offends 4) ∧
      (p.dests = [.s r] → p.reads = [] → a.val ≠ r → c.val ≠ r → dest ≠ r →
        exec i s = .next (if p.acq then s.holdIssue k b else s.ran k b (fun q => q.deliver d l (q.s a.val + q.s c.val)) none)))

/-- R56, R67, R111, R203, R323, R416: the step of a package that has not tripped and whose ROM is not in recovery. Where the agenda is empty, nothing is due and the strand that issues is not held, the word at its pc is that of memory where the instruction cache holds no other, and the step is the meaning of the instruction that the word decodes to, ILLEGAL where it decodes to none; what a step adds is that a stop's six cycles are over before it, that a strand which it leaves BLOCKED has its instruction issued and waiting, and that single steps which it completes end after it. An instruction that waits so is taken up again without a fetch. Where the agenda names a step of the package, that step is taken; where it names a core whose swap is under way, the swap is made. A ROM in recovery answers the boot block alone. The order of the agents is the model's choice (log 10), so is the fetch of memory as it stands (log 11), that a stop's six cycles are over before the step (log 13), and that strands issue before firmware runs (log 38). -/
def Obligations.StepRunsDecoded : Prop :=
  ∀ (s s1 : State) (k : CoreKey) (b : Fin 2) (loc n : Nat) (ps : List (Nat × Nat)) (w : BitVec 32) (i : Instr) (l : List Turn),
    s.ctl.tripped = false →
    let s0 := s.endGrace
    let pc := (s0.bank k b).curPc
    (s.boot.stage ≠ 1 → s.agenda = [] → s0.due = none → s0.issuing = some (k, b) → (s0.bank k b).held = false →
      ((s0.bank k b).waitingWord = none → s0.fetchWord k b = .ok (w, s1) →
        (decodeNat w.toNat = .ok i → step s = settleOutcome (notedOutcome k b pc w (exec i s1)) ∧
          ∀ t, exec i s1 = .next t → step s = .next (t.noteWord k b pc w).closeSteps) ∧
        ((∀ j, decodeNat w.toNat ≠ .ok j) → step s = settleOutcome (notedOutcome k b pc w (exec (.illegal w) s1)))) ∧
      ((s0.bank k b).waitingWord = some w → decodeNat w.toNat = .ok i → step s = settleOutcome (exec i s0))) ∧
    (s0.fetchAt k b = .ok ((loc, n) :: ps) → wordOfBytes (s0.load ((loc, n) :: ps)) = some w → lookupD w (s0.clu (clusterOf k)).icache loc = w →
      s0.fetchWord k b = .ok (w, s0.mapClu (clusterOf k) fun x => { x with icache := insertKey loc w x.icache })) ∧
    (s.boot.stage ≠ 1 ∨ bootBlockStep i = true → s.agenda = .act i :: l → step s = settleOutcome (exec i { s with agenda := l })) ∧
    (s.boot.stage ≠ 1 → s.agenda = .core k :: l → (s.core k).swp = true → step s = settleOutcome (.next (({ s with agenda := l } : State).swapMove k))) ∧
    (s.boot.stage = 1 → bootBlockStep i = false → s.agenda = .act i :: l → step s = .fault .romHalted)

/-- R57, R102 to R110, R120, R127, R128, R153, R156, R166, R174, R241: words of the spec's examples decode to the instructions that they stand for. -/
def Obligations.DecodeWords : Prop :=
  decode 0x10187FE0 = .addi 3 3 (-8) .both ∧ decode 0x1C30213C = .leaX8 6 1 2 .both ∧ decode 0x1E00A330 = .chk 5 6 ∧
  decode 0x4C000114 = .trap 5 ∧ decode 0x4E10000C = .rds 2 3 .both ∧ decode 0x50012080 = .wrs 9 0x20 ∧
  decode 0x2020A342 = .divS32 4 5 6 2 ∧ decode 0x42000064 = .call 100 ∧ decode 0x44F80000 = .ret ∧
  decode 0x38189FF4 = .bltn 3 4 (-12) ∧ decode 0xCE384140 = .rqpush 7 4 5 ∧ decode 0xD0207140 = .rqpop 4 7 5 ∧
  decode 0x84194000 = .mand 3 1 2 ∧ decode 0x18480918 = .li 9 0x246 .both ∧ decode 0x52107002 = .ldD 2 1 0 2 ∧
  decode 0x6E000030 = .fence .rel .pk ∧ decode 0xB8000000 = .eaclr 0

/-- R57, R66, R67: decode and encode agree, in both directions: a well-formed instruction of one word is what its word decodes to, and the word that decodes to an instruction is that instruction's word, and the instruction is well formed. -/
def Obligations.EncodeDecodeRoundTrip : Prop :=
  (∀ (i : Instr) (w : Nat), i.wf = true → (∀ v, i ≠ .illegal v) → encode i = some w → w < 2 ^ 32 ∧ decodeNat w = .ok i ∧ decode (BitVec.ofNat 32 w) = i) ∧
  (∀ (i : Instr) (w : Nat), w < 2 ^ 32 → decodeNat w = .ok i → encode i = some w ∧ i.wf = true)

/-- Every step keeps the invariant: the canonical form of memory, and the limits of PENV, PTOK, FRTO and FSHARE (R364, R387, R424, R438). -/
def Obligations.StepKeepsInvariant : Prop :=
  ∀ (s t : State), s.Inv → step s = .next t → t.Inv

/-- R387, R364, R82, R93, R377: the invariant holds at reset, where every cluster's queues and every bank are empty, Slate mode is off, and no strand issues. The tick, the empty banks' registers, and the agenda are at values that the model chose (log 2, log 10), and so is memory, which lists nothing (log 3). -/
def Obligations.ResetState : Prop :=
  let s := State.reset
  s.Inv ∧ s.mem = [] ∧ s.tick = 0 ∧ s.ctl.slate = false ∧ s.ctl.rdy = false ∧ s.issuing = none ∧ s.agenda = [] ∧
  (∀ k b, s.bank k b = Bank.empty) ∧ (∀ c, (s.clu c).cmds = [])
end

