-- ==== Sys2Proof/Laws/State.lean ====
section
/-! SUPPORT. The fields of State under each named update, and the tables read after a write. -/

namespace Sys2Proof.Machine

open Sys2Proof

/-! State.setCore. -/

@[simp] theorem state_setCore_mem (s : State) (k : CoreKey) (c : Core) : (s.setCore k c).mem = s.mem := rfl
@[simp] theorem state_setCore_poison (s : State) (k : CoreKey) (c : Core) : (s.setCore k c).poison = s.poison := rfl
@[simp] theorem state_setCore_clusters (s : State) (k : CoreKey) (c : Core) : (s.setCore k c).clusters = s.clusters := rfl
@[simp] theorem state_setCore_dies (s : State) (k : CoreKey) (c : Core) : (s.setCore k c).dies = s.dies := rfl
@[simp] theorem state_setCore_ctl (s : State) (k : CoreKey) (c : Core) : (s.setCore k c).ctl = s.ctl := rfl
@[simp] theorem state_setCore_tick (s : State) (k : CoreKey) (c : Core) : (s.setCore k c).tick = s.tick := rfl
@[simp] theorem state_setCore_disp (s : State) (k : CoreKey) (c : Core) : (s.setCore k c).disp = s.disp := rfl
@[simp] theorem state_setCore_res (s : State) (k : CoreKey) (c : Core) : (s.setCore k c).res = s.res := rfl
@[simp] theorem state_setCore_probe (s : State) (k : CoreKey) (c : Core) : (s.setCore k c).probe = s.probe := rfl
@[simp] theorem state_setCore_jrn (s : State) (k : CoreKey) (c : Core) : (s.setCore k c).jrn = s.jrn := rfl
@[simp] theorem state_setCore_ivory (s : State) (k : CoreKey) (c : Core) : (s.setCore k c).ivory = s.ivory := rfl
@[simp] theorem state_setCore_test (s : State) (k : CoreKey) (c : Core) : (s.setCore k c).test = s.test := rfl
@[simp] theorem state_setCore_links (s : State) (k : CoreKey) (c : Core) : (s.setCore k c).links = s.links := rfl
@[simp] theorem state_setCore_cxl (s : State) (k : CoreKey) (c : Core) : (s.setCore k c).cxl = s.cxl := rfl
@[simp] theorem state_setCore_boot (s : State) (k : CoreKey) (c : Core) : (s.setCore k c).boot = s.boot := rfl
@[simp] theorem state_setCore_fab (s : State) (k : CoreKey) (c : Core) : (s.setCore k c).fab = s.fab := rfl
@[simp] theorem state_setCore_msix (s : State) (k : CoreKey) (c : Core) : (s.setCore k c).msix = s.msix := rfl
@[simp] theorem state_setCore_folds (s : State) (k : CoreKey) (c : Core) : (s.setCore k c).folds = s.folds := rfl
@[simp] theorem state_setCore_badTags (s : State) (k : CoreKey) (c : Core) : (s.setCore k c).badTags = s.badTags := rfl
@[simp] theorem state_setCore_msixTable (s : State) (k : CoreKey) (c : Core) : (s.setCore k c).msixTable = s.msixTable := rfl
@[simp] theorem state_setCore_hostData (s : State) (k : CoreKey) (c : Core) : (s.setCore k c).hostData = s.hostData := rfl
@[simp] theorem state_setCore_corrected (s : State) (k : CoreKey) (c : Core) : (s.setCore k c).corrected = s.corrected := rfl
@[simp] theorem state_setCore_foldNo (s : State) (k : CoreKey) (c : Core) : (s.setCore k c).foldNo = s.foldNo := rfl
@[simp] theorem state_setCore_foldWaits (s : State) (k : CoreKey) (c : Core) : (s.setCore k c).foldWaits = s.foldWaits := rfl
@[simp] theorem state_setCore_owed (s : State) (k : CoreKey) (c : Core) : (s.setCore k c).owed = s.owed := rfl
@[simp] theorem state_setCore_deliveries (s : State) (k : CoreKey) (c : Core) : (s.setCore k c).deliveries = s.deliveries := rfl
@[simp] theorem state_setCore_nextCmd (s : State) (k : CoreKey) (c : Core) : (s.setCore k c).nextCmd = s.nextCmd := rfl
@[simp] theorem state_setCore_agenda (s : State) (k : CoreKey) (c : Core) : (s.setCore k c).agenda = s.agenda := rfl
@[simp] theorem state_setCore_cur (s : State) (k : CoreKey) (c : Core) : (s.setCore k c).cur = s.cur := rfl
@[simp] theorem state_setCore_fresh (s : State) (k : CoreKey) (c : Core) : (s.setCore k c).fresh = s.fresh := rfl

/-! State.setClu. -/

@[simp] theorem state_setClu_mem (s : State) (c : ClusterKey) (x : Cluster) : (s.setClu c x).mem = s.mem := rfl
@[simp] theorem state_setClu_poison (s : State) (c : ClusterKey) (x : Cluster) : (s.setClu c x).poison = s.poison := rfl
@[simp] theorem state_setClu_cores (s : State) (c : ClusterKey) (x : Cluster) : (s.setClu c x).cores = s.cores := rfl
@[simp] theorem state_setClu_dies (s : State) (c : ClusterKey) (x : Cluster) : (s.setClu c x).dies = s.dies := rfl
@[simp] theorem state_setClu_ctl (s : State) (c : ClusterKey) (x : Cluster) : (s.setClu c x).ctl = s.ctl := rfl
@[simp] theorem state_setClu_tick (s : State) (c : ClusterKey) (x : Cluster) : (s.setClu c x).tick = s.tick := rfl
@[simp] theorem state_setClu_disp (s : State) (c : ClusterKey) (x : Cluster) : (s.setClu c x).disp = s.disp := rfl
@[simp] theorem state_setClu_res (s : State) (c : ClusterKey) (x : Cluster) : (s.setClu c x).res = s.res := rfl
@[simp] theorem state_setClu_probe (s : State) (c : ClusterKey) (x : Cluster) : (s.setClu c x).probe = s.probe := rfl
@[simp] theorem state_setClu_jrn (s : State) (c : ClusterKey) (x : Cluster) : (s.setClu c x).jrn = s.jrn := rfl
@[simp] theorem state_setClu_ivory (s : State) (c : ClusterKey) (x : Cluster) : (s.setClu c x).ivory = s.ivory := rfl
@[simp] theorem state_setClu_test (s : State) (c : ClusterKey) (x : Cluster) : (s.setClu c x).test = s.test := rfl
@[simp] theorem state_setClu_links (s : State) (c : ClusterKey) (x : Cluster) : (s.setClu c x).links = s.links := rfl
@[simp] theorem state_setClu_cxl (s : State) (c : ClusterKey) (x : Cluster) : (s.setClu c x).cxl = s.cxl := rfl
@[simp] theorem state_setClu_boot (s : State) (c : ClusterKey) (x : Cluster) : (s.setClu c x).boot = s.boot := rfl
@[simp] theorem state_setClu_fab (s : State) (c : ClusterKey) (x : Cluster) : (s.setClu c x).fab = s.fab := rfl
@[simp] theorem state_setClu_msix (s : State) (c : ClusterKey) (x : Cluster) : (s.setClu c x).msix = s.msix := rfl
@[simp] theorem state_setClu_folds (s : State) (c : ClusterKey) (x : Cluster) : (s.setClu c x).folds = s.folds := rfl
@[simp] theorem state_setClu_badTags (s : State) (c : ClusterKey) (x : Cluster) : (s.setClu c x).badTags = s.badTags := rfl
@[simp] theorem state_setClu_msixTable (s : State) (c : ClusterKey) (x : Cluster) : (s.setClu c x).msixTable = s.msixTable := rfl
@[simp] theorem state_setClu_hostData (s : State) (c : ClusterKey) (x : Cluster) : (s.setClu c x).hostData = s.hostData := rfl
@[simp] theorem state_setClu_corrected (s : State) (c : ClusterKey) (x : Cluster) : (s.setClu c x).corrected = s.corrected := rfl
@[simp] theorem state_setClu_foldNo (s : State) (c : ClusterKey) (x : Cluster) : (s.setClu c x).foldNo = s.foldNo := rfl
@[simp] theorem state_setClu_foldWaits (s : State) (c : ClusterKey) (x : Cluster) : (s.setClu c x).foldWaits = s.foldWaits := rfl
@[simp] theorem state_setClu_owed (s : State) (c : ClusterKey) (x : Cluster) : (s.setClu c x).owed = s.owed := rfl
@[simp] theorem state_setClu_deliveries (s : State) (c : ClusterKey) (x : Cluster) : (s.setClu c x).deliveries = s.deliveries := rfl
@[simp] theorem state_setClu_nextCmd (s : State) (c : ClusterKey) (x : Cluster) : (s.setClu c x).nextCmd = s.nextCmd := rfl
@[simp] theorem state_setClu_agenda (s : State) (c : ClusterKey) (x : Cluster) : (s.setClu c x).agenda = s.agenda := rfl
@[simp] theorem state_setClu_cur (s : State) (c : ClusterKey) (x : Cluster) : (s.setClu c x).cur = s.cur := rfl
@[simp] theorem state_setClu_fresh (s : State) (c : ClusterKey) (x : Cluster) : (s.setClu c x).fresh = s.fresh := rfl

/-! State.setDie. -/

@[simp] theorem state_setDie_mem (s : State) (d : Nat) (x : Die) : (s.setDie d x).mem = s.mem := rfl
@[simp] theorem state_setDie_poison (s : State) (d : Nat) (x : Die) : (s.setDie d x).poison = s.poison := rfl
@[simp] theorem state_setDie_cores (s : State) (d : Nat) (x : Die) : (s.setDie d x).cores = s.cores := rfl
@[simp] theorem state_setDie_clusters (s : State) (d : Nat) (x : Die) : (s.setDie d x).clusters = s.clusters := rfl
@[simp] theorem state_setDie_ctl (s : State) (d : Nat) (x : Die) : (s.setDie d x).ctl = s.ctl := rfl
@[simp] theorem state_setDie_tick (s : State) (d : Nat) (x : Die) : (s.setDie d x).tick = s.tick := rfl
@[simp] theorem state_setDie_disp (s : State) (d : Nat) (x : Die) : (s.setDie d x).disp = s.disp := rfl
@[simp] theorem state_setDie_res (s : State) (d : Nat) (x : Die) : (s.setDie d x).res = s.res := rfl
@[simp] theorem state_setDie_probe (s : State) (d : Nat) (x : Die) : (s.setDie d x).probe = s.probe := rfl
@[simp] theorem state_setDie_jrn (s : State) (d : Nat) (x : Die) : (s.setDie d x).jrn = s.jrn := rfl
@[simp] theorem state_setDie_ivory (s : State) (d : Nat) (x : Die) : (s.setDie d x).ivory = s.ivory := rfl
@[simp] theorem state_setDie_test (s : State) (d : Nat) (x : Die) : (s.setDie d x).test = s.test := rfl
@[simp] theorem state_setDie_links (s : State) (d : Nat) (x : Die) : (s.setDie d x).links = s.links := rfl
@[simp] theorem state_setDie_cxl (s : State) (d : Nat) (x : Die) : (s.setDie d x).cxl = s.cxl := rfl
@[simp] theorem state_setDie_boot (s : State) (d : Nat) (x : Die) : (s.setDie d x).boot = s.boot := rfl
@[simp] theorem state_setDie_fab (s : State) (d : Nat) (x : Die) : (s.setDie d x).fab = s.fab := rfl
@[simp] theorem state_setDie_msix (s : State) (d : Nat) (x : Die) : (s.setDie d x).msix = s.msix := rfl
@[simp] theorem state_setDie_folds (s : State) (d : Nat) (x : Die) : (s.setDie d x).folds = s.folds := rfl
@[simp] theorem state_setDie_badTags (s : State) (d : Nat) (x : Die) : (s.setDie d x).badTags = s.badTags := rfl
@[simp] theorem state_setDie_msixTable (s : State) (d : Nat) (x : Die) : (s.setDie d x).msixTable = s.msixTable := rfl
@[simp] theorem state_setDie_hostData (s : State) (d : Nat) (x : Die) : (s.setDie d x).hostData = s.hostData := rfl
@[simp] theorem state_setDie_corrected (s : State) (d : Nat) (x : Die) : (s.setDie d x).corrected = s.corrected := rfl
@[simp] theorem state_setDie_foldNo (s : State) (d : Nat) (x : Die) : (s.setDie d x).foldNo = s.foldNo := rfl
@[simp] theorem state_setDie_foldWaits (s : State) (d : Nat) (x : Die) : (s.setDie d x).foldWaits = s.foldWaits := rfl
@[simp] theorem state_setDie_owed (s : State) (d : Nat) (x : Die) : (s.setDie d x).owed = s.owed := rfl
@[simp] theorem state_setDie_deliveries (s : State) (d : Nat) (x : Die) : (s.setDie d x).deliveries = s.deliveries := rfl
@[simp] theorem state_setDie_nextCmd (s : State) (d : Nat) (x : Die) : (s.setDie d x).nextCmd = s.nextCmd := rfl
@[simp] theorem state_setDie_agenda (s : State) (d : Nat) (x : Die) : (s.setDie d x).agenda = s.agenda := rfl
@[simp] theorem state_setDie_cur (s : State) (d : Nat) (x : Die) : (s.setDie d x).cur = s.cur := rfl
@[simp] theorem state_setDie_fresh (s : State) (d : Nat) (x : Die) : (s.setDie d x).fresh = s.fresh := rfl

/-! State.setBank. -/

@[simp] theorem state_setBank_mem (s : State) (k : CoreKey) (b : Fin 2) (x : Bank) : (s.setBank k b x).mem = s.mem := rfl
@[simp] theorem state_setBank_poison (s : State) (k : CoreKey) (b : Fin 2) (x : Bank) : (s.setBank k b x).poison = s.poison := rfl
@[simp] theorem state_setBank_clusters (s : State) (k : CoreKey) (b : Fin 2) (x : Bank) : (s.setBank k b x).clusters = s.clusters := rfl
@[simp] theorem state_setBank_dies (s : State) (k : CoreKey) (b : Fin 2) (x : Bank) : (s.setBank k b x).dies = s.dies := rfl
@[simp] theorem state_setBank_ctl (s : State) (k : CoreKey) (b : Fin 2) (x : Bank) : (s.setBank k b x).ctl = s.ctl := rfl
@[simp] theorem state_setBank_tick (s : State) (k : CoreKey) (b : Fin 2) (x : Bank) : (s.setBank k b x).tick = s.tick := rfl
@[simp] theorem state_setBank_disp (s : State) (k : CoreKey) (b : Fin 2) (x : Bank) : (s.setBank k b x).disp = s.disp := rfl
@[simp] theorem state_setBank_res (s : State) (k : CoreKey) (b : Fin 2) (x : Bank) : (s.setBank k b x).res = s.res := rfl
@[simp] theorem state_setBank_probe (s : State) (k : CoreKey) (b : Fin 2) (x : Bank) : (s.setBank k b x).probe = s.probe := rfl
@[simp] theorem state_setBank_jrn (s : State) (k : CoreKey) (b : Fin 2) (x : Bank) : (s.setBank k b x).jrn = s.jrn := rfl
@[simp] theorem state_setBank_ivory (s : State) (k : CoreKey) (b : Fin 2) (x : Bank) : (s.setBank k b x).ivory = s.ivory := rfl
@[simp] theorem state_setBank_test (s : State) (k : CoreKey) (b : Fin 2) (x : Bank) : (s.setBank k b x).test = s.test := rfl
@[simp] theorem state_setBank_links (s : State) (k : CoreKey) (b : Fin 2) (x : Bank) : (s.setBank k b x).links = s.links := rfl
@[simp] theorem state_setBank_cxl (s : State) (k : CoreKey) (b : Fin 2) (x : Bank) : (s.setBank k b x).cxl = s.cxl := rfl
@[simp] theorem state_setBank_boot (s : State) (k : CoreKey) (b : Fin 2) (x : Bank) : (s.setBank k b x).boot = s.boot := rfl
@[simp] theorem state_setBank_fab (s : State) (k : CoreKey) (b : Fin 2) (x : Bank) : (s.setBank k b x).fab = s.fab := rfl
@[simp] theorem state_setBank_msix (s : State) (k : CoreKey) (b : Fin 2) (x : Bank) : (s.setBank k b x).msix = s.msix := rfl
@[simp] theorem state_setBank_folds (s : State) (k : CoreKey) (b : Fin 2) (x : Bank) : (s.setBank k b x).folds = s.folds := rfl
@[simp] theorem state_setBank_badTags (s : State) (k : CoreKey) (b : Fin 2) (x : Bank) : (s.setBank k b x).badTags = s.badTags := rfl
@[simp] theorem state_setBank_msixTable (s : State) (k : CoreKey) (b : Fin 2) (x : Bank) : (s.setBank k b x).msixTable = s.msixTable := rfl
@[simp] theorem state_setBank_hostData (s : State) (k : CoreKey) (b : Fin 2) (x : Bank) : (s.setBank k b x).hostData = s.hostData := rfl
@[simp] theorem state_setBank_corrected (s : State) (k : CoreKey) (b : Fin 2) (x : Bank) : (s.setBank k b x).corrected = s.corrected := rfl
@[simp] theorem state_setBank_foldNo (s : State) (k : CoreKey) (b : Fin 2) (x : Bank) : (s.setBank k b x).foldNo = s.foldNo := rfl
@[simp] theorem state_setBank_foldWaits (s : State) (k : CoreKey) (b : Fin 2) (x : Bank) : (s.setBank k b x).foldWaits = s.foldWaits := rfl
@[simp] theorem state_setBank_owed (s : State) (k : CoreKey) (b : Fin 2) (x : Bank) : (s.setBank k b x).owed = s.owed := rfl
@[simp] theorem state_setBank_deliveries (s : State) (k : CoreKey) (b : Fin 2) (x : Bank) : (s.setBank k b x).deliveries = s.deliveries := rfl
@[simp] theorem state_setBank_nextCmd (s : State) (k : CoreKey) (b : Fin 2) (x : Bank) : (s.setBank k b x).nextCmd = s.nextCmd := rfl
@[simp] theorem state_setBank_agenda (s : State) (k : CoreKey) (b : Fin 2) (x : Bank) : (s.setBank k b x).agenda = s.agenda := rfl
@[simp] theorem state_setBank_cur (s : State) (k : CoreKey) (b : Fin 2) (x : Bank) : (s.setBank k b x).cur = s.cur := rfl
@[simp] theorem state_setBank_fresh (s : State) (k : CoreKey) (b : Fin 2) (x : Bank) : (s.setBank k b x).fresh = s.fresh := rfl

/-! Tables. -/

theorem lookupD_insertKey_same {α : Type} (d a : α) (n : Nat) (l : List (Nat × α)) :
    lookupD d (insertKey n a l) n = a := by
  induction l with
  | nil => simp [insertKey, lookupD]
  | cons h t ih =>
    obtain ⟨k, v⟩ := h
    unfold insertKey
    split
    · simp [lookupD]
    · split
      · simp [lookupD]
      · rename_i h1 h2
        have : k ≠ n := fun e => h2 e.symm
        simp [lookupD, this, ih]

theorem lookupD_insertKey_other {α : Type} (d a : α) (n m : Nat) (h : m ≠ n) (l : List (Nat × α)) :
    lookupD d (insertKey n a l) m = lookupD d l m := by
  have h' : ¬n = m := fun e => h e.symm
  induction l with
  | nil => simp [insertKey, lookupD, h']
  | cons x t ih =>
    obtain ⟨k, v⟩ := x
    unfold insertKey
    split
    · simp [lookupD, h']
    · split
      · rename_i e
        subst e
        simp [lookupD, h']
      · simp only [lookupD, ih]

@[simp] theorem core_setCore_same (s : State) (k : CoreKey) (c : Core) : (s.setCore k c).core k = c :=
  lookupD_insertKey_same _ _ _ _

theorem core_setCore_other (s : State) (k j : CoreKey) (c : Core) (h : j ≠ k) : (s.setCore k c).core j = s.core j :=
  lookupD_insertKey_other _ _ _ _ h _

@[simp] theorem clu_setClu_same (s : State) (c : ClusterKey) (x : Cluster) : (s.setClu c x).clu c = x :=
  lookupD_insertKey_same _ _ _ _

theorem clu_setClu_other (s : State) (c e : ClusterKey) (x : Cluster) (h : e ≠ c) : (s.setClu c x).clu e = s.clu e :=
  lookupD_insertKey_other _ _ _ _ h _

@[simp] theorem clu_setCore (s : State) (k : CoreKey) (c : Core) (e : ClusterKey) : (s.setCore k c).clu e = s.clu e := rfl
@[simp] theorem core_setClu (s : State) (c : ClusterKey) (x : Cluster) (k : CoreKey) : (s.setClu c x).core k = s.core k := rfl
@[simp] theorem clu_setBank (s : State) (k : CoreKey) (b : Fin 2) (x : Bank) (e : ClusterKey) : (s.setBank k b x).clu e = s.clu e := rfl
@[simp] theorem bank_setClu (s : State) (c : ClusterKey) (x : Cluster) (k : CoreKey) (b : Fin 2) : (s.setClu c x).bank k b = s.bank k b := rfl

@[simp] theorem core_bank_setBank_same (c : Core) (b : Fin 2) (x : Bank) : (c.setBank b x).bank b = x := by
  unfold Core.setBank Core.bank
  split <;> rfl

theorem core_bank_setBank_other (c : Core) (b e : Fin 2) (x : Bank) (h : e ≠ b) : (c.setBank b x).bank e = c.bank e := by
  unfold Core.setBank Core.bank
  have : b = 0 ∧ e = 1 ∨ b = 1 ∧ e = 0 := by omega
  rcases this with ⟨rfl, rfl⟩ | ⟨rfl, rfl⟩ <;> rfl

@[simp] theorem bank_setBank_same (s : State) (k : CoreKey) (b : Fin 2) (x : Bank) : (s.setBank k b x).bank k b = x := by
  simp [State.setBank, State.bank]

theorem bank_setBank_other (s : State) (k : CoreKey) (b e : Fin 2) (x : Bank) (h : e ≠ b) :
    (s.setBank k b x).bank k e = s.bank k e := by
  simp [State.setBank, State.bank, core_bank_setBank_other _ _ _ _ h]

theorem bank_setBank_core (s : State) (k j : CoreKey) (b e : Fin 2) (x : Bank) (h : j ≠ k) :
    (s.setBank k b x).bank j e = s.bank j e := by
  simp [State.setBank, State.bank, core_setCore_other _ _ _ _ h]

theorem insertKey_insertKey {α : Type} (n : Nat) (a b : α) (l : List (Nat × α)) :
    insertKey n b (insertKey n a l) = insertKey n b l := by
  induction l with
  | nil => simp [insertKey]
  | cons h t ih =>
    obtain ⟨k, v⟩ := h
    by_cases h1 : n < k
    · simp [insertKey, h1]
    · by_cases h2 : n = k
      · simp [insertKey, h2]
      · simp [insertKey, h1, h2, ih]

@[simp] theorem setBank_setBank (s : State) (k : CoreKey) (b : Fin 2) (x y : Bank) :
    (s.setBank k b x).setBank k b y = s.setBank k b y := by
  have h : ((s.core k).setBank b x).setBank b y = (s.core k).setBank b y := by
    unfold Core.setBank
    split <;> rfl
  simp only [State.setBank, core_setCore_same, h]
  simp [State.setCore, insertKey_insertKey]

end Sys2Proof.Machine
end

