-- ==== Sys2Proof/Laws/Access.lean ====
section
/-! SUPPORT. What serving an access can change: watchpoints, stops, the Ivory trigger and a station's cached leaves, never memory or a bank. -/

namespace Sys2Proof.Machine

open Sys2Proof

/-- s and t differ at most in the clusters, the dies and the Ivory block. -/
structure SameBut (s t : State) : Prop where
  mem : t.mem = s.mem
  poison : t.poison = s.poison
  cores : t.cores = s.cores
  ctl : t.ctl = s.ctl
  disp : t.disp = s.disp
  fab : t.fab = s.fab
  tick : t.tick = s.tick

theorem SameBut.rfl {s : State} : SameBut s s := ⟨by rfl, by rfl, by rfl, by rfl, by rfl, by rfl, by rfl⟩

theorem SameBut.trans {s t u : State} (a : SameBut s t) (b : SameBut t u) : SameBut s u :=
  ⟨b.mem.trans a.mem, b.poison.trans a.poison, b.cores.trans a.cores, b.ctl.trans a.ctl,
    b.disp.trans a.disp, b.fab.trans a.fab, b.tick.trans a.tick⟩

theorem sameBut_setClu (s : State) (c : ClusterKey) (x : Cluster) : SameBut s (s.setClu c x) :=
  ⟨by rfl, by rfl, by rfl, by rfl, by rfl, by rfl, by rfl⟩

theorem sameBut_keepLeaf (s : State) (d : Nat) (spid : BitVec 20) (va : Nat) : SameBut s (s.keepLeaf d spid va) := by
  unfold State.keepLeaf
  split
  · exact ⟨by rfl, by rfl, by rfl, by rfl, by rfl, by rfl, by rfl⟩
  · exact SameBut.rfl

theorem sameBut_ite {s t u : State} (c : Prop) [Decidable c] (ht : SameBut s t) (hu : SameBut s u) : SameBut s (if c then t else u) := by
  split <;> assumption

theorem sameBut_ivoryFire (s : State) (src : Fin 5) (iss : BitVec 24) : SameBut s (s.ivoryFire src iss) :=
  sameBut_ite _ ⟨by rfl, by rfl, by rfl, by rfl, by rfl, by rfl, by rfl⟩ SameBut.rfl

theorem sameBut_freeze (s : State) (c o : ClusterKey) (r : BitVec 2) (src : StopSrc) : SameBut s (s.freeze c o r src) := by
  unfold State.freeze
  simp only
  split
  · exact SameBut.rfl
  · exact sameBut_setClu _ _ _

theorem sameBut_foldl {α : Type} (f : State → α → State) (hf : ∀ s a, SameBut s (f s a)) (l : List α) (s : State) :
    SameBut s (l.foldl f s) := by
  induction l generalizing s with
  | nil => exact SameBut.rfl
  | cons a t ih => exact (hf s a).trans (ih (f s a))

theorem sameBut_vermilionStop (s : State) (c : ClusterKey) (scope : Nat) (src : StopSrc) :
    SameBut s (s.vermilionStop c scope src) := by
  exact sameBut_foldl _ (fun s d => sameBut_freeze s d c _ _) _ _

theorem sameBut_stopAndFire (u : State) (c : ClusterKey) (p q : Prop) [Decidable p] [Decidable q] (n : Nat) (src : StopSrc) :
    SameBut u (if q then (if p then u else u.vermilionStop c n src).ivoryFire 1 0 else if p then u else u.vermilionStop c n src) :=
  have h : SameBut u (if p then u else u.vermilionStop c n src) := sameBut_ite _ SameBut.rfl (sameBut_vermilionStop _ _ _ _)
  sameBut_ite _ (h.trans (sameBut_ivoryFire _ _ _)) h

theorem sameBut_watchFrom (c : ClusterKey) (v : View) (a : Acc) (canon m : Nat) (l : List (Fin 8)) (s : State) :
    SameBut s (s.watchFrom c v a canon m l).1 := by
  induction l generalizing s with
  | nil => exact SameBut.rfl
  | cons n t ih =>
    unfold State.watchFrom
    simp only
    split
    · split
      · refine SameBut.trans ?_ (ih _)
        exact (sameBut_setClu s c _).trans (sameBut_stopAndFire _ c _ _ _ _)
      · exact ih s
    · exact ih s

/-- Serving an access leaves memory and the banks as they were. -/
theorem sameBut_served (s : State) (v : View) (p : Nat) (pl : Place) (m : Nat) (a : Acc) : SameBut s (s.served v p pl m a).1 := by
  unfold State.served
  split
  · split
    · simp only
      split <;> exact sameBut_watchFrom _ _ _ _ _ _ _
    · exact SameBut.rfl
  · exact sameBut_foldl _ (fun s c => sameBut_keepLeaf s _ _ _) _ _
  · exact SameBut.rfl

@[simp] theorem served_mem (s : State) (v : View) (p : Nat) (pl : Place) (m : Nat) (a : Acc) : (s.served v p pl m a).1.mem = s.mem :=
  (sameBut_served s v p pl m a).mem

@[simp] theorem served_bank (s : State) (v : View) (p : Nat) (pl : Place) (m : Nat) (a : Acc) (k : CoreKey) (b : Fin 2) :
    (s.served v p pl m a).1.bank k b = s.bank k b := by
  simp only [State.bank, State.core, (sameBut_served s v p pl m a).cores]

end Sys2Proof.Machine
end

