-- ==== Sys2Proof/Laws/Issue.lean ====
section
/-! SUPPORT. What ISSUE does, once for every instruction of a strand. -/

namespace Sys2Proof.Machine

open Sys2Proof

/-- All that an instruction's issue can do: nothing where no strand issues; a wait; a trap before the body; or the body's act. -/
theorem issueWith_cases (s : State) (f : Foot) (pre : Bank → CoreKey → Option Trap) (body : State → CoreKey → Fin 2 → Act) :
    (s.issuing = none ∧ issueWith s f pre body = .next s) ∨
    ∃ k b, s.issuing = some (k, b) ∧
      (((s.bank k b).gate f (pre (s.bank k b) k) = .wait ∧ issueWith s f pre body = .next (s.holdIssue k b)) ∨
       (∃ t, (s.bank k b).gate f (pre (s.bank k b) k) = .trap t ∧ issueWith s f pre body = .next (s.trapNow k b t)) ∨
       ((s.bank k b).gate f (pre (s.bank k b) k) = .go ∧ issueWith s f pre body = .next (s.apply k b (body s k b)))) := by
  unfold issueWith
  cases h : s.issuing with
  | none => exact .inl ⟨rfl, rfl⟩
  | some kb =>
    obtain ⟨k, b⟩ := kb
    refine .inr ⟨k, b, rfl, ?_⟩
    cases hg : (s.bank k b).gate f (pre (s.bank k b) k) with
    | wait => exact .inl ⟨rfl, by simp only [hg]⟩
    | trap t => exact .inr (.inl ⟨t, rfl, by simp only [hg]⟩)
    | go => exact .inr (.inr ⟨rfl, by simp only [hg]⟩)

/-- With nothing pending, nothing of R207, R208 and R92 holds an instruction. -/
theorem gate_quiet (x : Bank) (f : Foot) (hp : x.pend = []) (hr : x.replay = none) : x.gate f none = .go := by
  simp [Bank.gate, Bank.windowOver, Bank.acquires, hp, hr, laViolation]

theorem gate_pre (x : Bank) (f : Foot) (t : Trap) (hp : x.pend = []) (hr : x.replay = none) : x.gate f (some t) = .trap t := by
  simp [Bank.gate, Bank.windowOver, hp, hr]

/-- A skid record is all that an issue in the six cycles of a stop changes of a cluster. -/
@[simp] theorem skidMore_verm (s : State) (k : CoreKey) (m : Nat) (c : ClusterKey) : ((s.skidMore k m).clu c).verm = (s.clu c).verm := by
  unfold State.skidMore
  simp only
  split
  · by_cases h : c = clusterOf k
    · subst h; simp
    · rw [clu_setClu_other _ _ _ _ h]
  · rfl

@[simp] theorem skidIssue_verm (s : State) (k : CoreKey) (c : ClusterKey) : ((s.skidIssue k).clu c).verm = (s.clu c).verm :=
  skidMore_verm s k 1 c

@[simp] theorem skidDone_verm (s : State) (k : CoreKey) (x : Bank) (c : ClusterKey) :
    ((s.skidDone k x).clu c).verm = (s.clu c).verm :=
  skidMore_verm s k _ c

@[simp] theorem complete_verm (s : State) (k : CoreKey) (b : Fin 2) (goto : Option Word) (c : ClusterKey) :
    ((s.complete k b goto none).clu c).verm = (s.clu c).verm := by
  simp [State.complete]

/-- Where no stop has begun, no skid record begins. -/
theorem skidStart_same (t s : State) (k : CoreKey) (h : (t.clu (clusterOf k)).verm.frz = (s.clu (clusterOf k)).verm.frz) :
    t.skidStart s k = t := by
  cases hf : (s.clu (clusterOf k)).verm.frz <;> simp [State.skidStart, h, hf]

/-- An instruction of a quiet strand does what its body says. -/
theorem issue_quiet (s : State) (f : Foot) (body : State → CoreKey → Fin 2 → Act) (k : CoreKey) (b : Fin 2)
    (h : Quiet s k b) : issue s f body = .next (s.apply k b (body s k b)) := by
  obtain ⟨hi, hp, hr⟩ := h
  simp [issue, issueWith, hi, gate_quiet _ _ hp hr]

/-- An instruction of a quiet strand whose first check passes does what its body says. -/
theorem issueWith_quiet (s : State) (f : Foot) (pre : Bank → CoreKey → Option Trap) (body : State → CoreKey → Fin 2 → Act)
    (k : CoreKey) (b : Fin 2) (h : Quiet s k b) (hn : pre (s.bank k b) k = none) :
    issueWith s f pre body = .next (s.apply k b (body s k b)) := by
  obtain ⟨hi, hp, hr⟩ := h
  simp [issueWith, hi, hn, gate_quiet _ _ hp hr]

/-- An instruction of registers alone, from a quiet strand: its registers and its target, or its trap. -/
theorem issueReg_quiet (s : State) (f : Foot) (g : Word → Ctx → Except Trap (Ctx × Option Word)) (k : CoreKey) (b : Fin 2)
    (h : Quiet s k b) :
    issueReg s f g = .next (match g (s.bank k b).curPc (s.bank k b).ctx with
      | .error t => s.trapNow k b t
      | .ok (c, goto) => s.ran k b (fun _ => c) goto) := by
  rw [issueReg, issue_quiet _ _ _ _ _ h]
  cases hg : g (s.bank k b).curPc (s.bank k b).ctx with
  | error t => simp only [hg, State.apply]
  | ok r =>
    simp only [hg, State.apply, State.ran]
    rw [skidStart_same _ _ _ (by simp)]

/-- An instruction that maps the registers, from a quiet strand. -/
theorem issueMap_quiet (s : State) (f : Foot) (g : Ctx → Ctx) (k : CoreKey) (b : Fin 2) (h : Quiet s k b) :
    issueMap s f g = .next (s.ran k b g none) := by
  rw [issueMap, issueReg_quiet _ _ _ _ _ h]
  rfl

/-- A long-latency instruction of registers alone, from a quiet strand, where it leaves the registers as they are. -/
theorem issueLong_quiet (s : State) (f : Foot) (hl : La) (fl : Bool) (g : Ctx → Ctx × List RegWrite × Flags) (k : CoreKey)
    (b : Fin 2) (h : Quiet s k b) (hg : (g (s.bank k b).ctx).1 = (s.bank k b).ctx) :
    issueLong s f hl fl g = .next (s.sent k b { (s.bank k b).pendingOf f hl with
      writes := (g (s.bank k b).ctx).2.1, flags := (g (s.bank k b).ctx).2.2, setsFlags := fl }) := by
  rw [issueLong, issue_quiet _ _ _ _ _ h]
  simp only [State.apply, State.sent]
  rw [skidStart_same _ _ _ (by simp)]
  congr 3
  simp only [hg, Bank.push]

end Sys2Proof.Machine
end

