-- ==== Sys2Proof/Laws/Memory.lean ====
section
/-! SUPPORT. Memory: a read after a write, the bytes that a write leaves, and the canonical form that every write keeps. -/

namespace Sys2Proof.Machine

open Sys2Proof

theorem cellsOk_mono (l : List Host.Cell) (a b : Nat) (h : a ≤ b) : cellsOk b l = true → cellsOk a l = true := by
  cases l with
  | nil => simp [cellsOk]
  | cons x t =>
    obtain ⟨k, v⟩ := x
    simp only [cellsOk, Bool.and_eq_true, decide_eq_true_eq]
    rintro ⟨⟨h1, h2⟩, h3⟩
    exact ⟨⟨by omega, h2⟩, h3⟩

theorem getByte_below (l : List Host.Cell) (lo a : Nat) (hl : cellsOk lo l = true) (h : a < lo) : getByte l a = unlisted := by
  induction l generalizing lo with
  | nil => rfl
  | cons x t ih =>
    obtain ⟨k, v⟩ := x
    simp only [cellsOk, Bool.and_eq_true, decide_eq_true_eq] at hl
    have : ¬k = a := by omega
    simp only [getByte, this, if_false]
    exact ih (k + 1) hl.2 (by omega)

theorem putByte_ok (l : List Host.Cell) (lo a : Nat) (b : Byte) (hl : cellsOk lo l = true) (h : lo ≤ a) :
    cellsOk lo (putByte l a b) = true := by
  induction l generalizing lo with
  | nil =>
    unfold putByte
    split
    · rfl
    · simp [cellsOk, *]
  | cons x t ih =>
    obtain ⟨k, v⟩ := x
    have hl' := hl
    simp only [cellsOk, Bool.and_eq_true, decide_eq_true_eq] at hl
    unfold putByte
    split
    · split
      · exact hl'
      · simp only [cellsOk, Bool.and_eq_true, decide_eq_true_eq]
        exact ⟨⟨h, by assumption⟩, ⟨by omega, hl.1.2⟩, hl.2⟩
    · split
      · split
        · exact cellsOk_mono _ _ _ (by omega) hl.2
        · simp only [cellsOk, Bool.and_eq_true, decide_eq_true_eq]
          subst_vars
          exact ⟨⟨h, by assumption⟩, hl.2⟩
      · simp only [cellsOk, Bool.and_eq_true, decide_eq_true_eq]
        exact ⟨hl.1, ih (k + 1) hl.2 (by omega)⟩

/-- A byte write keeps the canonical form. -/
theorem putByte_wf (m : List Host.Cell) (a : Nat) (b : Byte) (h : Memory.wf m = true) : Memory.wf (putByte m a b) = true :=
  putByte_ok m 0 a b h (Nat.zero_le _)

/-- A write of bytes keeps the canonical form. -/
theorem putBytes_wf (l : List Byte) (m : List Host.Cell) (a : Nat) (h : Memory.wf m = true) :
    Memory.wf (putBytes m a l) = true := by
  induction l generalizing m a with
  | nil => exact h
  | cons b t ih => exact ih _ _ (putByte_wf m a b h)

theorem getByte_putByte_other (m : List Host.Cell) (a e : Nat) (b : Byte) (h : e ≠ a) :
    getByte (putByte m a b) e = getByte m e := by
  have h' : ¬a = e := fun x => h x.symm
  induction m with
  | nil =>
    unfold putByte
    split <;> simp [getByte, h']
  | cons x t ih =>
    obtain ⟨k, v⟩ := x
    unfold putByte
    split
    · split <;> simp [getByte, h']
    · split
      · rename_i hk
        have : ¬k = e := by omega
        split <;> simp [getByte, h', this]
      · simp only [getByte, ih]

theorem getByte_putByte_same (l : List Host.Cell) (lo a : Nat) (b : Byte) (hl : cellsOk lo l = true) :
    getByte (putByte l a b) a = b := by
  induction l generalizing lo with
  | nil =>
    unfold putByte
    split
    · rename_i h
      simp [getByte, h]
    · simp [getByte]
  | cons x t ih =>
    obtain ⟨k, v⟩ := x
    have hl' := hl
    simp only [cellsOk, Bool.and_eq_true, decide_eq_true_eq] at hl
    unfold putByte
    split
    · split
      · rename_i h1 h2
        have : ¬k = a := by omega
        simp only [getByte, this, if_false]
        rw [h2]
        exact getByte_below t (k + 1) a hl.2 (by omega)
      · simp [getByte]
    · split
      · split
        · rename_i h1 h2 h3
          rw [h3]
          exact getByte_below t (k + 1) a hl.2 (by omega)
        · simp [getByte]
      · rename_i h1 h2
        have : ¬k = a := fun e => h2 e.symm
        simp only [getByte, this, if_false]
        exact ih (k + 1) hl.2

/-- A byte reads as it was written. -/
theorem getByte_putByte (m : List Host.Cell) (a : Nat) (b : Byte) (h : Memory.wf m = true) : getByte (putByte m a b) a = b :=
  getByte_putByte_same m 0 a b h

/-- Every byte outside a write reads as before. -/
theorem getByte_putBytes_outside (l : List Byte) (m : List Host.Cell) (a e : Nat) (h : e < a ∨ a + l.length ≤ e) :
    getByte (putBytes m a l) e = getByte m e := by
  induction l generalizing m a with
  | nil => rfl
  | cons b t ih =>
    simp only [List.length_cons] at h
    rw [putBytes, ih _ _ (by omega), getByte_putByte_other _ _ _ _ (by omega)]

/-- The bytes of a write read as written. -/
theorem getByte_putBytes_inside (l : List Byte) (m : List Host.Cell) (a i : Nat) (hw : Memory.wf m = true) (h : i < l.length) :
    getByte (putBytes m a l) (a + i) = l[i] := by
  induction l generalizing m a i with
  | nil => simp at h
  | cons b t ih =>
    cases i with
    | zero =>
      rw [putBytes, getByte_putBytes_outside _ _ _ _ (by omega)]
      exact getByte_putByte m a b hw
    | succ n =>
      have := ih (putByte m a b) (a + 1) n (putByte_wf m a b hw) (by simpa using h)
      rw [putBytes, List.getElem_cons_succ, ← this]
      congr 1
      omega

/-- A store keeps the canonical form. -/
theorem store_wf (ps : List (Nat × Nat)) (bs : List Byte) (s : State) (h : Memory.wf s.mem = true) :
    Memory.wf (s.store ps bs).mem = true := by
  induction ps generalizing s bs with
  | nil => exact h
  | cons q t ih => exact ih _ _ (putBytes_wf _ _ _ h)

/-- Every byte outside a store reads as before. -/
theorem store_outside (ps : List (Nat × Nat)) (bs : List Byte) (s : State) (e : Nat)
    (h : ∀ q ∈ ps, e < q.1 ∨ q.1 + q.2 ≤ e) : getByte (s.store ps bs).mem e = getByte s.mem e := by
  induction ps generalizing s bs with
  | nil => rfl
  | cons q t ih =>
    obtain ⟨loc, n⟩ := q
    rw [State.store, ih _ _ (fun x hx => h x (List.mem_cons_of_mem _ hx))]
    have := h (loc, n) List.mem_cons_self
    exact getByte_putBytes_outside _ _ _ _ (by simp only [List.length_take]; simp only at this; omega)

theorem reset_wf : Memory.wf State.reset.mem = true := rfl

end Sys2Proof.Machine
end

