-- ==== Sys2Proof/Laws/PerInstr.lean ====
section
/-! SUPPORT. The per-instruction family OneWord: every instruction that has a word has one of 32 bits (R56). -/

namespace Sys2Proof.Laws

theorem intTy_code_lt (x : IntTy) : x.code < 8 := by cases x <;> decide

theorem level_code_lt (x : Level) : x.code < 3 := by cases x <;> decide

theorem mode_code_lt (x : Mode) : x.code < 4 := by cases x <;> decide

theorem rnd_code_lt (r : Rnd) : r.code < 5 := by
  rcases r with m | _
  · cases m <;> decide
  · decide

theorem fTy_code_lt (x : FTy) : x.code < 3 := by cases x <;> decide

theorem fTy2_code_lt (x : FTy2) : x.code < 2 := by cases x <;> decide

theorem vTy_code_lt (x : VTy) : x.code < 6 := by cases x <;> decide

theorem tyCode_code_lt (x : TyCode) : x.code < 16 := by cases x <;> decide

theorem scope_code_lt (x : Scope) : x.code < 6 := by cases x <;> decide

theorem fenceKind_code_lt (x : FenceKind) : x.code < 3 := by cases x <;> decide

theorem eWid_code_lt (x : EWid) : x.code < 4 := by cases x <;> decide

theorem aTy_code_lt (x : ATy) : x.code < 2 := by cases x <;> decide

theorem rTy_code_lt (x : RTy) : x.code < 4 := by cases x <;> decide

theorem evRef_code_lt (e : EvRef) : e.code < 128 := by
  cases e <;> simp only [EvRef.code] <;> omega

namespace OneWord

/-- The word of an instruction has 32 bits (R56, R57). -/
def Statement (i : Instr) : Prop := ∀ w, encode i = some w → w < 2 ^ 32

theorem add : ∀ d a b t p, Statement (.add d a b t p) := by
  intro d a b t p n hn
  obtain rfl := Option.some.inj hn
  have := d.isLt
  have := a.isLt
  have := b.isLt
  have := intTy_code_lt t
  have := level_code_lt p
  unfold enR
  omega

theorem sub : ∀ d a b t p, Statement (.sub d a b t p) := by
  intro d a b t p n hn
  obtain rfl := Option.some.inj hn
  have := d.isLt
  have := a.isLt
  have := b.isLt
  have := intTy_code_lt t
  have := level_code_lt p
  unfold enR
  omega

theorem mul : ∀ d a b t p, Statement (.mul d a b t p) := by
  intro d a b t p n hn
  obtain rfl := Option.some.inj hn
  have := d.isLt
  have := a.isLt
  have := b.isLt
  have := intTy_code_lt t
  have := level_code_lt p
  unfold enR
  omega

theorem mulh : ∀ d a b t p, Statement (.mulh d a b t p) := by
  intro d a b t p n hn
  obtain rfl := Option.some.inj hn
  have := d.isLt
  have := a.isLt
  have := b.isLt
  have := intTy_code_lt t
  have := level_code_lt p
  unfold enR
  omega

theorem mulhn : ∀ d a b t p, Statement (.mulhn d a b t p) := by
  intro d a b t p n hn
  obtain rfl := Option.some.inj hn
  have := d.isLt
  have := a.isLt
  have := b.isLt
  have := intTy_code_lt t
  have := level_code_lt p
  unfold enR
  omega

theorem and : ∀ d a b t p, Statement (.and d a b t p) := by
  intro d a b t p n hn
  obtain rfl := Option.some.inj hn
  have := d.isLt
  have := a.isLt
  have := b.isLt
  have := intTy_code_lt t
  have := level_code_lt p
  unfold enR
  omega

theorem or : ∀ d a b t p, Statement (.or d a b t p) := by
  intro d a b t p n hn
  obtain rfl := Option.some.inj hn
  have := d.isLt
  have := a.isLt
  have := b.isLt
  have := intTy_code_lt t
  have := level_code_lt p
  unfold enR
  omega

theorem xor : ∀ d a b t p, Statement (.xor d a b t p) := by
  intro d a b t p n hn
  obtain rfl := Option.some.inj hn
  have := d.isLt
  have := a.isLt
  have := b.isLt
  have := intTy_code_lt t
  have := level_code_lt p
  unfold enR
  omega

theorem shl : ∀ d a b t p, Statement (.shl d a b t p) := by
  intro d a b t p n hn
  obtain rfl := Option.some.inj hn
  have := d.isLt
  have := a.isLt
  have := b.isLt
  have := intTy_code_lt t
  have := level_code_lt p
  unfold enR
  omega

theorem shr : ∀ d a b t p, Statement (.shr d a b t p) := by
  intro d a b t p n hn
  obtain rfl := Option.some.inj hn
  have := d.isLt
  have := a.isLt
  have := b.isLt
  have := intTy_code_lt t
  have := level_code_lt p
  unfold enR
  omega

theorem sha : ∀ d a b t p, Statement (.sha d a b t p) := by
  intro d a b t p n hn
  obtain rfl := Option.some.inj hn
  have := d.isLt
  have := a.isLt
  have := b.isLt
  have := intTy_code_lt t
  have := level_code_lt p
  unfold enR
  omega

theorem rol : ∀ d a b t p, Statement (.rol d a b t p) := by
  intro d a b t p n hn
  obtain rfl := Option.some.inj hn
  have := d.isLt
  have := a.isLt
  have := b.isLt
  have := intTy_code_lt t
  have := level_code_lt p
  unfold enR
  omega

theorem clz : ∀ d a t p, Statement (.clz d a t p) := by
  intro d a t p n hn
  obtain rfl := Option.some.inj hn
  have := d.isLt
  have := a.isLt
  have := intTy_code_lt t
  have := level_code_lt p
  unfold enR
  omega

theorem ctz : ∀ d a t p, Statement (.ctz d a t p) := by
  intro d a t p n hn
  obtain rfl := Option.some.inj hn
  have := d.isLt
  have := a.isLt
  have := intTy_code_lt t
  have := level_code_lt p
  unfold enR
  omega

theorem popc : ∀ d a t p, Statement (.popc d a t p) := by
  intro d a t p n hn
  obtain rfl := Option.some.inj hn
  have := d.isLt
  have := a.isLt
  have := intTy_code_lt t
  have := level_code_lt p
  unfold enR
  omega

theorem min : ∀ d a b t p, Statement (.min d a b t p) := by
  intro d a b t p n hn
  obtain rfl := Option.some.inj hn
  have := d.isLt
  have := a.isLt
  have := b.isLt
  have := intTy_code_lt t
  have := level_code_lt p
  unfold enR
  omega

theorem max : ∀ d a b t p, Statement (.max d a b t p) := by
  intro d a b t p n hn
  obtain rfl := Option.some.inj hn
  have := d.isLt
  have := a.isLt
  have := b.isLt
  have := intTy_code_lt t
  have := level_code_lt p
  unfold enR
  omega

theorem minn : ∀ d a b t p, Statement (.minn d a b t p) := by
  intro d a b t p n hn
  obtain rfl := Option.some.inj hn
  have := d.isLt
  have := a.isLt
  have := b.isLt
  have := intTy_code_lt t
  have := level_code_lt p
  unfold enR
  omega

theorem maxn : ∀ d a b t p, Statement (.maxn d a b t p) := by
  intro d a b t p n hn
  obtain rfl := Option.some.inj hn
  have := d.isLt
  have := a.isLt
  have := b.isLt
  have := intTy_code_lt t
  have := level_code_lt p
  unfold enR
  omega

theorem slt : ∀ d a b t p, Statement (.slt d a b t p) := by
  intro d a b t p n hn
  obtain rfl := Option.some.inj hn
  have := d.isLt
  have := a.isLt
  have := b.isLt
  have := intTy_code_lt t
  have := level_code_lt p
  unfold enR
  omega

theorem sltn : ∀ d a b t p, Statement (.sltn d a b t p) := by
  intro d a b t p n hn
  obtain rfl := Option.some.inj hn
  have := d.isLt
  have := a.isLt
  have := b.isLt
  have := intTy_code_lt t
  have := level_code_lt p
  unfold enR
  omega

theorem sel : ∀ d a b p, Statement (.sel d a b p) := by
  intro d a b p n hn
  obtain rfl := Option.some.inj hn
  have := d.isLt
  have := a.isLt
  have := b.isLt
  have := level_code_lt p
  unfold enR
  omega

theorem addi : ∀ d a i p, Statement (.addi d a i p) := by
  intro d a i p n hn
  obtain rfl := Option.some.inj hn
  have := d.isLt
  have := a.isLt
  have := i.isLt
  have := level_code_lt p
  unfold enI
  omega

theorem andi : ∀ d a i p, Statement (.andi d a i p) := by
  intro d a i p n hn
  obtain rfl := Option.some.inj hn
  have := d.isLt
  have := a.isLt
  have := i.isLt
  have := level_code_lt p
  unfold enI
  omega

theorem ori : ∀ d a i p, Statement (.ori d a i p) := by
  intro d a i p n hn
  obtain rfl := Option.some.inj hn
  have := d.isLt
  have := a.isLt
  have := i.isLt
  have := level_code_lt p
  unfold enI
  omega

theorem xori : ∀ d a i p, Statement (.xori d a i p) := by
  intro d a i p n hn
  obtain rfl := Option.some.inj hn
  have := d.isLt
  have := a.isLt
  have := i.isLt
  have := level_code_lt p
  unfold enI
  omega

theorem li : ∀ d i p, Statement (.li d i p) := by
  intro d i p n hn
  obtain rfl := Option.some.inj hn
  have := d.isLt
  have := i.isLt
  have := level_code_lt p
  unfold enIw
  omega

theorem lih : ∀ d i p, Statement (.lih d i p) := by
  intro d i p n hn
  obtain rfl := Option.some.inj hn
  have := d.isLt
  have := i.isLt
  have := level_code_lt p
  unfold enIw
  omega

theorem lea : ∀ d a b p, Statement (.lea d a b p) := by
  intro d a b p n hn
  obtain rfl := Option.some.inj hn
  have := d.isLt
  have := a.isLt
  have := b.isLt
  have := level_code_lt p
  unfold enR
  omega

theorem leaX2 : ∀ d a b p, Statement (.leaX2 d a b p) := by
  intro d a b p n hn
  obtain rfl := Option.some.inj hn
  have := d.isLt
  have := a.isLt
  have := b.isLt
  have := level_code_lt p
  unfold enR
  omega

theorem leaX4 : ∀ d a b p, Statement (.leaX4 d a b p) := by
  intro d a b p n hn
  obtain rfl := Option.some.inj hn
  have := d.isLt
  have := a.isLt
  have := b.isLt
  have := level_code_lt p
  unfold enR
  omega

theorem leaX8 : ∀ d a b p, Statement (.leaX8 d a b p) := by
  intro d a b p n hn
  obtain rfl := Option.some.inj hn
  have := d.isLt
  have := a.isLt
  have := b.isLt
  have := level_code_lt p
  unfold enR
  omega

theorem chk : ∀ a b, Statement (.chk a b) := by
  intro a b n hn
  obtain rfl := Option.some.inj hn
  have := a.isLt
  have := b.isLt
  unfold enR
  omega

theorem div : ∀ d a b h, Statement (.div d a b h) := by
  intro d a b h n hn
  obtain rfl := Option.some.inj hn
  have := d.isLt
  have := a.isLt
  have := b.isLt
  have := h.isLt
  unfold enL
  omega

theorem divn : ∀ d a b h, Statement (.divn d a b h) := by
  intro d a b h n hn
  obtain rfl := Option.some.inj hn
  have := d.isLt
  have := a.isLt
  have := b.isLt
  have := h.isLt
  unfold enL
  omega

theorem rem : ∀ d a b h, Statement (.rem d a b h) := by
  intro d a b h n hn
  obtain rfl := Option.some.inj hn
  have := d.isLt
  have := a.isLt
  have := b.isLt
  have := h.isLt
  unfold enL
  omega

theorem remn : ∀ d a b h, Statement (.remn d a b h) := by
  intro d a b h n hn
  obtain rfl := Option.some.inj hn
  have := d.isLt
  have := a.isLt
  have := b.isLt
  have := h.isLt
  unfold enL
  omega

theorem divS32 : ∀ d a b h, Statement (.divS32 d a b h) := by
  intro d a b h n hn
  obtain rfl := Option.some.inj hn
  have := d.isLt
  have := a.isLt
  have := b.isLt
  have := h.isLt
  unfold enL
  omega

theorem divnN32 : ∀ d a b h, Statement (.divnN32 d a b h) := by
  intro d a b h n hn
  obtain rfl := Option.some.inj hn
  have := d.isLt
  have := a.isLt
  have := b.isLt
  have := h.isLt
  unfold enL
  omega

theorem remS32 : ∀ d a b h, Statement (.remS32 d a b h) := by
  intro d a b h n hn
  obtain rfl := Option.some.inj hn
  have := d.isLt
  have := a.isLt
  have := b.isLt
  have := h.isLt
  unfold enL
  omega

theorem remnN32 : ∀ d a b h, Statement (.remnN32 d a b h) := by
  intro d a b h n hn
  obtain rfl := Option.some.inj hn
  have := d.isLt
  have := a.isLt
  have := b.isLt
  have := h.isLt
  unfold enL
  omega

theorem fsqrt : ∀ d a f r h, Statement (.fsqrt d a f r h) := by
  intro d a f r h n hn
  obtain rfl := Option.some.inj hn
  have := d.isLt
  have := a.isLt
  have := fTy_code_lt f
  have := rnd_code_lt r
  have := h.isLt
  unfold enL
  omega

theorem fdiv : ∀ d a b f r h, Statement (.fdiv d a b f r h) := by
  intro d a b f r h n hn
  obtain rfl := Option.some.inj hn
  have := d.isLt
  have := a.isLt
  have := b.isLt
  have := fTy2_code_lt f
  have := rnd_code_lt r
  have := h.isLt
  unfold enL
  omega

theorem easgn : ∀ d x h, Statement (.easgn d x h) := by
  intro d x h n hn
  obtain rfl := Option.some.inj hn
  have := d.isLt
  have := x.isLt
  have := h.isLt
  unfold enL
  omega

theorem earnd : ∀ d x r h, Statement (.earnd d x r h) := by
  intro d x r h n hn
  obtain rfl := Option.some.inj hn
  have := d.isLt
  have := x.isLt
  have := rnd_code_lt r
  have := h.isLt
  unfold enL
  omega

theorem easts : ∀ d x h, Statement (.easts d x h) := by
  intro d x h n hn
  obtain rfl := Option.some.inj hn
  have := d.isLt
  have := x.isLt
  have := h.isLt
  unfold enL
  omega

theorem halloc : ∀ d a b h, Statement (.halloc d a b h) := by
  intro d a b h n hn
  obtain rfl := Option.some.inj hn
  have := d.isLt
  have := a.isLt
  have := b.isLt
  have := h.isLt
  unfold enL
  omega

theorem hfree : ∀ a b h, Statement (.hfree a b h) := by
  intro a b h n hn
  obtain rfl := Option.some.inj hn
  have := a.isLt
  have := b.isLt
  have := h.isLt
  unfold enL
  omega

theorem foldmark : ∀ a h, Statement (.foldmark a h) := by
  intro a h n hn
  obtain rfl := Option.some.inj hn
  have := a.isLt
  have := h.isLt
  unfold enL
  omega

theorem beq : ∀ a b o, Statement (.beq a b o) := by
  intro a b o n hn
  obtain rfl := Option.some.inj hn
  have := a.isLt
  have := b.isLt
  have := o.isLt
  unfold enB
  omega

theorem bne : ∀ a b o, Statement (.bne a b o) := by
  intro a b o n hn
  obtain rfl := Option.some.inj hn
  have := a.isLt
  have := b.isLt
  have := o.isLt
  unfold enB
  omega

theorem blt : ∀ a b o, Statement (.blt a b o) := by
  intro a b o n hn
  obtain rfl := Option.some.inj hn
  have := a.isLt
  have := b.isLt
  have := o.isLt
  unfold enB
  omega

theorem bge : ∀ a b o, Statement (.bge a b o) := by
  intro a b o n hn
  obtain rfl := Option.some.inj hn
  have := a.isLt
  have := b.isLt
  have := o.isLt
  unfold enB
  omega

theorem bltn : ∀ a b o, Statement (.bltn a b o) := by
  intro a b o n hn
  obtain rfl := Option.some.inj hn
  have := a.isLt
  have := b.isLt
  have := o.isLt
  unfold enB
  omega

theorem bgen : ∀ a b o, Statement (.bgen a b o) := by
  intro a b o n hn
  obtain rfl := Option.some.inj hn
  have := a.isLt
  have := b.isLt
  have := o.isLt
  unfold enB
  omega

theorem bz : ∀ a o, Statement (.bz a o) := by
  intro a o n hn
  obtain rfl := Option.some.inj hn
  have := a.isLt
  have := o.isLt
  unfold enBz
  omega

theorem bnz : ∀ a o, Statement (.bnz a o) := by
  intro a o n hn
  obtain rfl := Option.some.inj hn
  have := a.isLt
  have := o.isLt
  unfold enBz
  omega

theorem j : ∀ o, Statement (.j o) := by
  intro o n hn
  obtain rfl := Option.some.inj hn
  have := o.isLt
  omega

theorem call : ∀ o, Statement (.call o) := by
  intro o n hn
  obtain rfl := Option.some.inj hn
  have := o.isLt
  omega

theorem jr : ∀ a, Statement (.jr a) := by
  intro a n hn
  obtain rfl := Option.some.inj hn
  have := a.isLt
  unfold enBz
  omega

theorem ret : Statement .ret := by
  intro n hn
  obtain rfl := Option.some.inj hn
  unfold enBz
  omega

theorem callr : ∀ a, Statement (.callr a) := by
  intro a n hn
  obtain rfl := Option.some.inj hn
  have := a.isLt
  unfold enBz
  omega

theorem loop : ∀ a n, Statement (.loop a n) := by
  intro a n n hn
  obtain rfl := Option.some.inj hn
  have := a.isLt
  have := n.isLt
  unfold enBz
  omega

theorem loopi : ∀ a b c n, Statement (.loopi a b c n) := by
  intro a b c n n hn
  obtain rfl := Option.some.inj hn
  have := a.isLt
  have := b.isLt
  have := c.isLt
  have := n.isLt
  unfold enB
  omega

theorem loopEnd : ∀ a0 a1, Statement (.loopEnd a0 a1) := by
  intro _ _ _ hn; cases hn

theorem nop : Statement .nop := by
  intro n hn
  obtain rfl := Option.some.inj hn
  unfold enIs
  omega

theorem trap : ∀ n, Statement (.trap n) := by
  intro n n hn
  obtain rfl := Option.some.inj hn
  have := n.isLt
  unfold enIs
  omega

theorem eret : Statement .eret := by
  intro n hn
  obtain rfl := Option.some.inj hn
  unfold enIs
  omega

theorem swapw : ∀ a, Statement (.swapw a) := by
  intro a n hn
  obtain rfl := Option.some.inj hn
  have := a.isLt
  unfold enIs
  omega

theorem phase : Statement .phase := by
  intro n hn
  obtain rfl := Option.some.inj hn
  unfold enIs
  omega

theorem retire : Statement .retire := by
  intro n hn
  obtain rfl := Option.some.inj hn
  unfold enIs
  omega

theorem snap : Statement .snap := by
  intro n hn
  obtain rfl := Option.some.inj hn
  unfold enIs
  omega

theorem waitt : ∀ a, Statement (.waitt a) := by
  intro a n hn
  obtain rfl := Option.some.inj hn
  have := a.isLt
  unfold enIs
  omega

theorem rds : ∀ d i p, Statement (.rds d i p) := by
  intro d i p n hn
  obtain rfl := Option.some.inj hn
  have := d.isLt
  have := i.isLt
  have := level_code_lt p
  unfold enI
  omega

theorem wrs : ∀ a i, Statement (.wrs a i) := by
  intro a i n hn
  obtain rfl := Option.some.inj hn
  have := a.isLt
  have := i.isLt
  unfold enI
  omega

theorem ldS8 : ∀ d b o h, Statement (.ldS8 d b o h) := by
  intro d b o h n hn
  obtain rfl := Option.some.inj hn
  have := d.isLt
  have := b.isLt
  have := o.isLt
  have := h.isLt
  unfold enM
  omega

theorem ldN8 : ∀ d b o h, Statement (.ldN8 d b o h) := by
  intro d b o h n hn
  obtain rfl := Option.some.inj hn
  have := d.isLt
  have := b.isLt
  have := o.isLt
  have := h.isLt
  unfold enM
  omega

theorem ldS16 : ∀ d b o h, Statement (.ldS16 d b o h) := by
  intro d b o h n hn
  obtain rfl := Option.some.inj hn
  have := d.isLt
  have := b.isLt
  have := o.isLt
  have := h.isLt
  unfold enM
  omega

theorem ldN16 : ∀ d b o h, Statement (.ldN16 d b o h) := by
  intro d b o h n hn
  obtain rfl := Option.some.inj hn
  have := d.isLt
  have := b.isLt
  have := o.isLt
  have := h.isLt
  unfold enM
  omega

theorem ldS32 : ∀ d b o h, Statement (.ldS32 d b o h) := by
  intro d b o h n hn
  obtain rfl := Option.some.inj hn
  have := d.isLt
  have := b.isLt
  have := o.isLt
  have := h.isLt
  unfold enM
  omega

theorem ldN32 : ∀ d b o h, Statement (.ldN32 d b o h) := by
  intro d b o h n hn
  obtain rfl := Option.some.inj hn
  have := d.isLt
  have := b.isLt
  have := o.isLt
  have := h.isLt
  unfold enM
  omega

theorem ldD : ∀ d b o h, Statement (.ldD d b o h) := by
  intro d b o h n hn
  obtain rfl := Option.some.inj hn
  have := d.isLt
  have := b.isLt
  have := o.isLt
  have := h.isLt
  unfold enM
  omega

theorem stB : ∀ s b o, Statement (.stB s b o) := by
  intro s b o n hn
  obtain rfl := Option.some.inj hn
  have := s.isLt
  have := b.isLt
  have := o.isLt
  unfold enS
  omega

theorem stH : ∀ s b o, Statement (.stH s b o) := by
  intro s b o n hn
  obtain rfl := Option.some.inj hn
  have := s.isLt
  have := b.isLt
  have := o.isLt
  unfold enS
  omega

theorem stW : ∀ s b o, Statement (.stW s b o) := by
  intro s b o n hn
  obtain rfl := Option.some.inj hn
  have := s.isLt
  have := b.isLt
  have := o.isLt
  unfold enS
  omega

theorem stD : ∀ s b o, Statement (.stD s b o) := by
  intro s b o n hn
  obtain rfl := Option.some.inj hn
  have := s.isLt
  have := b.isLt
  have := o.isLt
  unfold enS
  omega

theorem vld : ∀ d e b x k h, Statement (.vld d e b x k h) := by
  intro d e b x k h n hn
  obtain rfl := Option.some.inj hn
  have := d.isLt
  have := eWid_code_lt e
  have := b.isLt
  have := x.isLt
  have := k.isLt
  have := h.isLt
  unfold enMv
  omega

theorem vlds : ∀ d e b x k h, Statement (.vlds d e b x k h) := by
  intro d e b x k h n hn
  obtain rfl := Option.some.inj hn
  have := d.isLt
  have := eWid_code_lt e
  have := b.isLt
  have := x.isLt
  have := k.isLt
  have := h.isLt
  unfold enMv
  omega

theorem vldx : ∀ d e b x k h, Statement (.vldx d e b x k h) := by
  intro d e b x k h n hn
  obtain rfl := Option.some.inj hn
  have := d.isLt
  have := eWid_code_lt e
  have := b.isLt
  have := x.isLt
  have := k.isLt
  have := h.isLt
  unfold enMv
  omega

theorem vst : ∀ s e b x k, Statement (.vst s e b x k) := by
  intro s e b x k n hn
  obtain rfl := Option.some.inj hn
  have := s.isLt
  have := eWid_code_lt e
  have := b.isLt
  have := x.isLt
  have := k.isLt
  unfold enSv
  omega

theorem vstx : ∀ s e b x k, Statement (.vstx s e b x k) := by
  intro s e b x k n hn
  obtain rfl := Option.some.inj hn
  have := s.isLt
  have := eWid_code_lt e
  have := b.isLt
  have := x.isLt
  have := k.isLt
  unfold enSv
  omega

theorem aadd : ∀ d c b t s h, Statement (.aadd d c b t s h) := by
  intro d c b t s h n hn
  obtain rfl := Option.some.inj hn
  have := d.isLt
  have := c.isLt
  have := b.isLt
  have := aTy_code_lt t
  have := scope_code_lt s
  have := h.isLt
  unfold enMa
  omega

theorem amin : ∀ d c b t s h, Statement (.amin d c b t s h) := by
  intro d c b t s h n hn
  obtain rfl := Option.some.inj hn
  have := d.isLt
  have := c.isLt
  have := b.isLt
  have := aTy_code_lt t
  have := scope_code_lt s
  have := h.isLt
  unfold enMa
  omega

theorem amax : ∀ d c b t s h, Statement (.amax d c b t s h) := by
  intro d c b t s h n hn
  obtain rfl := Option.some.inj hn
  have := d.isLt
  have := c.isLt
  have := b.isLt
  have := aTy_code_lt t
  have := scope_code_lt s
  have := h.isLt
  unfold enMa
  omega

theorem axchg : ∀ d c b t s h, Statement (.axchg d c b t s h) := by
  intro d c b t s h n hn
  obtain rfl := Option.some.inj hn
  have := d.isLt
  have := c.isLt
  have := b.isLt
  have := aTy_code_lt t
  have := scope_code_lt s
  have := h.isLt
  unfold enMa
  omega

theorem acas : ∀ d c b t s h, Statement (.acas d c b t s h) := by
  intro d c b t s h n hn
  obtain rfl := Option.some.inj hn
  have := d.isLt
  have := c.isLt
  have := b.isLt
  have := aTy_code_lt t
  have := scope_code_lt s
  have := h.isLt
  unfold enMa
  omega

theorem afadd : ∀ d c b t s h, Statement (.afadd d c b t s h) := by
  intro d c b t s h n hn
  obtain rfl := Option.some.inj hn
  have := d.isLt
  have := c.isLt
  have := b.isLt
  have := fTy2_code_lt t
  have := scope_code_lt s
  have := h.isLt
  unfold enMa
  omega

theorem afaddDet : ∀ d c b t h, Statement (.afaddDet d c b t h) := by
  intro d c b t h n hn
  obtain rfl := Option.some.inj hn
  have := d.isLt
  have := c.isLt
  have := b.isLt
  have := fTy2_code_lt t
  have := h.isLt
  unfold enMa
  omega

theorem fence : ∀ k s, Statement (.fence k s) := by
  intro k s n hn
  obtain rfl := Option.some.inj hn
  have := fenceKind_code_lt k
  have := scope_code_lt s
  omega

theorem fadd : ∀ d a b f r p, Statement (.fadd d a b f r p) := by
  intro d a b f r p n hn
  obtain rfl := Option.some.inj hn
  have := d.isLt
  have := a.isLt
  have := b.isLt
  have := fTy_code_lt f
  have := rnd_code_lt r
  have := level_code_lt p
  unfold enRf
  omega

theorem fsub : ∀ d a b f r p, Statement (.fsub d a b f r p) := by
  intro d a b f r p n hn
  obtain rfl := Option.some.inj hn
  have := d.isLt
  have := a.isLt
  have := b.isLt
  have := fTy_code_lt f
  have := rnd_code_lt r
  have := level_code_lt p
  unfold enRf
  omega

theorem fmul : ∀ d a b f r p, Statement (.fmul d a b f r p) := by
  intro d a b f r p n hn
  obtain rfl := Option.some.inj hn
  have := d.isLt
  have := a.isLt
  have := b.isLt
  have := fTy_code_lt f
  have := rnd_code_lt r
  have := level_code_lt p
  unfold enRf
  omega

theorem ffma : ∀ d a b f r p, Statement (.ffma d a b f r p) := by
  intro d a b f r p n hn
  obtain rfl := Option.some.inj hn
  have := d.isLt
  have := a.isLt
  have := b.isLt
  have := fTy_code_lt f
  have := rnd_code_lt r
  have := level_code_lt p
  unfold enRf
  omega

theorem ffms : ∀ d a b f r p, Statement (.ffms d a b f r p) := by
  intro d a b f r p n hn
  obtain rfl := Option.some.inj hn
  have := d.isLt
  have := a.isLt
  have := b.isLt
  have := fTy_code_lt f
  have := rnd_code_lt r
  have := level_code_lt p
  unfold enRf
  omega

theorem fmin : ∀ d a b f p, Statement (.fmin d a b f p) := by
  intro d a b f p n hn
  obtain rfl := Option.some.inj hn
  have := d.isLt
  have := a.isLt
  have := b.isLt
  have := fTy_code_lt f
  have := level_code_lt p
  unfold enRf
  omega

theorem fmax : ∀ d a b f p, Statement (.fmax d a b f p) := by
  intro d a b f p n hn
  obtain rfl := Option.some.inj hn
  have := d.isLt
  have := a.isLt
  have := b.isLt
  have := fTy_code_lt f
  have := level_code_lt p
  unfold enRf
  omega

theorem fcmpEq : ∀ d a b f p, Statement (.fcmpEq d a b f p) := by
  intro d a b f p n hn
  obtain rfl := Option.some.inj hn
  have := d.isLt
  have := a.isLt
  have := b.isLt
  have := fTy_code_lt f
  have := level_code_lt p
  unfold enRf
  omega

theorem fcmpNe : ∀ d a b f p, Statement (.fcmpNe d a b f p) := by
  intro d a b f p n hn
  obtain rfl := Option.some.inj hn
  have := d.isLt
  have := a.isLt
  have := b.isLt
  have := fTy_code_lt f
  have := level_code_lt p
  unfold enRf
  omega

theorem fcmpLt : ∀ d a b f p, Statement (.fcmpLt d a b f p) := by
  intro d a b f p n hn
  obtain rfl := Option.some.inj hn
  have := d.isLt
  have := a.isLt
  have := b.isLt
  have := fTy_code_lt f
  have := level_code_lt p
  unfold enRf
  omega

theorem fcmpLe : ∀ d a b f p, Statement (.fcmpLe d a b f p) := by
  intro d a b f p n hn
  obtain rfl := Option.some.inj hn
  have := d.isLt
  have := a.isLt
  have := b.isLt
  have := fTy_code_lt f
  have := level_code_lt p
  unfold enRf
  omega

theorem fcmpUn : ∀ d a b f p, Statement (.fcmpUn d a b f p) := by
  intro d a b f p n hn
  obtain rfl := Option.some.inj hn
  have := d.isLt
  have := a.isLt
  have := b.isLt
  have := fTy_code_lt f
  have := level_code_lt p
  unfold enRf
  omega

theorem fclass : ∀ d a f p, Statement (.fclass d a f p) := by
  intro d a f p n hn
  obtain rfl := Option.some.inj hn
  have := d.isLt
  have := a.isLt
  have := fTy_code_lt f
  have := level_code_lt p
  unfold enRf
  omega

theorem fsgnCp : ∀ d a b f p, Statement (.fsgnCp d a b f p) := by
  intro d a b f p n hn
  obtain rfl := Option.some.inj hn
  have := d.isLt
  have := a.isLt
  have := b.isLt
  have := fTy_code_lt f
  have := level_code_lt p
  unfold enRf
  omega

theorem fsgnNg : ∀ d a b f p, Statement (.fsgnNg d a b f p) := by
  intro d a b f p n hn
  obtain rfl := Option.some.inj hn
  have := d.isLt
  have := a.isLt
  have := b.isLt
  have := fTy_code_lt f
  have := level_code_lt p
  unfold enRf
  omega

theorem fsgnXr : ∀ d a b f p, Statement (.fsgnXr d a b f p) := by
  intro d a b f p n hn
  obtain rfl := Option.some.inj hn
  have := d.isLt
  have := a.isLt
  have := b.isLt
  have := fTy_code_lt f
  have := level_code_lt p
  unfold enRf
  omega

theorem fcvt : ∀ d a s t r, Statement (.fcvt d a s t r) := by
  intro d a s t r n hn
  obtain rfl := Option.some.inj hn
  have := d.isLt
  have := a.isLt
  have := tyCode_code_lt s
  have := tyCode_code_lt t
  have := rnd_code_lt r
  unfold enRc
  omega

theorem mand : ∀ d a b, Statement (.mand d a b) := by
  intro d a b n hn
  obtain rfl := Option.some.inj hn
  have := d.isLt
  have := a.isLt
  have := b.isLt
  unfold enVm
  omega

theorem mor : ∀ d a b, Statement (.mor d a b) := by
  intro d a b n hn
  obtain rfl := Option.some.inj hn
  have := d.isLt
  have := a.isLt
  have := b.isLt
  unfold enVm
  omega

theorem mxor : ∀ d a b, Statement (.mxor d a b) := by
  intro d a b n hn
  obtain rfl := Option.some.inj hn
  have := d.isLt
  have := a.isLt
  have := b.isLt
  unfold enVm
  omega

theorem mnot : ∀ d a, Statement (.mnot d a) := by
  intro d a n hn
  obtain rfl := Option.some.inj hn
  have := d.isLt
  have := a.isLt
  unfold enVm
  omega

theorem mpop : ∀ d a p, Statement (.mpop d a p) := by
  intro d a p n hn
  obtain rfl := Option.some.inj hn
  have := d.isLt
  have := a.isLt
  have := level_code_lt p
  unfold enVm
  omega

theorem bmany : ∀ a o, Statement (.bmany a o) := by
  intro a o n hn
  obtain rfl := Option.some.inj hn
  have := a.isLt
  have := o.isLt
  unfold enBm
  omega

theorem bmall : ∀ a o, Statement (.bmall a o) := by
  intro a o n hn
  obtain rfl := Option.some.inj hn
  have := a.isLt
  have := o.isLt
  unfold enBm
  omega

theorem vadd : ∀ d a b k t r p, Statement (.vadd d a b k t r p) := by
  intro d a b k t r p n hn
  obtain rfl := Option.some.inj hn
  have := d.isLt
  have := a.isLt
  have := b.isLt
  have := k.isLt
  have := vTy_code_lt t
  have := rnd_code_lt r
  have := level_code_lt p
  unfold enV
  omega

theorem vsub : ∀ d a b k t r p, Statement (.vsub d a b k t r p) := by
  intro d a b k t r p n hn
  obtain rfl := Option.some.inj hn
  have := d.isLt
  have := a.isLt
  have := b.isLt
  have := k.isLt
  have := vTy_code_lt t
  have := rnd_code_lt r
  have := level_code_lt p
  unfold enV
  omega

theorem vmul : ∀ d a b k t r p, Statement (.vmul d a b k t r p) := by
  intro d a b k t r p n hn
  obtain rfl := Option.some.inj hn
  have := d.isLt
  have := a.isLt
  have := b.isLt
  have := k.isLt
  have := vTy_code_lt t
  have := rnd_code_lt r
  have := level_code_lt p
  unfold enV
  omega

theorem vdiv : ∀ d a b k f r h, Statement (.vdiv d a b k f r h) := by
  intro d a b k f r h n hn
  obtain rfl := Option.some.inj hn
  have := d.isLt
  have := a.isLt
  have := b.isLt
  have := k.isLt
  have := fTy2_code_lt f
  have := rnd_code_lt r
  have := h.isLt
  unfold enVl
  omega

theorem vmin : ∀ d a b k t p, Statement (.vmin d a b k t p) := by
  intro d a b k t p n hn
  obtain rfl := Option.some.inj hn
  have := d.isLt
  have := a.isLt
  have := b.isLt
  have := k.isLt
  have := vTy_code_lt t
  have := level_code_lt p
  unfold enV
  omega

theorem vmax : ∀ d a b k t p, Statement (.vmax d a b k t p) := by
  intro d a b k t p n hn
  obtain rfl := Option.some.inj hn
  have := d.isLt
  have := a.isLt
  have := b.isLt
  have := k.isLt
  have := vTy_code_lt t
  have := level_code_lt p
  unfold enV
  omega

theorem vand : ∀ d a b k t p, Statement (.vand d a b k t p) := by
  intro d a b k t p n hn
  obtain rfl := Option.some.inj hn
  have := d.isLt
  have := a.isLt
  have := b.isLt
  have := k.isLt
  have := vTy_code_lt t
  have := level_code_lt p
  unfold enV
  omega

theorem vor : ∀ d a b k t p, Statement (.vor d a b k t p) := by
  intro d a b k t p n hn
  obtain rfl := Option.some.inj hn
  have := d.isLt
  have := a.isLt
  have := b.isLt
  have := k.isLt
  have := vTy_code_lt t
  have := level_code_lt p
  unfold enV
  omega

theorem vxor : ∀ d a b k t p, Statement (.vxor d a b k t p) := by
  intro d a b k t p n hn
  obtain rfl := Option.some.inj hn
  have := d.isLt
  have := a.isLt
  have := b.isLt
  have := k.isLt
  have := vTy_code_lt t
  have := level_code_lt p
  unfold enV
  omega

theorem vshl : ∀ d a b k t p, Statement (.vshl d a b k t p) := by
  intro d a b k t p n hn
  obtain rfl := Option.some.inj hn
  have := d.isLt
  have := a.isLt
  have := b.isLt
  have := k.isLt
  have := vTy_code_lt t
  have := level_code_lt p
  unfold enV
  omega

theorem vshr : ∀ d a b k t p, Statement (.vshr d a b k t p) := by
  intro d a b k t p n hn
  obtain rfl := Option.some.inj hn
  have := d.isLt
  have := a.isLt
  have := b.isLt
  have := k.isLt
  have := vTy_code_lt t
  have := level_code_lt p
  unfold enV
  omega

theorem vcmpEq : ∀ d a b k t, Statement (.vcmpEq d a b k t) := by
  intro d a b k t n hn
  obtain rfl := Option.some.inj hn
  have := d.isLt
  have := a.isLt
  have := b.isLt
  have := k.isLt
  have := vTy_code_lt t
  unfold enV
  omega

theorem vcmpNe : ∀ d a b k t, Statement (.vcmpNe d a b k t) := by
  intro d a b k t n hn
  obtain rfl := Option.some.inj hn
  have := d.isLt
  have := a.isLt
  have := b.isLt
  have := k.isLt
  have := vTy_code_lt t
  unfold enV
  omega

theorem vcmpLt : ∀ d a b k t, Statement (.vcmpLt d a b k t) := by
  intro d a b k t n hn
  obtain rfl := Option.some.inj hn
  have := d.isLt
  have := a.isLt
  have := b.isLt
  have := k.isLt
  have := vTy_code_lt t
  unfold enV
  omega

theorem vcmpLe : ∀ d a b k t, Statement (.vcmpLe d a b k t) := by
  intro d a b k t n hn
  obtain rfl := Option.some.inj hn
  have := d.isLt
  have := a.isLt
  have := b.isLt
  have := k.isLt
  have := vTy_code_lt t
  unfold enV
  omega

theorem vcmpUn : ∀ d a b k t, Statement (.vcmpUn d a b k t) := by
  intro d a b k t n hn
  obtain rfl := Option.some.inj hn
  have := d.isLt
  have := a.isLt
  have := b.isLt
  have := k.isLt
  have := vTy_code_lt t
  unfold enV
  omega

theorem vsel : ∀ d a b k p, Statement (.vsel d a b k p) := by
  intro d a b k p n hn
  obtain rfl := Option.some.inj hn
  have := d.isLt
  have := a.isLt
  have := b.isLt
  have := k.isLt
  have := level_code_lt p
  unfold enV
  omega

theorem vbcast : ∀ s v k t p, Statement (.vbcast s v k t p) := by
  intro s v k t p n hn
  obtain rfl := Option.some.inj hn
  have := s.isLt
  have := v.isLt
  have := k.isLt
  have := vTy_code_lt t
  have := level_code_lt p
  unfold enVs
  omega

theorem vext : ∀ s v n t p, Statement (.vext s v n t p) := by
  intro s v n t p n hn
  obtain rfl := Option.some.inj hn
  have := s.isLt
  have := v.isLt
  have := n.isLt
  have := vTy_code_lt t
  have := level_code_lt p
  unfold enVs
  omega

theorem vins : ∀ s v n t p, Statement (.vins s v n t p) := by
  intro s v n t p n hn
  obtain rfl := Option.some.inj hn
  have := s.isLt
  have := v.isLt
  have := n.isLt
  have := vTy_code_lt t
  have := level_code_lt p
  unfold enVs
  omega

theorem vshuf : ∀ d a b k p, Statement (.vshuf d a b k p) := by
  intro d a b k p n hn
  obtain rfl := Option.some.inj hn
  have := d.isLt
  have := a.isLt
  have := b.isLt
  have := k.isLt
  have := level_code_lt p
  unfold enV
  omega

theorem vredAdd : ∀ s v r k t p, Statement (.vredAdd s v r k t p) := by
  intro s v r k t p n hn
  obtain rfl := Option.some.inj hn
  have := s.isLt
  have := v.isLt
  have := rnd_code_lt r
  have := k.isLt
  have := vTy_code_lt t
  have := level_code_lt p
  unfold enVs
  omega

theorem vredMin : ∀ s v k t p, Statement (.vredMin s v k t p) := by
  intro s v k t p n hn
  obtain rfl := Option.some.inj hn
  have := s.isLt
  have := v.isLt
  have := k.isLt
  have := vTy_code_lt t
  have := level_code_lt p
  unfold enVs
  omega

theorem vredMax : ∀ s v k t p, Statement (.vredMax s v k t p) := by
  intro s v k t p n hn
  obtain rfl := Option.some.inj hn
  have := s.isLt
  have := v.isLt
  have := k.isLt
  have := vTy_code_lt t
  have := level_code_lt p
  unfold enVs
  omega

theorem vcvt : ∀ d a s t k r, Statement (.vcvt d a s t k r) := by
  intro d a s t k r n hn
  obtain rfl := Option.some.inj hn
  have := d.isLt
  have := a.isLt
  have := tyCode_code_lt s
  have := tyCode_code_lt t
  have := k.isLt
  have := rnd_code_lt r
  unfold enVc
  omega

theorem vsqrt : ∀ d a k f r h, Statement (.vsqrt d a k f r h) := by
  intro d a k f r h n hn
  obtain rfl := Option.some.inj hn
  have := d.isLt
  have := a.isLt
  have := k.isLt
  have := fTy2_code_lt f
  have := rnd_code_lt r
  have := h.isLt
  unfold enVl
  omega

theorem vabs : ∀ d a k t p, Statement (.vabs d a k t p) := by
  intro d a k t p n hn
  obtain rfl := Option.some.inj hn
  have := d.isLt
  have := a.isLt
  have := k.isLt
  have := vTy_code_lt t
  have := level_code_lt p
  unfold enV
  omega

theorem vneg : ∀ d a k t p, Statement (.vneg d a k t p) := by
  intro d a k t p n hn
  obtain rfl := Option.some.inj hn
  have := d.isLt
  have := a.isLt
  have := k.isLt
  have := vTy_code_lt t
  have := level_code_lt p
  unfold enV
  omega

theorem viota : ∀ d k t p, Statement (.viota d k t p) := by
  intro d k t p n hn
  obtain rfl := Option.some.inj hn
  have := d.isLt
  have := k.isLt
  have := vTy_code_lt t
  have := level_code_lt p
  unfold enV
  omega

theorem eamac : ∀ x a b f h, Statement (.eamac x a b f h) := by
  intro x a b f h n hn
  obtain rfl := Option.some.inj hn
  have := x.isLt
  have := a.isLt
  have := b.isLt
  have := fTy2_code_lt f
  have := h.isLt
  unfold enXe
  omega

theorem eamacNg : ∀ x a b f h, Statement (.eamacNg x a b f h) := by
  intro x a b f h n hn
  obtain rfl := Option.some.inj hn
  have := x.isLt
  have := a.isLt
  have := b.isLt
  have := fTy2_code_lt f
  have := h.isLt
  unfold enXe
  omega

theorem eamac3 : ∀ x a b c f h, Statement (.eamac3 x a b c f h) := by
  intro x a b c f h n hn
  obtain rfl := Option.some.inj hn
  have := x.isLt
  have := a.isLt
  have := b.isLt
  have := c.isLt
  have := fTy2_code_lt f
  have := h.isLt
  unfold enXe
  omega

theorem eamac3Ng : ∀ x a b c f h, Statement (.eamac3Ng x a b c f h) := by
  intro x a b c f h n hn
  obtain rfl := Option.some.inj hn
  have := x.isLt
  have := a.isLt
  have := b.isLt
  have := c.isLt
  have := fTy2_code_lt f
  have := h.isLt
  unfold enXe
  omega

theorem eaclr : ∀ x, Statement (.eaclr x) := by
  intro x n hn
  obtain rfl := Option.some.inj hn
  have := x.isLt
  unfold enXe
  omega

theorem eaadd : ∀ x s h, Statement (.eaadd x s h) := by
  intro x s h n hn
  obtain rfl := Option.some.inj hn
  have := x.isLt
  have := s.isLt
  have := h.isLt
  unfold enXe
  omega

theorem eaaddNg : ∀ x s h, Statement (.eaaddNg x s h) := by
  intro x s h n hn
  obtain rfl := Option.some.inj hn
  have := x.isLt
  have := s.isLt
  have := h.isLt
  unfold enXe
  omega

theorem xop : ∀ s d a b h, Statement (.xop s d a b h) := by
  intro s d a b h n hn
  obtain rfl := Option.some.inj hn
  have := s.isLt
  have := d.isLt
  have := a.isLt
  have := b.isLt
  have := h.isLt
  unfold enX
  omega

theorem xcfg : ∀ s b h, Statement (.xcfg s b h) := by
  intro s b h n hn
  obtain rfl := Option.some.inj hn
  have := s.isLt
  have := b.isLt
  have := h.isLt
  unfold enXc
  omega

theorem xdrop : ∀ s h, Statement (.xdrop s h) := by
  intro s h n hn
  obtain rfl := Option.some.inj hn
  have := s.isLt
  have := h.isLt
  unfold enXc
  omega

theorem offer : ∀ d e a, Statement (.offer d e a) := by
  intro d e a n hn
  obtain rfl := Option.some.inj hn
  have := d.isLt
  have := evRef_code_lt e
  have := a.isLt
  unfold enE
  omega

theorem choose : ∀ d, Statement (.choose d) := by
  intro d n hn
  obtain rfl := Option.some.inj hn
  have := d.isLt
  unfold enE
  omega

theorem poll : ∀ d, Statement (.poll d) := by
  intro d n hn
  obtain rfl := Option.some.inj hn
  have := d.isLt
  unfold enE
  omega

theorem withdraw : ∀ d, Statement (.withdraw d) := by
  intro d n hn
  obtain rfl := Option.some.inj hn
  have := d.isLt
  unfold enE
  omega

theorem evjoin : ∀ e, Statement (.evjoin e) := by
  intro e n hn
  obtain rfl := Option.some.inj hn
  have := evRef_code_lt e
  unfold enE
  omega

theorem evleave : ∀ e, Statement (.evleave e) := by
  intro e n hn
  obtain rfl := Option.some.inj hn
  have := evRef_code_lt e
  unfold enE
  omega

theorem evbind : ∀ d e a, Statement (.evbind d e a) := by
  intro d e a n hn
  obtain rfl := Option.some.inj hn
  have := d.isLt
  have := evRef_code_lt e
  have := a.isLt
  unfold enE
  omega

theorem evbindU : ∀ e a, Statement (.evbindU e a) := by
  intro e a n hn
  obtain rfl := Option.some.inj hn
  have := evRef_code_lt e
  have := a.isLt
  unfold enE
  omega

theorem rqpush : ∀ d v a, Statement (.rqpush d v a) := by
  intro d v a n hn
  obtain rfl := Option.some.inj hn
  have := d.isLt
  have := v.isLt
  have := a.isLt
  unfold enE
  omega

theorem rqpop : ∀ d t a, Statement (.rqpop d t a) := by
  intro d t a n hn
  obtain rfl := Option.some.inj hn
  have := d.isLt
  have := t.isLt
  have := a.isLt
  unfold enE
  omega

theorem qpushSl : ∀ d a s, Statement (.qpushSl d a s) := by
  intro d a s n hn
  obtain rfl := Option.some.inj hn
  have := d.isLt
  have := a.isLt
  have := s.isLt
  unfold enE
  omega

theorem qpushGth : ∀ d a, Statement (.qpushGth d a) := by
  intro d a n hn
  obtain rfl := Option.some.inj hn
  have := d.isLt
  have := a.isLt
  unfold enE
  omega

theorem qpushCpy : ∀ d a, Statement (.qpushCpy d a) := by
  intro d a n hn
  obtain rfl := Option.some.inj hn
  have := d.isLt
  have := a.isLt
  unfold enE
  omega

theorem qstat : ∀ d a, Statement (.qstat d a) := by
  intro d a n hn
  obtain rfl := Option.some.inj hn
  have := d.isLt
  have := a.isLt
  unfold enE
  omega

theorem mgang : ∀ d a, Statement (.mgang d a) := by
  intro d a n hn
  obtain rfl := Option.some.inj hn
  have := d.isLt
  have := a.isLt
  unfold enE
  omega

theorem fuse : ∀ d a, Statement (.fuse d a) := by
  intro d a n hn
  obtain rfl := Option.some.inj hn
  have := d.isLt
  have := a.isLt
  unfold enE
  omega

theorem unfuse : ∀ d, Statement (.unfuse d) := by
  intro d n hn
  obtain rfl := Option.some.inj hn
  have := d.isLt
  unfold enE
  omega

theorem rwr : ∀ d s n, Statement (.rwr d s n) := by
  intro d s n n hn
  obtain rfl := Option.some.inj hn
  have := d.isLt
  have := s.isLt
  have := n.isLt
  unfold enEf
  omega

theorem rwrs : ∀ d s n g, Statement (.rwrs d s n g) := by
  intro d s n g n hn
  obtain rfl := Option.some.inj hn
  have := d.isLt
  have := s.isLt
  have := n.isLt
  have := g.isLt
  unfold enEf
  omega

theorem rrd : ∀ d s n g, Statement (.rrd d s n g) := by
  intro d s n g n hn
  obtain rfl := Option.some.inj hn
  have := d.isLt
  have := s.isLt
  have := n.isLt
  have := g.isLt
  unfold enEf
  omega

theorem radd : ∀ d n t, Statement (.radd d n t) := by
  intro d n t n hn
  obtain rfl := Option.some.inj hn
  have := d.isLt
  have := n.isLt
  have := rTy_code_lt t
  unfold enEf
  omega

theorem raddDetF64 : ∀ d n, Statement (.raddDetF64 d n) := by
  intro d n n hn
  obtain rfl := Option.some.inj hn
  have := d.isLt
  have := n.isLt
  unfold enEf
  omega

theorem raddDetF32 : ∀ d n, Statement (.raddDetF32 d n) := by
  intro d n n hn
  obtain rfl := Option.some.inj hn
  have := d.isLt
  have := n.isLt
  unfold enEf
  omega

theorem radds : ∀ d n g t, Statement (.radds d n g t) := by
  intro d n g t n hn
  obtain rfl := Option.some.inj hn
  have := d.isLt
  have := n.isLt
  have := g.isLt
  have := rTy_code_lt t
  unfold enEf
  omega

theorem vfma : ∀ r d a b c k p f, Statement (.vfma r d a b c k p f) := by
  intro r d a b c k p f n hn
  obtain rfl := Option.some.inj hn
  have := mode_code_lt r
  have := d.isLt
  have := a.isLt
  have := b.isLt
  have := c.isLt
  have := k.isLt
  have := level_code_lt p
  have := fTy2_code_lt f
  unfold enV4
  omega

theorem vfms : ∀ r d a b c k p f, Statement (.vfms r d a b c k p f) := by
  intro r d a b c k p f n hn
  obtain rfl := Option.some.inj hn
  have := mode_code_lt r
  have := d.isLt
  have := a.isLt
  have := b.isLt
  have := c.isLt
  have := k.isLt
  have := level_code_lt p
  have := fTy2_code_lt f
  unfold enV4
  omega

theorem illegal : ∀ w, Statement (.illegal w) := by
  intro w n hn
  obtain rfl := Option.some.inj hn
  exact w.isLt

theorem mmaBb : ∀ a0 a1, Statement (.mmaBb a0 a1) := by
  intro _ _ _ hn; cases hn

theorem mmaE4 : ∀ a0 a1, Statement (.mmaE4 a0 a1) := by
  intro _ _ _ hn; cases hn

theorem mmaE5 : ∀ a0 a1, Statement (.mmaE5 a0 a1) := by
  intro _ _ _ hn; cases hn

theorem mmaDd : ∀ a0 a1, Statement (.mmaDd a0 a1) := by
  intro _ _ _ hn; cases hn

theorem mmaF4 : ∀ a0 a1, Statement (.mmaF4 a0 a1) := by
  intro _ _ _ hn; cases hn

theorem mmaP8 : ∀ a0 a1, Statement (.mmaP8 a0 a1) := by
  intro _ _ _ hn; cases hn

theorem mmaPi : ∀ a0 a1, Statement (.mmaPi a0 a1) := by
  intro _ _ _ hn; cases hn

theorem mzero : ∀ a0 a1, Statement (.mzero a0 a1) := by
  intro _ _ _ hn; cases hn

theorem mdrain : ∀ a0 a1, Statement (.mdrain a0 a1) := by
  intro _ _ _ hn; cases hn

theorem mswap : ∀ a0 a1, Statement (.mswap a0 a1) := by
  intro _ _ _ hn; cases hn

theorem mscale : ∀ a0 a1, Statement (.mscale a0 a1) := by
  intro _ _ _ hn; cases hn

theorem msts : ∀ a0 a1, Statement (.msts a0 a1) := by
  intro _ _ _ hn; cases hn

theorem qinit : ∀ a0 a1, Statement (.qinit a0 a1) := by
  intro _ _ _ hn; cases hn

theorem qacc : ∀ a0 a1, Statement (.qacc a0 a1) := by
  intro _ _ _ hn; cases hn

theorem qapl : ∀ a0 a1, Statement (.qapl a0 a1) := by
  intro _ _ _ hn; cases hn

theorem qaplt : ∀ a0 a1, Statement (.qaplt a0 a1) := by
  intro _ _ _ hn; cases hn

theorem qapr : ∀ a0 a1, Statement (.qapr a0 a1) := by
  intro _ _ _ hn; cases hn

theorem qaprt : ∀ a0 a1, Statement (.qaprt a0 a1) := by
  intro _ _ _ hn; cases hn

theorem qrcp : ∀ a0 a1, Statement (.qrcp a0 a1) := by
  intro _ _ _ hn; cases hn

theorem qsave : ∀ a0 a1, Statement (.qsave a0 a1) := by
  intro _ _ _ hn; cases hn

theorem qload : ∀ a0 a1, Statement (.qload a0 a1) := by
  intro _ _ _ hn; cases hn

theorem gthr : ∀ a0 a1, Statement (.gthr a0 a1) := by
  intro _ _ _ hn; cases hn

theorem cpy : ∀ a0 a1, Statement (.cpy a0 a1) := by
  intro _ _ _ hn; cases hn

theorem cpy2d : ∀ a0 a1, Statement (.cpy2d a0 a1) := by
  intro _ _ _ hn; cases hn

theorem fill : ∀ a0 a1, Statement (.fill a0 a1) := by
  intro _ _ _ hn; cases hn

theorem commandLaunch : ∀ a0 a1, Statement (.commandLaunch a0 a1) := by
  intro _ _ _ hn; cases hn

theorem commandCompletion : ∀ a0 a1, Statement (.commandCompletion a0 a1) := by
  intro _ _ _ hn; cases hn

theorem commandStop : ∀ a0 a1, Statement (.commandStop a0 a1) := by
  intro _ _ _ hn; cases hn

theorem fusedStageStep : ∀ a0 a1 a2, Statement (.fusedStageStep a0 a1 a2) := by
  intro _ _ _ _ hn; cases hn

theorem fusionFault : ∀ a0 a1 a2 a3, Statement (.fusionFault a0 a1 a2 a3) := by
  intro _ _ _ _ _ hn; cases hn

theorem longLatencyWriteback : ∀ a0 a1 a2 a3, Statement (.longLatencyWriteback a0 a1 a2 a3) := by
  intro _ _ _ _ _ hn; cases hn

theorem storeAcceptance : ∀ a0 a1 a2, Statement (.storeAcceptance a0 a1 a2) := by
  intro _ _ _ _ hn; cases hn

theorem trapEntry : ∀ a0 a1, Statement (.trapEntry a0 a1) := by
  intro _ _ _ hn; cases hn

theorem resolution : ∀ a0, Statement (.resolution a0) := by
  intro _ _ hn; cases hn

theorem eventDelivery : ∀ a0, Statement (.eventDelivery a0) := by
  intro _ _ hn; cases hn

theorem ceruleanTick : Statement .ceruleanTick := by
  intro _ hn; cases hn

theorem faultReport : Statement .faultReport := by
  intro _ hn; cases hn

theorem resume : ∀ a0 a1 a2, Statement (.resume a0 a1 a2) := by
  intro _ _ _ _ hn; cases hn

theorem skip : ∀ a0 a1 a2, Statement (.skip a0 a1 a2) := by
  intro _ _ _ _ hn; cases hn

theorem kill : ∀ a0 a1 a2, Statement (.kill a0 a1 a2) := by
  intro _ _ _ _ hn; cases hn

theorem edit : ∀ a0 a1 a2, Statement (.edit a0 a1 a2) := by
  intro _ _ _ _ hn; cases hn

theorem discard : ∀ a0 a1 a2, Statement (.discard a0 a1 a2) := by
  intro _ _ _ _ hn; cases hn

theorem stallFlag : ∀ a0 a1, Statement (.stallFlag a0 a1) := by
  intro _ _ _ hn; cases hn

theorem probe : ∀ a0 a1 a2, Statement (.probe a0 a1 a2) := by
  intro _ _ _ _ hn; cases hn

theorem probeRecheck : ∀ a0, Statement (.probeRecheck a0) := by
  intro _ _ hn; cases hn

theorem hang : ∀ a0 a1, Statement (.hang a0 a1) := by
  intro _ _ _ hn; cases hn

theorem remap : ∀ a0, Statement (.remap a0) := by
  intro _ _ hn; cases hn

theorem migration : ∀ a0 a1 a2, Statement (.migration a0 a1 a2) := by
  intro _ _ _ _ hn; cases hn

theorem swapThreshold : ∀ a0, Statement (.swapThreshold a0) := by
  intro _ _ hn; cases hn

theorem timeSlice : ∀ a0, Statement (.timeSlice a0) := by
  intro _ _ hn; cases hn

theorem create : ∀ a0 a1 a2 a3 a4, Statement (.create a0 a1 a2 a3 a4) := by
  intro _ _ _ _ _ _ hn; cases hn

theorem restore : ∀ a0 a1 a2 a3 a4, Statement (.restore a0 a1 a2 a3 a4) := by
  intro _ _ _ _ _ _ hn; cases hn

theorem unbind : ∀ a0 a1, Statement (.unbind a0 a1) := by
  intro _ _ _ hn; cases hn

theorem makeActive : ∀ a0 a1, Statement (.makeActive a0 a1) := by
  intro _ _ _ hn; cases hn

theorem spill : ∀ a0, Statement (.spill a0) := by
  intro _ _ hn; cases hn

theorem restoreComplete : ∀ a0 a1, Statement (.restoreComplete a0 a1) := by
  intro _ _ _ hn; cases hn

theorem reload : ∀ a0 a1 a2, Statement (.reload a0 a1 a2) := by
  intro _ _ _ _ hn; cases hn

theorem recordAccept : ∀ a0, Statement (.recordAccept a0) := by
  intro _ _ hn; cases hn

theorem claimTimeout : ∀ a0, Statement (.claimTimeout a0) := by
  intro _ _ hn; cases hn

theorem admission : ∀ a0 a1 a2 a3, Statement (.admission a0 a1 a2 a3) := by
  intro _ _ _ _ _ hn; cases hn

theorem lstart : ∀ a0, Statement (.lstart a0) := by
  intro _ _ hn; cases hn

theorem launchStart : Statement .launchStart := by
  intro _ hn; cases hn

theorem launchCompletion : ∀ a0, Statement (.launchCompletion a0) := by
  intro _ _ hn; cases hn

theorem launchReport : ∀ a0, Statement (.launchReport a0) := by
  intro _ _ hn; cases hn

theorem windowClose : ∀ a0, Statement (.windowClose a0) := by
  intro _ _ hn; cases hn

theorem stepTimeout : ∀ a0, Statement (.stepTimeout a0) := by
  intro _ _ hn; cases hn

theorem stop : ∀ a0 a1, Statement (.stop a0 a1) := by
  intro _ _ _ hn; cases hn

theorem run : ∀ a0, Statement (.run a0) := by
  intro _ _ hn; cases hn

theorem rtick : ∀ a0, Statement (.rtick a0) := by
  intro _ _ hn; cases hn

theorem step : ∀ a0 a1, Statement (.step a0 a1) := by
  intro _ _ _ hn; cases hn

theorem externalDebugPin : ∀ a0 a1, Statement (.externalDebugPin a0 a1) := by
  intro _ _ _ hn; cases hn

theorem arm : Statement .arm := by
  intro _ hn; cases hn

theorem host : Statement .host := by
  intro _ hn; cases hn

theorem ivoryPin : Statement .ivoryPin := by
  intro _ hn; cases hn

theorem ivoryLatch : Statement .ivoryLatch := by
  intro _ hn; cases hn

theorem tinv : ∀ a0 a1, Statement (.tinv a0 a1) := by
  intro _ _ _ hn; cases hn

theorem tstatDone : ∀ a0, Statement (.tstatDone a0) := by
  intro _ _ hn; cases hn

theorem translationWalk : ∀ a0 a1 a2, Statement (.translationWalk a0 a1 a2) := by
  intro _ _ _ _ hn; cases hn

theorem crossbarMessage : ∀ a0 a1 a2 a3, Statement (.crossbarMessage a0 a1 a2 a3) := by
  intro _ _ _ _ _ hn; cases hn

theorem flitReplay : ∀ a0 a1, Statement (.flitReplay a0 a1) := by
  intro _ _ _ hn; cases hn

theorem retrain : ∀ a0 a1, Statement (.retrain a0 a1) := by
  intro _ _ _ hn; cases hn

theorem retrainComplete : ∀ a0, Statement (.retrainComplete a0) := by
  intro _ _ hn; cases hn

theorem retrainAttemptFail : ∀ a0, Statement (.retrainAttemptFail a0) := by
  intro _ _ hn; cases hn

theorem up : ∀ a0, Statement (.up a0) := by
  intro _ _ hn; cases hn

theorem rt : ∀ a0, Statement (.rt a0) := by
  intro _ _ hn; cases hn

theorem packetIngress : ∀ a0, Statement (.packetIngress a0) := by
  intro _ _ hn; cases hn

theorem packetAck : ∀ a0 a1 a2, Statement (.packetAck a0 a1 a2) := by
  intro _ _ _ _ hn; cases hn

theorem packetResend : ∀ a0 a1, Statement (.packetResend a0 a1) := by
  intro _ _ _ hn; cases hn

theorem remoteSignalUpdate : ∀ a0 a1, Statement (.remoteSignalUpdate a0 a1) := by
  intro _ _ _ hn; cases hn

theorem rrdReply : ∀ a0 a1 a2, Statement (.rrdReply a0 a1 a2) := by
  intro _ _ _ _ hn; cases hn

theorem syncMessage : ∀ a0 a1, Statement (.syncMessage a0 a1) := by
  intro _ _ _ hn; cases hn

theorem hostAccess : ∀ a0, Statement (.hostAccess a0) := by
  intro _ _ hn; cases hn

theorem lqdb : ∀ a0 a1, Statement (.lqdb a0 a1) := by
  intro _ _ _ hn; cases hn

theorem hcompWrite : ∀ a0, Statement (.hcompWrite a0) := by
  intro _ _ hn; cases hn

theorem lqcfgWrite : ∀ a0 a1, Statement (.lqcfgWrite a0 a1) := by
  intro _ _ _ hn; cases hn

theorem rcfgWrite : ∀ a0 a1 a2, Statement (.rcfgWrite a0 a1 a2) := by
  intro _ _ _ _ hn; cases hn

theorem jcfgWrite : ∀ a0, Statement (.jcfgWrite a0) := by
  intro _ _ hn; cases hn

theorem pctlWrite : ∀ a0, Statement (.pctlWrite a0) := by
  intro _ _ hn; cases hn

theorem fctlWrite : ∀ a0, Statement (.fctlWrite a0) := by
  intro _ _ hn; cases hn

theorem fen : ∀ a0, Statement (.fen a0) := by
  intro _ _ hn; cases hn

theorem groupEntryWrite : ∀ a0 a1 a2, Statement (.groupEntryWrite a0 a1 a2) := by
  intro _ _ _ _ hn; cases hn

theorem registerWrite : ∀ a0 a1, Statement (.registerWrite a0 a1) := by
  intro _ _ _ hn; cases hn

theorem loadFirmware : ∀ a0 a1, Statement (.loadFirmware a0 a1) := by
  intro _ _ _ hn; cases hn

theorem installImageKey : ∀ a0 a1 a2, Statement (.installImageKey a0 a1 a2) := by
  intro _ _ _ _ hn; cases hn

theorem attest : ∀ a0, Statement (.attest a0) := by
  intro _ _ hn; cases hn

theorem setOwnerKeyDigest : ∀ a0, Statement (.setOwnerKeyDigest a0) := by
  intro _ _ hn; cases hn

theorem boot : ∀ a0 a1, Statement (.boot a0 a1) := by
  intro _ _ _ hn; cases hn

theorem selfTest : ∀ a0 a1, Statement (.selfTest a0 a1) := by
  intro _ _ _ hn; cases hn

theorem patrolScrub : ∀ a0 a1, Statement (.patrolScrub a0 a1) := by
  intro _ _ _ hn; cases hn

theorem powerWindow : ∀ a0 a1 a2, Statement (.powerWindow a0 a1 a2) := by
  intro _ _ _ _ hn; cases hn

theorem thermalTrip : Statement .thermalTrip := by
  intro _ hn; cases hn

theorem galrilFPortUp : ∀ a0, Statement (.galrilFPortUp a0) := by
  intro _ _ hn; cases hn

theorem galrilFPortDown : ∀ a0, Statement (.galrilFPortDown a0) := by
  intro _ _ hn; cases hn

theorem cxlLinkUp : ∀ a0 a1 a2, Statement (.cxlLinkUp a0 a1 a2) := by
  intro _ _ _ _ hn; cases hn

theorem cxlLinkDown : ∀ a0, Statement (.cxlLinkDown a0) := by
  intro _ _ hn; cases hn

theorem selfTestResult : ∀ a0 a1, Statement (.selfTestResult a0 a1) := by
  intro _ _ _ hn; cases hn

end OneWord

end Sys2Proof.Laws
end

