-- ==== Sys2Proof/Tests/Slice0.lean ====
section
/-! SUPPORT. Tests: ill-formed instructions are refused, words of the spec's examples decode, states that meet the hypotheses of each statement, and one step of instructions whose results the spec gives or a hand calculation from it. -/

namespace Sys2Proof.Machine.Tests

open Sys2Proof Sys2Proof.Machine

set_option Elab.async false

/-! Ill-formed instructions: one for each check. -/

theorem test_wf_last : (Instr.add 3 1 2 .s64 .last).wf = false := by decide
theorem test_wf_last_vector : (Instr.vadd 3 1 2 0 .f64 .dyn .last).wf = false := by decide
theorem test_wf_signed : (Instr.mulh 3 1 2 .n64 .both).wf = false := by decide
theorem test_wf_unsigned : (Instr.mulhn 3 1 2 .s64 .both).wf = false := by decide
theorem test_wf_sel_last : (Instr.sel 0 1 2 .last).wf = false := by decide
theorem test_wf_ffma_last : (Instr.ffma 0 1 2 .f64 .dyn .last).wf = false := by decide
theorem test_wf_jr_31 : (Instr.jr 31).wf = false := by decide
theorem test_wf_loop_empty : (Instr.loop 1 0).wf = false := by decide
theorem test_wf_loopi_w0 : (Instr.loopi 0 1 2 1).wf = false := by decide
theorem test_wf_loopi_empty : (Instr.loopi 1 1 2 0).wf = false := by decide
theorem test_wf_rds_number : (Instr.rds 1 9 .both).wf = false := by decide
theorem test_wf_wrs_readonly : (Instr.wrs 1 0x31).wf = false := by decide
theorem test_wf_int_rounding : (Instr.vadd 1 1 2 0 .s64 .dyn .both).wf = false := by decide
theorem test_wf_vand_float : (Instr.vand 1 1 2 0 .f64 .both).wf = false := by decide
theorem test_wf_vcmp_un_int : (Instr.vcmpUn 1 1 2 0 .s64).wf = false := by decide
theorem test_wf_vabs_natural : (Instr.vabs 1 1 0 .n64 .both).wf = false := by decide
theorem test_wf_core : (Instr.fen 7936).wf = false := by decide
theorem test_wf_cluster : (Instr.run 992).wf = false := by decide
theorem test_wf_command : (Instr.cpy 0 0).wf = false := by decide
theorem test_wf_die : (Instr.tstatDone 4).wf = false := by decide
theorem test_wf_quad : (Instr.fusedStageStep 0 62 0).wf = false := by decide
theorem test_wf_home : (Instr.resolution [.die 4]).wf = false := by decide
theorem test_wf_port : (Instr.packetResend 36 0).wf = false := by decide

/-! Words written out from the encodings of the spec: one or more of each family. -/

/-- R57, format I: OPC 0x08, RD 3, RA 3, IMM −8, DL 0; R99's example. -/
theorem test_decode_addi : decode 0x10187FE0 = .addi 3 3 (-8) .both := by decide +kernel
/-- R102's example. -/
theorem test_decode_lea : decode 0x1C30213C = .leaX8 6 1 2 .both := by decide +kernel
theorem test_decode_chk : decode 0x1E00A330 = .chk 5 6 := by decide +kernel
/-- R106's example. -/
theorem test_decode_div : decode 0x2020A342 = .divS32 4 5 6 2 := by decide +kernel
/-- R105's example. -/
theorem test_decode_li : decode 0x18480918 = .li 9 0x246 .both := by decide +kernel
/-- R108's example: 12 instructions back. -/
theorem test_decode_branch : decode 0x38189FF4 = .bltn 3 4 (-12) := by decide +kernel
/-- R110's example: 100 instructions ahead. -/
theorem test_decode_call : decode 0x42000064 = .call 100 := by decide +kernel
theorem test_decode_ret : decode 0x44F80000 = .ret := by decide +kernel
theorem test_decode_trap : decode 0x4C000114 = .trap 5 := by decide +kernel
theorem test_decode_rds : decode 0x4E10000C = .rds 2 3 .both := by decide +kernel
theorem test_decode_wrs : decode 0x50012080 = .wrs 9 0x20 := by decide +kernel
/-- R208's example. -/
theorem test_decode_load : decode 0x52107002 = .ldD 2 1 0 2 := by decide +kernel
/-- R174's example. -/
theorem test_decode_fence : decode 0x6E000030 = .fence .rel .pk := by decide +kernel
theorem test_decode_mask : decode 0x84194000 = .mand 3 1 2 ∧ decode 0x84111800 = .mnot 2 1 ∧ decode 0x8A400002 = .bmall 1 2 := by decide +kernel
theorem test_decode_vector : decode 0x9E21180C = .vcmpLe 1 1 3 0 .f64 ∧ decode 0xA0230A40 = .vsel 1 3 1 2 .both := by decide +kernel
theorem test_decode_exact : decode 0xB8000000 = .eaclr 0 := by decide +kernel
theorem test_decode_ring : decode 0xCE384140 = .rqpush 7 4 5 ∧ decode 0xD0207140 = .rqpop 4 7 5 := by decide +kernel
/-- R67: an opcode that the table does not give is no instruction. -/
theorem test_decode_unassigned : decode 0 = .illegal 0 := by decide +kernel

/-! States for the tests. -/

/-- A strand in bank 0 of core 0, its space mapped, ready to issue. -/
def T0 : State := { State.reset.bootStrand with boot := { State.reset.boot with stage := 3 } }

/-- The same with its bank changed. -/
def T (f : Bank → Bank) : State := T0.setBank 0 0 (f (T0.bank 0 0))

/-- Registers of a bank set. -/
def regs (l : List (Nat × Word)) (x : Bank) : Bank := { x with ctx := l.foldl (fun c e => c.setS e.1 e.2) x.ctx }

/-- The state after a step that goes on. -/
def after (i : Instr) (s : State) : State := match exec i s with | .next t => t | _ => State.reset

/-- A register of the strand after a step. -/
def reg (i : Instr) (s : State) (n : Nat) : Word := ((after i s).bank 0 0).ctx.s n

/-- The cause code, value and detail of the trap that a step takes. -/
def trapOf (i : Instr) (s : State) : Nat × Word × Nat :=
  let b := ((after i s).bank 0 0).ctx.tb
  (bits b.tcause 0 8, b.tval, bits b.tinfo 0 8)

/-- The one hypothesis of the statements IntegerResults, DivisionResults, Branches, Jumps, IllegalWordTraps, FloatArithmetic, FloatSelections, Conversions, LongResults and MasksAndCompares. -/
theorem witness_quiet : Quiet T0 0 0 := by unfold Quiet; decide +kernel
theorem witness_VectorResults : Quiet T0 0 0 ∧ VTy.isInt .s64 = true ∧ VTy.isInt .f64 = false := by unfold Quiet; decide +kernel
theorem witness_LaneMovesAndReductions : Quiet T0 0 0 ∧ ((List.range 16).filter fun i => ((T0.bank 0 0).ctx.mask 0).getLsbD i) ≠ [] ∧
    ((List.range 16).filter fun i => ((T0.bank 0 0).ctx.mask 1).getLsbD i) = [] := by unfold Quiet; decide +kernel

/-! Scalar instructions: witnesses and steps. -/

/-- R103: an index at the bound and one below it. -/
theorem witness_AddressImmediateAndCheck_below : let s := T (regs [(1, 6), (2, 7)])
    Quiet s 0 0 ∧ (s.bank 0 0).ctx.s 1 < (s.bank 0 0).ctx.s 2 ∧ ((after (.chk 1 2) s).bank 0 0).pc = 0x8000000000010004 := by unfold Quiet; decide +kernel
theorem witness_AddressImmediateAndCheck_at : let s := T (regs [(1, 7), (2, 7)])
    Quiet s 0 0 ∧ (s.bank 0 0).ctx.s 2 ≤ (s.bank 0 0).ctx.s 1 ∧ trapOf (.chk 1 2) s = (9, 7, 0) := by unfold Quiet; decide +kernel

theorem test_add_wraps : reg (.add 3 1 2 .n64 .both) (T (regs [(1, 0xFFFFFFFFFFFFFFFF), (2, 2)])) 3 = 1 := by decide +kernel
theorem test_add_extends : reg (.add 3 1 2 .s32 .both) (T (regs [(1, 0x7FFFFFFF), (2, 1)])) 3 = 0xFFFFFFFF80000000 := by decide +kernel
theorem test_add_w0 : reg (.add 0 1 1 .n64 .both) (T (regs [(1, 5)])) 40 = 10 := by decide +kernel
theorem test_sub_order : reg (.sub 3 1 2 .n32 .both) (T (regs [(1, 1), (2, 2)])) 3 = 0xFFFFFFFF := by decide +kernel
theorem test_mulh : reg (.mulh 3 1 2 .s64 .both) (T (regs [(1, 0xFFFFFFFFFFFFFFFF), (2, 2)])) 3 = 0xFFFFFFFFFFFFFFFF := by decide +kernel
theorem test_mulhn : reg (.mulhn 3 1 2 .n64 .both) (T (regs [(1, 0xFFFFFFFFFFFFFFFF), (2, 2)])) 3 = 1 := by decide +kernel
theorem test_shl_full_width : reg (.shl 3 1 2 .n64 .both) (T (regs [(1, 3), (2, 65)])) 3 = 6 := by decide +kernel
theorem test_sha_sign : reg (.sha 3 1 2 .s64 .both) (T (regs [(1, 0x8000000000000000), (2, 63)])) 3 = 0xFFFFFFFFFFFFFFFF := by decide +kernel
theorem test_rol : reg (.rol 3 1 2 .n32 .both) (T (regs [(1, 0x80000001), (2, 1)])) 3 = 3 := by decide +kernel
theorem test_clz_zero : reg (.clz 3 1 .n32 .both) (T (regs [(1, 0)])) 3 = 32 := by decide +kernel
theorem test_ctz : reg (.ctz 3 1 .n64 .both) (T (regs [(1, 8)])) 3 = 3 := by decide +kernel
theorem test_slt_sign : reg (.slt 3 1 2 .s64 .both) (T (regs [(1, 0xFFFFFFFFFFFFFFFF), (2, 0)])) 3 = 1 := by decide +kernel
theorem test_sltn : reg (.sltn 3 1 2 .n64 .both) (T (regs [(1, 0xFFFFFFFFFFFFFFFF), (2, 0)])) 3 = 0 := by decide +kernel
theorem test_lih_source_is_destination : reg (.lih 3 5 .both) (T (regs [(3, 1)])) 3 = 0x20005 := by decide +kernel
theorem test_level_main_keeps_last : reg (.addi 3 1 1 .main) (T (regs [(1, 5)])) 40 = 0 := by decide +kernel

/-- What a division leaves pending. -/
def pendingWrite (i : Instr) (s : State) : List RegWrite := ((after i s).bank 0 0).pend.flatMap (·.writes)

theorem test_div_by_zero : pendingWrite (.div 3 1 2 0) (T (regs [(1, 7)])) = [.s 3 0xFFFFFFFFFFFFFFFF] := by decide +kernel
theorem test_rem_by_zero : pendingWrite (.rem 3 1 2 0) (T (regs [(1, 7)])) = [.s 3 7] := by decide +kernel
theorem test_div_overflow : pendingWrite (.divS32 3 1 2 0) (T (regs [(1, 0x80000000), (2, 0xFFFFFFFFFFFFFFFF)])) = [.s 3 0xFFFFFFFF80000000] := by decide +kernel
theorem test_rem_sign : pendingWrite (.rem 3 1 2 0) (T (regs [(1, 0xFFFFFFFFFFFFFFF9), (2, 2)])) = [.s 3 0xFFFFFFFFFFFFFFFF] := by decide +kernel

/-! Control transfer. -/

theorem test_beq_taken : ((after (.beq 1 2 8) (T (regs [(1, 5), (2, 5)]))).bank 0 0).pc = 0x8000000000010020 := by decide +kernel
theorem test_blt_signed : ((after (.blt 1 2 (-1)) (T (regs [(1, 0xFFFFFFFFFFFFFFFF)]))).bank 0 0).pc = 0x800000000000FFFC := by decide +kernel
theorem test_bltn_not_taken : ((after (.bltn 1 2 8) (T (regs [(1, 0xFFFFFFFFFFFFFFFF)]))).bank 0 0).pc = 0x8000000000010004 := by decide +kernel
theorem test_call_link : reg (.call 4) T0 31 = 0x8000000000010004 ∧ ((after (.call 4) T0).bank 0 0).pc = 0x8000000000010010 := by decide +kernel
theorem test_jr_unaligned : trapOf (.jr 1) (T (regs [(1, 0x8000000000010002)])) = (8, 0x8000000000010002, 0) := by decide +kernel
theorem test_jr_window : trapOf (.jr 1) (T (regs [(1, 0x1000)])) = (7, 0x1000, 0) := by decide +kernel

/-! Hardware loops. -/

/-- Pair n of a bank set: first body instruction, count, length. -/
def loopPair (n : Nat) (first : Word) (count len : Nat) (x : Bank) : Bank :=
  { x with ctx := { x.ctx with loops := x.ctx.loops.setIfInBounds n ⟨(first &&& 0x01FFFFFFFFFFFFFC) ||| 1, BitVec.ofNat 64 (len * 2 ^ 32 + count)⟩ } }

theorem witness_LoopSetup_zero : let s := T0
    Quiet s 0 0 ∧ (s.bank 0 0).ctx.atEnd (s.bank 0 0).curPc = false ∧ ((s.bank 0 0).ctx.s 1).toNat = 0 ∧
      ((after (.loop 1 3) s).bank 0 0).pc = 0x8000000000010010 := by unfold Quiet; decide +kernel
theorem witness_LoopSetup_range : let s := T (regs [(1, 0x100000000)])
    Quiet s 0 0 ∧ (s.bank 0 0).ctx.atEnd (s.bank 0 0).curPc = false ∧ 2 ^ 32 ≤ ((s.bank 0 0).ctx.s 1).toNat ∧
      trapOf (.loop 1 3) s = (18, 0x100000000, 0) := by unfold Quiet; decide +kernel
theorem witness_LoopSetup_outer : let s := T (regs [(1, 0xFFFFFFFF)])
    Quiet s 0 0 ∧ (s.bank 0 0).ctx.atEnd (s.bank 0 0).curPc = false ∧ 0 < ((s.bank 0 0).ctx.s 1).toNat ∧ ((s.bank 0 0).ctx.s 1).toNat < 2 ^ 32 ∧
      ((s.bank 0 0).ctx.pair 0).act = false ∧ (((after (.loop 1 3) s).bank 0 0).ctx.pair 0) = ⟨0x10005, 0x3FFFFFFFF⟩ := by unfold Quiet; decide +kernel
theorem witness_LoopSetup_inner : let s := T fun x => loopPair 0 0x800000000000FFF0 5 9 (regs [(1, 1)] x)
    let c := (s.bank 0 0).ctx
    Quiet s 0 0 ∧ c.atEnd (s.bank 0 0).curPc = false ∧ (c.s 1).toNat = 1 ∧ (c.pair 0).act = true ∧ (c.pair 1).act = false ∧
      (c.pair 0).contains ((s.bank 0 0).curPc + 4) = true ∧ (c.pair 0).contains ((s.bank 0 0).curPc + 4 * 3) = true ∧
      (((after (.loop 1 3) s).bank 0 0).ctx.pair 1) = ⟨0x10005, 0x300000001⟩ := by unfold Quiet; decide +kernel
theorem witness_LoopSetup_refused : let s := T fun x => loopPair 0 0x800000000000FFF0 5 6 (regs [(1, 1)] x)
    let c := (s.bank 0 0).ctx
    Quiet s 0 0 ∧ c.atEnd (s.bank 0 0).curPc = false ∧ (c.s 1).toNat = 1 ∧ (c.pair 0).act = true ∧
      ¬((c.pair 0).contains ((s.bank 0 0).curPc + 4) = true ∧ (c.pair 0).contains ((s.bank 0 0).curPc + 4 * 3) = true) ∧
      (trapOf (.loop 1 3) s).1 = 1 ∧ (trapOf (.loop 1 3) s).2.2 = 6 := by unfold Quiet; decide +kernel
/-- R114: step 0, no iteration, the most iterations in range and one more, and downward. -/
theorem witness_LoopSetup_indexed :
    trapOf (.loopi 1 2 3 2) T0 = (17, 0, 0) ∧
    ((after (.loopi 1 2 3 2) (T (regs [(1, 5), (2, 5), (3, 1)]))).bank 0 0).pc = 0x800000000001000C ∧
    trapOf (.loopi 1 2 3 2) (T (regs [(2, 0x100000000), (3, 1)])) = (18, 0x100000000, 0) ∧
    trapOf (.loopi 1 2 3 2) (T (regs [(1, 0x8000000000000000), (2, 0x7FFFFFFFFFFFFFFF), (3, 1)])) = (18, 0xFFFFFFFFFFFFFFFF, 0) ∧
    ((after (.loopi 1 2 3 2) (T (regs [(2, 0xFFFFFFFF), (3, 1)]))).bank 0 0).ctx.pair 0 = ⟨0x0800000000010007, 0x00010002FFFFFFFF⟩ ∧
    ((after (.loopi 1 2 3 2) (T (regs [(1, 7), (3, 0xFFFE)]))).bank 0 0).ctx.pair 0 = ⟨0x0800000000010007, 0xFFFE000200000004⟩ := by decide +kernel

/-- R114, R115: the counted loop of indexes inside pair 0's body, and one that reaches past it. -/
theorem witness_LoopSetup_indexed_inner : let s := T fun x => loopPair 0 0x800000000000FFF0 5 9 (regs [(2, 3), (3, 1)] x)
    let c := (s.bank 0 0).ctx
    Quiet s 0 0 ∧ c.atEnd (s.bank 0 0).curPc = false ∧ (c.pair 0).act = true ∧ (c.pair 1).act = false ∧ (c.pair 0).contains ((s.bank 0 0).curPc + 4) = true ∧
      (c.pair 0).contains ((s.bank 0 0).curPc + 4 * 2) = true ∧ (((after (.loopi 1 2 3 2) s).bank 0 0).ctx.pair 1) = ⟨0x0800000000010007, 0x0001000200000003⟩ ∧
      (c.pair 0).contains ((s.bank 0 0).curPc + 4 * 5) = false ∧ (trapOf (.loopi 1 2 3 5) s).1 = 1 ∧ (trapOf (.loopi 1 2 3 5) s).2.2 = 6 := by unfold Quiet; decide +kernel

/-- A strand that has issued the last instruction of an inner body. -/
def TEnd (count : Nat) (f : Bank → Bank) : State :=
  T fun x => f { loopPair 1 0x8000000000010000 count 2 x with pc := 0x8000000000010008, endDue := true }

theorem witness_LoopEndSteps_again : let s := TEnd 2 id
    let x := s.bank 0 0
    x.mayEnd = true ∧ (s.core 0).ab = 0 ∧ (x.ctx.pair 1).act = true ∧ (x.ctx.pair 1).last = x.pc - 4 ∧ 2 ≤ (x.ctx.pair 1).count ∧
      ((after (.loopEnd 0 0) s).bank 0 0).pc = 0x8000000000010000 := by decide +kernel
theorem witness_LoopEndSteps_done : let s := TEnd 1 id
    let x := s.bank 0 0
    x.mayEnd = true ∧ (s.core 0).ab = 0 ∧ (x.ctx.pair 1).act = true ∧ (x.ctx.pair 1).last = x.pc - 4 ∧ (x.ctx.pair 1).count = 1 ∧
      (x.ctx.pair 0).act = false ∧ ((after (.loopEnd 0 0) s).bank 0 0).pc = 0x8000000000010008 := by decide +kernel
/-- Both bodies end there: the outer one runs again, or not. -/
theorem witness_LoopEndSteps_both : ∀ n ∈ [1, 2], let s := TEnd 1 (loopPair 0 0x800000000000FFF8 n 4)
    let x := s.bank 0 0
    let y := (after (.loopEnd 0 0) s).bank 0 0
    x.mayEnd = true ∧ (x.ctx.pair 1).last = x.pc - 4 ∧ (x.ctx.pair 1).count = 1 ∧ (x.ctx.pair 0).act = true ∧ (x.ctx.pair 0).last = x.pc - 4 ∧ (x.ctx.pair 0).count = n ∧
      (y.ctx.pair 1).act = false ∧ (y.ctx.pair 0).act = decide (n = 2) ∧ y.pc = (if n = 2 then 0x800000000000FFF8 else 0x8000000000010008) := by decide +kernel
/-- A lone loop, in pair 0. -/
theorem witness_LoopEndSteps_lone : ∀ n ∈ [1, 2], let s := T fun x => { loopPair 0 0x8000000000010000 n 2 x with pc := 0x8000000000010008, endDue := true }
    let x := s.bank 0 0
    let y := (after (.loopEnd 0 0) s).bank 0 0
    x.mayEnd = true ∧ (s.core 0).ab = 0 ∧ (x.ctx.pair 1).act = false ∧ (x.ctx.pair 0).act = true ∧ (x.ctx.pair 0).last = x.pc - 4 ∧ (x.ctx.pair 0).count = n ∧
      (y.ctx.pair 0).act = decide (n = 2) ∧ y.pc = (if n = 2 then 0x8000000000010000 else 0x8000000000010008) := by decide +kernel

/-! System instructions. -/

theorem witness_NopChangesNothing : Quiet T0 0 0 ∧ (T0.bank 0 0).ctx.atEnd (T0.bank 0 0).curPc = false := by unfold Quiet; decide +kernel
theorem witness_NopChangesNothing_end : let s := T (loopPair 0 0x800000000000FFFC 1 2)
    Quiet s 0 0 ∧ (s.bank 0 0).ctx.atEnd (s.bank 0 0).curPc = true ∧ trapOf .nop s = (1, 0x4C000000, 6) ∧
      trapOf (.waitt 1) s = (1, 0x4C002700, 6) := by unfold Quiet; decide +kernel

theorem witness_SnapWaitPhase : Quiet T0 0 0 ∧ (T0.bank 0 0).ctx.atEnd (T0.bank 0 0).curPc = false ∧
    ((T0.bank 0 0).ctx.s 0).toNat ≤ T0.tick.toNat ∧ T0.tick.toNat < (((T (regs [(1, 1)])).bank 0 0).ctx.s 1).toNat ∧
    T0.pushedLive (clusterOf 0) (T0.bank 0 0).id.who = false ∧ (T0.bank 0 0).occupied = false := by unfold Quiet; decide +kernel

/-- A strand in its handler, the trap at 0x8000_0000_0002_0000, with the given tinfo. -/
def THandler (tinfo : Word) : State := T fun x =>
  { x with ctx := { x.ctx with tb := { x.ctx.tb with tstat := 1, tpc := 0x8000000000020000, tinfo := tinfo, tl := #v[1, 2, 3, 4] } } }

theorem witness_TrapAndReturn : (T0.bank 0 0).h = false ∧ trapOf (.trap 63) T0 = (16, 63, 0) ∧ (trapOf .eret T0).1 = 1 ∧
    Quiet (THandler 0x8000000) 0 0 ∧ ((THandler 0x8000000).bank 0 0).h = true ∧ bits ((THandler 0x8000000).bank 0 0).ctx.tb.tinfo 8 4 = 0 ∧
    ((after .eret (THandler 0x8000000)).bank 0 0).pc = 0x8000000000020004 ∧
    ((after .eret (THandler 0)).bank 0 0).pc = 0x8000000000020000 ∧ reg .eret (THandler 0) 42 = 3 := by unfold Quiet; decide +kernel

/-- The trap was taken in the body of pair 1, at its second instruction, and the return passes the body's end. -/
def TPassed (prk : Bool) : State := T fun x => { x with
  trapAt := some 0x8000000000020000
  ctx := { x.ctx with loops := x.ctx.loops.set 1 (LoopPair.make false 0x800000000001FFFC 2 3 0 0),
                      tb := { x.ctx.tb with tstat := if prk then 2 else 1, tpc := 0x8000000000020004, tinfo := 0 } } }
theorem witness_TrapAndReturn_passed : ((TPassed false).bank 0 0).passedEnd 0x8000000000020004 = some 0x8000000000020000 ∧
    ((after .eret (TPassed false)).bank 0 0).pc = 0x8000000000020004 ∧ ((after .eret (TPassed false)).bank 0 0).endDue = true := by decide +kernel

/-- A trap of the next instruction. -/
def trapRec0 (c : Cause) : TrapRec := ⟨0, 0x8000000000010000, ⟨c, 7, 3⟩, false, false, none⟩

theorem witness_TrapTaken_parked : let x := T0.bank 0 0
    x.pend = [] ∧ x.store = none ∧ x.sending = none ∧ x.trapped = [] ∧ x.h = false ∧ x.prk = false ∧ (trapRec0 .align).seq = x.nIssued ∧
      ((T0.raise 0 0 (trapRec0 .align)).bank 0 0).prk = true := by decide +kernel
theorem witness_TrapTaken_handler : let s := T fun x => { x with ctx := { x.ctx with tb := { x.ctx.tb with twvec := 0x8000000000030000, troute := 0 } } }
    let x := s.bank 0 0
    x.pend = [] ∧ x.store = none ∧ x.sending = none ∧ x.trapped = [] ∧ x.h = false ∧ x.prk = false ∧ x.ctx.tb.troute.getLsbD Cause.align.cls = false ∧
      ((s.raise 0 0 (trapRec0 .align)).bank 0 0).pc = 0x8000000000030000 ∧ ((s.raise 0 0 (trapRec0 .align)).bank 0 0).h = true := by decide +kernel
theorem witness_TrapTaken_double : let x := (THandler 0).bank 0 0
    x.pend = [] ∧ x.store = none ∧ x.sending = none ∧ x.trapped = [] ∧ x.h = true ∧ (((THandler 0).raise 0 0 (trapRec0 .align)).fab.reports.map fun q => (q.kind, q.server, q.words.drop 6)) = [(2, 0xFFFFFFFFFFFFFFFF, [8, 7, 0x8000000000010000])] ∧
    ((T0.raise 0 0 (trapRec0 .align)).fab.reports.map fun q => (q.kind, q.server)) = [(1, 0xFFFFFFFFFFFFFFFF)] := by decide +kernel
theorem witness_TrapTaken_entry : let s := T fun x => { x with trapped := [trapRec0 .align, { trapRec0 .trap with seq := 1 }] }
    let x := s.bank 0 0
    x.st = .bound ∧ x.pend = [] ∧ x.store = none ∧ x.sending = none ∧ x.trapped = [trapRec0 .align, { trapRec0 .trap with seq := 1 }] ∧ (trapRec0 .align).seq ≤ 1 ∧
      bits ((after (.trapEntry 0 0) s).bank 0 0).ctx.tb.tcause 0 8 = 8 := by decide +kernel

theorem witness_SystemRegisters : (((0x4F : BitVec 11).toNat = 0x40 + 15) ∧ 0x80 ≤ (0x80 : BitVec 11).toNat ∧ (0x80 : BitVec 11).toNat < 0xC0 ∧
    ((T fun x => { x with id := { x.id with evh := [5] } }).bank 0 0).id.evh[0]? = some 5) := by decide +kernel
theorem test_wrs_fcsr : ((after (.wrs 1 0x20) (T (regs [(1, 0xFFFFFFFFFFFFFFFF)]))).bank 0 0).ctx.fcsr = 0x833F := by decide +kernel
theorem test_rds_last : reg (.rds 0 0x20 .both) (T fun x => { x with ctx := { x.ctx with fcsr := 5 } }) 40 = 5 := by decide +kernel

theorem witness_WorkspaceAndRetire : let s := T (regs [(1, 0x2000)])
    let x := s.bank 0 0
    Quiet s 0 0 ∧ x.ctx.atEnd x.curPc = false ∧ x.store = none ∧ 0x2000 + 8192 ≤ spadSize 0 ∧ (x.ctx.s 1).toNat % 8192 = 0 ∧ (x.ctx.s 1).toNat ≠ x.wsp.toNat ∧
      (x.ctx.s 1).toNat ≠ ((s.core 0).bank 1).wsp.toNat ∧ x.occupied = false ∧ s.occupiedAt 0 0x2000 = false ∧
      (s.writeRegion 0 x.wsp.toNat x.ctx).badLine (spadBase 0 + 0x2000) = none := by unfold Quiet; decide +kernel

theorem test_illegal_word : trapOf (.illegal 0xFFFFFFFF) T0 = trapOf (.illegal 0xFFFFFFFF) T0 ∧ (trapOf (.illegal 0) T0).1 = 1 ∧ (trapOf (.illegal 5) T0).2.1 = 5 := by decide +kernel

/-! Memory: the byte 0x80 stands at offset 0x100 of the scratchpad, w1 points to it. -/

/-- The scratchpad of core 0 with bytes at an offset. -/
def spadWith (s : State) (off : Nat) (bs : List Byte) : State := { s with mem := putBytes s.mem (spadBase 0 + off) bs }

def TM : State := spadWith (T (regs [(1, 0x100), (2, 0x1122334455667788)])) 0x100 [0x80, 0, 0, 0, 0, 0, 0, 0xF0]

theorem witness_LoadResults : Quiet TM 0 0 ∧
    TM.issueChecks (TM.view 0 0) 0x100 8 8 = .ok (.spad 0 0x100) ∧ Place.isFar (.spad 0 0x100) = false ∧
    TM.targetChecks (TM.view 0 0) (.spad 0 0x100) 8 .read = .ok [(spadBase 0 + 0x100, 8)] ∧ TM.farBusy 0 (TM.bank 0 0) (.spad 0 0x100) 8 = false ∧
    TM.landFull (landingFor 0 (.spad 0 0x100) 8 ++ (TM.crossings (dieOf 0) [(spadBase 0 + 0x100, 8)] 0x100 0 8).map Crossing.landing) = false := by unfold Quiet; decide +kernel
theorem test_ld_signed : pendingWrite (.ldS8 3 1 0 0) TM = [.s 3 0xFFFFFFFFFFFFFF80] ∧ pendingWrite (.ldN8 3 1 0 0) TM = [.s 3 0x80] := by decide +kernel
theorem test_ld_d : pendingWrite (.ldD 3 1 0 0) TM = [.s 3 0xF000000000000080] := by decide +kernel

/-- R163: the first address of no region, and a pointer one past an aligned one. -/
theorem witness_WindowAndAlignment : TM.place 0 0x40000 8 = none ∧
    (TM.place 0 0x101 8).isSome = true ∧ 0x101 % 8 ≠ 0 ∧
    trapOf (.ldD 3 1 0 0) (T (regs [(1, 0x101)])) = (8, 0x101, 0) ∧ trapOf (.stD 2 1 0) (T (regs [(1, 0x40000)])) = (7, 0x40000, 0) ∧
    (trapOf (.stD 2 1 0) (T (regs [(1, 0x3FFF8)]))).1 ≠ 7 := by decide +kernel

theorem witness_StoreResults_own : TM.issueChecks (TM.view 0 0) 0x100 8 8 = .ok (.spad 0 0x100) ∧ TM.farBusy 0 (TM.bank 0 0) (.spad 0 0x100) 8 = false ∧
    getBytes (after (.stW 2 1 1) TM).mem (spadBase 0 + 0x104) 4 = [0x88, 0x77, 0x66, 0x55] ∧
    getByte (after (.stW 2 1 1) TM).mem (spadBase 0 + 0x108) = 0 := by decide +kernel

/-- A pointer to the mapped page of window 0x8. -/
def TV : State := T (regs [(1, 0x8000000000020000), (2, 0x1122334455667788)])

theorem witness_StoreResults_elsewhere : TV.issueChecks (TV.view 0 0) 0x8000000000020000 8 8 = .ok (.virt 0x20000) ∧ TV.farBusy 0 (TV.bank 0 0) (.virt 0x20000) 8 = false ∧
    TV.landFull (TV.storeLanding 0 (0x8000000000020000, leBytes 8 ((TV.bank 0 0).ctx.s 2).toNat)) = false ∧
    ((after (.stD 2 1 0) TV).bank 0 0).store.isSome = true ∧ (after (.stD 2 1 0) TV).mem = TV.mem := by decide +kernel

/-- The same with its store held. -/
def TVHeld : State := T fun x => { x with store := some ⟨1, 0x8000000000010000, [(0x8000000000020000, [1, 2])], none, none, [], false, none⟩ }

theorem witness_StoreIsAccepted : (TVHeld.bank 0 0).store = some ⟨1, 0x8000000000010000, [(0x8000000000020000, [1, 2])], none, none, [], false, none⟩ ∧
    TVHeld.place 0 0x8000000000020000 2 = some (.virt 0x20000) ∧ Place.isFar (.virt 0x20000) = false ∧
    TVHeld.targetChecks (TVHeld.view 0 0) (.virt 0x20000) 2 .write = .ok [(0x40020000, 2)] ∧
    getBytes (after (.storeAcceptance 0 0 none) TVHeld).mem 0x40020000 2 = [1, 2] ∧
    ((after (.storeAcceptance 0 0 none) TVHeld).bank 0 0).store = none := by decide +kernel
theorem witness_StoreIsAccepted_fails : let s := T fun x => { x with store := some ⟨1, 0x8000000000010000, [(0x8000000040000000, [1])], none, none, [], false, none⟩ }
    s.place 0 0x8000000040000000 1 = some (.virt 0x40000000) ∧
    s.targetChecks (s.view 0 0) (.virt 0x40000000) 1 .write = .error (.trap .translation 1) ∧
    (((after (.storeAcceptance 0 0 none) s).bank 0 0).trapped.map (·.trap)) = [⟨.translation, 0x8000000040000000, 1⟩] := by decide +kernel

/-- Lanes 0 and 2 active, the vector register v1 numbered. -/
def TMV : State := T fun x => { regs [(1, 0x100)] x with ctx := { (regs [(1, 0x100)] x).ctx with m := #v[0xFFFF, 5, 0, 0, 0, 0, 0, 0], v := (regs [] x).ctx.v.set 1 (Vector.ofFn fun i => BitVec.ofNat 64 (i.val + 1)) } }

theorem witness_StoreFrame : Quiet TMV 0 0 ∧
    (∀ q ∈ (activeLanes ((TMV.bank 0 0).ctx.mask 1)).map fun j => (vAddr (TMV.bank 0 0).ctx 1 0 (ewBytes .n64) j, laneBytes (TMV.bank 0 0).ctx 1 (ewBytes .n64) j),
      TMV.issueChecks (TMV.view 0 0) q.1.toNat q.2.length q.2.length = .ok (.spad 0 q.1.toNat) ∧
      TMV.farBusy 0 (TMV.bank 0 0) (.spad 0 q.1.toNat) q.2.length = false) ∧
    getBytes (after (.vst 1 .n64 1 0 1) TMV).mem (spadBase 0 + 0x100) 24 = [1, 0, 0, 0, 0, 0, 0, 0, 0, 0, 0, 0, 0, 0, 0, 0, 3, 0, 0, 0, 0, 0, 0, 0] := by unfold Quiet; decide +kernel
theorem witness_VectorLoadResults : Quiet TMV 0 0 ∧
    (let act := activeLanes ((TMV.bank 0 0).ctx.mask 1)
     TMV.landFull ((act.flatMap fun j => landingFor 0 (.spad 0 (0x100 + 8 * j)) 8) ++
       (act.flatMap fun j => TMV.crossings (dieOf 0) [(spadBase 0 + (0x100 + 8 * j), 8)] (BitVec.ofNat 64 (0x100 + 8 * j)) 0 8).map Crossing.landing) = false) ∧
    ∀ j ∈ activeLanes ((TMV.bank 0 0).ctx.mask 1), TMV.issueChecks (TMV.view 0 0) (0x100 + 8 * j) 8 8 = .ok (.spad 0 (0x100 + 8 * j)) ∧
      TMV.targetChecks (TMV.view 0 0) (.spad 0 (0x100 + 8 * j)) 8 .read = .ok [(spadBase 0 + (0x100 + 8 * j), 8)] ∧
      TMV.farBusy 0 (TMV.bank 0 0) (.spad 0 (0x100 + 8 * j)) 8 = false := by unfold Quiet; decide +kernel

theorem witness_AtomicResults : TM.opsOut (TM.bank 0 0).id.who .dm = false ∧ (TM.bank 0 0).id.slate = false ∧
    TM.issueChecks (TM.view 0 0) 0x100 8 8 = .ok (.spad 0 0x100) ∧
    TM.targetChecks (TM.view 0 0) (.spad 0 0x100) 8 .atomic = .ok [(spadBase 0 + 0x100, 8)] ∧ TM.farBusy 0 (TM.bank 0 0) (.spad 0 0x100) 8 = false ∧
    TM.landFull (landingFor 0 (.spad 0 0x100) 8 ++ (TM.crossings (dieOf 0) [(spadBase 0 + 0x100, 8)] 0x100 8 8).map Crossing.landing) = false ∧
    pendingWrite (.aadd 3 2 1 .s64 .dm 0) TM = [.s 3 0xF000000000000080] ∧
    leNat (getBytes (after (.aadd 3 2 1 .s64 .dm 0) TM).mem (spadBase 0 + 0x100) 8) = 0x0122334455667808 := by decide +kernel
theorem witness_AtomicResults_slate : let s := T fun x => { x with id := { x.id with slate := true } }
    Quiet s 0 0 ∧ (s.bank 0 0).id.slate = true ∧ (trapOf (.afadd 3 2 1 .f64 .dm 0) s).2.2 = 22 := by unfold Quiet; decide +kernel
theorem test_acas : leNat (getBytes (after (.acas 4 2 1 .s64 .dm 0) (spadWith (T (regs [(1, 0x100), (2, 9), (4, 5)])) 0x100 [5])).mem (spadBase 0 + 0x100) 8) = 9 := by decide +kernel

/-- R175: an operation of the strand that is out to another die. -/
def opOut : FabricOp := ⟨1, 0, (T0.bank 0 0).id.who, 0, 0x70, 0, 0, 8, 0, 0, 0, 0, 0, 0, 8, .held [], 1, 0, none, none, []⟩

theorem witness_FenceAndWriteBack : let s : State := { T0 with fab := { T0.fab with ops := [opOut] } }
    Quiet T0 0 0 ∧ Quiet s 0 0 ∧ FenceKind.full ≠ .acq ∧ T0.opsOut (T0.bank 0 0).id.who .dm = false ∧ s.opsOut (s.bank 0 0).id.who .dm = true ∧
      ((after (.fence .full .dm) s).bank 0 0).held = true := by unfold Quiet; decide +kernel

/-- A pending instruction that reads w1 and writes w2, with a window of 2. -/
def pend2 (b : Bank) : Pending := { b.pendingOf (footL [.s 1] [.s 2]) 2 with writes := [.s 2 7], flags := 1, safe := false }

/-- The strand with it, one instruction later. -/
def TP (f : Pending → Pending) (n : Nat) : State := T fun x => { x with pend := [f (pend2 x)], nIssued := x.nIssued + n }

theorem witness_FenceAndWriteBack_done : let s := TP id 1
    (s.bank 0 0).pend[0]? = some (pend2 (T0.bank 0 0)) ∧ (pend2 (T0.bank 0 0)).far = none ∧ (pend2 (T0.bank 0 0)).slot = none ∧
      (pend2 (T0.bank 0 0)).late = none ∧ reg (.longLatencyWriteback 0 0 0 none) s 2 = 7 := by decide +kernel
theorem witness_FenceAndWriteBack_late : let s := TP (fun p => { p with late := some ⟨.translation, 5, 1⟩ }) 1
    ((s.bank 0 0).pend.map (·.late)) = [some ⟨.translation, 5, 1⟩] ∧ Cause.translation ≠ .watch ∧
      ((after (.longLatencyWriteback 0 0 0 none) s).bank 0 0).trapped.map (·.late) = [true] := by decide +kernel

/-- R208: the cases of its table in the window's last instruction, and the instruction after it. -/
theorem witness_LookaheadContract : let x := (TP id 2).bank 0 0
    (TP id 2).issuing = some (0, 0) ∧ x.pend = [pend2 (T0.bank 0 0)] ∧ x.replay = none ∧ x.nIssued + 1 - (pend2 (T0.bank 0 0)).seq ≤ (pend2 (T0.bank 0 0)).la ∧
      (pend2 (T0.bank 0 0)).dests = [.s 2] ∧
      ((after (.add 6 2 7 .n64 .both) (TP id 2)).bank 0 0).trapped.map (·.trap) = [⟨.laViolation, 2, 1⟩] ∧
      ((after (.add 2 6 7 .n64 .both) (TP id 2)).bank 0 0).trapped.map (·.trap) = [⟨.laViolation, 2, 2⟩] ∧
      ((after (.add 1 6 7 .n64 .both) (TP id 2)).bank 0 0).trapped.map (·.trap) = [⟨.laViolation, 1, 3⟩] ∧
      ((after (.add 6 7 8 .n64 .both) (TP (fun p => { p with reads := [.s 40] }) 2)).bank 0 0).trapped.map (·.trap) = [⟨.laViolation, 40, 4⟩] ∧
      ((after (.add 6 7 8 .n64 .both) (TP id 2)).bank 0 0).pc = 0x8000000000010004 := by decide +kernel
/-- What follows an acquire waits. -/
theorem witness_LookaheadContract_acquire : let s := TP (fun p => { p with acq := true, reads := [] }) 1
    (s.bank 0 0).pend.map (·.acq) = [true] ∧ ((after (.add 6 7 8 .n64 .both) s).bank 0 0).held = true := by decide +kernel
theorem witness_LookaheadContract_over : let x := (TP id 3).bank 0 0
    (TP id 3).issuing = some (0, 0) ∧ (pend2 (T0.bank 0 0)).la < x.nIssued + 1 - (pend2 (T0.bank 0 0)).seq ∧
      ((after (.add 6 7 8 .n64 .both) (TP id 3)).bank 0 0).held = true := by decide +kernel

/-! Floating point, vectors and exact accumulators: hand calculations. -/

theorem test_fadd : reg (.fadd 3 1 2 .f64 (.mode .rne) .both) (T (regs [(1, 0x3FF0000000000000), (2, 0x4000000000000000)])) 3 = 0x4008000000000000 := by decide +kernel
theorem test_fadd_opposite_zero : reg (.fadd 3 1 2 .f64 (.mode .rdn) .both) (T (regs [(1, 0x3FF0000000000000), (2, 0xBFF0000000000000)])) 3 = 0x8000000000000000 := by decide +kernel
theorem test_fsub_infinities : reg (.fsub 3 1 2 .f64 (.mode .rne) .both) (T (regs [(1, 0x7FF0000000000000), (2, 0x7FF0000000000000)])) 3 = 0x7FF8000000000000 := by decide +kernel
theorem test_fmul_bf16 : reg (.fmul 3 1 2 .bf16 (.mode .rne) .both) (T (regs [(1, 0x3FC0), (2, 0x4000)])) 3 = 0x4040 := by decide +kernel
theorem test_fmin_zeros : reg (.fmin 3 1 2 .f32 .both) (T (regs [(2, 0x80000000)])) 3 = 0x80000000 := by decide +kernel
theorem test_fclass_quiet : reg (.fclass 3 1 .f32 .both) (T (regs [(1, 0x7FC00000)])) 3 = 0x200 := by decide +kernel
theorem test_fcvt_saturates : reg (.fcvt 3 1 .f64 .s8 (.mode .rne)) (T (regs [(1, 0x4060000000000000)])) 3 = 127 := by decide +kernel
theorem test_fdiv_by_zero : pendingWrite (.fdiv 3 1 2 .f32 (.mode .rne) 0) (T (regs [(1, 0x3F800000)])) = [.s 3 0x7F800000] := by decide +kernel
theorem test_fsqrt : pendingWrite (.fsqrt 3 1 .f64 (.mode .rne) 0) (T (regs [(1, 0x4010000000000000)])) = [.s 3 0x4000000000000000] := by decide +kernel

/-- Accumulator 0 after a step. -/
def xacc (i : Instr) (s : State) : ExactAcc := ((after i s).bank 0 0).ctx.xa[0]

/-- R156: two finite factors, three, and an infinity. -/
theorem witness_ExactSteps : FTy2.f64.fmt.read 0x3FF0000000000000 = .fin false (2 ^ 52) (-52) ∧
    FVal.isNan (FTy2.f64.fmt.read 0x7FF8000000000000) = true ∧
    (xacc (.eamac 0 1 2 .f64 0) (T (regs [(1, 0x3FF0000000000000), (2, 0x4000000000000000)]))).value = BitVec.ofNat 6400 (2 ^ 3233) ∧
    (xacc (.eamac3Ng 0 1 1 1 .f64 0) (T (regs [(1, 0x3FF0000000000000)]))).value = BitVec.ofInt 6400 (-(2 ^ 3232)) ∧
    (xacc (.eamac 0 1 2 .f64 0) (T (regs [(1, 0x7FF8000000000000)]))).status = 1 := by decide +kernel

theorem test_vadd_masked : ((after (.vadd 2 1 1 1 .s64 (.mode .rne) .both) TMV).bank 0 0).ctx.v[2][2] = 6 ∧
    ((after (.vadd 2 1 1 1 .s64 (.mode .rne) .both) TMV).bank 0 0).ctx.v[2][1] = 0 := by decide +kernel
theorem test_vred_add : reg (.vredAdd 3 1 (.mode .rne) 1 .s64 .both) TMV 3 = 4 := by decide +kernel
theorem test_vred_empty : reg (.vredMin 3 1 2 .n32 .both) TMV 3 = 0xFFFFFFFF := by decide +kernel
theorem test_mpop : reg (.mpop 3 1 .both) TMV 3 = 2 := by decide +kernel
theorem test_vcmp : ((after (.vcmpLt 3 1 1 0 .s64) TMV).bank 0 0).ctx.m[3] = 0 ∧ ((after (.vcmpLe 3 1 1 1 .s64) TMV).bank 0 0).ctx.m[3] = 5 := by decide +kernel

/-! The graph array. -/

/-- A slot's binding and segment. -/
def bind (n : Fin 8) (w : Word) (x : Option XImage) (b : Bank) : Bank :=
  { b with ctx := { b.ctx with binds := b.ctx.binds.set n w }, plane := b.plane.set n x }

/-- One element: the sum of two scalar sources of 64 bits. -/
def sumImage (ll : Bool) : XImage := ⟨1, 1, ll, 1, 2, false, false, false, false, false, 0, 0, [⟨1, .s64, 0, 0, 1, 0, 0⟩]⟩

theorem witness_GraphBindings : let s := T (regs [(1, 0x1000)])
    Quiet s 0 0 ∧ 0 % 8 < 4 ∧ tagOf ((s.bank 0 0).ctx.s 1).toNat = 0 ∧ s.issueChecks (s.view 0 0) 0x1000 3584 256 = .ok (.spad 0 0x1000) ∧
      s.targetChecks (s.view 0 0) (.spad 0 0x1000) 0xDB4 .read = .ok [(spadBase 0 + 0x1000, 0xDB4)] ∧ s.readFull (s.view 0 0) (.spad 0 0x1000) 0xDB4 = false ∧
      s.farBusy 0 (s.bank 0 0) (.spad 0 0x1000) 0xDB4 = false ∧ s.landFull ((s.crossings (dieOf 0) [(spadBase 0 + 0x1000, 0xDB4)] 0x1000 0 0xDB4).map Crossing.landing) = false ∧
      ((after (.xcfg 2 1 0) s).bank 0 0).pend.map (·.slot) = [some ⟨2, 0x1003, none⟩] := by unfold Quiet; decide +kernel
theorem witness_GraphBindings_reload : let s := T (bind 2 0x1002 none)
    let p : Word := setBits (s.bank 0 0).ctx.binds[2] 0 8 0
    (s.bank 0 0).st = .bound ∧ bits (s.bank 0 0).ctx.binds[2] 0 4 = 2 ∧ (s.bank 0 0).pend = [] ∧ (s.core 0).fen = false ∧
      s.issueChecks (s.view 0 0) p.toNat 3584 256 = .ok (.spad 0 0x1000) ∧
      ((after (.reload 0 0 2) s).bank 0 0).ctx.binds[2] = 0x1003 := by decide +kernel
theorem witness_GraphBindings_fails : let s := T (bind 7 0x40002 none)
    s.issueChecks (s.view 0 0) 0x40000 3584 256 = .error (.trap .addrWindow 0) ∧ ((after (.reload 0 0 7) s).bank 0 0).ctx.binds[7] = 0x40005 ∧
      (let u := T (bind 7 0x2000000000010002 none)
       tagOf (setBits (u.bank 0 0).ctx.binds[7] 0 8 0).toNat = 2 ∧ ((after (.reload 0 0 7) u).bank 0 0).ctx.binds[7] = 0x2000000000010005) := by decide +kernel

/-- A strand on core 4, which has no graph array. -/
def TStreamer : State :=
  let s := T0.setCore 4 (T0.core 0)
  { s with cur := 4 }

theorem witness_GraphOperation_none : Quiet TStreamer 4 0 ∧ 8 ≤ 4 % 8 + 4 := by unfold Quiet; decide +kernel
theorem witness_GraphOperation_unloaded : let s := T (bind 7 0x1004 none)
    Quiet s 0 0 ∧ bits (s.bank 0 0).ctx.binds[7] 0 4 ≠ 1 ∧ bits (s.bank 0 0).ctx.binds[7] 0 4 ≠ 2 ∧ trapOf (.xop 7 3 1 2 0) s = (19, 7, 4) := by unfold Quiet; decide +kernel
theorem witness_GraphOperation_short : let s := T fun x => bind 0 0x1001 (some (sumImage false)) (regs [(1, 5), (2, 6)] x)
    Quiet s 0 0 ∧ bits (s.bank 0 0).ctx.binds[0] 0 4 = 1 ∧ (s.bank 0 0).plane[0] = some (sumImage false) ∧ xopCheck (sumImage false) 3 1 2 = none ∧
      (sumImage false).ll = false ∧ reg (.xop 0 3 1 2 0) s 3 = 11 := by unfold Quiet; decide +kernel
theorem witness_GraphOperation_long : let s := T fun x => bind 0 0x1001 (some (sumImage true)) (regs [(1, 5), (2, 6)] x)
    Quiet s 0 0 ∧ (s.bank 0 0).plane[0] = some (sumImage true) ∧ xopCheck (sumImage true) 39 43 0 = none ∧ (sumImage true).ll = true ∧
      pendingWrite (.xop 0 3 1 2 0) s = [.s 3 11] := by unfold Quiet; decide +kernel

/-! Events. -/

/-- The slot 5 of cluster 0, allocated, with these participants. -/
def evSlot (kind : EvKind) (strands : List StrandId) (sigs : List (Nat × Signal)) : EvSlot :=
  { EvSlot.free with alloc := true, kind := kind, gen := 3, strands := strands, sigs := sigs }

/-- Slot 5 of cluster 0 live, its handle in w1, w2 pointing to a descriptor at 0x200, an offer entry set. -/
def TE (e : EvSlot) (n : Fin 8) (o : Offer) : State :=
  let s := (T fun x => { regs [(1, 0x3005), (2, 0x200)] x with ctx := { (regs [(1, 0x3005), (2, 0x200)] x).ctx with offers := x.ctx.offers.set n o } })
  s.setSlot (.cluster 0) 5 e

/-- An offer of that event in a state. -/
def offerIn (st : Nat) : Offer := ⟨BitVec.ofNat 64 (0x3005 * 2 ^ 32 + st * 2 ^ 29 + 5 * 2 ^ 18), 0⟩

def me0 : StrandId := (T0.bank 0 0).id.who

theorem witness_OffersAndChoices_offer : let s := TE (evSlot .sync [me0] []) 1 Offer.empty
    let x := s.bank 0 0
    Quiet s 0 0 ∧ x.id.slate = false ∧ s.opsOut x.id.who .dm = false ∧ EvRef.beyond x (.reg 1) = false ∧ s.live (EvRef.handle x (.reg 1)) = some (.cluster 0, 5) ∧
      x.id.who ∈ (s.slot (.cluster 0) 5).strands ∧ (∀ y : Fin 8, bits x.ctx.offers[y].w0 29 3 = 0) ∧ s.payloadOk 0 ⟨0, 0⟩ = true ∧
      reg (.offer 4 (.reg 1) 0) s 4 = 0 ∧ ((after (.offer 4 (.reg 1) 0) s).bank 0 0).ctx.offers[0] = ⟨0x0000300520000000, 0⟩ := by unfold Quiet; decide +kernel
theorem witness_OffersAndChoices_descriptor : let s := TE (evSlot .sync [me0] []) 1 Offer.empty
    (match s.readDescriptor (s.view 0 0) 0x200 with | .ok r => decide (r = (0, 0, s, none)) | .error _ => false) = true := by decide +kernel
theorem witness_OffersAndChoices_occurred : let s := TE (evSlot .sync [me0] []) 7 (offerIn 3)
    let x := s.bank 0 0
    Quiet s 0 0 ∧ bits x.ctx.offers[7].w0 29 3 = 3 ∧ (∀ y : Fin 8, y < 7 → bits x.ctx.offers[y].w0 29 3 ≠ 3) ∧ (∀ z ∈ s.deliveries, z.handle ≠ bits x.ctx.offers[7].w0 32 32) ∧
      reg (.choose 4) s 4 = 7 ∧ ((after (.choose 4) s).bank 0 0).ctx.fcsr = 5 ∧ reg (.poll 4) s 4 = 7 := by unfold Quiet; decide +kernel
theorem witness_OffersAndChoices_stale : let s := TE (evSlot .sync [me0] []) 7 (offerIn 4)
    let x := s.bank 0 0
    Quiet s 0 0 ∧ bits x.ctx.offers[7].w0 29 3 = 4 ∧ (∀ y : Fin 8, bits x.ctx.offers[y].w0 29 3 ≠ 3) ∧ (∀ y : Fin 8, y < 7 → bits x.ctx.offers[y].w0 29 3 ≠ 4) ∧
      trapOf (.choose 4) s = (20, 0x3005, 0) := by unfold Quiet; decide +kernel
theorem witness_OffersAndChoices_waits : let s := TE (evSlot .sync [me0] []) 7 (offerIn 1)
    let x := s.bank 0 0
    Quiet s 0 0 ∧ bits x.ctx.offers[7].w0 29 3 ≠ 0 ∧ (∀ y : Fin 8, bits x.ctx.offers[y].w0 29 3 ≠ 3 ∧ bits x.ctx.offers[y].w0 29 3 ≠ 4) ∧
      reg (.poll 4) s 4 = 0xFFFFFFFFFFFFFFFF ∧ ((after (.choose 4) s).bank 0 0).wait = some .choose ∧
      reg (.withdraw 4) s 4 = 0xFFFFFFFFFFFFFFFF ∧ ((after (.withdraw 4) s).bank 0 0).ctx.offers[7] = ⟨0, 0⟩ := by unfold Quiet; decide +kernel
/-- An occurred entry while a delivery of its event is owed to another: it is taken, the bank notes the event, and the strand's accesses wait. -/
theorem witness_OffersAndChoices_owed : let s := { TE (evSlot .gather [me0] []) 7 (offerIn 3) with deliveries := [⟨0x3005, ⟨0, 9⟩, 0, 0, 0, [], [], 0, []⟩] }
    let x := s.bank 0 0
    Quiet s 0 0 ∧ bits x.ctx.offers[7].w0 29 3 = 3 ∧ (∀ y : Fin 8, y < 7 → bits x.ctx.offers[y].w0 29 3 ≠ 3) ∧ (∃ z ∈ s.deliveries, z.handle = bits x.ctx.offers[7].w0 32 32) ∧
      reg (.choose 4) s 4 = 7 ∧ reg (.poll 4) s 4 = 7 ∧ ((after (.choose 4) s).bank 0 0).heard = [0x3005] ∧
      ((after (.ldD 3 0 0 0) (after (.choose 4) s)).bank 0 0).held = true := by unfold Quiet; decide +kernel
theorem witness_OffersAndChoices_empty : let x := T0.bank 0 0
    (∀ y : Fin 8, bits x.ctx.offers[y].w0 29 3 = 0) ∧ reg (.poll 4) T0 4 = 0xFFFFFFFFFFFFFFFE ∧ trapOf (.choose 4) T0 = (1, 0, 12) := by decide +kernel
theorem witness_OffersAndChoices_committed : let s := TE (evSlot .sync [me0] []) 7 (offerIn 2)
    let x := s.bank 0 0
    bits x.ctx.offers[7].w0 29 3 = 2 ∧ (∀ y : Fin 8, y < 7 → bits x.ctx.offers[y].w0 29 3 ≠ 2 ∧ bits x.ctx.offers[y].w0 29 3 ≠ 3) ∧ reg (.withdraw 4) s 4 = 7 := by decide +kernel

theorem witness_Participants_join : let s := TE (evSlot .gather [] []) 0 Offer.empty
    let x := s.bank 0 0
    Quiet s 0 0 ∧ EvRef.beyond x (.reg 1) = false ∧ s.homeWaits 0 (.cluster 0) = false ∧ s.live (EvRef.handle x (.reg 1)) = some (.cluster 0, 5) ∧ joinRefused (.cluster 0) (s.slot (.cluster 0) 5) 0 = false ∧
      x.id.who ∉ (s.slot (.cluster 0) 5).strands ∧ ((after (.evjoin (.reg 1)) s).slot (.cluster 0) 5).strands = [me0] := by unfold Quiet; decide +kernel
theorem witness_Participants_leave : let s := TE (evSlot .sync [me0] []) 3 (offerIn 1)
    (s.bank 0 0).id.who ∈ (s.slot (.cluster 0) 5).strands ∧ ((after (.evleave (.reg 1)) s).slot (.cluster 0) 5).strands = [] ∧
      ((after (.evleave (.reg 1)) s).bank 0 0).ctx.offers[3] = ⟨0, 0⟩ := by decide +kernel
/-- A descriptor with pointer 0 and threshold 2, beside three signals that stand already. -/
theorem witness_Participants_bind : let g : Signal := ⟨0, 1, 0, 0, 0⟩
    let s := spadWith (TE (evSlot .sync [] [(0, g), (1, g), (2, g)]) 0 Offer.empty) 0x208 [2]
    (match s.readDescriptor (s.view 0 0) 0x200 with | .ok r => decide (r = (0, 2, s, none)) | .error _ => false) = true ∧ s.signalOk 0 0 = true ∧
      (s.slot (.cluster 0) 5).sigs.length < 4 ∧ reg (.evbind 4 (.reg 1) 2) s 4 = 3 ∧
      (((after (.evbind 4 (.reg 1) 2) s).slot (.cluster 0) 5).sigs.map (·.1)) = [0, 1, 2, 3] := by decide +kernel
theorem witness_Participants_unbind : let g : Signal := ⟨0, 1, 0, 0, 0⟩
    let s := TE (evSlot .sync [] [(0, g)]) 0 Offer.empty
    (∃ z ∈ (s.slot (.cluster 0) 5).sigs, z.1 = ((s.bank 0 0).ctx.s 0).toNat) ∧ ((after (.evbindU (.reg 1) 0) s).slot (.cluster 0) 5).sigs = [] := by decide +kernel

/-! Rings: ring 15 of cluster 0, mode 0, 8 entries at offset 0x1000, signals at 0x800 and 0x808. -/

def rcfg15 : Word := BitVec.ofNat 64 (2 ^ 63 + 3 * 2 ^ 57 + 0x200 * 2 ^ 41 + 0x100 * 2 ^ 22 + 0x101 * 2 ^ 3)

def TR (head front arrival : Word) (written : List Nat) : State :=
  let s := T (regs [(1, 77), (2, 15)])
  s.setRing 0 15 { Ring.reset with rcfg := rcfg15, head := head, front := front, arrival := arrival, written := written }

theorem witness_Rings_full : let s := TR 0 8 8 []
    let g := (s.clu 0).rings[15]
    Quiet s 0 0 ∧ s.owedTo 0 = false ∧ s.slatePhase 0 (s.bank 0 0) = false ∧ (s.bank 0 0).id.slate = false ∧ g.rcfg.getLsbD 63 = true ∧ (s.bank 0 0).ctx.s 2 = 15 ∧ bits g.rcfg 61 2 ≠ 1 ∧
      g.head.toNat + 2 ^ bits g.rcfg 57 4 ≤ g.arrival.toNat ∧ reg (.rqpush 4 1 2) s 4 = 0xFFFFFFFFFFFFFFFF := by unfold Quiet; decide +kernel
/-- The last free entry; two entries pass the frontier. -/
theorem witness_Rings_push : let s := TR 0 6 6 [7]
    let g := (s.clu 0).rings[15]
    g.arrival.toNat < g.head.toNat + 2 ^ bits g.rcfg 57 4 ∧ (∀ j < 2, g.front.toNat + j ∈ g.arrival.toNat :: g.written) ∧ g.front.toNat + 2 ∉ g.arrival.toNat :: g.written ∧
      reg (.rqpush 4 1 2) s 4 = 6 ∧ getByte (after (.rqpush 4 1 2) s).mem (sramBase 0 + 0x1030) = 77 ∧
      getByte (after (.rqpush 4 1 2) s).mem (sramBase 0 + 0x800) = 2 ∧ ((after (.rqpush 4 1 2) s).clu 0).rings[15].front = 8 := by decide +kernel
theorem witness_Rings_pop : let s := TR 7 8 8 []
    let g := (s.clu 0).rings[15]
    g.head.toNat < g.front.toNat ∧ poisoned s.poison (sramBase 0 + 0x1038) 8 = false ∧ reg (.rqpop 4 5 2) s 5 = 7 ∧
      getByte (after (.rqpop 4 5 2) s).mem (sramBase 0 + 0x808) = 1 := by decide +kernel
theorem witness_Rings_nothing : let s := TR 8 8 8 []
    (s.clu 0).rings[15].front.toNat ≤ (s.clu 0).rings[15].head.toNat ∧ reg (.rqpop 4 5 2) s 5 = 0xFFFFFFFFFFFFFFFF := by decide +kernel
theorem witness_Rings_enable : rcfg15.getLsbD 63 = true ∧ bits rcfg15 57 4 = 3 ∧ bits rcfg15 61 2 ≠ 1 ∧ bits rcfg15 41 16 * 8 + 8 * 2 ^ bits rcfg15 57 4 ≤ sramSize ∧
    getByte (after (.rcfgWrite 0 15 rcfg15) T0).mem (sramBase 0 + 0x808) = 8 := by decide +kernel

/-! Commands. -/

/-- The command of a word with these fields: operation, node 5, words 1 to 3. -/
def cmdWord (op : Nat) (w1 w2 w3 : Word) : CmdWords := #v[BitVec.ofNat 64 (op * 2 ^ 56 + 5 * 2 ^ 48), w1, w2, w3]

def bytesOf (w : CmdWords) : List Byte := w.toList.flatMap fun x => leBytes 8 x.toNat

/-- The MZERO of tile 3 stands at offset 0x400, and w1 points to it. -/
def mzero3 : CmdWords := cmdWord 0x18 0 0 0x3000000000000000
def TC : State := spadWith (T (regs [(1, 0x400)])) 0x400 (bytesOf mzero3)

/-- A command of queue q in a state of its life. -/
def cmd0 (q : Fin 6) (w : CmdWords) (st : CmdSt) : Cmd :=
  { id := 9, q := q, ptr := 0x400, loc := spadBase 0 + 0x400, core := 0, words := w, sid := 0, who := me0, spid := 0, fsrv := 0, tok := 0, st := st,
    pch := 0, gang := none, gln := 0, run := 0, again := false, rows := [], lag := [], ahead := none, lagAt := [], lagPch := 0, dropped := false, runs := [] }

def withCmds (s : State) (l : List Cmd) : State := s.setClu 0 { s.clu 0 with cmds := l }

/-- The read of the word answers, and leaves the state. -/
def reads (s : State) (p : Word) (n : Nat) (bs : List Byte) : Bool :=
  match s.readCommand (s.view 0 0) p n with | .ok r => decide (r = (spadBase 0 + 0x400, bs, s, none)) | .error _ => false

theorem witness_CommandPush : let cw := cmdWordsOf (bytesOf mzero3)
    Quiet TC 0 0 ∧ TC.opsOut (TC.bank 0 0).id.who .dm = false ∧ reads TC 0x400 32 (bytesOf mzero3) = true ∧ TC.checkCmd 0 3 0x400 (spadBase 0 + 0x400) cw 0 false = none ∧
      ((TC.clu 0).cmds.filter fun m => decide (m.st ≠ .stopped) && m.q.val == 3).length < 32 ∧
      pushRanges ((opOf cw.cop).getD .mzero) cw 3 ≤ ((TC.clu 0).locks.toList.filter fun l => l.isNone).length ∧ (TC.clu 0).cmdAt (spadBase 0 + 0x400) = none ∧
      reg (.qpushSl 4 1 3) TC 4 = 0 ∧ ((after (.qpushSl 4 1 3) TC).clu 0).cmds.map (fun m => (m.q, m.words)) = [(3, mzero3)] := by unfold Quiet; decide +kernel
theorem witness_CommandPush_wrong_queue : TC.checkCmd 0 5 0x400 (spadBase 0 + 0x400) mzero3 0 false = some ⟨.illegalCmd, 0x400, 2⟩ ∧
    trapOf (.qpushCpy 4 1) TC = (3, 0x400, 2) := by decide +kernel
theorem witness_CommandPush_full : let s := withCmds TC ((List.range 32).map fun n => { cmd0 3 mzero3 .queued with id := n + 20, loc := n })
    reads s 0x400 32 (bytesOf mzero3) = true ∧ s.checkCmd 0 3 0x400 (spadBase 0 + 0x400) mzero3 0 false = none ∧
      32 ≤ ((s.clu 0).cmds.filter fun m => decide (m.st ≠ .stopped) && m.q.val == 3).length ∧ reg (.qpushSl 4 1 3) s 4 = 0xFFFFFFFFFFFFFFFF := by decide +kernel
theorem witness_CommandPush_no_lock : let w := cmdWord 0x3A 7 0x1000 0x800000000
    let s0 := spadWith TC 0x400 (bytesOf w)
    let s := s0.setClu 0 { s0.clu 0 with locks := Vector.replicate 32 (some ⟨0x2000, false, 5, 0, 8, 1, none⟩) }
    reads s 0x400 32 (bytesOf w) = true ∧ s.checkCmd 0 5 0x400 (spadBase 0 + 0x400) w 0 false = none ∧
      ((s.clu 0).locks.toList.filter fun l => l.isNone).length < pushRanges ((opOf (CmdWords.cop w)).getD .mzero) w 5 ∧
      reg (.qpushCpy 4 1) s 4 = 0xFFFFFFFFFFFFFFFE := by decide +kernel
theorem witness_CommandPush_status : let s := withCmds TC [cmd0 3 mzero3 .running]
    reads s 0x400 8 ((bytesOf mzero3).take 8) = true ∧ (match s.commandPlace (s.view 0 0) 0x400 8 with | .ok pl => decide (pl.loc = spadBase 0 + 0x400) | .error _ => false) = true ∧
      (s.clu 0).cmdAt (spadBase 0 + 0x400) = some (cmd0 3 mzero3 .running) ∧ reg (.qstat 4 1) s 4 = 0x200 ∧
      (TC.clu 0).cmdAt (spadBase 0 + 0x400) = none ∧ reads TC 0x400 8 ((bytesOf mzero3).take 8) = true ∧ reg (.qstat 4 1) TC 4 = 0 ∧
      (let z := withCmds (spadWith TC 0x401 [4]) [cmd0 3 mzero3 .stopped]
       (z.clu 0).cmdAt (spadBase 0 + 0x400) = some (cmd0 3 mzero3 .stopped) ∧ reg (.qstat 4 1) z 4 = 0x400) := by decide +kernel

/-! Gangs and fusion. -/

/-- The MMA_BB of node 5 stands at 0x400; the allowance is 1. -/
def mma5 : CmdWords := cmdWord 0x10 0x1000 0x2000 0x0020004004000000
def TG : State := spadWith (T fun x => { regs [(1, 0x400)] x with ctx := { (regs [(1, 0x400)] x).ctx with tok := 1 } }) 0x400 (bytesOf mma5)

/-- The offers of slices 1 to 3, the words of slice n changed. -/
def os3 (n : Nat) (f : CmdWords → CmdWords) (spid : BitVec 20) (m : Nat) : GangOffer :=
  ⟨⟨0, BitVec.ofNat 32 m⟩, 0, m, 0x400, spadBase m + 0x400, if m = n then f mma5 else mma5, if m = n then spid else 0, 0, 1, none⟩
def TG3 (n : Nat) (f : CmdWords → CmdWords) (spid : BitVec 20) : State :=
  TG.setClu 0 { TG.clu 0 with gangOffers := #v[none, some (os3 n f spid 1), some (os3 n f spid 2), some (os3 n f spid 3)] }
/-- What the fourth offer leaves in the four slices, and the commands with their gangs. -/
def gangEnd (s : State) : List (Option (Option GangResult)) × List (Nat × Bool) :=
  let x := (after (.mgang 4 1) s).clu 0
  (x.gangOffers.toList.map (·.map GangOffer.result), (x.cmds.filter fun y => y.st == .queued).map fun y => (y.q.val, y.gang.isSome))

/-- The gang offer of the strand with a result. -/
def gangOffer (r : Option GangResult) : GangOffer := ⟨me0, 0, 0, 0x400, spadBase 0 + 0x400, mma5, 0, 0, 1, r⟩
def TGO (r : Option GangResult) : State := TG.setClu 0 { TG.clu 0 with gangOffers := #v[some (gangOffer r), none, none, none] }

theorem witness_GangAndFusion_streamer : 3 < TStreamer.cid 4 ∧ Quiet TStreamer 4 0 ∧ bits ((after (.fuse 4 1) TStreamer).bank 4 0).ctx.tb.tinfo 0 8 = 18 := by unfold Quiet; decide +kernel
theorem witness_GangAndFusion_offers : Quiet TG 0 0 ∧ TG.opsOut (TG.bank 0 0).id.who .dm = false ∧ TG.cid 0 ≤ 3 ∧ (TG.clu 0).gangOffers[0]? = some none ∧ reads TG 0x400 32 (bytesOf mma5) = true ∧
    TG.checkCmd 0 0 0x400 (spadBase 0 + 0x400) (cmdWordsOf (bytesOf mma5)) 1 true = none ∧ (∃ m : Fin 4, m.val ≠ TG.cid 0 ∧ (TG.clu 0).gangOffers[m] = none) ∧
    ((after (.mgang 4 1) TG).bank 0 0).wait = some .gang := by unfold Quiet; decide +kernel
theorem witness_GangAndFusion_result : let s := TGO (some (.value 0))
    Quiet s 0 0 ∧ (s.clu 0).gangOffers[s.cid 0]? = some (some (gangOffer (some (.value 0)))) ∧ (gangOffer none).who = (s.bank 0 0).id.who ∧ (s.bank 0 0).watch = none ∧
      ((after (.mgang 4 1) s).clu 0).gangOffers[0] = none := by unfold Quiet; decide +kernel
theorem witness_GangAndFusion_mismatch : let s := TGO (some (.mismatch 2))
    (s.clu 0).gangOffers[s.cid 0]? = some (some (gangOffer (some (.mismatch 2)))) ∧ (s.bank 0 0).h = false ∧ (s.bank 0 0).prk = false ∧ (s.bank 0 0).trapped = [] ∧
      (s.bank 0 0).store = none ∧ trapOf (.mgang 4 1) s = (5, 0x400, 2) := by decide +kernel

/-- The fourth offer: a gang; words that differ in each of the compared fields, and the space ids; a full queue; a lock table without room. -/
theorem witness_GangAndFusion_gang : let s := TG3 0 id 0
    Quiet s 0 0 ∧ reads s 0x400 32 (bytesOf mma5) = true ∧ s.checkCmd 0 0 0x400 (spadBase 0 + 0x400) (cmdWordsOf (bytesOf mma5)) 1 true = none ∧
      (∀ m : Fin 4, m.val ≠ 0 → (s.clu 0).gangOffers[m] = some (os3 0 id 0 m.val) ∧ clusterOf m.val = 0 ∧ (s.clu 0).cmdAt (spadBase m.val + 0x400) = none) ∧
      ((List.range 4).map fun m => pushRanges .mmaBb mma5 m).sum ≤ ((s.clu 0).locks.toList.filter fun l => l.isNone).length ∧
      gangEnd s = ([some (some (.value 0)), some (some (.value 0)), some (some (.value 0)), some (some (.value 0))], [(0, true), (1, true), (2, true), (3, true)]) := by
  unfold Quiet; decide +kernel
theorem witness_GangAndFusion_gang_mismatch : ∀ e ∈ [((1 : Nat), (fun w : CmdWords => w.set 0 (setBits w[0] 56 8 0x13)), (0 : BitVec 20)), (2, (fun w => w.set 3 (setBits w[3] 48 12 3)), 0), (3, (fun w => w.set 2 5), 0),
      (4, (fun w => w.set 3 (setBits w[3] 24 12 3)), 0), (5, (fun w => w.set 3 (setBits w[3] 8 8 3)), 0), (6, (fun w => w.set 3 (setBits w[3] 6 1 1)), 0), (7, id, 9)],
    (gangEnd (TG3 2 e.2.1 e.2.2)).1 = List.replicate 4 (some (some (.mismatch e.1))) := by decide +kernel
theorem witness_GangAndFusion_gang_full : let s0 := TG3 0 id 0
    let s := withCmds s0 ((List.range 32).map fun n => { cmd0 2 mzero3 .running with id := n + 20, loc := n })
    let t := s0.setClu 0 { s0.clu 0 with locks := Vector.replicate 32 (some ⟨0x9000, false, 5, 0, 8, 1, none⟩) }
    32 ≤ ((s.clu 0).cmds.filter fun y => decide (y.st ≠ .stopped) && y.q.val == 2).length ∧ gangEnd s = (List.replicate 4 (some (some (.value 0xFFFFFFFFFFFFFFFF))), []) ∧
      ((t.clu 0).locks.toList.filter fun l => l.isNone).length < ((List.range 4).map fun m => pushRanges .mmaBb mma5 m).sum ∧
      gangEnd t = (List.replicate 4 (some (some (.value 0xFFFFFFFFFFFFFFFE))), []) := by decide +kernel

def fuseOffer (r : Option GangResult) : FuseOffer := ⟨me0, 0, 0, 0, 4, 0, 0, r⟩
/-- The quad of core 0. -/
def TQ (s : State) (f : Quad → Quad) : State := s.setQuad 0 0 (f (s.quad 0 0))

theorem witness_GangAndFusion_fused : let s := TQ T0 fun q => { q with offers := [(0, fuseOffer (some (.value 5)))] }
    quadOf (clusterOf 0) = (0, 0) ∧ s.quadCore 0 = 0 ∧ (s.quad 0 0).offers.find? (fun e => e.1 == 0) = some (0, fuseOffer (some (.value 5))) ∧
      reg (.fuse 4 1) s 4 = 5 ∧ ((after (.fuse 4 1) s).quad 0 0).offers = [] := by decide +kernel
theorem witness_GangAndFusion_fuse_fault : let s := TQ T0 fun q => { q with offers := [(0, fuseOffer (some (.mismatch 15)))] }
    let x := s.bank 0 0
    x.h = false ∧ x.prk = false ∧ x.trapped = [] ∧ x.store = none ∧ x.sending = none ∧ trapOf (.fuse 4 1) s = (22, 16, 15) := by decide +kernel

/-- A strand on core 0 whose w1 points to 0x400 in its scratchpad, with fifteen offers held by the other quad cores. -/
def TF (p : Word) (n : Nat) : State := TQ (T (regs [(1, p)])) fun q => { q with
  offers := (List.range n).map fun i => (i + 1, ⟨⟨0, BitVec.ofNat 32 (i + 1)⟩, 8 * ((i + 1) / 4) + (i + 1) % 4, 0, 0, 4, 0, 0, none⟩) }
/-- The offer's own effect: one that is not the sixteenth; the leader's pointer is R343's. -/
theorem witness_GangAndFusion_offer : let s := TF 0x400 14
    let t := after (.fuse 4 1) s
    Quiet s 0 0 ∧ s.cid 0 ≤ 3 ∧ s.quadCore 0 = 0 ∧ (∀ e ∈ (s.quad 0 0).offers, e.1 ≠ 0) ∧ s.slatePhase 0 (s.bank 0 0) = false ∧ (s.bank 0 0).sending = none ∧
      tagOf ((s.bank 0 0).ctx.s 1).toNat = 0 ∧ s.issueChecks (s.view 0 0) 0x400 1088 256 = .ok (.spad 0 0x400) ∧ (t.bank 0 0).wait = some .fuse ∧
      (t.quad 0 0).offers.map (·.1) = List.range 15 ∧ (t.quad 0 0).fused = false := by unfold Quiet; decide +kernel
/-- What the sixteenth offer finds: an image that is not valid, and one that can not be read. -/
def found (p : Word) (s : State) : Nat :=
  let l : FuseOffer := ⟨me0, 0, 0, p, 4, 0, 0, none⟩
  match s.fuseReads 0 0 ⟨0, 0, 0, .strand false⟩ l with
  | .wait _ => 0 | .fault _ c => 16 + c | .invalid _ _ => 1 | .unsigned _ _ => 2 | .start _ st _ => 100 + st.length
def fuseEnd (s : State) : List (Option GangResult) × Bool := let q := (after (.fuse 4 1) s).quad 0 0; (q.offers.map fun e => e.2.result, q.fused)
theorem witness_GangAndFusion_sixteenth : found 0x400 (TF 0x400 15) = 1 ∧ fuseEnd (TF 0x400 15) = (List.replicate 16 (some (.value 0xFFFFFFFFFFFFFFFF)), false) ∧
    found 0x8000000040000000 (TF 0x8000000040000000 15) = 16 + Cause.translation.code ∧
    fuseEnd (TF 0x8000000040000000 15) = (List.replicate 16 (some (.mismatch Cause.translation.code)), false) := by decide +kernel
/-- A fused image of one stage at 0x400, its configuration at 0x1000: one element that gives its constant, pushed to ring 15. -/
def words (l : List Word) : List Byte := l.flatMap fun x => leBytes 8 x.toNat
def cfgImage : List Byte := words [BitVec.ofNat 64 (0x58474D31 * 2 ^ 32 + 2 ^ 24 + 2 ^ 19 + 2 ^ 12 + 2 ^ 9), 0, 0, 0, 0, 0, 0, 0, BitVec.ofNat 64 (3 * 2 ^ 42), 7]
def fusedImage : List Byte := words [BitVec.ofNat 64 (0x58474651 * 2 ^ 32 + 2 ^ 24 + 2 ^ 19), 0, 0, 0, 0, 0, 0, 0, 0x1000, 0, 15]
def TFi : State := spadWith (spadWith (TF 0x400 15) 0x400 fusedImage) 0x1000 cfgImage
theorem witness_GangAndFusion_unsigned : found 0x400 TFi = 2 ∧ fuseEnd TFi = (List.replicate 16 (some (.value 0xFFFFFFFFFFFFFFFE)), false) := by decide +kernel
theorem witness_GangAndFusion_halt : T0.findStrand me0 = some (.bank 0 0) ∧ (T0.bank 0 0).replay = none ∧ ((T0.fuseHalt me0).bank 0 0).pc = 0x8000000000010004 := by decide +kernel
/-- UNFUSE ends a fusion whose stages hold no tuple: the strand of quad core 0 takes what its stage has counted. -/
theorem witness_GangAndFusion_unfuse : let s := TQ TStreamer fun q => { q with fused := true, offers := [(0, fuseOffer none)], counts := q.counts.set 0 5 }
    Quiet s 4 0 ∧ 3 < s.cid 4 ∧ (s.bank 4 0).id.who ∉ (s.quad 0 0).unheard ∧ (s.quad 0 0).fused = true ∧ (s.quad 0 0).unfuser = none ∧ (∀ g ∈ (s.quad 0 0).stages, g.tuple = none) ∧
      ((after (.unfuse 4) s).quad 0 0).fused = false ∧ (((after (.unfuse 4) s).bank 4 0).ctx.s 4) = 0 ∧ s.findStrand me0 = some (.bank 0 0) ∧ (s.bank 0 0).watch = none ∧
      ((s.fuseReturn (s.quad 0 0) (0, fuseOffer none)).bank 0 0).ctx.s 4 = 5 ∧
      (TStreamer.quad 0 0).fused = false ∧ (TStreamer.quad 0 0).unfuser = none ∧ (((after (.unfuse 4) TStreamer).bank 4 0).ctx.s 4) = 0xFFFFFFFFFFFFFFFF := by unfold Quiet; decide +kernel
/-- A stage still holds a tuple; another UNFUSE drains; a fault ended the fusion that this strand's UNFUSE drained. -/
theorem witness_GangAndFusion_drains : let me := (TStreamer.bank 4 0).id.who
    let s := TQ TStreamer fun q => { q with fused := true, stages := [⟨sumImage false, [], [15], some [9]⟩] }
    let t := after (.unfuse 4) s
    let u := TQ TStreamer fun q => { q with fused := true, unfuser := some ⟨0, 9⟩ }
    let f := TQ TStreamer fun q => { q with unheard := [me, ⟨0, 9⟩] }
    (∃ g ∈ (s.quad 0 0).stages, g.tuple ≠ none) ∧ (t.bank 4 0).wait = some .unfuse ∧ (t.quad 0 0).draining = true ∧ (t.quad 0 0).unfuser = some me ∧
      (u.quad 0 0).unfuser ≠ some me ∧ (u.quad 0 0).unfuser ≠ none ∧ ((after (.unfuse 4) u).bank 4 0).ctx.s 4 = 0xFFFFFFFFFFFFFFFF ∧
      me ∈ (f.quad 0 0).unheard ∧ ((after (.unfuse 4) f).bank 4 0).ctx.s 4 = 0xFFFFFFFFFFFFFFFD ∧ ((after (.unfuse 4) f).quad 0 0).unheard = [⟨0, 9⟩] := by decide +kernel
theorem witness_GangAndFusion_wrong_core : T0.cid 0 ≤ 3 ∧ trapOf (.unfuse 4) T0 = (1, 0, 18) := by decide +kernel

/-! Steps of commands: a running command 9 of cluster 0 with its data in the scratchpad of core 0. -/

/-- A state in which that command runs, a step of it made so many times. -/
def TRun (q : Fin 6) (pch : Nat) (w : CmdWords) (f : Cluster → Cluster) : State :=
  let s := spadWith T0 0x1000 [1, 2, 3, 4, 5, 6, 7, 8]
  s.setClu 0 (f { s.clu 0 with cmds := [{ cmd0 q w .running with pch := pch }] })

/-- The command runs as the operation, in a cluster that is not frozen. -/
def runsAs (s : State) (o : Op) : Bool :=
  match (s.clu 0).cmd 9 with | some m => m.st == .running && m.op == some o && (s.clu 0).verm.frz == false | none => false

/-- The command after a step: its count and state. -/
def cmdAfter (i : Instr) (s : State) : List (Nat × CmdSt) := ((after i s).clu 0).cmds.map fun m => (m.pch, m.st)

/-- Whether an access answers. -/
def okay {α : Type} (r : Chk α) : Bool := match r with | .ok _ => true | .error _ => false

/-- No delivery is owed to a core of cluster 0, and the copy command stands at the start of a step, its ranges aligned. -/
def wholeStep (s : State) (m : Cmd) : Bool :=
  s.deliversIn 0 == false && decide (m.lag = [] ∧ m.lagAt = [] ∧ m.ahead = none ∧ m.runs = [] ∧ m.pch < m.steps ∧ m.words[1].toNat % 8 = 0 ∧ m.words[2].toNat % 8 = 0)
/-- The access is one of this package. -/
def nearBy (s : State) (m : Cmd) (p n : Nat) : Bool := match s.issueChecks m.view p n 1 with | .ok pl => !pl.isFar | .error _ => false
/-- A step of a copy has failed at an access, with this cause. -/
def failedAt {α : Type} (r : Eng α) (c : Cause) : Bool := match r with | .error (.stop (.trap d _)) => d == c | _ => false
def fine {α : Type} (r : Eng α) : Bool := match r with | .ok _ => true | .error _ => false
def trapsAt {α : Type} (r : Chk α) (c : Cause) : Bool := match r with | .error (.trap d _) => d == c | _ => false

theorem witness_CopySteps_copy : let w := cmdWord 0x38 0x1000 0x2000 0x10000000000
    let s := TRun 5 1 w id
    let m := { cmd0 5 w .running with pch := 1 }
    runsAs s .cpy = true ∧ wholeStep s m = true ∧ nearBy s m 0x1080 128 = true ∧ nearBy s m 0x2080 128 = true ∧ okay (s.engineRead m.view 0x1080 128 1) = true ∧
      (match s.copyRead m 0x1100 0x1080 128 with | .ok (bs, s1, m1) => fine (s1.copyWrite { m1 with runs := [(0x2080, bs)] } none [(0x2080, bs)]) | .error _ => false) = true ∧
      okay (s.engineWrite (cmd0 5 w .running).view 0x2080 1 (List.replicate 128 0)) = true ∧ cmdAfter (.cpy 0 9) s = [(2, .finished)] ∧
      getBytes (after (.cpy 0 9) (TRun 5 0 w id)).mem (spadBase 0 + 0x2000) 4 = [1, 2, 3, 4] := by decide +kernel
theorem witness_CopySteps_copy_fails : let w := cmdWord 0x38 0x40000 0x2000 0x10000000000
    let s := TRun 5 0 w id
    runsAs s .cpy = true ∧ wholeStep s (cmd0 5 w .running) = true ∧ failedAt (s.copyRead (cmd0 5 w .running) 0x40100 0x40000 128) .addrWindow = true ∧
      cmdAfter (.cpy 0 9) s = [(0, .faulted .addrWindow)] := by decide +kernel
/-- A read, and a write, of a page that the tables do not map: the pointer's place is one of this package. -/
theorem witness_CopySteps_copy_unmapped : let w (a b : Word) : CmdWords := cmdWord 0x38 a b 0x10000000000
    let m (a b : Word) : Cmd := cmd0 5 (w a b) .running
    let far : Word := 0x8000000040000000
    let s := TRun 5 0 (w far 0x2000) id
    let t := TRun 5 0 (w 0x1000 far) id
    wholeStep s (m far 0x2000) = true ∧ nearBy s (m far 0x2000) 0x8000000040000000 128 = true ∧ trapsAt (s.engineRead (m far 0x2000).view 0x8000000040000000 128 1) .translation = true ∧
      cmdAfter (.cpy 0 9) s = [(0, .faulted .translation)] ∧ nearBy t (m 0x1000 far) 0x1000 128 = true ∧ nearBy t (m 0x1000 far) 0x8000000040000000 128 = true ∧
      trapsAt (t.engineWrite (m 0x1000 far).view 0x8000000040000000 1 (List.replicate 128 0)) .translation = true ∧ cmdAfter (.cpy 0 9) t = [(0, .faulted .translation)] ∧
      (match t.copyRead (m 0x1000 far) 0x1100 0x1000 128 with
        | .ok (bs, s1, m1) => failedAt (s1.copyWrite { m1 with runs := [(0x8000000040000000, bs)] } (some 0x8000000040000080) [(0x8000000040000000, bs)]) .translation
        | .error _ => false) = true := by decide +kernel
/-- A step whose bytes have been read, and whose write is still to be made: it is made, or fails. -/
theorem witness_CopySteps_copy_holds : ∀ e ∈ [(0x2000, CmdSt.running, 1), (0x40000, .faulted .addrWindow, 0)],
    let w := cmdWord 0x38 0x1000 (BitVec.ofNat 64 e.1) 0x10000000000
    let m := { cmd0 5 w .running with runs := [(e.1, List.replicate 128 7)] }
    let s := withCmds (TRun 5 0 w id) [m]
    runsAs s .cpy = true ∧ m.runs ≠ [] ∧ (fine (s.copyWrite m (some (e.1 + 128)) m.runs) = true ∨ failedAt (s.copyWrite m (some (e.1 + 128)) m.runs) .addrWindow = true) ∧
      cmdAfter (.cpy 0 9) s = [(e.2.2, e.2.1)] := by decide +kernel
theorem witness_CopySteps_rows : let w := cmdWord 0x39 0x1000 0x2000 0x0002000200040010
    let s := TRun 5 1 w id
    runsAs s .cpy2d = true ∧ s.deliversIn 0 = false ∧
      (match readRows { cmd0 5 w .running with pch := 1 } 1 1 s with | .ok (rows, s1, m1) => fine (s1.copyWrite { m1 with runs := rows } none rows) | .error _ => false) = true ∧
      getBytes (after (.cpy2d 0 9) s).mem (spadBase 0 + 0x2010) 2 = [5, 6] := by decide +kernel
/-- A row that can not be read, one that can not be written, and rows held for their write. -/
theorem witness_CopySteps_rows_fail : let a := cmdWord 0x39 0x40000 0x2000 0x0002000200040010
    let b := cmdWord 0x39 0x1000 0x40000 0x0002000200040010
    let s := TRun 5 0 a id
    let t := TRun 5 0 b id
    let m := { cmd0 5 b .running with runs := [(0x40000, [1, 2])] }
    let u := withCmds t [m]
    let n := { cmd0 5 a .running with runs := [(0x2000, [1, 2])] }
    let z := withCmds s [n]
    failedAt (readRows (cmd0 5 a .running) 1 0 s) .addrWindow = true ∧ cmdAfter (.cpy2d 0 9) s = [(0, .faulted .addrWindow)] ∧
      (match readRows (cmd0 5 b .running) 1 0 t with
        | .ok (rows, s1, m1) => failedAt (s1.copyWrite { m1 with runs := rows } (some 0x40010) rows) .addrWindow
        | .error _ => false) = true ∧ cmdAfter (.cpy2d 0 9) t = [(0, .faulted .addrWindow)] ∧
      failedAt (u.copyWrite m (some 0x40010) m.runs) .addrWindow = true ∧ cmdAfter (.cpy2d 0 9) u = [(0, .faulted .addrWindow)] ∧
      fine (z.copyWrite n (some 0x2010) n.runs) = true ∧ cmdAfter (.cpy2d 0 9) z = [(1, .running)] := by decide +kernel
theorem witness_CopySteps_fill : let w := cmdWord 0x3A 0xAB 0x2000 0x800000000
    let s := TRun 5 0 w id
    runsAs s .fill = true ∧ s.deliversIn 0 = false ∧ nearBy s (cmd0 5 w .running) 0x2000 8 = true ∧ fine (s.copyMay (cmd0 5 w .running) 0x2000 8) = true ∧
      fine (s.copyPut (cmd0 5 w .running) 0x2000 (leBytes 8 0xAB)) = true ∧ okay (s.engineWrite (cmd0 5 w .running).view 0x2000 8 (leBytes 8 0xAB)) = true ∧ cmdAfter (.fill 0 9) s = [(1, .finished)] ∧
      getBytes (after (.fill 0 9) s).mem (spadBase 0 + 0x2000) 2 = [0xAB, 0] ∧
      (let w := cmdWord 0x3A 0xAB 0x40000 0x800000000
       let s := TRun 5 0 w id
       runsAs s .fill = true ∧ failedAt (s.copyMay (cmd0 5 w .running) 0x40000 8) .addrWindow = true ∧ cmdAfter (.fill 0 9) s = [(0, .faulted .addrWindow)]) ∧
      (let w := cmdWord 0x3A 0xAB 0x8000000040000000 0x800000000
       let s := TRun 5 0 w id
       nearBy s (cmd0 5 w .running) 0x8000000040000000 8 = true ∧ trapsAt (s.engineWrite (cmd0 5 w .running).view 0x8000000040000000 1 (leBytes 8 0xAB)) .translation = true ∧
         cmdAfter (.fill 0 9) s = [(0, .faulted .translation)]) := by decide +kernel
theorem witness_CopySteps_gather : let w := cmdWord 0x30 0x1000 0x3000 0x0100100100000000
    let s := TRun 4 0 w id
    runsAs s .gthr = true ∧ nearBy s (cmd0 4 w .running) 0x3000 2 = true ∧ okay (s.engineRead (cmd0 4 w .running).view 0x3000 2 1) = true ∧ okay (s.engineRead (cmd0 4 w .running).view 0x1000 16 16) = true ∧
      ((after (.gthr 0 9) s).clu 0).cmds.map (fun m => m.rows.map (·.take 2)) = [[[1, 2]]] := by decide +kernel
/-- Indexes read ahead with the first of their word; a row, and indexes, that can not be read. -/
theorem witness_CopySteps_gather_more : let w := cmdWord 0x30 0x1000 0x3000 0x0300100100000000
    let s := TRun 4 0 w id
    let t := after (.gthr 0 9) s
    let m := { cmd0 4 w .running with pch := 1, ahead := some (0x3002, [9, 0, 0, 0]) }
    let u := withCmds (TRun 4 0 w id) [m]
    let r := TRun 4 0 (cmdWord 0x30 0x40000 0x3000 0x0300100100000000) id
    let x := TRun 4 0 (cmdWord 0x30 0x1000 0x8000000040000000 0x0300100100000000) id
    okay (s.engineRead (cmd0 4 w .running).view 0x3000 6 1) = true ∧ (t.clu 0).cmds.map (fun m => (m.pch, m.ahead)) = [(1, some (0x3002, [0, 0, 0, 0]))] ∧
      runsAs u .gthr = true ∧ okay (u.engineRead m.view (0x1000 + 9 * 16) 16 16) = true ∧ cmdAfter (.gthr 0 9) u = [(2, .running)] ∧
      trapsAt (r.engineRead m.view 0x40000 16 16) .addrWindow = true ∧ cmdAfter (.gthr 0 9) r = [(0, .faulted .addrWindow)] ∧
      nearBy x m 0x8000000040000000 6 = true ∧ trapsAt (x.engineRead m.view 0x8000000040000000 6 1) .translation = true ∧ cmdAfter (.gthr 0 9) x = [(0, .faulted .translation)] ∧
      (let z := withCmds r [{ cmd0 4 (cmdWord 0x30 0x40000 0x3000 0x0300100100000000) .running with ahead := some (0x3000, [0, 0]) }]
       cmdAfter (.gthr 0 9) z = [(0, .faulted .addrWindow)]) := by decide +kernel

/-- A gang of four, its operands at zero and its tiles empty: k elements. -/
def gangOf (op k : Nat) : List Cmd :=
  (List.finRange 4).map fun q => { cmd0 (q.castLE (by omega)) (cmdWord op 0x1000 0x2000 (BitVec.ofNat 64 (k * 2 ^ 48 + 0x20 * 2 ^ 36 + 0x20 * 2 ^ 24))) .running with id := 9 + q.val, gang := some 7 }

theorem witness_MatrixChunks : ∀ e ∈ [(0x10, Op.mmaBb, 16, 16, 32), (0x11, .mmaE4, 8, 8, 32), (0x12, .mmaE5, 8, 8, 32), (0x13, .mmaDd, 64, 64, 16), (0x14, .mmaF4, 4, 4, 32),
      (0x15, .mmaP8, 8, 8, 32), (0x16, .mmaPi, 8, 8, 32)],
    let s := withCmds T0 (gangOf e.1 1)
    let m := (s.clu 0).cmds.getD 0 (cmd0 0 mzero3 .stopped)
    (s.clu 0).cmd 9 = some m ∧ m.st = .running ∧ m.op = some e.2.1 ∧ m.gang.isSome = true ∧ m.q = 0 ∧ (s.clu 0).verm.frz = false ∧
      ((s.clu 0).members m).map (fun d => d.q.val) = [0, 1, 2, 3] ∧ (((s.clu 0).members m).map fun d => d.id).Nodup ∧ okay (readAs 0 e.2.2.1 0 1 ((s.clu 0).members m) s) = true ∧
      okay (readB s m e.2.2.2.1 e.2.2.2.2 0 1) = true := by decide +kernel

theorem witness_TileCommands_zero : let s := TRun 3 0 mzero3 fun x => x.setTile 3 3 ⟨.f32, [1], 5⟩
    runsAs s .mzero = true ∧ ((after (.mzero 0 9) s).clu 0).tileAt 3 3 = ⟨.empty, [], 0⟩ := by decide +kernel
theorem witness_TileCommands_swap : let s := TRun 3 0 (cmdWord 0x1A 0 0 0x3F00000000000000) fun x => x.setTile 3 15 ⟨.f32, [1], 5⟩
    runsAs s .mswap = true ∧ ((after (.mswap 0 9) s).clu 0).tileAt 3 3 = ⟨.f32, [1], 5⟩ ∧ ((after (.mswap 0 9) s).clu 0).tileAt 3 15 = ⟨.empty, [], 0⟩ := by decide +kernel
theorem witness_TileCommands_drain : let w := cmdWord 0x19 0 0x2000 0x3000008000000000
    let s := TRun 3 30 w fun x => x.setTile 3 3 ⟨.f32, List.replicate 1024 0x3F800000, 5⟩
    let t := TRun 3 31 w fun x => x.setTile 3 3 ⟨.f32, List.replicate 1024 0x3F800000, 5⟩
    runsAs s .mdrain = true ∧ runsAs t .mdrain = true ∧
      okay (s.engineWrite (cmd0 3 w .running).view (0x2000 + 16 * 8 * 30) 1 (drainRow ((s.clu 0).tileAt 3 3) 0 30).1) = true ∧
      okay (t.engineWrite (cmd0 3 w .running).view (0x2000 + 512 * 8) 8 (leBytes 8 5)) = true ∧ cmdAfter (.mdrain 0 9) s = [(31, .running)] ∧
      cmdAfter (.mdrain 0 9) t = [(32, .finished)] ∧ getByte (after (.mdrain 0 9) t).mem (spadBase 0 + 0x3000) = 5 := by decide +kernel
theorem witness_TileCommands_scale : let w := cmdWord 0x1B 0x1000 0 0xFF0000
    let s := TRun 3 0 w id
    runsAs s .mscale = true ∧ bits w[3] 16 8 + 0 < 256 ∧ okay (s.engineRead (cmd0 3 w .running).view 0x1000 64 16) = true ∧
      ((after (.mscale 0 9) s).clu 0).scaleAt 255 7 = 8 := by decide +kernel
theorem witness_TileCommands_status : let w := cmdWord 0x1C 0x1000 0 0x3000000000000008
    let s := TRun 3 0 w fun x => x.setTile 3 3 ⟨.f32, [1], 0x1E⟩
    runsAs s .msts = true ∧ okay (s.engineRead (cmd0 3 w .running).view 0x1000 8 8) = true ∧ (((after (.msts 0 9) s).clu 0).tileAt 3 3).status = 1 ∧
      (let w := cmdWord 0x1C 0x2000 0 0x3000000000000000
       let s := TRun 3 0 w fun x => x.setTile 3 3 ⟨.f32, [1], 0x1E⟩
       runsAs s .msts = true ∧ okay (s.engineWrite (cmd0 3 w .running).view 0x2000 8 (leBytes 8 0x1E)) = true ∧ getByte (after (.msts 0 9) s).mem (spadBase 0 + 0x2000) = 0x1E) ∧
      (let w := cmdWord 0x1C 0x1000 0 0x1000000000000018
       let s := TRun 0 0 w fun x => x.setOq 1 { Oq.reset with status := 0x1E }
       runsAs s .msts = true ∧ okay (s.engineRead (cmd0 0 w .running).view 0x1000 8 8) = true ∧ ((after (.msts 0 9) s).clu 0).oq[1].status = 1 ∧ cmdAfter (.msts 0 9) s = [(1, .finished)]) := by decide +kernel

/-- An accumulator of capacity 2 over 1 row, with a reflector where k is 1. -/
def oq1 (k : Nat) (pol : OqPol) : Oq := ⟨true, false, pol, 2, 1, k, List.replicate k [0x3FF0000000000000], List.replicate k [0], 0, 0x2000, 0, 0⟩
def TO (pch : Nat) (w : CmdWords) (q : Oq) : State := TRun 0 pch w fun x => x.setOq 0 q

theorem witness_OrthogonalCommands_init : let w := cmdWord 0x20 0x2000 1 0x0020100000000000
    runsAs (TO 0 w Oq.reset) .qinit = true ∧ (((after (.qinit 0 9) (TO 0 w Oq.reset)).clu 0).oq[0]).cap = 2 := by decide +kernel
theorem witness_OrthogonalCommands_append : let w := cmdWord 0x21 0x1000 0 0
    let s := TO 2 w (oq1 1 .trap)
    runsAs s .qacc = true ∧ (oq1 1 .trap).k ≠ (oq1 1 .trap).cap ∧ okay (s.engineRead (cmd0 0 w .running).view 0x1000 8 8) = true ∧
      (((after (.qacc 0 9) s).clu 0).oq[0]).k = 2 ∧ cmdAfter (.qacc 0 9) (TO 1 w (oq1 1 .trap)) = [(2, .running)] := by decide +kernel
theorem witness_OrthogonalCommands_full : let s := TO 0 (cmdWord 0x21 0x1000 0 0) (oq1 2 .trap)
    runsAs s .qacc = true ∧ (oq1 2 .trap).k = (oq1 2 .trap).cap ∧ cmdAfter (.qacc 0 9) s = [(0, .faulted .orthFull)] := by decide +kernel
theorem witness_OrthogonalCommands_apply : ∀ e ∈ [(0x22, Op.qapl, false), (0x23, .qaplt, false), (0x24, .qapr, true), (0x25, .qaprt, true)],
    let w := cmdWord e.1 0x1000 0 0x100100000
    let s := TO 0 w (oq1 1 .trap)
    runsAs s e.2.1 = true ∧ (oq1 1 .trap).k ≠ 0 ∧ okay (readVectors (cmd0 0 w .running).view w (oq1 1 .trap) e.2.2 [0] s) = true ∧
      okay (writeLag (cmd0 0 w .running).view 8 [] s) = true ∧ okay (writeVectors (cmd0 0 w .running).view w (oq1 1 .trap) e.2.2 [(0, [1])] s) = true ∧
      okay (s.runPlaces (cmd0 0 w .running).view []) = true ∧ runsAs (TO 0 w (oq1 0 .trap)) e.2.1 = true := by decide +kernel
/-- Columns of FP32, one row each: the first step of 512 columns ends amid no word, that of 257 between columns 1 and 2; of 768, three a step, amid a word: it reads column 3 and owes column 2. -/
theorem witness_OrthogonalCommands_halves : let q : Oq := { oq1 1 .trap with f32 := true, v := [[0x3F800000]] }
    let w := cmdWord 0x22 0x1000 0 (BitVec.ofNat 64 (768 * 2 ^ 32 + 1))
    let s := TO 0 w q
    let t := after (.qapl 0 9) s
    runsAs s .qapl = true ∧ okay (readVectors (cmd0 0 w .running).view w q false [0, 1, 2, 3] s) = true ∧
      (t.clu 0).cmds.map (fun m => (m.pch, m.lag.map (·.1), m.lagPch, m.ahead.map (·.1), m.lagAt.map (·.2))) = [(1, [0x1008], 0, some 3, [4])] ∧
      ((after (.qapl 0 9) t).clu 0).cmds.map (fun m => (m.pch, m.lag.length, m.ahead.map (·.1))) = [(2, 0, none)] := by decide +kernel
theorem witness_OrthogonalCommands_compact : let w := cmdWord 0x26 0 0 0
    let s := TO 0 w (oq1 1 .trap)
    runsAs s .qrcp = true ∧ okay (s.engineWrite (cmd0 0 w .running).view 0x2000 16 ((oq1 1 .trap).block false)) = true ∧
      (((after (.qrcp 0 9) s).clu 0).oq[0]).seq = 1 ∧ (oq1 1 .trap).tgt.getLsbD 4 = false ∧ (((after (.qrcp 0 9) (TO 1 w (oq1 1 .trap))).clu 0).oq[0]).k = 0 ∧
      cmdAfter (.qrcp 0 9) (TO 0 w (oq1 0 .trap)) = [(1, .running)] := by decide +kernel
theorem witness_OrthogonalCommands_save : let w := cmdWord 0x27 0x2000 0 0
    let s := TO 0 w (oq1 0 .trap)
    runsAs s .qsave = true ∧ okay (s.engineWrite (cmd0 0 w .running).view 0x2000 8 (oq1 0 .trap).header) = true ∧
      getBytes (after (.qsave 0 9) s).mem (spadBase 0 + 0x2000) 8 = [0, 0, 0, 0, 0, 0x10, 0x20, 0x80] := by decide +kernel
theorem witness_OrthogonalCommands_load : let w := cmdWord 0x28 0x1000 0 0
    let s (bs : List Byte) : State := let t := TO 0 w (oq1 1 .trap); { t with mem := putBytes t.mem (spadBase 0 + 0x1000) bs }
    let off : List Byte := List.replicate 8 0
    runsAs (s off) .qload = true ∧ okay ((s off).engineRead (cmd0 0 w .running).view 0x1000 64 8) = true ∧ headerOff (off ++ List.replicate 56 0) = true ∧
      (((after (.qload 0 9) (s off)).clu 0).oq[0]) = Oq.reset ∧ headerValid (oq1 0 .trap).header = true ∧ headerOff (oq1 0 .trap).header = false ∧
      (headerOq (oq1 0 .trap).header).k = 0 ∧ (((after (.qload 0 9) (s (oq1 0 .trap).header)).clu 0).oq[0]) = oq1 0 .trap ∧
      headerValid (List.replicate 64 1) = false ∧ headerOff (List.replicate 64 1) = false ∧
      cmdAfter (.qload 0 9) (s (List.replicate 64 1)) = [(0, .faulted .illegalCmd)] := by decide +kernel

/-! The life of a command. -/

/-- These commands held in cluster 0, whose node 5 is ready. -/
def TL (l : List Cmd) : State := let s := withCmds T0 l; s.setClu 0 { s.clu 0 with nodes := [(5, ⟨.ready, 0, []⟩)] }
def tile1 : TileTag → Cluster → Cluster := fun t x => x.setTile 3 3 ⟨t, [], 0⟩

theorem witness_CommandLifecycle_launch : ∀ e ∈ [((5 : Fin 6), cmdWord 0x3A 7 0x2000 0x800000000), (3, mzero3), (4, cmdWord 0x30 0x1000 0x3000 0x0100100100000000)],
    let m := cmd0 e.1 e.2 .queued
    let s := TL [m]
    let x := s.clu 0
    x.verm.frz = false ∧ x.head e.1.val = some m ∧ m.isOrth = false ∧ m.gang = none ∧ x.busy e.1.val = false ∧ x.orthHolds = false ∧
      (x.cmds.filter fun d => d.q == 5 && d.onEngine).length < 4 ∧ s.sliceHeld 0 e.1.val = false ∧ x.readsLatch (bits e.2[3] 0 2) = false ∧
      cmdAfter (.commandLaunch 0 e.1) s = [(0, .running)] ∧ ((after (.commandLaunch 0 e.1) s).clu 0).node 5 = ⟨.running, 0, []⟩ := by decide +kernel
theorem witness_CommandLifecycle_launch_fault : let m := cmd0 3 (cmdWord 0x19 0 0x2000 0x3000002000000000) .queued
    let s := TL [m]
    (s.clu 0).head 3 = some m ∧ ((s.clu 0).begin m).launchFault m = true ∧ cmdAfter (.commandLaunch 0 3) s = [(0, .faulted .illegalCmd)] := by decide +kernel
theorem witness_CommandLifecycle_orthogonal : let m := { cmd0 0 (cmdWord 0x20 0x2000 1 0x0020100000000000) .queued with tok := 1 }
    let s := TL [m]
    let x := s.clu 0
    x.verm.frz = false ∧ x.head 0 = some m ∧ m.isOrth = true ∧ (∀ n, n < 4 → x.busy n = false ∧ s.sliceHeld 0 n = false) ∧ s.arraysOf m.who.ln < s.allowance m.who.ln m.tok ∧
      cmdAfter (.commandLaunch 0 0) s = [(0, .running)] := by decide +kernel
theorem witness_CommandLifecycle_gang : let l := (gangOf 0x10 1).map fun d => { d with st := .queued, tok := 1 }
    let s := TL l
    let x := s.clu 0
    x.verm.frz = false ∧ (∀ d ∈ l, x.head d.q.val = some d ∧ d.isOrth = false ∧ d.gang = some 7) ∧ x.orthHolds = false ∧
      (∀ n, n < 4 → x.busy n = false ∧ s.sliceHeld 0 n = false) ∧ x.gangReady 7 = l ∧ l.length = 4 ∧ s.arraysOf me0.ln < s.allowance me0.ln 1 ∧
      (∀ d ∈ l, CmdWords.gl d.words = true → x.gathers d.q.val = false) ∧
      cmdAfter (.commandLaunch 0 2) s = [(0, .running), (0, .running), (0, .running), (0, .running)] := by decide +kernel
/-- The word of a MZERO of node 5 with successor 6; PST reads 3, PCH 1 in what is written back. -/
theorem witness_CommandLifecycle_completion : let w : CmdWords := mzero3.set 0 (mzero3[0] + 6 * 2 ^ 36)
    let m := { cmd0 3 w .finished with pch := 1 }
    let s0 := withCmds T0 [m]
    let s := s0.setClu 0 { s0.clu 0 with nodes := [(5, ⟨.running, 0, []⟩), (6, ⟨.waiting, 1, []⟩)] }
    let x := s.clu 0
    let t := after (.commandCompletion 0 9) s
    x.cmd 9 = some m ∧ x.verm.frz = false ∧ placeOfLoc m.loc = .spad 0 0x400 ∧ (s.core 0).fen = false ∧ (s.core 0).meetsBound 0x400 8 = false ∧ (s.core 0).meetsSpilling 0x400 8 = false ∧
      (∀ d ∈ x.cmds, d.again = false) ∧ w[0].getLsbD 27 = false ∧ bits w[0] 28 8 = 0 ∧ bits w[0] 36 8 = 6 ∧ bits w[0] 48 8 = 5 ∧
      getBytes t.mem (spadBase 0 + 0x400) 8 = [1, 3, 0, 0, 0x60, 0, 5, 0x18] ∧ (t.clu 0).cmds = [] ∧ (t.clu 0).node 5 = ⟨.free, 0, []⟩ ∧
      (t.clu 0).node 6 = ⟨.ready, 0, []⟩ := by decide +kernel
theorem witness_CommandLifecycle_stop : ∀ e ∈ [(Cause.translation, 4), (.linkDown, 5), (.memUncorrectable, 6), (.addrWindow, 7)],
    let m := { cmd0 3 mzero3 (.faulted e.1) with pch := 2 }
    let s := TL [m]
    let t := after (.commandStop 0 9) s
    (s.clu 0).cmd 9 = some m ∧ (s.clu 0).verm.frz = false ∧ (s.core 0).fen = false ∧ (s.core 0).meetsBound 0x400 8 = false ∧ (s.core 0).meetsSpilling 0x400 8 = false ∧ bits mzero3[0] 48 8 ≠ 0 ∧ m.lag = [] ∧
      getBytes t.mem (spadBase 0 + 0x400) 2 = [2, BitVec.ofNat 8 e.2] ∧ (t.clu 0).cmds.map (·.st) = [.stopped] ∧ (t.clu 0).node 5 = ⟨.stopped, 0, []⟩ ∧
      t.fab.reports.map (fun r => (r.kind, r.words)) = [(3, [0x400, BitVec.ofNat 64 e.1.code, BitVec.ofNat 64 e.2, 2])] := by decide +kernel
/-- Bytes that waited for the rest of their word are written at the stop. -/
theorem witness_CommandLifecycle_stop_lag : let m := { cmd0 3 mzero3 (.faulted .translation) with pch := 2, lag := [(0x1000, [7, 8])], lagAt := [(spadBase 0 + 0x1000, 2)] }
    let s := TL [m]
    let t := after (.commandStop 0 9) s
    (s.clu 0).cmd 9 = some m ∧ spadOfLoc (spadBase 0 + 0x1000) = some (0, 0x1000) ∧ (s.core 0).meetsSpilling 0x1000 2 = false ∧
      getBytes t.mem (spadBase 0 + 0x1000) 2 = [7, 8] ∧ getBytes t.mem (spadBase 0 + 0x400) 2 = [2, 4] ∧ (t.clu 0).cmds.map (fun y => (y.st == .stopped, y.lag.isEmpty)) = [(true, true)] := by decide +kernel

/-! Folds and the heap. The descriptor stands at 0x8000000000020000. -/

/-- A fold group whose descriptor is zero but for V, the strand its member of rank 0 with window 0 open; w1 points to the descriptor, w2 past it, w3 is 5. -/
def fgTest : FoldGroup := ⟨0x40020000, 0, 0, [me0], [], [], [], none⟩
def TFM (fgw : Word) : State :=
  let s := T fun x => { regs [(1, 0x8000000000020000), (2, 0x8000000000020100), (3, 5)] x with ctx := { (regs [(1, 0x8000000000020000), (2, 0x8000000000020100), (3, 5)] x).ctx with fgp := 0x8000000000020001, fgw := fgw } }
  { s with mem := putBytes s.mem 0x40020000 [0, 0, 0, 0, 0, 0, 0, 0x80], folds := [fgTest] }

theorem witness_FoldsAndHeap_mark : let s := TFM 0
    let x := s.bank 0 0
    Quiet s 0 0 ∧ s.slatePhase 0 x = false ∧ x.ctx.fgp.getLsbD 0 = true ∧ s.groupOfStrand x.id.who = some fgTest ∧ bits x.ctx.fgw 48 16 = s.foldWcl fgTest.desc ∧
      x.ctx.s 1 ≠ 0 ∧ (x.ctx.s 1).toNat % 64 = 0 ∧ bits (x.ctx.s 1) 6 58 = bits x.ctx.fgp 6 58 ∧
      ((after (.foldmark 1 0) s).bank 0 0).ctx.fgw = 0x0001000000000000 ∧ (after (.foldmark 1 0) s).folds.map FoldGroup.wins = [[⟨0, [0], [], [], []⟩]] ∧
      x.ctx.s 0 = 0 ∧ ((after (.foldmark 0 0) s).bank 0 0).ctx.fgp = 0 ∧ (after (.foldmark 0 0) s).folds.map FoldGroup.members = [[]] := by unfold Quiet; decide +kernel
theorem witness_FoldsAndHeap_join : Quiet TV 0 0 ∧ TV.slatePhase 0 (TV.bank 0 0) = false ∧ (TV.bank 0 0).ctx.fgp.getLsbD 0 = false ∧ (TV.bank 0 0).ctx.s 1 ≠ 0 ∧
    ((TV.bank 0 0).ctx.s 1).toNat % 64 = 0 ∧ TV.issueChecks (TV.view 0 0) 0x8000000000020000 64 64 = .ok (.virt 0x20000) ∧ TV.landFull (landingFor 0 (.virt 0x20000) 8) = false ∧
    ((after (.foldmark 1 0) TV).bank 0 0).pend.map (·.far) = [some .join] ∧
    (let s := after (.longLatencyWriteback 0 0 0 none) (after (.foldmark 1 0) { TV with mem := putBytes TV.mem 0x40020000 [0, 0, 0, 0, 0, 0, 0, 0x80] })
     (s.bank 0 0).ctx.fgp = 0x8000000000020001 ∧ s.folds.map FoldGroup.members = [[me0]]) := by unfold Quiet; decide +kernel
theorem witness_FoldsAndHeap_update : let s := TFM 0xFFFFFFFE
    let x := s.bank 0 0
    Quiet s 0 0 ∧ s.opsOut x.id.who .dm = false ∧ x.ctx.fgp.getLsbD 0 = true ∧ bits x.ctx.fgw 0 32 < 2 ^ 32 - 1 ∧
      s.issueChecks (s.view 0 0) 0x8000000000020100 8 8 = .ok (.virt 0x20100) ∧ s.issueChecks (s.view 0 0) 0x8000000000020100 4 4 = .ok (.virt 0x20100) ∧
      s.landFull (landingFor 0 (.virt 0x20100) 8) = false ∧ s.landFull (s.storeLanding 0 (0x8000000000020100, leBytes 8 5)) = false ∧ s.landFull (s.storeLanding 0 (0x8000000000020100, leBytes 4 5)) = false ∧
      ((after (.afaddDet 4 3 2 .f64 0) s).bank 0 0).pend.map (·.far) = [some (.det 4 true 5)] ∧
      ((after (.raddDetF64 2 3) s).bank 0 0).store = some ⟨1, 0x8000000000010000, [(0x8000000000020100, [5, 0, 0, 0, 0, 0, 0, 0])], some (true, 5), none, [], false, none⟩ ∧
      ((after (.raddDetF32 2 3) s).bank 0 0).store = some ⟨1, 0x8000000000010000, [(0x8000000000020100, [5, 0, 0, 0])], some (false, 5), none, [], false, none⟩ := by unfold Quiet; decide +kernel
theorem witness_FoldsAndHeap_no_member : T0.opsOut me0 .dm = false ∧ (T0.bank 0 0).ctx.fgp.getLsbD 0 = false ∧ (trapOf (.afaddDet 4 3 2 .f32 0) T0).2.2 = 8 ∧
    trapOf (.raddDetF64 2 3) T0 = (1, 0, 8) := by decide +kernel

/-- A heap of four blocks of 64 bytes in two of 128, its area at 0x8000000000021000, with the first block of 128 in this state. w2 is the size or the block. -/
def heap1 (soft : Bool) : Heap := ⟨0x40020000, soft, 7, 6, 0x8000000000022000, 256, [(0x40021000, 64)]⟩
def THp (soft : Bool) (area : Byte) (size : Word) : State :=
  let s := T (regs [(1, 0x8000000000020000), (2, size)])
  { s with mem := putBytes (putBytes s.mem 0x40020000 ([6, 7, 0, 0, 0, 0, 0, cond soft 0xC0 0x80] ++ leBytes 8 0x8000000000022000 ++ leBytes 8 256 ++ leBytes 8 0x8000000000021000)) 0x40021000 [area] }
def heapOk (soft : Bool) (area : Byte) (size : Word) : Bool :=
  let s := THp soft area size
  !s.landFull (landingFor 0 (.virt 0x20000) 8) && match s.heapAt (s.view 0 0) 0x8000000000020000 (.virt 0x20000) with | .ok h => h == heap1 soft | .error _ => false

theorem witness_FoldsAndHeap_alloc : let s := THp false 2 65
    Quiet s 0 0 ∧ tagOf ((s.bank 0 0).ctx.s 1).toNat = 8 ∧ ((s.bank 0 0).ctx.s 1).toNat % 64 = 0 ∧ s.slatePhase 0 (s.bank 0 0) = false ∧
      s.issueChecks (s.view 0 0) 0x8000000000020000 64 64 = .ok (.virt 0x20000) ∧ heapOk false 2 65 = true ∧ s.isFree (heap1 false) 7 0 = false ∧
      s.isFree (heap1 false) 7 1 = true ∧ pendingWrite (.halloc 3 1 2 0) s = [.s 3 0x8000000000022080] ∧ (after (.halloc 3 1 2 0) s).blockSt (heap1 false) 7 1 = 2 := by
  unfold Quiet; decide +kernel
/-- A request of the smallest class where only a block of the next is free: it is split, the lower half taken. -/
theorem witness_FoldsAndHeap_split : let s := THp false 2 1
    heapOk false 2 1 = true ∧ (∀ j, j < 2 * 2 → s.isFree (heap1 false) 6 j = false) ∧ s.isFree (heap1 false) 7 1 = true ∧ s.isFree (heap1 false) 7 0 = false ∧
      pendingWrite (.halloc 3 1 2 0) s = [.s 3 0x8000000000022080] ∧ (after (.halloc 3 1 2 0) s).blockSt (heap1 false) 6 2 = 2 ∧
      pendingWrite (.halloc 3 1 2 0) (after (.longLatencyWriteback 0 0 0 none) (after (.halloc 3 1 2 0) s)) = [.s 3 0x80000000000220C0] := by decide +kernel
theorem witness_FoldsAndHeap_exhausted : ∀ b : Bool, let s := THp b 10 64
    heapOk b 10 64 = true ∧ (∀ n, n < 8 → 6 ≤ n → ∀ j, j < 2 * 2 ^ (7 - n) → s.isFree (heap1 b) n j = false) ∧ ((after (.halloc 3 1 2 0) s).bank 0 0).pend.map (fun p => (p.writes, p.late)) =
      (if b then [([.s 3 0, .hz], none)] else [([], some ⟨.heapExhausted, 64, 0⟩)]) := by decide +kernel
theorem witness_FoldsAndHeap_free : (let s := THp false 2 0
    s.opsOut me0 .dm = false ∧ heapOk false 2 0 = true ∧ (after (.hfree 1 2 0) s).mem = s.mem) ∧
    (let s := THp false 2 0x8000000000022080
     heapOk false 2 0x8000000000022080 = true ∧ (∀ n, n < 8 → 6 ≤ n → s.blockSt (heap1 false) n (0x80 / 2 ^ n) ≠ 2) ∧
      ((after (.hfree 1 2 0) s).bank 0 0).pend.map (·.late) = [some ⟨.heapBadfree, 0x8000000000022080, 0⟩]) ∧
    (let s := THp false 2 0x8000000000022000
     heapOk false 2 0x8000000000022000 = true ∧ s.blockSt (heap1 false) 7 0 = 2 ∧ s.blockSt (heap1 false) 6 0 ≠ 2 ∧
      (after (.hfree 1 2 0) s).blockSt (heap1 false) 7 0 = 0) ∧
    (let s := THp false 33 0x8000000000022000
     heapOk false 33 0x8000000000022000 = true ∧ s.blockSt (heap1 false) 6 0 = 2 ∧ s.blockSt (heap1 false) 6 1 = 0 ∧ s.blockSt (heap1 false) 7 0 = 1 ∧
      (after (.hfree 1 2 0) s).blockSt (heap1 false) 6 0 = 0 ∧ (after (.hfree 1 2 0) s).blockSt (heap1 false) 7 0 = 0) := by decide +kernel

/-- Updates of a window: of ranks 1 and 0 at one address, 1.0 and −1.0 beside the smallest subnormal, which rank 0's −1.0 absorbs first; and 17 of FP32 1.0 at another, which are summed exactly. -/
def ups : List FoldUpd := [⟨0x40020100, true, 1, 0, 0x3FF0000000000000⟩, ⟨0x40020100, true, 0, 0, 0xBFF0000000000000⟩] ++ (List.range 17).map fun i => ⟨0x40020204, false, i, 3, 0x3F800000⟩
/-- Of this package's group, whose descriptor has no signal: the window that WCL names, every rank joined and marked, or left. -/
theorem witness_FoldsAndHeap_close_own : let z : FoldWin := ⟨3, [0], ups, [], []⟩
    let g : FoldGroup := ⟨0x40020000, 0, 0, [me0], [1], [], [z, ⟨4, [], [], [], []⟩], none⟩
    let s := { T0 with mem := putBytes (putBytes (putBytes T0.mem 0x40020000 [0, 0, 0, 0, 0, 0, 1, 0x80]) 0x40020016 [3]) 0x40020020 [3], folds := [g] }
    let t := after (.windowClose 0x40020000) s
    s.fold? 0x40020000 = some g ∧ z.far = [] ∧ g.leaves = [] ∧ g.fin = none ∧ bits (leWord (getBytes s.mem 0x40020010 8)) 48 16 = 3 ∧ bits (leWord (getBytes s.mem 0x40020000 8)) 48 8 = 1 ∧
      (∀ i, i ≤ 1 → (leWord (getBytes s.mem (0x40020020 + 8 * (i / 64)) 8)).getLsbD (i % 64) = true ∧ (i ∈ g.left ∨ i ∈ z.marks)) ∧ leWord (getBytes s.mem 0x40020008 8) = 0 ∧
      getBytes t.mem 0x40020204 4 = [0, 0, 0x88, 0x41] ∧ getByte t.mem 0x40020016 = 4 ∧ t.folds.map (·.wins.map (·.win)) = [[4]] := by decide +kernel

/-! One-sided operations: package 0 names itself. w1, w4: remote; w2, w5: local; w3: 8. -/

def TOS : State := spadWith (T (regs [(1, 0x9000000000020000), (2, 0x100), (3, 8), (4, 0x9000000000020100), (5, 0x200)])) 0x100 [1, 2, 3, 4, 5, 6, 7, 8]
def operandsOk (s : State) (o : OneSided) : Bool := match s.localOperands 0 0 o with | .ok (t, _, _) => t == s | .error _ => false
/-- The clauses' common hypotheses. -/
def hereOk (i : Instr) (o : OneSided) (t : RTy) : Bool :=
  decide (TOS.oneSidedChecks i 0 (TOS.slatePhase 0 (TOS.bank 0 0)) o t = none) && !TOS.opsBefore 0 (TOS.bank 0 0) o t && pkgOf (o.remote t).1 == 0 && operandsOk TOS o
def servedOk (r : Served) : Bool := match r with | .ok _ _ _ => true | _ => false
def fv0 : View := fabricView 0 0 0

theorem witness_OneSidedOperations_here : Quiet TOS 0 0 ∧ TOS.slatePhase 0 (TOS.bank 0 0) = false ∧
    (∀ t ∈ [RTy.s64, .s32, .f64, .f32], hereOk (.radd 1 3 t) ⟨0x73, 0x9000000000020000, 0, 8, 0⟩ t = true ∧ hereOk (.radds 1 3 4 t) ⟨0x75, 0x9000000000020000, 0, 8, 0x9000000000020100⟩ t = true ∧
      servedOk (TOS.perform fv0 false 0 (.radd t 8) 0x20000 []) = true) ∧
    hereOk (.rwr 1 2 3) ⟨0x70, 0x9000000000020000, 0x100, 8, 0⟩ .s64 = true ∧ hereOk (.rwrs 1 2 3 4) ⟨0x71, 0x9000000000020000, 0x100, 8, 0x9000000000020100⟩ .s64 = true ∧
    hereOk (.rrd 2 1 3 5) ⟨0x72, 0x100, 0x9000000000020000, 8, 0x200⟩ .s64 = true ∧ servedOk (TOS.packetSignal fv0 .write 0x20100) = true ∧
    servedOk (TOS.packetRead fv0 0x20000 8) = true ∧
    (match TOS.performCuts fv0 0x20000 [1, 2, 3, 4, 5, 6, 7, 8] (packetCuts 0x20000 8) none with | some (_, none) => true | _ => false) = true := by unfold Quiet; decide +kernel
theorem witness_OneSidedOperations_results : (getBytes (after (.radd 1 3 .s32) TOS).mem 0x40020000 8 = [8, 0, 0, 0, 0, 0, 0, 0]) ∧
    (let t := after (.radds 1 3 4 .s64) TOS; getByte t.mem 0x40020000 = 8 ∧ getByte t.mem 0x40020100 = 1) ∧
    getBytes (after (.rwr 1 2 3) TOS).mem 0x40020000 8 = [1, 2, 3, 4, 5, 6, 7, 8] ∧
    (let t := after (.rwrs 1 2 3 4) TOS; getBytes t.mem 0x40020000 8 = [1, 2, 3, 4, 5, 6, 7, 8] ∧ getByte t.mem 0x40020100 = 1) ∧
    (let t := after (.rrd 5 1 3 2) { TOS with mem := putBytes TOS.mem 0x40020000 [9, 10] }
     getBytes t.mem (spadBase 0 + 0x200) 8 = [9, 10, 0, 0, 0, 0, 0, 0] ∧ getBytes t.mem (spadBase 0 + 0x100) 2 = [2, 2]) := by decide +kernel
theorem witness_OneSidedOperations_reply : let s := T (regs [(1, 0x9000FFFFFFFFF000), (2, 0x100), (3, 64)])
    let o : OneSided := ⟨0x70, 0x9000FFFFFFFFF000, 0x100, 64, 0⟩
    Quiet s 0 0 ∧ s.oneSidedChecks (.rwr 1 2 3) 0 (s.slatePhase 0 (s.bank 0 0)) o .s64 = none ∧ s.opsBefore 0 (s.bank 0 0) o .s64 = false ∧
      pkgOf (o.remote .s64).1 = s.ctl.pkid.toNat ∧ operandsOk s o = true ∧ vaOf o.da = replyVa ∧ (after (.rwr 1 2 3) s).fab = s.fab := by
  unfold Quiet; decide +kernel
theorem witness_OneSidedOperations_traps : ∀ n : Word, n = 0 ∨ n = 0x100001 →
    (∀ e ∈ [(Instr.rwr 1 2 3, 0x70), (.rwrs 1 2 3 4, 0x71), (.rrd 2 1 3 5, 0x72)],
      TOS.oneSidedChecks e.1 0 false ⟨e.2, 0x9000000000020000, 0x100, n, 0x200⟩ .s64 = some (illegalAt e.1 23)) ∧
    TOS.oneSidedChecks (.radds 1 3 4 .s64) 0 false ⟨0x75, 0x9000000000020000, 0, 0, 0⟩ .s64 = some (illegalAt (.radds 1 3 4 .s64) 23) ∧
    TOS.oneSidedChecks (.radd 1 3 .f64) 0 false ⟨0x73, 0x9000000000020004, 0, 0, 0⟩ .f64 = some ⟨.align, 0x9000000000020004, 0⟩ := by
  rintro n (rfl | rfl) <;> decide +kernel
theorem test_rwr_traps : trapOf (.rwr 1 2 0) TOS = (1, BitVec.ofNat 64 ((encode (.rwr 1 2 0)).getD 0), 23) ∧ trapOf (.rwr 2 2 3) TOS = (7, 0x100, 0) := by decide +kernel

/-! Packets. -/

/-- An open entry of handle 7 for space 0 with member package 1 and key 3, and a port up. -/
def ge1 : GroupEntry := ⟨#v[0x8000000700000000, 3, 2, 0, 0, 0, 0, 0, 0, 0, 0, 0, 0, 0, 0, 0]⟩
def TPk : State := { T0 with mem := putBytes T0.mem 0x3000 [0x3F], fab := { T0.fab with up := 1, en := 1, groups := [(0, ge1)] } }
def pkt1 : Packet := { src := 1, port := 0, seq := 4, handle := 7, key := 3, opId := 9, total := 1, sigVa := none, op := .write, va := 0x20000, data := [1, 2] }

/-- An operation of the strand that is out in package 1, at the bytes that w1 names. -/
def opFar : FabricOp := ⟨1, 0, (T0.bank 0 0).id.who, 0, 0x70, 0x9001000000020000, 0, 8, 0, 0, 0, 0, 0, 0, 8, .held [], 1, 0, none, none, []⟩
theorem witness_StoreResults_busy : let s := { T (regs [(1, 0x9001000000020000)]) with fab := { TPk.fab with ops := [opFar] } }
    Quiet s 0 0 ∧ s.issueChecks (s.view 0 0) 0x9001000000020000 8 8 = .ok (.far 1 0x20000) ∧ s.farBusy 0 (s.bank 0 0) (.far 1 0x20000) 8 = true ∧
      s.farBusy 0 (s.bank 0 0) (.far 1 0x20008) 8 = false ∧ ((after (.stD 2 1 0) s).bank 0 0).held = true := by unfold Quiet; decide +kernel
theorem witness_FabricPackets_performed : (pkt1.src, pkt1.port, pkt1.seq) ∉ TPk.fab.seen ∧ TPk.fab.up ≠ 0 ∧ pkt1.src ≠ TPk.ctl.pkid.toNat ∧
    TPk.groupByHandle pkt1.handle = some (0, ge1) ∧ ge1.words[1] = pkt1.key ∧ groupHas ge1 pkt1.src = true ∧ pkt1.va < replyVa ∧
    servedOk (TPk.perform (fabricView (ingressDie pkt1) (groupSpid ge1) 1) true 1 pkt1.op pkt1.va pkt1.data) = true ∧
    getBytes (after (.packetIngress pkt1) TPk).mem 0x40020000 2 = [1, 2] ∧ (after (.packetIngress pkt1) TPk).fab.out = [.ack 1 0 4 .performed] ∧
    (1, 0, 4) ∈ (after (.packetIngress pkt1) TPk).fab.seen := by decide +kernel
/-- The home of another package's group tells this one to close a window: it closes, and the flags of its sums are reported. A second word finds no window. -/
theorem witness_FoldsAndHeap_close : let z : FoldWin := ⟨65535, [], ups, [], []⟩
    let g : FoldGroup := ⟨2 ^ 49 + 5, 0, 0, [], [], [], [⟨0, [], [], [], []⟩, z], none⟩
    let s := { TPk with mem := putBytes TPk.mem 0x40020100 [1], folds := [g] }
    let p : Packet := { pkt1 with op := .foldClose 5 65535, va := 0, data := [] }
    let t := after (.packetIngress p) s
    s.fold? (2 ^ 49 + 5) = some g ∧ g.wins.find? (fun y => y.win == z.win) = some z ∧ (pkt1.src, pkt1.port, pkt1.seq) ∉ s.fab.seen ∧ s.groupByHandle p.handle = some (0, ge1) ∧ p.va < replyVa ∧
      getBytes t.mem 0x40020100 8 = List.replicate 8 0 ∧ getBytes t.mem 0x40020204 4 = [0, 0, 0x88, 0x41] ∧ t.folds.map (·.wins.map (·.win)) = [[0]] ∧
      t.fab.out = [.data 1 9 0 [8, 0, 0, 0, 0, 0, 0, 0], .ack 1 0 4 .performed] ∧
      (after (.packetIngress { p with seq := 5 }) t).fab.out.drop 2 = [.data 1 9 0 (List.replicate 8 0), .ack 1 0 5 .performed] := by decide +kernel
/-- A home whose window has updates in package 1 tells it, waits, and joins the flags that it reports. -/
theorem test_close_told : let z : FoldWin := ⟨3, [0], [], [], [1]⟩
    let g : FoldGroup := ⟨0x40020000, 0, 0, [me0], [1], [], [z], none⟩
    let s := { TPk with mem := putBytes (putBytes (putBytes TPk.mem 0x40020000 [0, 0, 0, 0, 0, 0, 1, 0x80]) 0x40020016 [3]) 0x40020020 [3], folds := [g] }
    let t := after (.windowClose 0x40020000) s
    let u := after (.packetAck 0 0 .performed) (after (.rrdReply s.fab.nextOp 0 [5, 0, 0, 0, 0, 0, 0, 0]) t)
    let y := after (.windowClose 0x40020000) u
    t.fab.retry.map (fun q => (q.target, q.pkt.op)) = [(1, .foldClose 0x40020000 3)] ∧ t.folds = s.folds ∧ after (.windowClose 0x40020000) t = t ∧ u.closeReport 0x40020000 3 1 = some 5 ∧
      getByte y.mem 0x40020010 = 5 ∧ getByte y.mem 0x40020016 = 4 ∧ y.fab.ops = [] ∧ y.folds.map (·.wins.map (·.win)) = [[]] := by decide +kernel
/-- A reply with no report that awaits it is discarded; an RWRS at the reply address, and an RWR above it, are no replies. -/
theorem witness_FabricPackets_replyAddress : let p : Packet := { pkt1 with va := replyVa, data := List.replicate 64 0 }
    replyVa ≤ p.va ∧ p.op = .write ∧ p.sigVa = none ∧ p.data.length = 64 ∧ p.total = 1 ∧
      (after (.packetIngress p) TPk).fab.out = [.ack 1 0 4 .performed] ∧ (after (.packetIngress p) TPk).mem = TPk.mem ∧
      ∀ q ∈ [{ p with sigVa := some 0x20100 }, { p with va := replyVa + 0x100 }, { p with op := .read 64 }],
        (after (.packetIngress q) TPk).fab.out = [.ack 1 0 4 (.failed 13 10)] ∧ (after (.packetIngress q) TPk).mem = TPk.mem := by decide +kernel
theorem witness_FabricPackets_refused : TPk.groupByHandle 8 = none ∧ (after (.packetIngress { pkt1 with handle := 8 }) TPk).fab.out = [.ack 1 0 4 (.failed 13 9)] := by decide +kernel

def rp (sends : Nat) : RetryPkt := ⟨0, 4, sends, 1, pkt1⟩
def TRp (sends : Nat) : State := { TPk with fab := { TPk.fab with retry := [rp sends] } }
theorem witness_FabricPackets_retry : ∀ n ∈ [1, 3, 4], let s := { TRp n with fab := { (TRp n).fab with ops := [{ opOut with id := 9 }] } }
    s.fab.retry.find? (fun y => y.port == 0 && y.seq == 4) = some (rp n) ∧ (rp n).sends ≠ 0 ∧ (∀ y ∈ s.fab.ops, y.rest.isEmpty = true) ∧ s.lowerOut 9 = false ∧
      (after (.packetAck 0 4 .performed) s).fab.retry = [] ∧ (after (.packetResend 0 4) s).fab.retry.map (·.sends) = (if n < 4 then [n + 1] else []) := by decide +kernel
theorem witness_FabricPackets_signal : let e : InOp := ⟨1, 9, 7, 3, 0, false, some 0x20100, some (0, 4)⟩
    let s := { TPk with fab := { TPk.fab with inOps := [e] } }
    s.fab.inOps.find? (fun z => z.src == 1 && z.opId == 9) = some e ∧ s.groupByHandle 7 = some (0, ge1) ∧ ge1.words[1] = e.key ∧ groupHas ge1 1 = true ∧
      servedOk (TPk.packetSignal (fabricView 0 (groupSpid ge1) 1) .farWrite 0x20100) = true ∧ getByte (after (.remoteSignalUpdate 1 9) s).mem 0x40020100 = 1 := by decide +kernel
theorem witness_FabricPackets_reply : let o : FabricOp := { opOut with opc := 0x72, da := 0x300, sa := 0x9001000000020000, amount := 8, due := 8, sent := 0 }
    let s := { T0 with fab := { T0.fab with ops := [o] } }
    s.fab.ops.find? (fun z => z.id == 1) = some o ∧ o.failed = none ∧ s.farLeft [1] = true ∧ okay (s.writeAt ⟨o.core, o.spid, o.sid, .fabric (pkgOf o.sa)⟩ (o.da.toNat + 6) 1 [7]) = true ∧ 6 + 1 ≤ o.amount.toNat ∧
      (after (.rrdReply 1 6 [7]) s).fab.ops.map (·.due) = [7] ∧ getByte (after (.rrdReply 1 6 [7]) s).mem (spadBase 0 + 0x306) = 7 := by decide +kernel

/-- The one packet of an operation with a signal leaves the signal update due; the packets' checks are made for that update too. -/
theorem witness_FabricPackets_signalDue : let p : Packet := { pkt1 with sigVa := some 0x20100 }
    p.total = 1 ∧ TPk.fab.inOps = [] ∧ (after (.packetIngress p) TPk).fab.inOps.map (fun y => (y.left, y.failed, y.sigVa, y.last)) = [(0, false, some 0x20100, some (0, 4))] := by decide +kernel
theorem witness_FabricPackets_signalRefused : let e : InOp := ⟨1, 9, 7, 3, 0, false, some replyVa, some (0, 4)⟩
    let told (e : InOp) (n : Nat) : Bool := let t := after (.remoteSignalUpdate 1 9) { TPk with fab := { TPk.fab with inOps := [e] } }
      t.fab.out == [.ack 1 0 4 (.failed 13 n)] && t.fab.inOps.isEmpty && t.mem == TPk.mem
    TPk.groupByHandle 8 = none ∧ told { e with handle := 8 } 9 = true ∧ ge1.words[1] ≠ 4 ∧ told { e with key := 4 } 9 = true ∧ groupHas ge1 2 = false ∧ replyVa ≤ replyVa ∧ told e 10 = true := by decide +kernel
/-- The last reply of an RRD adds 1 to its local signal. -/
theorem witness_FabricPackets_replyLast : let o : FabricOp := { opOut with opc := 0x72, da := 0x300, sa := 0x9001000000020000, amount := 8, due := 1, left := 0, sent := 0, sig := 0x400 }
    let s := { T0 with fab := { T0.fab with ops := [o] } }
    let t := after (.rrdReply 1 6 [7]) s
    s.fab.ops.find? (fun z => z.id == 1) = some o ∧ o.ask = none ∧ o.failed = none ∧ s.farLeft [1] = true ∧ s.place 0 0x400 8 = some (.spad 0 0x400) ∧
      okay (s.targetChecks ⟨0, 0, 0, .fabric 1⟩ (.spad 0 0x400) 8 .atomic) = true ∧ t.fab.ops = [] ∧ getByte t.mem (spadBase 0 + 0x306) = 7 ∧ getByte t.mem (spadBase 0 + 0x400) = 1 := by decide +kernel

/-! Ports and links. -/

theorem witness_PortsAndLinks_ports : TPk.fab.en.getLsbD 0 = true ∧ TPk.fab.en.getLsbD 35 = false ∧ ge1.words[0].getLsbD 63 = true ∧ T0.groupClash 255 ge1 = false ∧ TPk.groupClash 255 ge1 = true ∧
    TPk.groupClash 0 ⟨ge1.words.set 0 0⟩ = false ∧ (after (.fctlWrite 2) TPk).fab.up = 0 ∧ (after (.galrilFPortUp 35) TPk).fab.up = 1 ∧ (after (.galrilFPortDown 0) TPk).fab.up = 0 ∧
    (after (.groupEntryWrite 255 0 0xFFFFFFFFFFFFFFFF) T0).fab.groups.map (fun e => (e.1, e.2.words[0])) = [(255, 0x8000FFFF000FFFFF)] ∧ (after (.groupEntryWrite 0 1 9) TPk).fab.groups = [(0, ge1)] ∧
    groupOpen (lookupD ⟨Vector.replicate 16 0⟩ (after (.groupEntryWrite 0 0 0) TPk).fab.groups 0) = false := by decide +kernel
theorem witness_PortsAndLinks_sync : T0.fab.master = false ∧ (after (.syncMessage 0xFFFFFFEC true) T0).fab.inSync = 1 ∧ (after (.syncMessage 20 true) T0).fab.inSync = 1 ∧ (after (.syncMessage 21 true) T0).fab.inSync = 0 ∧
    (after (.syncMessage 5 true) { T0 with fab := { T0.fab with master := true } }).fab.off = 0 := by decide +kernel
def TLk (x : GdLink) : State := T0.setLink 2 x
def link0 : GdLink := T0.links[2]
/-- A lane of direction 1 of the link is under test. -/
def laneTest : Test := ⟨.gdLane 2 1 5, .corrected, 0, false⟩
def TLane (x : GdLink) : State := let s := TLk x; { s with test := { s.test with running := [laneTest] } }
theorem witness_PortsAndLinks_links : link0.st = 0 ∧ (after (.flitReplay 2 false) (TLk { link0 with fails := 14 })).links[2].fails = 15 ∧ (after (.flitReplay 2 false) (TLk { link0 with fails := 15 })).links[2].st = 1 ∧
    (after (.flitReplay 2 true) (TLk { link0 with fails := 15 })).links[2].fails = 0 ∧ (after (.rt 2) (TLk { link0 with nrt := 0xFFFFFFFF })).links[2] = { link0 with st := 1, nrt := 0xFFFFFFFF } ∧
    (after (.retrain 2 true) (TLane link0)).links[2].taken = some 1 ∧ (after (.retrain 2 true) T0).links[2].taken = none ∧ (after (.up 2) (TLk { link0 with st := 2 })).links[2].st = 1 ∧
    (after (.retrainComplete 2) (TLk { link0 with st := 1 })).links[2].st = 0 ∧ (after (.retrainAttemptFail 2) (TLk { link0 with st := 1, attempts := 1 })).links[2].attempts = 2 := by decide +kernel
theorem witness_PortsAndLinks_lane : let s := TLane { link0 with st := 1, taken := some 1 }
    s.links[2].spare[1] ≠ 0 ∧ s.test.running.findIdx? (fun t => t.ofLink 2 1 && !t.spare) = some 0 ∧ (after (.retrainComplete 2) s).links[2].spare = #v[8, 7] ∧
      (after (.retrainComplete 2) s).test.running = [{ laneTest with spare := true }] := by decide +kernel
theorem witness_PortsAndLinks_down : let s := { TLk { link0 with st := 1, attempts := 2 } with cores := [], clusters := [] }
    (∀ o ∈ s.fab.ops, o.ask = none) ∧ (after (.retrainAttemptFail 2) s).links[2].st = 2 ∧ (after (.retrainAttemptFail 2) s).links[2].attempts = 3 ∧ (after (.retrainAttemptFail 2) s).msix.getLsbD 5 = true ∧
    (after (.cxlLinkUp 15 2000 true) T0).cxl[15] = ⟨true, true, 1024⟩ ∧
    (after (.cxlLinkDown 15) (after (.cxlLinkUp 15 2000 true) T0)).cxl[15] = ⟨false, false, 1024⟩ := by decide +kernel

/-! Events that occur, deliveries, stages. -/

/-- The claim of the one ready event of a snapshot. -/
def claim1 (s : State) (hs : List Home) : Option (Nat × Nat × List StrandId × List (Nat × Signal)) :=
  match (s.snapshot hs).2 with | [c] => some (c.slot, c.handle, c.parts, c.sigs) | _ => none

theorem witness_EventsAndStages_occurs : let s := TE { evSlot .sync [me0] [] with credit := 7 } 7 (offerIn 1)
    let t := after (.resolution [.cluster 0]) s
    s.boundaryHomes [.cluster 0] = [.cluster 0] ∧ claim1 s [.cluster 0] = some (5, 0x3005, [me0], []) ∧ (s.snapshot [.cluster 0]).1.strandOffers 0x3005 me0 = true ∧
      (t.bank 0 0).ctx.offers[7] = ⟨0x0000300560000000, 0⟩ ∧ (t.slot (.cluster 0) 5).credit = 0 ∧ (t.clu 0).res.rot = 1 := by decide +kernel
theorem witness_EventsAndStages_nothing : let s := TE (evSlot .sync [me0] []) 7 Offer.empty
    (s.snapshot (s.boundaryHomes [.cluster 0])).2 = [] ∧ (after (.resolution [.cluster 0]) s).deliveries = [] := by decide +kernel
/-- The rotation of a home is cyclic; a frozen cluster resolves by RTICK alone. -/
theorem witness_EventsAndStages_rtick : let s0 := TE (evSlot .sync [me0] []) 7 (offerIn 1)
    let s := s0.setClu 0 { s0.clu 0 with verm := { (s0.clu 0).verm with frz := true }, res := { (s0.clu 0).res with rot := 255 } }
    (s.clu 0).verm.frz = true ∧ s.skips (.cluster 0) = true ∧ claim1 s [.cluster 0] = some (5, 0x3005, [me0], []) ∧ ((after (.rtick 0) s).clu 0).res.rot = 0 ∧
      ((after (.resolution [.cluster 0]) s).clu 0).res.rot = 255 ∧ (s0.clu 0).verm.frz = false := by decide +kernel
theorem witness_EventsAndStages_delivery : let d : Delivery := ⟨0x3005, me0, 7, 0, 0, [(0x600, [1, 2]), (0x610, [3])], [], 5, [0]⟩
    let s := { TE (evSlot .gather [me0] []) 7 (offerIn 2) with deliveries := [d] }
    let t := after (.eventDelivery 0) s
    s.deliveries[0]? = some d ∧ (s.core 0).fen = false ∧ s.deliveryWaits d = false ∧ (∀ y ∈ d.segs, (s.core d.core).meetsBound y.1 y.2.length = false) ∧ s.findStrand d.who = some (.bank 0 0) ∧
      (s.bank 0 0).st = .bound ∧ bits (s.bank 0 0).ctx.offers[7].w0 29 3 = 2 ∧ getBytes t.mem (spadBase 0 + 0x600) 2 = [1, 2] ∧ getByte t.mem (spadBase 0 + 0x610) = 3 ∧
      (let f := s.setClu 0 { s.clu 0 with verm := { (s.clu 0).verm with frz := true } }
       let g := { f with deliveries := [{ d with handle := 0x40003005 }] }
       f.deliveryWaits d = false ∧ g.deliveryWaits { d with handle := 0x40003005 } = true ∧ after (.eventDelivery 0) g = g) ∧
      bits (t.bank 0 0).ctx.offers[7].w0 29 3 = 3 ∧ bits (t.bank 0 0).ctx.offers[7].w0 18 4 = 5 := by decide +kernel

/-- Quad 0 fused, its stage 15 with a value to push to ring 15 of cluster 0. -/
def TS (s : State) : State := TQ s fun q => { q with fused := true, nst := 16, stages := List.replicate 15 ⟨sumImage false, [], [15], none⟩ ++ [⟨sumImage false, [], [15], some [9]⟩] }
theorem witness_EventsAndStages_stage : let s := TS (TR 0 6 6 [])
    let f := TS (TR 0 8 8 [])
    (s.quad 0 0).fused = true ∧ (s.clu (clusterAt 0 0 (15 / 4))).verm.frz = false ∧ ((s.quad 0 0).stages[15]?).map (fun x => (x.outs, x.tuple)) = some ([15], some [9]) ∧
      [15].findSome? s.ringGone = none ∧ (s.ringPush 0 15 0 9).1.isSome = true ∧ (f.ringPush 0 15 0 9).1 = none ∧
      ((after (.fusedStageStep 0 0 15) s).quad 0 0).counts[15] = 1 ∧ getByte (after (.fusedStageStep 0 0 15) s).mem (sramBase 0 + 0x1030) = 9 ∧ after (.fusedStageStep 0 0 15) f = f := by decide +kernel
theorem witness_EventsAndStages_fault : let s := TQ (TS (T fun x => { x with wait := some .fuse })) fun q => { q with offers := [(0, fuseOffer none)] }
    let t := after (.fusionFault 0 0 15 7) s
    15 < (s.quad 0 0).stages.length ∧ (s.quad 0 0).fused = true ∧ (t.quad 0 0).endCode = 2 ∧ (t.quad 0 0).fcause = 7 ∧ s.findStrand me0 = some (.bank 0 0) ∧ (s.core 0).fen = false ∧
      (s.bank 0 0).pend = [] ∧ (s.bank 0 0).store = none ∧ (s.bank 0 0).sending = none ∧ (s.bank 0 0).trapped = [] ∧ (s.bank 0 0).h = false ∧ (s.bank 0 0).prk = false ∧
      bits (t.bank 0 0).ctx.tb.tcause 0 8 = 22 ∧ (t.bank 0 0).ctx.tb.tval = 15 ∧ (t.bank 0 0).ctx.tb.tinfo = 7 ∧ (t.bank 0 0).ctx.tb.tpc = 0x800000000000FFFC ∧
      (T0.quad 0 0).fused = false ∧ after (.fusionFault 0 0 15 7) T0 = T0 := by decide +kernel

/-! The fault server. -/

/-- The report of a trap of the strand, which is parked, with TAG 3; space 0 is mapped, and the report ring stands at 0x8000000000030000. -/
def rep0 (kind : Nat) : Report := ⟨0, kind, 3, 0x3FF, 0, me0, if kind = 3 then 0x400 else 0, 0, List.replicate 6 5⟩
def TPark (tinfo : Word) : State :=
  let s := T fun x => { x with ctx := { x.ctx with tb := { x.ctx.tb with tstat := 2, tpc := 0x8000000000010040, tinfo := tinfo } } }
  { s with fab := { s.fab with awaiting := [rep0 1] } }
def TReport : State := { T0 with fab := { T0.fab with reports := [rep0 1], fsrb := 0x8000000000030000, fsrc := 0x8000000004000000 } }

theorem witness_FaultServer_report : TReport.fab.reports = [rep0 1] ∧ (rep0 1).target = TReport.ctl.pkid.toNat ∧ TReport.ringOn = true ∧ (TReport.ringWrite (rep0 1)).isSome = true ∧
    (after .faultReport TReport).fab.awaiting = [rep0 1] ∧ getBytes (after .faultReport TReport).mem 0x40030100 8 = [0, 0, 0, 0, 0, 3, 0, 0x81] ∧
    getByte (after .faultReport TReport).mem 0x40030000 = 1 ∧
    (let s := { TReport with mem := putByte TReport.mem 0x40030107 0x80 }
     s.ringWrite (rep0 1) = none ∧ after .faultReport s = s) := by decide +kernel
/-- A report for the host raises MSI-X 6; with the ring off, one for this package's server goes to the host. -/
theorem witness_FaultServer_report_host : let r := { rep0 1 with server := 0xFFFFFFFFFFFFFFFF }
    let s := { TReport with fab := { TReport.fab with reports := [r] } }
    let f := { TReport with fab := { TReport.fab with fsrc := 0 } }
    (s.ringWrite r).isSome = true ∧ (after .faultReport s).fab.awaiting = [r] ∧ (after .faultReport s).msix.getLsbD 6 = true ∧
      f.ringOn = false ∧ (rep0 1).src = f.ctl.pkid.toNat ∧ (rep0 1).server ≠ 0xFFFFFFFFFFFFFFFF ∧ (after .faultReport f).fab.reports = [r] ∧ f.ringWrite (rep0 1) = none := by decide +kernel
/-- A report for a server in package 1 leaves by a port with 12 words. -/
theorem witness_FaultServer_report_away : let r := { rep0 1 with server := 0x4000 }
    let s := { TPk with fab := { TPk.fab with reports := [r] } }
    let t := after .faultReport s
    r.src = s.ctl.pkid.toNat ∧ r.target = 1 ∧ s.ctl.pkid = 0 ∧ (s.groupId r.spid).isSome = true ∧ (match s.portWay (r.sid.toNat / 4096 % 4) r.target with | .ok j => j == 0 | .error _ => false) = true ∧
      (match s.groupId r.spid with | some g => s.portRoom 0 (packetUnder g 0 1 none (.report (r.record.take 12)) 0 []) | none => false) = true ∧
      t.fab.reports = [] ∧ t.fab.awaiting = [r] ∧ t.fab.retry.length = 1 := by decide +kernel
/-- After a double trap the strand goes on in its handler. -/
theorem witness_FaultServer_double : let d : DoubleTrap := ⟨⟨.align, 1, 0⟩, 0x8000000000010080⟩
    let s0 := T fun x => { x with dbl := some d, ctx := { x.ctx with tb := { x.ctx.tb with tstat := 3 } } }
    let s := { s0 with fab := { s0.fab with awaiting := [rep0 2] } }
    s.fab.awaiting.find? (fun y => y.tag == 3 && y.sid == 0) = some (rep0 2) ∧ s.strandOfReport (rep0 2) = some (.bank 0 0) ∧ (s.bank 0 0).dbl = some d ∧
      ((after (.resume 3 0 0) s).bank 0 0).pc = 0x8000000000010080 ∧ ((after (.skip 3 0 0) s).bank 0 0).pc = 0x8000000000010084 ∧ ((after (.skip 3 0 0) s).bank 0 0).h = true ∧
      ((after (.skip 3 0 0) s).bank 0 0).prk = false := by decide +kernel
theorem witness_FaultServer_replies : let s := TPark 0
    let x := s.bank 0 0
    s.fab.awaiting.find? (fun y => y.tag == 3 && y.sid == 0) = some (rep0 1) ∧ s.strandOfReport (rep0 1) = some (.bank 0 0) ∧ x.st = .bound ∧ x.dbl = none ∧ bits x.ctx.tb.tinfo 8 4 = 0 ∧
      ((after (.resume 3 0 0) s).bank 0 0).pc = 0x8000000000010040 ∧ ((after (.resume 3 0 0) s).bank 0 0).prk = false ∧ ((after (.resume 3 0 0) s).bank 0 0).h = false ∧ ((after (.kill 3 0 0) s).bank 0 0) = Bank.empty := by decide +kernel
/-- With SK set the trapping instruction has completed. -/
theorem test_resume_skips : ((after (.resume 3 0 0) (TPark 0x8000000)).bank 0 0).pc = 0x8000000000010044 ∧ ((after (.skip 3 0 0) (TPark 0)).bank 0 0).pc = 0x8000000000010044 := by decide +kernel
/-- The trap was taken in the body of pair 1, which the reply leaves: its end processing is due. -/
theorem witness_FaultServer_replies_passed : let s := { TPassed true with fab := { T0.fab with awaiting := [rep0 1] } }
    let x := s.bank 0 0
    s.strandOfReport (rep0 1) = some (.bank 0 0) ∧ x.st = .bound ∧ x.dbl = none ∧ bits x.ctx.tb.tinfo 8 4 = 0 ∧
      ({ x with ctx := Ctx.ofWords x.ctx.word } : Bank).passedEnd 0x8000000000020004 = some 0x8000000000020000 ∧
      ((after (.resume 3 0 0) s).bank 0 0).pc = 0x8000000000020004 ∧ ((after (.resume 3 0 0) s).bank 0 0).endDue = true := by decide +kernel
/-- Of tstat the reply writes H alone; a binding word that was loaded is to be loaded again. -/
theorem witness_FaultServer_edits : ((after (.edit 3 0 [(0x250, 0xFFFFFFFFFFFFFFF9)]) (TPark 0)).bank 0 0).ctx.tb.tstat = 3 ∧
    ((after (.edit 3 0 [(0x250, 0)]) (TPark 0)).bank 0 0).ctx.tb.tstat = 2 ∧ ((after (.edit 3 0 [(0x300, 0x1001)]) (TPark 0)).bank 0 0).ctx.binds[0] = bindLoad 0x1001 ∧
    ((after (.edit 3 0 [(0x338, 0x1004)]) (TPark 0)).bank 0 0).ctx.binds[7] = bindLoad 0x1004 := by decide +kernel
/-- The first and the last word of the region. -/
theorem test_edit : ((after (.edit 3 0 [(8, 9)]) (TPark 0)).bank 0 0).ctx.s 1 = 9 ∧ ((after (.edit 3 0 [(0x1358, 9)]) (TPark 0)).bank 0 0).ctx.xa[1].count = 9 := by decide +kernel
theorem witness_FaultServer_discard : let m := cmd0 3 mzero3 .stopped
    let s := { withCmds T0 [m] with fab := { T0.fab with awaiting := [rep0 3] } }
    s.stoppedCmd (rep0 3) = some (0, m) ∧ m.gang = none ∧ ((after (.discard 3 0 0) s).clu 0).cmds = [] := by decide +kernel
/-- The strand waits in CHOOSE, or stalls in PHASE. -/
def TWait (w : WaitKind) : State := T fun x => { x with wait := some w }
theorem witness_FaultServer_stall : let s := TWait .choose
    let x := s.bank 0 0
    s.findStrand x.id.who = some (.bank 0 0) ∧ x.flagged = false ∧ (s.clu 0).evwatch ≠ 0 ∧ (s.waitsIn (.bank 0 0)).isSome = true ∧ ((TWait .phase).bank 0 0).completionWait = true ∧
      ((after (.stallFlag 0 0) s).bank 0 0).flagged = true ∧ (after (.stallFlag 0 0) s).dies[0].probe.pending = [⟨me0, [], [], []⟩] := by decide +kernel
theorem witness_FaultServer_probe : let s := after (.stallFlag 0 0) (TWait .phase)
    (s.probeOf (.die 0)).pending.find? (fun y => y.flagged == me0 && y.set.isEmpty) = some ⟨me0, [], [], []⟩ ∧ (s.dropFlag (.die 0) me0).inProbe me0 = false ∧
      (after (.probe (.die 0) 0 0) s).dies[0].probe.records[0].getD 0 0 = 0x0100010000000005 ∧ (after (.probe (.die 0) 0 0) s).dies[0].probe.pending = [] := by decide +kernel
theorem witness_FaultServer_recheck : let s0 := TWait .choose
    let v : ProbeView := ⟨me0, [me0], [me0].map s0.memberView, []⟩
    let s := s0.setProbe (.die 0) { Probe.reset with trap := false, pending := [v] }
    (s.probeOf (.die 0)).pending.find? (fun y => !y.set.isEmpty && y.homes.isEmpty) = some v ∧ s.findStrand me0 = some (.bank 0 0) ∧ (s.probeOf (.die 0)).trap = false ∧
      (match s.probeSet (.bank 0 0) with | .ok l => decide (l = v.set) | .error _ => false) = true ∧ v.set.map s.memberView = v.seen ∧
      (after (.probeRecheck (.die 0)) s).dies[0].probe.records[0].getD 0 0 = 0x0200010000000000 := by decide +kernel

/-! Cores, banks and launches. -/

/-- A DCC whose firmware does not run does nothing, and a hung core is not fenced. -/
theorem witness_CoreManagement_dcc : T0.dccRuns = true ∧ State.reset.dccRuns = false ∧ (let s := { T0 with boot := State.reset.boot }
    s.dccRuns = false ∧ ((after (.hang 9 true) s).core 9).hung = true ∧ ((after (.hang 9 true) s).core 9).fen = false ∧ ((after (.hang 9 true) T0).core 9).fen = true) := by decide +kernel

/-- A launch record of one strand: VER 1, TOK 2, its entry; and a launch of it with these positions. -/
def lw (w0 : Word) : List Word := [w0 + 0x0100000080000000, 0x8000000000010000] ++ List.replicate 30 0
def launch1 (ln : BitVec 16) (ps : List Position) : Launch := ⟨ln, 3, 0, lw 0, ⟨[], [], [], []⟩, ps, [], [], false, false, [], 0, 0, 0, 0, [], clustersOf ps, 0⟩
def TLn (l : Launch) (s : State) : State := { s with disp := { s.disp with launches := [l], inuse := 7 }, ctl := { s.ctl with dup := 15 } }

theorem witness_CoreManagement_create : let l := launch1 5 [⟨2, 1, 0x2000⟩]
    let s := TLn l T0
    let t := after (.create 0 5 5 0 0x2000) s
    s.launch? 5 = some l ∧ s.coreAt 0 (5 / 2) = 2 ∧ s.posSt 2 1 = .empty ∧ l.places[0]? = some ⟨2, 1, 0x2000⟩ ∧ (0 : BitVec 32) ∉ l.created ∧ (s.core 2).fen = false ∧
      ((s.core 2).bank (s.core 2).ab).st = .empty ∧ (t.bank 2 0).pc = 0x8000000000010000 ∧ (t.bank 2 0).ctx.tok = 2 ∧ (t.slotEntry 0 5).hold = true ∧
      s.launch? 6 = none ∧ (after (.create 0 5 6 0 0x2000) s).slotEntry 0 5 = ⟨0x0800000000000000, 0⟩ := by decide +kernel

/-- A second strand of the core: unbound, or in its shadow bank in a state. -/
def bank1 (st : BankSt) : Bank := { Bank.created ⟨9, 10, 1, 5, 0, false, 0, Vector.replicate 16 0, []⟩ 0x2000 0x40 0 0 with st := st }
def TSh (st : BankSt) : State := T0.setBank 0 1 (bank1 st)
def TUn : State := T0.setCore 0 { T0.core 0 with unbound := [bank1 .empty] }
/-- Queue 4, of PRI 1, with a head that only the position of the strand of core 0 would place. -/
def THead (s : State) : State := s.setQueue 4 { Queue.reset with lqcfg := 0xA800000000000000, recs := [⟨0, lw 0x0080000000000000, ⟨[0], [], [], []⟩, 0, none, false, none, none, 0⟩] }

theorem witness_CoreManagement_restore : let x := TUn.core 0
    TUn.coreAt 0 (1 / 2) = 0 ∧ x.swp = false ∧ x.put = false ∧ x.unbound.findIdx? (fun z => z.id.who == ⟨5, 9⟩ && z.wsp == 0x2000 && z.id.pos == 1) = some 0 ∧ x.unbound[0]? = some (bank1 .empty) ∧ TUn.frozenAt 0 = false ∧
      TUn.posSt 0 1 = .empty ∧ (x.bank (1 - x.ab)).st = .empty ∧ x.fen = false ∧ TUn.restoreFirst (.saved 0 0) (.saved 0 0) = false ∧ (after (.restore 0 1 5 9 0x2000) TUn).bank 0 1 = bank1 .restoring := by decide +kernel
theorem witness_CoreManagement_restored : let s := TSh .restoring
    ((s.core 0).bank (1 - (s.core 0).ab)).st = .restoring ∧ s.badLine (spadBase 0 + (s.bank 0 1).wsp.toNat) = none ∧ ((after (.restoreComplete 0 (some 77)) s).bank 0 1).st = .damaged ∧
      (let t := after (.restoreComplete 0 none) { s with mem := putByte s.mem (spadBase 0 + 0x2008) 7 }
       (t.bank 0 1).st = .bound ∧ (t.bank 0 1).ctx.s 1 = 7) := by decide +kernel
theorem witness_CoreManagement_unbind : let s := THead (TSh .bound)
    s.shadowAt 0 1 = some 1 ∧ s.unbindNext 0 (s.bank 0 1) = true ∧ ((after (.unbind 0 1) s).bank 0 1).leaving = true := by decide +kernel
theorem witness_CoreManagement_spill : let s := TSh .spilling
    let y := s.core 0
    let l := (TSh .bound).setBank 0 1 { bank1 .bound with leaving := true }
    (y.bank 1).st = .spilling ∧ y.swp = false ∧ (l.core 0).swp = false ∧ y.ab = 0 ∧ (y.bank 1).leaving = false ∧
      (after (.spill 0) s).bank 0 1 = Bank.empty ∧ ((after (.spill 0) s).core 0).unbound.length = 1 ∧
      ((l.core 0).bank 1).leaving = true ∧ ((l.core 0).bank 1).drained = true ∧ ((l.core 0).bank 1).trapped = [] ∧ ((after (.spill 0) l).bank 0 1).st = .spilling := by decide +kernel
theorem witness_CoreManagement_swap : let s0 := TSh .bound
    let s := s0.setBank 0 0 { s0.bank 0 0 with wait := some .choose }
    let e := s.setBank 0 1 { s.bank 0 1 with ctx := { (s.bank 0 1).ctx with offers := (s.bank 0 1).ctx.offers.set 7 (offerIn 3) } }
    s.swapAllowed 0 = true ∧ s.fusedCore 0 = false ∧ (s.core 0).cswapthr ≠ 0 ∧ (s.bank 0 0).blocked = true ∧ (s.bank 0 1).blocked = false ∧
      ((after (.swapThreshold 0) s).core 0).swp = true ∧ e.swapAllowed 0 = true ∧ e.strandDue (.bank 0 1) = true ∧ ((after (.timeSlice 0) e).core 0).swp = true ∧
      s.shadowAt 0 1 = some 1 ∧ s.thresholdCase 0 = true ∧ ((after (.makeActive 0 1) s).core 0).swp = true ∧ ((after (.makeActive 0 1) s).core 0).ab = 0 := by decide +kernel
/-- The swap under way is made; one that a fusion put off is under way once the fusion is over. -/
theorem witness_CoreManagement_swapMove : ∀ st ∈ [BankSt.bound, .empty],
    let s0 := TSh st
    let u := s0.setCore 0 { s0.core 0 with swp := true }
    let p := s0.setCore 0 { s0.core 0 with put := true }
    (u.core 0).fen = false ∧ u.frozenAt 0 = false ∧ (u.core 0).swp = true ∧ ((u.core 0).bank 1).st = st ∧ ((u.swapMove 0).core 0).ab = 1 ∧ (st = .bound → ((u.swapMove 0).core 0).swp = false) ∧
      (p.core 0).swp = false ∧ (p.core 0).put = true ∧ p.fusedCore 0 = false ∧ p.atBoundary 0 = true ∧ ((p.swapMove 0).core 0).swp = true ∧ ((p.swapMove 0).core 0).put = false ∧
      ((p.setCore 0 { p.core 0 with b1 := { (p.core 0).b1 with st := .spilling } }).swapMove 0) = (p.setCore 0 { p.core 0 with b1 := { (p.core 0).b1 with st := .spilling } }) := by decide +kernel
theorem witness_CoreManagement_fen : (T0.core 9).fen = false ∧ (T0.core 9).b0.st = .empty ∧ (T0.core 9).b1.st = .empty ∧ T0.fusedCore 9 = false ∧ T0.idleRunning 9 = false ∧
    (let t := after (.fen 9) T0
     (t.core 9).fen = true ∧ after (.fen 9) t = t) ∧
    ((after (.hang 9 true) T0).core 9).hung = true := by decide +kernel
theorem witness_CoreManagement_remap : let s := after (.fen 4) T0
    s.cid 4 = 4 ∧ (s.core 4).fen = true ∧ cmapAt (s.clu 0).cmap 7 = 7 ∧ (s.core (s.coreAt 0 7)).fen = false ∧ s.strandsOf (s.coreAt 0 7) = [] ∧ (s.core 4).b0.st = .empty ∧ (s.core 4).unbound = [] ∧ s.opsOutOn [4] = false ∧ (s.core 4).b1.st = .empty ∧
      ((after (.remap 4) s).clu 0).cmap = 0x9AF688 ∧ (T0.core 4).fen = false := by decide +kernel
theorem witness_CoreManagement_migration : let l := launch1 0 [⟨0, 0, 0x3E000⟩]
    let s := THead ((TLn l T0).setBank 0 0 { T0.bank 0 0 with boundary := true })
    let t := after (.migration 0 0 ⟨1, 1, 0x2000⟩) s
    s.launch? 0 = some l ∧ (s.bank 0 0).st = .bound ∧ (s.bank 0 0).drained = true ∧ (s.bank 0 0).trapped = [] ∧ s.superstepEnd 0 (s.bank 0 0) = true ∧ (s.core 0).swp = false ∧ (s.core 0).put = false ∧ s.headAbove (s.bank 0 0) = true ∧ s.opsOut me0 .dm = false ∧ s.posFree l.lists 1 1 = true ∧ s.workspaceOk l.lists 1 0x2000 = true ∧ s.ringsReach l (clusterOf 1) = true ∧
      ((s.clid 0).getD 0) % 4 / 2 = ((s.clid (clusterOf 1)).getD 0) % 4 / 2 ∧ t.bank 0 0 = Bank.empty ∧ (t.bank 1 0).pc = 0x8000000000010000 ∧ (t.bank 1 0).wsp = 0x2000 ∧
      t.disp.launches.map (·.places) = [[⟨1, 1, 0x2000⟩]] := by decide +kernel

/-! Dispatch. Queue 3 of space 0 at 0x8000000000030000, depth 16, CTO 5. -/

def lists0 : RecLists := ⟨[], [], [], []⟩
def TQu (recs : List QRec) (f : State → State) : State := f (T0.setQueue 3 { Queue.reset with lqb := 0x8000000000030000, lqcfg := 0x8800000000500000, recs := recs })
/-- A record of one strand of one W cluster, portable. -/
def qr (refused : Option Nat) (outcome : Option (Nat × Nat × Nat)) : QRec := ⟨0, (lw 0x0020000030000000).set 3 0x0001000008000000, lists0, 0, refused, false, none, outcome, 0⟩

theorem witness_Dispatching_accept : let s := TQu [] fun s => { s with mem := putByte s.mem 0x40030107 9 }
    let x := s.disp.queues[3]
    let t := after (.recordAccept 3) s
    x.lqcfg.getLsbD 63 = true ∧ T0.disp.queues[3].lqcfg.getLsbD 63 = false ∧ s.recordWaits = false ∧ okay (s.dispatchRead 0 0x8000000000030100 8 8) = true ∧
      okay (s.dispatchRead 0 0x8000000000030100 256 8) = true ∧ t.disp.queues[3].recs.map (·.refused) = [some 1] ∧ t.disp.queues[3].acc = 1 ∧
      getByte t.mem 0x40030008 = 1 ∧ getByte t.mem 0x40030107 = 0 := by decide +kernel
/-- A record of VER 1 that asks for no cluster; and one whose words 1 to 31 can not be read. -/
theorem witness_Dispatching_accept_lists : let s := TQu [] fun s => { s with mem := putByte s.mem 0x40030107 1 }
    let bad := { s with poison := [0x40030110] }
    okay (s.readLists (wordsOf [0, 0, 0, 0, 0, 0, 0, 1] 32)) = true ∧ (after (.recordAccept 3) s).disp.queues[3].recs.map (·.refused) = [some 2] ∧
      okay (bad.dispatchRead 0 0x8000000000030100 8 8) = true ∧ (match bad.dispatchRead 0 0x8000000000030100 256 8 with | .error (.trap _ _) => true | _ => false) = true ∧
      (after (.recordAccept 3) bad).disp.queues[3].recs.map (·.refused) = [some 10] := by decide +kernel
/-- The tick is the one at which CTO ends. -/
theorem witness_Dispatching_timeout : let s0 := TQu [] fun s => { s with mem := putByte s.mem 0x40030000 1, tick := 7 }
    let s := s0.setQueue 3 { s0.queue 3 with emptySince := some 2 }
    let x := s.disp.queues[3]
    x.emptySince = some 2 ∧ s.recordWaits = false ∧ bits x.lqcfg 20 20 = 5 ∧ 2 + 5 ≤ s.tick.toNat ∧ okay (s.dispatchRead 0 x.lqb 8 8) = true ∧ okay (s.dispatchRead 0 0x8000000000030100 8 8) = true ∧ (after (.claimTimeout 3) s).disp.queues[3].recs.map (·.refused) = [some 13] := by
  decide +kernel
theorem witness_Dispatching_admission : let s := TQu [qr none none] fun s => { s with ctl := { s.ctl with dup := 15 } }
    let p : List Position := [⟨1, 0, 0x2000⟩]
    let r := qr none none
    s.head? 3 = some r ∧ s.startable s.disp.queues[3] r = true ∧ s.outranked 3 r = false ∧ s.launch? 9 = none ∧ s.placesOk r.words r.lists [⟨1, 0, 0x2000⟩] = true ∧
      s.slotsOk r.lists p [] = true ∧ (after (.admission 3 9 p []) s).disp.inuse = 2 ∧ (after (.admission 3 9 p []) s).disp.launches.map (fun l => (l.ln, l.places)) = [(9, p)] := by decide +kernel
theorem witness_Dispatching_start : let l := { launch1 0 [⟨0, 0, 0x3E000⟩] with created := [0] }
    let s := TLn l T0
    s.launch? 0 = some l ∧ l.created.length = l.places.length ∧ l.lstart = false ∧ l.lists.loads = [] ∧ s.ctl.tin.toNat ≤ 45 ∧
      (after (.lstart 0) s).disp.launches.map (fun m => (m.lstart, m.started)) = [(true, false)] ∧ (after .launchStart (after (.lstart 0) s)).disp.launches.map (·.started) = [true] ∧
      (after .ceruleanTick (after (.lstart 0) s)).disp.launches.map (·.started) = [true] ∧ s.launch? 1 = none ∧
      (let w := { after (.lstart 0) s with ctl := { s.ctl with tin := 46 } }
       45 < w.ctl.tin.toNat ∧ after .launchStart w = w) := by decide +kernel
theorem witness_Dispatching_completion : let l := { launch1 4 [⟨0, 0, 0x3E000⟩] with started := true, ended := [0] }
    let s0 := TLn l T0
    let s := { s0 with disp := { s0.disp with tree := false } }
    s.launch? 4 = some l ∧ s.launchDone l = true ∧ s.disp.tree = false ∧ (∀ e ∈ s.clusters, ∀ m ∈ e.2.cmds, m.who.ln = 4 → m.gang = none) ∧ (after (.launchCompletion 4) s).disp.inuse = 5 ∧ (after (.launchCompletion 4) s).disp.launches = [] ∧
      (let m := { l with ended := [] }
       (TLn m T0).launchDone m = false ∧ after (.launchCompletion 4) (TLn m T0) = TLn m T0) := by decide +kernel
theorem witness_Dispatching_report : ∀ r ∈ [qr (some 12) none, qr none (some (1, 0, 0))],
    let s := TQu [r] fun s => { s with disp := { s.disp with tree := false } }
    s.disp.queues[3].recs = [r] ∧ r.words.getD 10 0 = 0 ∧ (after (.launchReport 3) s).disp.queues[3].recs = [] ∧ (after (.launchReport 3) s).disp.queues[3].rep = 1 := by decide +kernel
theorem witness_Dispatching_enable : (after (.lqcfgWrite 3 0x8800000000500000) T0).disp.queues[3].lqcfg = 0x8800000000500000 ∧ (after (.lqcfgWrite 3 0x8600000000500000) T0).disp.queues[3].lqcfg = 0x0600000000500000 ∧
    (after (.lqcfgWrite 3 0x9A00000000000000) T0).disp.queues[3].lqcfg = 0x1A00000000000000 := by decide +kernel
/-- With the journal on, a record waits for what the device owes; a report waits for the launch's one-sided operations. -/
theorem witness_Dispatching_waits : let s := TQu [] fun s => { s with mem := putByte s.mem 0x40030107 9, owed := [⟨0, 0, 0x8000000000030000, .add 1⟩], jrn := { s.jrn with jcfg := 0x800000000000000A }, disp := { s.disp with tree := false } }
    let r := { qr none (some (1, 0, 0)) with ln := some 0 }
    let o := TQu [r] fun s => { s with fab := { TPk.fab with ops := [opFar] } }
    s.recordWaits = true ∧ after (.recordAccept 3) s = s ∧ o.disp.queues[3].recs = [r] ∧ (T0.bank 0 0).id.who.ln = 0 ∧ o.launchOut 0 = true ∧ after (.launchReport 3) o = o ∧
      (TQu [r] id).launchOut 0 = false := by decide +kernel
/-- EN = 1 sets ACC and REP to 0, whatever LOGN; EN = 0 refuses what waits. -/
def TQd : State := TQu [qr none none] fun s => s.setQueue 3 { s.queue 3 with acc := 5, rep := 2 }
def countsOf (s : State) : Nat × Nat × List Bool := let x := s.disp.queues[3]; (x.acc.toNat, x.rep.toNat, x.recs.map (·.refused.isSome))
theorem witness_Dispatching_lqcfg : countsOf (after (.lqcfgWrite 3 0x8800000000500000) TQd) = (0, 0, [false]) ∧ countsOf (after (.lqcfgWrite 3 0x8600000000500000) TQd) = (0, 0, [false]) ∧
    countsOf (after (.lqcfgWrite 3 0x0800000000000000) TQd) = (5, 2, [true]) := by decide +kernel
theorem test_hcomp : (after (.hcompWrite 0) { T0 with disp := { T0.disp with hcomp := 3 } }).disp.hcomp = 0 := by decide +kernel

/-! Debug, the host, the die, the package. -/

/-- Cluster 0 frozen. -/
def TFz : State := T0.vermilionStop 0 1 .debugger
theorem witness_DebugControl_stop : scopeClusters 0 1 = [0] ∧ scopeClusters 3 2 = [0, 1, 2, 3] ∧ (scopeClusters 247 3).length = 248 ∧ scopeClusters 0 0 = [] ∧
    ((after (.stop 3 2) T0).clu 0).verm.frz = true ∧ ((after (.externalDebugPin 0 1) T0).clu 0).verm.frz = true ∧ ((after (.stop 0 0) T0).clu 0).verm.frz = false := by decide +kernel
theorem witness_DebugControl_step : let s := after (.step 0 0) TFz
    let h := s.setBank 0 0 { s.bank 0 0 with held := true }
    let w := TFz.setBank 0 0 { TFz.bank 0 0 with wait := some .choose }
    (TFz.clu 0).verm.frz = true ∧ (TFz.clu 0).verm.stepping = none ∧ (vget (TFz.clu 0).skid ⟨0, 0⟩ 0).w1.getLsbD 2 = true ∧ (vget (TFz.clu 0).skid ⟨0, 0⟩ 5).w1.getLsbD 2 = false ∧
      ((after (.run 0) TFz).clu 0).verm.frz = false ∧ (s.clu 0).verm.stepping = some (0, 0, 0) ∧ ((after (.stepTimeout 0) h).clu 0).verm.stepst = .stalled ∧
      after (.stepTimeout 0) TFz = TFz ∧ after (.stepTimeout 0) s = s ∧ after (.step 0 5) TFz = TFz ∧ ((after (.step 0 0) w).clu 0).verm.stepst = .blocked ∧
      after (.step 0 0) s = s ∧ after (.step 0 7) T0 = T0 := by decide +kernel
theorem witness_DebugControl_ivory : let s := after .host T0
    T0.ivory.st = 0 ∧ T0.ivory.enables.getLsbD 3 = false ∧ after .ivoryPin T0 = T0 ∧ s.ivory.st = 1 ∧ s.ivory.src = 4 ∧ after .ivoryLatch s = s ∧
      (let t := { s with tick := 2 }
       s.ivory.armedAt.toNat + 2 ≤ t.tick.toNat ∧ (after .ivoryLatch t).ivory.st = 2 ∧ (after .ivoryLatch t).ivory.tick = 2 ∧ (after .arm (after .ivoryLatch t)).ivory.st = 0) ∧
      (after .ivoryPin { T0 with ivory := { T0.ivory with enables := 8 } }).ivory.src = 3 := by decide +kernel

/-- A leaf of page 0 of space 0, of 1 GiB; an invalidation of every page, and one of space 1. -/
def leaf0 : TlbEntry := ⟨2, 0, 0, 30, 0x40000000, 7⟩
theorem witness_DieAndHost_station : let s := T0.setDie 3 { T0.die 3 with tlb := [leaf0] }
    (T0.die 0).tinv = none ∧ ((after (.tinv 3 9) T0).die 3).tinv = some 9 ∧ tinvHits 0x2000000000000000 leaf0 = true ∧ tinvHits 0x20000000000 leaf0 = false ∧
      ((after (.tstatDone 3) (after (.tinv 3 0x2000000000000000) s)).die 3).tlb = [] ∧ ((after (.tstatDone 3) (after (.tinv 3 0x20000000000) s)).die 3).tlb = [leaf0] := by decide +kernel
theorem witness_DieAndHost_walk : let s := after (.translationWalk 0 0 0x20000) T0
    (match T0.spaceRoot 0 0 0x20000 with | .ok r => (match T0.walkFrom 0 0 0x20000 walkLevels r with | .ok e => decide (e = leaf0) | .error _ => false) | .error _ => false) = true ∧
      (∀ z ∈ (T0.die 0).tlb, z.station = 2 → z.spid = 0 → z.page ≠ 0x20000 / 2 ^ z.bits * 2 ^ z.bits) ∧ T0.fitted 0x40020000 = true ∧ (s.die 0).walks = [⟨2, 0, 0x20000, false⟩] ∧
      ((after (.translationWalk 0 0 0x20000) s).die 0).tlb = [leaf0] ∧ ((after (.translationWalk 0 0 0x20000) s).die 0).walks = [] ∧
      (let e := after (.tinv 0 0x2000000000000000) s
       (∀ w ∈ (T0.die 0).walks, w.early = false) ∧ (∃ w ∈ (e.die 0).walks, w.early = true) ∧ after (.tstatDone 0) e = e) := by decide +kernel
/-- A plain output grants one input, a trunk port nine; the ones granted stand last. -/
theorem witness_DieAndHost_crossbar : let s := after (.crossbarMessage 0 99 false [3, 5]) T0
    ((((T0.die 0).order 99 false).filter fun i => [3, 5].contains i).take (grantWidth 99)) = [3] ∧ (s.die 0).order 99 false = [0, 1, 2] ++ ((List.range 99).drop 4) ++ [3] ∧
      grantWidth 77 = 1 ∧ grantWidth 78 = 9 ∧ grantWidth 85 = 9 ∧ grantWidth 86 = 1 ∧ after (.crossbarMessage 0 99 false []) T0 = T0 := by decide +kernel
theorem witness_DieAndHost_host : (0x7FFFFFFFF8 + 8 ≤ hbmEnd ∧ hbmEnd < 0x7FFFFFFFF9 + 8 ∧ poisoned T0.poison 0x7FFFFFFFF8 8 = false) ∧
    (let s := after (.hostAccess (.write 0x7FFFFFFFF8 [5, 0, 0, 0, 0, 0, 0, 0])) T0
     getByte s.mem 0x7FFFFFFFF8 = 5 ∧ getByte (after (.hostAccess (.fetchAdd 0x7FFFFFFFF8 true 0xFFFFFFFFFFFFFFFF)) s).mem 0x7FFFFFFFF8 = 4 ∧
     getByte (after (.hostAccess (.swap 0x7FFFFFFFF8 true 9)) s).mem 0x7FFFFFFFF8 = 9 ∧ getByte (after (.hostAccess (.cas 0x7FFFFFFFF8 true 5 8)) s).mem 0x7FFFFFFFF8 = 8 ∧
     getByte (after (.hostAccess (.cas 0x7FFFFFFFF8 true 4 8)) s).mem 0x7FFFFFFFF8 = 5 ∧
     ∀ a ∈ [HostAccess.fetchAdd 0x7FFFFFFFF8 true 1, .swap 0x7FFFFFFFF8 true 9, .cas 0x7FFFFFFFF8 true 5 8, .cas 0x7FFFFFFFF8 true 4 8],
       (after (.hostAccess a) s).hostData = [5, 0, 0, 0, 0, 0, 0, 0]) ∧
    (after (.hostAccess (.read 0x7FFFFFFFF8 8)) T0).hostData = List.replicate 8 0 ∧ after (.hostAccess (.read 0x7FFFFFFFF9 8)) T0 = T0 ∧
    (after (.hostAccess (.register 0x28)) T0).hostData = leBytes 8 T0.ctl.env.toNat ∧
    after (.hostAccess (.write 0x7FFFFFFFF9 (List.replicate 8 1))) T0 = T0 := by decide +kernel
theorem witness_DieAndHost_scrub : (after (.patrolScrub 0x7FFFFFFFFF .uncorrectable) T0).poison = [0x7FFFFFFFE0, 0x7FFFFFFFE8, 0x7FFFFFFFF0, 0x7FFFFFFFF8] ∧
    (after (.patrolScrub 0x7FFFFFFFFF .corrected) (after (.patrolScrub 0x7FFFFFFFFF .corrected) T0)).corrected = [(7 * 32 + 31, 2)] := by decide +kernel
theorem witness_DieAndHost_test : let s := after (.selfTest (.core 9) .hang) T0
    (∀ z ∈ T0.test.running, z.block ≠ .core 9) ∧ s.test.running = [⟨.core 9, .hang, 0, false⟩] ∧ after (.selfTest (.core 9) .corrected) s = s ∧
      s.test.running.find? (fun z => z.block == .core 9) = some ⟨.core 9, .hang, 0, false⟩ ∧ s.resultOk ⟨.core 9, .hang, 0, false⟩ .pass = true ∧
      (after (.selfTestResult (.core 9) .pass) s).test.running = [] ∧ (after (.selfTestResult (.core 9) .pass) s).msix = 8 := by decide +kernel
theorem test_tick : (after .ceruleanTick { T0 with tick := 0xFFFFFFFFFFFFFFFF }).tick = 0 := by decide +kernel

/-- The limits of PENV and of the clock, and the warmth at which the clock falls and the package stops. -/
theorem witness_PackageControl_registers : (after (.registerWrite 0x20 9) T0).ctl.pfsrv = 9 ∧ (after (.registerWrite 0x28 0xFFFFFFFFFFFFFFFF) T0).ctl.env = 3200 ∧ (after (.registerWrite 0x28 0) T0).ctl.env = 2200 ∧
    after (.registerWrite 0x29 0) T0 = T0 ∧ (after (.jcfgWrite 0x8000000000000014) T0).jrn.jseq = 1 ∧ (after (.jcfgWrite 0x8000000000000015) T0).jrn.jcfg = 0x15 ∧ (after (.jcfgWrite 0x8000000000000015) T0).jrn.jseq = 1 ∧
    (after (.jcfgWrite 0x8000000000000007) T0).jrn.jcfg = 7 ∧ (after (.registerWrite 0x30000 0xFFFFFFFFFFFFFFFF) T0).jrn.jbase = 0x000FFFFFFFFFF000 := by decide +kernel
theorem witness_PackageControl_mode : let s := TLn { launch1 4 [] with started := true } T0
    T0.unreported = false ∧ (after (.pctlWrite 1) T0).ctl.slate = true ∧ s.unreported = true ∧ after (.pctlWrite 1) s = s := by decide +kernel
def fw1 : Firmware := ⟨[1], [], [], true, 3, 3, []⟩
def TSt (n : BitVec 8) : State := { T0 with boot := { T0.boot with stage := n } }
/-- A command given to the mailbox with its bytes. -/
def mailed (cmd : BitVec 8) (bs : List Byte) (s : State) : State :=
  { s with boot := { s.boot with cmd := cmd, status := 0, len := BitVec.ofNat 32 bs.length, mailbox := (List.range bs.length).zip bs } }
/-- An image whose key is not the fused one fails. The firmware sets RDY. -/
theorem witness_PackageControl_boot : let bad := { fw1 with keyFused := false }
    State.reset.boot.stage = 0 ∧ fw1.keyFused = true ∧ fw1.counter ≤ fw1.svn ∧ (after (.boot bad []) (TSt 0)).boot.stage = 1 ∧ (mailed 1 [1] (TSt 1)).boot.asked 1 [1] = true ∧
    (after (.loadFirmware bad []) (mailed 1 [1] (TSt 1))).boot.status = 2 ∧ (after (.loadFirmware fw1 []) (mailed 1 [1] (TSt 3))).boot.status = 2 ∧
    (TSt 1).boot.asked 1 [1] = false ∧ after (.loadFirmware fw1 []) (TSt 1) = TSt 1 ∧ after (.boot fw1 []) (TSt 3) = TSt 3 ∧ (TSt 2).boot.stage = 2 := by decide +kernel
/-- RDY waits until no block is under test. -/
theorem witness_PackageControl_ready : (TSt 2).boot.stage = 2 ∧ (TSt 2).test.running = [] ∧
    (let t := { TSt 2 with test := { T0.test with running := [⟨.core 9, .hang, 0, false⟩] } }
     t.test.running ≠ [] ∧ (after (.boot fw1 []) t).boot.stage = 2) := by decide +kernel
theorem witness_PackageControl_keys : let s := TSt 3
    let d : List Byte := List.replicate 32 7
    let m := mailed 4 d s
    m.boot.asked 4 d = true ∧ m.boot.ownerDigest = none ∧ d.length = 32 ∧ (after (.setOwnerKeyDigest d) m).boot.ownerDigest = some d ∧
      (after (.setOwnerKeyDigest d) (mailed 4 d (after (.setOwnerKeyDigest d) m))).boot.status = 2 ∧ (after (.setOwnerKeyDigest d) (mailed 4 d (TSt 0))).boot.status = 2 ∧
      (after (.installImageKey [5] [] []) (mailed 2 [5] (TSt 0))).boot.status = 2 ∧ (after (.attest []) (mailed 3 [] (TSt 0))).boot.status = 2 ∧ (mailed 3 d s).boot.asked 3 d = true ∧
      s.boot.asked 2 [5] = false ∧ s.boot.asked 3 d = false ∧ s.boot.asked 4 d = false ∧
      (let t := mailed 2 [5, 9] { s with boot := { s.boot with ownerDigest := some (sha3 [9]) } }
       t.boot.asked 2 ([5] ++ [] ++ [9]) = true ∧ t.boot.stage = 3 ∧ t.boot.ownerDigest = some (sha3 [9])) := by decide +kernel
theorem witness_PackageControl_power : (after (.powerWindow 2800 99 0) T0).ctl.clock = 2700 ∧ (after (.powerWindow 2801 99 0) T0).ctl.clock = 2600 ∧ (after (.powerWindow 0 100 0) T0).ctl.clock = 2600 ∧
    (after (.powerWindow 0 100 0) { T0 with ctl := { T0.ctl with clock := 1650 } }).ctl.clock = 1600 ∧ (after (.powerWindow 0 109 0) T0).ctl.tripped = false ∧ (after (.powerWindow 0 110 0) T0).ctl.tripped = true ∧
    (after .thermalTrip T0).ctl.tripped = true := by decide +kernel

/-! The machine as a whole. -/

def goesOn (i : Instr) (s : State) : Bool := match exec i s with | .next _ => true | _ => false
theorem witness_ResultFrame : (TP id 1).issuing = some (0, 0) ∧ goesOn (.add 39 1 1 .s64 .both) (TP id 1) = true ∧ scalarResult (.add 39 1 1 .s64 .both) = some 39 ∧
    goesOn (.vadd 15 1 1 0 .s64 .dyn .both) (TP id 1) = true ∧ vectorResult (.vadd 15 1 1 0 .s64 .dyn .both) = some 15 := by decide +kernel
/-- The word of an ADDI stands at the pc; it is what the step runs. -/
def TFetch : State := T0.withFetchWord 32 0x10187FE0
theorem witness_StepRunsDecoded : let s := TFetch
    s.ctl.tripped = false ∧ s.boot.stage ≠ 1 ∧ s.agenda = [] ∧ s.endGrace.due = none ∧ s.endGrace.issuing = some (0, 0) ∧ (s.endGrace.bank 0 0).held = false ∧
      (s.endGrace.bank 0 0).waitingWord = none ∧ (match s.endGrace.fetchWord 0 0 with | .ok (w, _) => w == 0x10187FE0 | .error _ => false) = true ∧
      lookupD 0x10187FE0 (s.endGrace.clu 0).icache 0x40010000 = 0x10187FE0 ∧ s.endGrace.fetchAt 0 0 = .ok [(0x40010000, 4)] ∧ wordOfBytes (s.endGrace.load [(0x40010000, 4)]) = some 0x10187FE0 ∧
      (match decodeNat 0x10187FE0 with | .ok i => decide (i = .addi 3 3 (-8) .both) | .error _ => false) = true ∧
      (match step s with | .next t => (t.bank 0 0).ctx.s 3 == 0xFFFFFFFFFFFFFFF8 | _ => false) = true := by decide +kernel
theorem witness_StepRunsDecoded_illegal : let s := T0.withFetchWord 32 0
    s.agenda = [] ∧ s.endGrace.due = none ∧ wordOfBytes (s.endGrace.load [(0x40010000, 4)]) = some 0 ∧ (match decodeNat 0 with | .ok _ => false | .error _ => true) = true ∧
      (match step s with | .next t => (t.bank 0 0).ctx.tb.tcause == 1 | _ => false) = true := by decide +kernel
theorem witness_StepRunsDecoded_agenda : let s := { T0 with agenda := [.act .ceruleanTick] }
    (match step s with | .next t => t.tick == 1 && t.agenda.isEmpty | _ => false) = true := by decide +kernel
theorem witness_StepRunsDecoded_core : let s0 := TSh .bound
    let s := { s0.setCore 0 { s0.core 0 with swp := true } with agenda := [.core 0] }
    s.boot.stage ≠ 1 ∧ (s.core 0).swp = true ∧ (match step s with | .next t => (t.core 0).ab == 1 && t.agenda.isEmpty | _ => false) = true := by decide +kernel
/-- An instruction that waits is taken up without a fetch; a ROM in recovery answers the boot block alone. -/
theorem witness_StepRunsDecoded_waits : let s := TFetch.setBank 0 0 { TFetch.bank 0 0 with word := some (0x8000000000010000, 0x18480918) }
    (s.endGrace.bank 0 0).waitingWord = some 0x18480918 ∧ s.endGrace.due = none ∧ s.endGrace.issuing = some (0, 0) ∧ (s.endGrace.bank 0 0).held = false ∧
      (match step s with | .next t => (t.bank 0 0).ctx.s 9 == 0x246 | _ => false) = true := by decide +kernel
theorem witness_StepRunsDecoded_recovery : let s := { TSt 1 with agenda := [.act .ceruleanTick] }
    bootBlockStep .ceruleanTick = false ∧ bootBlockStep (.attest []) = true ∧ (match step s with | .fault f => f == .romHalted | _ => false) = true ∧
      (match step { TSt 1 with agenda := [.act (.attest [])] } with | .next t => t.agenda.isEmpty | _ => false) = true := by decide +kernel
theorem witness_EncodeDecodeRoundTrip : (Instr.addi 3 3 (-8) .both).wf = true ∧ (∀ v, Instr.addi 3 3 (-8) .both ≠ .illegal v) ∧ encode (.addi 3 3 (-8) .both) = some 0x10187FE0 := by
  refine ⟨?_, nofun, ?_⟩ <;> decide +kernel
theorem witness_StepKeepsInvariant : TFetch.Inv := by
  constructor <;> decide +kernel

end Sys2Proof.Machine.Tests
end

/-! What serving an access and storing bytes change: of the clusters the stop, its skid records and the watchpoints; else memory, the dies' cached leaves and the Ivory block. -/

namespace Sys2Proof.Machine

open Sys2Proof

/-- s and t differ at most in what serving accesses and storing bytes change. -/
structure AccessFrame (s t : State) : Prop where
  state : t = { s with mem := t.mem, poison := t.poison, badTags := t.badTags, clusters := t.clusters, dies := t.dies, ivory := t.ivory }
  clu : ∀ c, t.clu c = { s.clu c with verm := (t.clu c).verm, skid := (t.clu c).skid, watch := (t.clu c).watch }

namespace AccessFrame

variable {s t u : State}

theorem refl : AccessFrame s s := ⟨rfl, fun _ => rfl⟩

theorem trans (a : AccessFrame s t) (b : AccessFrame t u) : AccessFrame s u where
  state := by rw [b.state, a.state]
  clu c := by rw [b.clu c, a.clu c]

theorem core (a : AccessFrame s t) (k : CoreKey) : t.core k = s.core k := by rw [a.state]; rfl
theorem fab (a : AccessFrame s t) : t.fab = s.fab := by rw [a.state]
theorem test (a : AccessFrame s t) : t.test = s.test := by rw [a.state]
theorem msix (a : AccessFrame s t) : t.msix = s.msix := by rw [a.state]
theorem cmds (a : AccessFrame s t) (c : ClusterKey) : (t.clu c).cmds = (s.clu c).cmds := by rw [a.clu c]
theorem nodes (a : AccessFrame s t) (c : ClusterKey) : (t.clu c).nodes = (s.clu c).nodes := by rw [a.clu c]

/-- An update that leaves every cluster as it is. -/
theorem of_state (h : t = { s with mem := t.mem, poison := t.poison, badTags := t.badTags, dies := t.dies, ivory := t.ivory }) :
    AccessFrame s t where
  state := by rw [h]
  clu c := by rw [h]; rfl

/-- A cluster whose stop, skid records and watchpoints are replaced. -/
theorem setClu {c : ClusterKey} {x : Cluster}
    (h : x = { s.clu c with verm := x.verm, skid := x.skid, watch := x.watch }) : AccessFrame s (s.setClu c x) where
  state := rfl
  clu d := by
    by_cases hd : d = c
    · subst hd
      rw [clu_setClu_same]
      exact h
    · rw [clu_setClu_other _ _ _ _ hd]

theorem ite (p : Prop) [Decidable p] (ht : AccessFrame s t) (hu : AccessFrame s u) : AccessFrame s (if p then t else u) := by
  split <;> assumption

theorem foldl {α : Type} (f : State → α → State) (hf : ∀ s a, AccessFrame s (f s a)) (l : List α) (s : State) :
    AccessFrame s (l.foldl f s) :=
  List.foldlRecOn l f (motive := AccessFrame s) refl fun t h a _ => h.trans (hf t a)

end AccessFrame

theorem accessFrame_keepLeaf (s : State) (d : Nat) (spid : BitVec 20) (va : Nat) : AccessFrame s (s.keepLeaf d spid va) := by
  unfold State.keepLeaf
  split
  · exact .of_state rfl
  · exact .refl

theorem accessFrame_ivoryFire (s : State) (src : Fin 5) (iss : BitVec 24) : AccessFrame s (s.ivoryFire src iss) :=
  .ite _ (.of_state rfl) .refl

theorem accessFrame_freeze (s : State) (c o : ClusterKey) (r : BitVec 2) (src : StopSrc) : AccessFrame s (s.freeze c o r src) := by
  unfold State.freeze
  simp only
  split
  · exact .refl
  · exact .setClu rfl

theorem accessFrame_vermilionStop (s : State) (c : ClusterKey) (scope : Nat) (src : StopSrc) :
    AccessFrame s (s.vermilionStop c scope src) :=
  .foldl _ (fun s d => accessFrame_freeze s d c _ _) _ _

theorem accessFrame_watchFrom (c : ClusterKey) (v : View) (a : Acc) (canon m : Nat) (l : List (Fin 8)) (s : State) :
    AccessFrame s (s.watchFrom c v a canon m l).1 := by
  induction l generalizing s with
  | nil => exact .refl
  | cons n l ih =>
    unfold State.watchFrom
    simp only
    split
    · split
      · exact (AccessFrame.setClu rfl).trans
          ((AccessFrame.ite _ (.trans (.ite _ .refl (accessFrame_vermilionStop _ _ _ _)) (accessFrame_ivoryFire _ _ _))
            (.ite _ .refl (accessFrame_vermilionStop _ _ _ _))).trans (ih _))
      · exact ih s
    · exact ih s

theorem accessFrame_served (s : State) (v : View) (p : Nat) (pl : Place) (m : Nat) (a : Acc) :
    AccessFrame s (s.served v p pl m a).1 := by
  unfold State.served
  split
  · split
    · simp only
      split <;> exact accessFrame_watchFrom _ _ _ _ _ _ _
    · exact .refl
  · exact .foldl _ (fun s c => accessFrame_keepLeaf s _ _ _) _ _
  · exact .refl

theorem accessFrame_put (s : State) (loc : Nat) (bs : List Byte) : AccessFrame s (s.put loc bs) := .of_state rfl

theorem accessFrame_store (ps : List (Nat × Nat)) (bs : List Byte) (s : State) : AccessFrame s (s.store ps bs) := by
  induction ps generalizing bs s with
  | nil => exact .refl
  | cons q ps ih => exact (accessFrame_put s _ _).trans (ih _ _)

/-- What a store leaves in memory depends on what memory held alone. -/
theorem store_mem_congr {s t : State} (ps : List (Nat × Nat)) (bs : List Byte) (h : t.mem = s.mem) :
    (t.store ps bs).mem = (s.store ps bs).mem := by
  induction ps generalizing bs s t with
  | nil => exact h
  | cons q ps ih => exact ih _ (by simp only [State.put, h])

/-- Bytes stored in one piece. -/
theorem store_one_mem (s : State) (loc : Nat) (bs : List Byte) : (s.store [(loc, bs.length)] bs).mem = putBytes s.mem loc bs := by
  simp [State.store, State.put]

theorem length_leBytes (n x : Nat) : (leBytes n x).length = n := by
  induction n generalizing x with
  | zero => rfl
  | succ n ih => simp [leBytes, ih]

end Sys2Proof.Machine

/-! What the operations of a command's life do to its cluster. -/

namespace Sys2Proof.Machine

open Sys2Proof

/-! The launch of a command (R247, R271, R283). -/

/-- The commands that a launch starts, in a cluster that has begun them: running, or all stopped where one finds its launch wrong. -/
theorem execCommandLaunch_of_launchable {s : State} {c : ClusterKey} {q : Fin 6} {ms : List Cmd} (h : s.launchable c q = ms) :
    execCommandLaunch c q s = .next (s.setClu c (let y := ms.foldl Cluster.begin (s.clu c)
      if ms.any y.launchFault then ms.foldl (fun z d => z.setCmd { d with st := .faulted .illegalCmd }) y else y)) := by
  subst h
  rfl

theorem execCommandLaunch_one {s : State} {c : ClusterKey} {q : Fin 6} {m : Cmd} (h : s.launchable c q = [m]) :
    execCommandLaunch c q s = .next (s.setClu c (let y := (s.clu c).begin m
      if y.launchFault m then y.setCmd { m with st := .faulted .illegalCmd } else y)) := by
  simp [execCommandLaunch_of_launchable h]

section Launchable

variable {s : State} {c : ClusterKey} {q : Fin 6} {m : Cmd}
variable (hfrz : (s.clu c).verm.frz = false) (hhead : (s.clu c).head q.val = some m)
include hfrz hhead

/-- A copy launches while fewer than four are on the engine. -/
theorem launchable_copy (hq : q = 5) (hroom : ((s.clu c).cmds.filter fun d => d.q == 5 && d.onEngine).length < 4) :
    s.launchable c q = [m] := by
  subst hq
  have hhead5 : (s.clu c).head 5 = some m := hhead
  simp [State.launchable, hfrz, hhead5, hroom]

/-- A gather launches on an idle unit whose slice's latch no member reads. -/
theorem launchable_gather (hq : q = 4) (hidle : (s.clu c).busy 4 = false)
    (hlatch : (s.clu c).readsLatch (CmdWords.slice m.words) = false) : s.launchable c q = [m] := by
  subst hq
  have hhead4 : (s.clu c).head 4 = some m := hhead
  simp [State.launchable, hfrz, hhead4, hidle, hlatch]

/-- A slice's own command launches on its idle slice. -/
theorem launchable_slice (hq : q.val < 4) (horth : m.isOrth = false) (hgang : m.gang = none) (hidle : (s.clu c).busy q.val = false)
    (hholds : (s.clu c).orthHolds = false) (htest : s.sliceHeld c q.val = false) : s.launchable c q = [m] := by
  have h5 : q ≠ 5 := by rintro rfl; omega
  have h4 : q ≠ 4 := by rintro rfl; omega
  simp [State.launchable, hfrz, hhead, h5, h4, horth, hgang, hidle, hholds, htest]

/-- An orthogonal command launches on four idle slices, with a token. -/
theorem launchable_orth (hq : q.val < 4) (horth : m.isOrth = true)
    (hidle : ∀ n, n < 4 → (s.clu c).busy n = false ∧ s.sliceHeld c n = false) (htok : s.grants m = true) :
    s.launchable c q = [m] := by
  have h5 : q ≠ 5 := by rintro rfl; omega
  have h4 : q ≠ 4 := by rintro rfl; omega
  have hall : ((List.range 4).any fun n => (s.clu c).busy n || s.sliceHeld c n) = false := by
    simpa [List.any_eq_false] using hidle
  simp [State.launchable, hfrz, hhead, h5, h4, horth, (hidle _ hq).1, hall, htok]

/-- The four members of a gang launch together on four idle slices, with a token. -/
theorem launchable_gang {g : Nat} {m0 : Cmd} {l : List Cmd} (hq : q.val < 4) (horth : m.isOrth = false) (hgang : m.gang = some g)
    (hholds : (s.clu c).orthHolds = false) (hidle : ∀ n, n < 4 → (s.clu c).busy n = false ∧ s.sliceHeld c n = false)
    (hready : (s.clu c).gangReady g = m0 :: l) (hlen : l.length = 3) (htok : s.grants m0 = true)
    (hlatch : ∀ d ∈ m0 :: l, CmdWords.gl d.words = true → (s.clu c).gathers d.q.val = false) :
    s.launchable c q = (m0 :: l).map fun d => { d with gln := m0.who.ln } := by
  have h5 : q ≠ 5 := by rintro rfl; omega
  have h4 : q ≠ 4 := by rintro rfl; omega
  have hall : ((List.range 4).any fun n => (s.clu c).busy n || s.sliceHeld c n) = false := by
    simpa [List.any_eq_false] using hidle
  have hfree : ((m0 :: l).all fun d => !(CmdWords.gl d.words && (s.clu c).gathers d.q.val)) = true := by
    rw [List.all_eq_true]
    intro d hd
    cases hgl : CmdWords.gl d.words <;> simp [hlatch d hd, *]
  simp only [State.launchable, hfrz, hhead, h5, h4, horth, hgang, (hidle _ hq).1, hholds, hready, hall, htok, hfree,
    List.length_cons, hlen]
  rfl

end Launchable

/-! A command in its table. -/

theorem id_of_cmd {x : Cluster} {i : Nat} {m : Cmd} (h : x.cmd i = some m) : m.id = i := by
  simpa using List.find?_some h

/-- The command that takes another's place is found under its number. -/
theorem cmd_setCmd {x : Cluster} {i : Nat} {m y : Cmd} (h : x.cmd i = some m) (hid : y.id = m.id) :
    (x.setCmd y).cmd i = some y := by
  have hi : y.id = i := hid.trans (id_of_cmd h)
  have hfound : ((fun d : Cmd => d.id == i) ∘ fun d : Cmd => if d.id = y.id then y else d) = fun d => d.id == i := by
    funext d
    by_cases hd : d.id = i <;> simp [hd, hi]
  unfold Cluster.cmd at h
  rw [Cluster.cmd, Cluster.setCmd, List.find?_map, hfound, h]
  simp [hid]

/-! Nodes and commands under each operation. -/

theorem node_setNode_same (x : Cluster) (n : Nat) (y : Node) : (x.setNode n y).node n = y := lookupD_insertKey_same _ _ _ _

theorem node_setNode_other (x : Cluster) (n k : Nat) (y : Node) (h : k ≠ n) : (x.setNode n y).node k = x.node k :=
  lookupD_insertKey_other _ _ _ _ h _

@[simp] theorem cmds_release (x : Cluster) (m : Cmd) : (x.release m).cmds = x.cmds := rfl
@[simp] theorem node_release (x : Cluster) (m : Cmd) (n : Nat) : (x.release m).node n = x.node n := rfl
@[simp] theorem node_dropCmd (x : Cluster) (i n : Nat) : (x.dropCmd i).node n = x.node n := rfl
@[simp] theorem node_setCmd (x : Cluster) (m : Cmd) (n : Nat) : (x.setCmd m).node n = x.node n := rfl

@[simp] theorem cmds_installLatch (x : Cluster) (m : Cmd) : (x.installLatch m).cmds = x.cmds := by
  unfold Cluster.installLatch
  split <;> rfl

@[simp] theorem node_installLatch (x : Cluster) (m : Cmd) (n : Nat) : (x.installLatch m).node n = x.node n := by
  unfold Cluster.installLatch
  split <;> rfl

@[simp] theorem cmds_freeNode (x : Cluster) (n : Nat) : (x.freeNode n).cmds = x.cmds := by
  unfold Cluster.freeNode
  split <;> rfl

theorem node_freeNode_same (x : Cluster) {n : Nat} (h : n ≠ 0) : (x.freeNode n).node n = { x.node n with st := .free, count := 0 } := by
  simp [Cluster.freeNode, h, node_setNode_same]

theorem node_freeNode_other (x : Cluster) {n k : Nat} (h : k ≠ n) : (x.freeNode n).node k = x.node k := by
  unfold Cluster.freeNode
  split
  · rfl
  · exact node_setNode_other _ _ _ _ h

@[simp] theorem decrement_zero (x : Cluster) (ln : BitVec 16) : x.decrement ln 0 = x := rfl

@[simp] theorem cmds_decrement (x : Cluster) (ln : BitVec 16) (n : Nat) : (x.decrement ln n).cmds = x.cmds := by
  simp only [Cluster.decrement]
  split_ifs <;> rfl

theorem node_decrement_other (x : Cluster) (ln : BitVec 16) {n k : Nat} (h : k ≠ n) : (x.decrement ln n).node k = x.node k := by
  simp only [Cluster.decrement]
  split
  · rfl
  · split
    · exact node_setNode_other _ _ _ _ h
    · split
      · rfl
      · exact node_setNode_other _ _ _ _ h

/-- A successor that waits is one nearer to ready (R250). -/
theorem node_decrement_waiting (x : Cluster) (ln : BitVec 16) {n : Nat} (h : n ≠ 0) (hw : (x.node n).st = .waiting) :
    (x.decrement ln n).node n = { x.node n with
      count := (x.node n).count - 1, st := if (x.node n).count ≤ 1 then .ready else .waiting } := by
  simp [Cluster.decrement, h, hw, node_setNode_same]

end Sys2Proof.Machine

/-! The write-back of a command's word 0 (R74), and how a command completes (R250) and stops (R251). -/

namespace Sys2Proof.Machine

open Sys2Proof

/-- Word 0 of a command as it is written back with a status and a step count. -/
def Cmd.backBytes (m : Cmd) (pst pch : Nat) : List Byte := leBytes 8 (setBits m.words[0] 0 11 (pst * 256 + pch % 256)).toNat

/-- No fence and no register region holds off a write of the word at a location. -/
def State.wordFree (s : State) (loc : Nat) : Prop :=
  ∀ k off, placeOfLoc loc = .spad k off →
    (s.core k).fen = false ∧ (s.core k).meetsBound off 8 = false ∧ (s.core k).meetsSpilling off 8 = false

theorem wordFree_of_accessFrame {s t : State} {loc : Nat} (a : AccessFrame s t) (h : s.wordFree loc) : t.wordFree loc := by
  intro k off hp
  rw [a.core]
  exact h k off hp

theorem backWaits_of_wordFree {s : State} {m : Cmd} (h : s.wordFree m.loc) : s.backWaits m = false := by
  unfold State.backWaits
  cases hp : placeOfLoc m.loc with
  | spad k off => simp [(h k off hp).2.2]
  | sram | virt | far => rfl

theorem writeBack_of_wordFree {s : State} {m : Cmd} (pst : Nat) (h : s.wordFree m.loc) :
    s.writeBack m pst = (s.served m.view m.ptr.toNat (placeOfLoc m.loc) 8 .write).1.store [(m.loc, 8)] (m.backBytes pst m.pch) := by
  unfold State.writeBack
  cases hp : placeOfLoc m.loc with
  | spad k off =>
    obtain ⟨hfen, hbound, -⟩ := h k off hp
    simp [hfen, hbound, Cmd.backBytes]
  | sram | virt | far => simp [Cmd.backBytes]

theorem writeBack_mem {s : State} {m : Cmd} (pst : Nat) (h : s.wordFree m.loc) :
    (s.writeBack m pst).mem = putBytes s.mem m.loc (m.backBytes pst m.pch) := by
  have hlen : (m.backBytes pst m.pch).length = 8 := length_leBytes _ _
  rw [writeBack_of_wordFree pst h, ← hlen, store_one_mem, served_mem]

theorem accessFrame_writeBack (s : State) (m : Cmd) (pst : Nat) : AccessFrame s (s.writeBack m pst) := by
  simp only [State.writeBack]
  exact .ite _ .refl ((accessFrame_served _ _ _ _ _ _).trans (accessFrame_store _ _ _))

/-- The cluster of a completed command: its latch installed, its successors decremented, its locks and its node free, and itself gone. -/
def Cluster.completed (x : Cluster) (m : Cmd) : Cluster :=
  let y := ((x.installLatch m).decrement m.who.ln (CmdWords.suc0 m.words)).decrement m.who.ln (CmdWords.suc1 m.words)
  ((y.release m).freeNode m.nid).dropCmd m.id

@[simp] theorem cmds_completed (x : Cluster) (m : Cmd) : (x.completed m).cmds = x.cmds.filter fun d => d.id != m.id := by
  simp [Cluster.completed, Cluster.dropCmd]

theorem node_completed_own (x : Cluster) (m : Cmd) (hn : m.nid ≠ 0) (h0 : CmdWords.suc0 m.words ≠ m.nid)
    (h1 : CmdWords.suc1 m.words ≠ m.nid) : (x.completed m).node m.nid = { x.node m.nid with st := .free, count := 0 } := by
  simp [Cluster.completed, node_freeNode_same _ hn, node_decrement_other _ _ h0.symm, node_decrement_other _ _ h1.symm]

theorem node_completed_successor (x : Cluster) (m : Cmd) (h0 : CmdWords.suc0 m.words ≠ 0) (hn : CmdWords.suc0 m.words ≠ m.nid)
    (h1 : CmdWords.suc1 m.words = 0) (hw : (x.node (CmdWords.suc0 m.words)).st = .waiting) :
    (x.completed m).node (CmdWords.suc0 m.words) = { x.node (CmdWords.suc0 m.words) with
      count := (x.node (CmdWords.suc0 m.words)).count - 1
      st := if (x.node (CmdWords.suc0 m.words)).count ≤ 1 then .ready else .waiting } := by
  simp [Cluster.completed, node_freeNode_other _ hn, h1, node_decrement_waiting _ _ h0, hw]

theorem retryResumes_of_none (s : State) (c : ClusterKey) (q : Fin 6) (h : ∀ d ∈ (s.clu c).cmds, d.again = false) :
    s.retryResumes c q = s := by
  have hnil : ((s.clu c).cmds.filter fun d => d.st == .stopped && d.again && d.q == q) = [] := by
    rw [List.filter_eq_nil_iff]
    intro d hd
    simp [h d hd]
  rw [State.retryResumes, hnil]
  rfl

/-- A command without a completion event completes where no RESUME waits for room: its word is written, and its cluster is as `Cluster.completed` says. -/
theorem completeCmd_plain {s : State} {c : ClusterKey} {m : Cmd} (hev : CmdWords.evv m.words = false)
    (hagain : ∀ d ∈ (s.clu c).cmds, d.again = false) :
    s.completeCmd c m = (s.writeBack { m with pch := m.steps } 3).setClu c
      (((s.writeBack { m with pch := m.steps } 3).clu c).completed m) := by
  have hcmds := (accessFrame_writeBack s { m with pch := m.steps } 3).cmds c
  simp only [State.completeCmd, hev, Bool.false_eq_true, if_false]
  refine retryResumes_of_none _ _ _ fun d hd => ?_
  rw [clu_setClu_same] at hd
  change d ∈ (Cluster.completed _ m).cmds at hd
  rw [cmds_completed, hcmds] at hd
  exact hagain d (List.mem_filter.mp hd).1

/-- The cluster of a command that has stopped. -/
def Cluster.stopped (x : Cluster) (m : Cmd) : Cluster :=
  let y := x.release m
  (if m.nid = 0 then y else y.setNode m.nid { y.node m.nid with st := .stopped }).setCmd
    { m with st := .stopped, lag := [], lagAt := [], ahead := none, runs := [] }

theorem cmd_stopped {x : Cluster} {i : Nat} {m : Cmd} (h : x.cmd i = some m) :
    (x.stopped m).cmd i = some { m with st := .stopped, lag := [], lagAt := [], ahead := none, runs := [] } := by
  refine cmd_setCmd (m := m) ?_ rfl
  split <;> exact h

theorem node_stopped {x : Cluster} {m : Cmd} (hn : m.nid ≠ 0) : (x.stopped m).node m.nid = { x.node m.nid with st := .stopped } := by
  simp [Cluster.stopped, hn, node_setNode_same]

theorem stopCmd_mem {s : State} {c : ClusterKey} {m : Cmd} {cause : Cause} (h : s.wordFree m.loc) :
    (s.stopCmd c m cause).mem = putBytes s.mem m.loc (m.backBytes cause.pst m.pch) := by
  rw [← writeBack_mem cause.pst h]
  rfl

theorem stopCmd_clu (s : State) (c : ClusterKey) (m : Cmd) (cause : Cause) :
    (s.stopCmd c m cause).clu c = ((s.writeBack m cause.pst).clu c).stopped m :=
  clu_setClu_same _ _ _

/-- The report of a stop (R251, R440). -/
theorem stopCmd_reports (s : State) (c : ClusterKey) (m : Cmd) (cause : Cause) :
    ∃ r, (s.stopCmd c m cause).fab.reports = s.fab.reports ++ [r] ∧ r.kind = 3 ∧
      r.words = [m.ptr, BitVec.ofNat 64 cause.code, BitVec.ofNat 64 cause.pst, BitVec.ofNat 64 m.pch] := by
  rw [← (accessFrame_writeBack s m cause.pst).fab]
  exact ⟨_, rfl, rfl, rfl⟩

/-- A command of which no byte waits stops at once. -/
theorem stopNow_of_noLag {s : State} {c : ClusterKey} {m : Cmd} {cause : Cause} (hfrz : (s.clu c).verm.frz = false)
    (hfree : s.wordFree m.loc) (hlag : m.lag = []) (hkept : m.dropped = false) : s.stopNow c m cause = s.stopCmd c m cause := by
  simp [State.stopNow, hfrz, backWaits_of_wordFree hfree, State.flushLag, hlag, hkept]

theorem lagHere_mem (s : State) (m : Cmd) : (s.lagHere m).mem = (s.store m.lagAt (m.lag.flatMap fun e => e.2)).mem := by
  refine store_mem_congr _ _ ?_
  refine List.foldlRecOn m.lag _ (motive := fun t : State => t.mem = s.mem) rfl fun t ht e _ => ?_
  split
  · rw [served_mem, ht]
  · exact ht

theorem accessFrame_lagHere (s : State) (m : Cmd) : AccessFrame s (s.lagHere m) := by
  refine .trans (.foldl _ (fun t e => ?_) _ _) (accessFrame_store _ _ _)
  split
  · exact accessFrame_served _ _ _ _ _ _
  · exact .refl

/-- The bytes of a copy that waited in this package are written as it stops, where no spill is pending there. -/
theorem flushLag_here {s : State} {c : ClusterKey} {m : Cmd} (hlag : m.lag ≠ []) (hat : m.lagAt ≠ [])
    (hspill : ∀ p ∈ m.lagAt, ∀ k off, spadOfLoc p.1 = some (k, off) → (s.core k).meetsSpilling off p.2 = false) :
    s.flushLag c m = .done (s.lagHere m) m := by
  have hno : ((m.lagAt.filterMap fun q => (spadOfLoc q.1).map fun r => (r.1, r.2, q.2)).any fun r =>
      (s.core r.1).meetsSpilling r.2.1 r.2.2) = false := by
    rw [List.any_eq_false]
    intro r hr
    obtain ⟨p, hp, hr⟩ := List.mem_filterMap.mp hr
    obtain ⟨⟨k, off⟩, hk, rfl⟩ := Option.map_eq_some_iff.mp hr
    simp [hspill p hp k off hk]
  simp only [State.flushLag, List.isEmpty_iff, hlag, hat, hno]
  rfl

theorem stopNow_of_lag_mem {s : State} {c : ClusterKey} {m : Cmd} {cause : Cause} (hfrz : (s.clu c).verm.frz = false)
    (hfree : s.wordFree m.loc) (hflush : s.flushLag c m = .done (s.lagHere m) m) :
    (s.stopNow c m cause).mem = putBytes (s.store m.lagAt (m.lag.flatMap fun e => e.2)).mem m.loc (m.backBytes cause.pst m.pch) := by
  have hmem : (s.stopNow c m cause).mem = ((s.lagHere m).stopCmd c m cause).mem := by
    simp only [State.stopNow, hfrz, backWaits_of_wordFree hfree, hflush]
    cases m.dropped <;> rfl
  rw [hmem, stopCmd_mem (wordFree_of_accessFrame (accessFrame_lagHere s m) hfree), lagHere_mem]

end Sys2Proof.Machine

/-! The life of a command. -/

namespace Sys2Proof.Machine

open Sys2Proof

theorem exec_commandCompletion {s : State} {c : ClusterKey} {i : Nat} {m : Cmd} (hm : (s.clu c).cmd i = some m) (hst : m.st = .finished)
    (hfrz : (s.clu c).verm.frz = false) (hfree : s.wordFree m.loc) : exec (.commandCompletion c i) s = .next (s.completeCmd c m) := by
  change execCommandCompletion c i s = _
  simp [execCommandCompletion, hm, hst, hfrz, backWaits_of_wordFree hfree]

theorem exec_commandStop {s : State} {c : ClusterKey} {i : Nat} {m : Cmd} {cause : Cause} (hm : (s.clu c).cmd i = some m)
    (hst : m.st = .faulted cause) : exec (.commandStop c i) s = .next (s.stopNow c m cause) := by
  change execCommandStop c i s = _
  simp only [execCommandStop, hm, hst]

/-- Settles O42: what a launch starts is `launchable`, case by case; a completion and a stop are read off the write-back and the cluster that `Cluster.completed` and `Cluster.stopped` describe. -/
theorem commandLifecycle : Obligations.CommandLifecycle := by
  intro s c i q m x w nid suc word away begun
  refine ⟨?_, ?_, ?_, ?_, ?_, ?_⟩
  · rintro hfrz hhead horth hgang (⟨hq, hroom⟩ | ⟨hq, hidle, hholds, htest⟩ | ⟨hq, hidle, hlatch⟩)
    · exact execCommandLaunch_one (launchable_copy hfrz hhead hq hroom)
    · exact execCommandLaunch_one (launchable_slice hfrz hhead hq horth hgang hidle hholds htest)
    · exact execCommandLaunch_one (launchable_gather hfrz hhead hq hidle hlatch)
  · intro hfrz hhead horth hq hidle htok
    exact execCommandLaunch_one (launchable_orth hfrz hhead hq horth hidle (decide_eq_true htok))
  · intro g m0 l hfrz hhead horth hgang hq hholds hidle hready hlen htok hlatch
    exact execCommandLaunch_of_launchable
      (launchable_gang hfrz hhead hq horth hgang hholds hidle hready hlen (decide_eq_true htok) hlatch)
  · intro hm hst hfrz haway hagain hev hsuc1 hsuc hnid
    have hframe := accessFrame_writeBack s { m with pch := m.steps } 3
    have hnode : ∀ n, ((s.writeBack { m with pch := m.steps } 3).clu c).node n = x.node n := fun n => by
      simp only [Cluster.node, hframe.nodes c, x]
    refine ⟨_, exec_commandCompletion hm hst hfrz haway, ?_⟩
    rw [completeCmd_plain hev hagain, clu_setClu_same, cmds_completed, hframe.cmds c]
    refine ⟨writeBack_mem 3 haway, rfl, ?_, fun hsuc0 hwait => ?_⟩
    · rw [← hnode nid]
      exact node_completed_own _ m hnid hsuc (by rw [show CmdWords.suc1 m.words = 0 from hsuc1]; exact hnid.symm)
    · rw [← hnode suc] at hwait ⊢
      exact node_completed_successor _ m hsuc0 hsuc hsuc1 hwait
  · intro cause hm hst hfrz haway hnid hlag hkept
    have hframe := accessFrame_writeBack s m cause.pst
    have hcmd : ((s.writeBack m cause.pst).clu c).cmd i = some m := by
      simpa only [Cluster.cmd, hframe.cmds c] using hm
    have hnode : ((s.writeBack m cause.pst).clu c).node nid = x.node nid := by
      simp only [Cluster.node, hframe.nodes c, x]
    obtain ⟨r, hreports, hkind, hwords⟩ := stopCmd_reports s c m cause
    refine ⟨_, r, exec_commandStop hm hst, ?_⟩
    rw [stopNow_of_noLag hfrz haway hlag hkept, stopCmd_clu, ← hnode]
    exact ⟨stopCmd_mem haway, cmd_stopped hcmd, node_stopped hnid, hreports, hkind, hwords⟩
  · intro cause hm hst hfrz haway hlag hat hspill
    exact ⟨_, exec_commandStop hm hst, stopNow_of_lag_mem hfrz haway (flushLag_here hlag hat hspill)⟩

end Sys2Proof.Machine

/-! No duty of a DCC ends a self-test or clears an MSI-X vector: what follows a test's result, a fence or a remap among it, keeps both. -/

namespace Sys2Proof.Machine

open Sys2Proof

/-- From s to t the same blocks are under test, and every MSI-X vector that is raised stays raised. -/
structure KeepsTests (s t : State) : Prop where
  running : t.test.running = s.test.running
  msix : ∀ n, s.msix.getLsbD n = true → t.msix.getLsbD n = true

namespace KeepsTests

variable {s t u : State}

theorem same (ht : t.test = s.test) (hm : t.msix = s.msix) : KeepsTests s t := ⟨by rw [ht], fun _ h => hm ▸ h⟩

theorem refl : KeepsTests s s := .same rfl rfl

theorem trans (a : KeepsTests s t) (b : KeepsTests t u) : KeepsTests s u :=
  ⟨b.running.trans a.running, fun n h => b.msix n (a.msix n h)⟩

/-- Two steps, the later one first. -/
theorem after (b : KeepsTests t u) (a : KeepsTests s t) : KeepsTests s u := a.trans b

theorem of_accessFrame (a : AccessFrame s t) : KeepsTests s t := .same a.test a.msix

theorem ite (p : Prop) [Decidable p] (ht : KeepsTests s t) (hu : KeepsTests s u) : KeepsTests s (if p then t else u) := by
  split <;> assumption

theorem foldl {α : Type} {f : State → α → State} (hf : ∀ s a, KeepsTests s (f s a)) (l : List α) (s : State) :
    KeepsTests s (l.foldl f s) :=
  List.foldlRecOn l f (motive := KeepsTests s) refl fun t h a _ => h.trans (hf t a)

end KeepsTests

/-- A chain of checks that passes has passed each of them. -/
theorem chk_bind_ok {α β : Type} {x : Chk α} {f : α → Chk β} {r : β} (h : (x >>= f) = .ok r) : ∃ a, x = .ok a ∧ f a = .ok r := by
  cases x with
  | error e => cases h
  | ok a => exact ⟨a, rfl, h⟩

/-! The updates of the tables. -/

theorem keepsTests_put (s : State) (loc : Nat) (bs : List Byte) : KeepsTests s (s.put loc bs) := .same rfl rfl
theorem keepsTests_setCore (s : State) (k : CoreKey) (x : Core) : KeepsTests s (s.setCore k x) := .same rfl rfl
theorem keepsTests_setBank (s : State) (k : CoreKey) (b : Fin 2) (x : Bank) : KeepsTests s (s.setBank k b x) := .same rfl rfl
theorem keepsTests_setClu (s : State) (c : ClusterKey) (x : Cluster) : KeepsTests s (s.setClu c x) := .same rfl rfl
theorem keepsTests_setDie (s : State) (d : Nat) (x : Die) : KeepsTests s (s.setDie d x) := .same rfl rfl
theorem keepsTests_setQuad (s : State) (d pq : Nat) (x : Quad) : KeepsTests s (s.setQuad d pq x) := .same rfl rfl
theorem keepsTests_setRing (s : State) (c : ClusterKey) (i : Nat) (r : Ring) : KeepsTests s (s.setRing c i r) := .same rfl rfl
theorem keepsTests_setFold (s : State) (g : FoldGroup) : KeepsTests s (s.setFold g) := .same rfl rfl
theorem keepsTests_setOp (s : State) (o : FabricOp) : KeepsTests s (s.setOp o) := .same rfl rfl
theorem keepsTests_setDisp (s : State) (x : Dispatch) : KeepsTests s { s with disp := x } := .same rfl rfl
theorem keepsTests_setFab (s : State) (x : Fabric) : KeepsTests s { s with fab := x } := .same rfl rfl
theorem keepsTests_setLink (s : State) (l : Fin 4) (x : GdLink) : KeepsTests s (s.setLink l x) := .same rfl rfl
theorem keepsTests_setJrn (s : State) (x : Journal) : KeepsTests s { s with jrn := x } := .same rfl rfl

/-! The Galril-F ports and what stands in their retry stores. -/

theorem keepsTests_sendPacket (s : State) (j target : Nat) (p : Packet) : KeepsTests s (s.sendPacket j target p) := .same rfl rfl

theorem keepsTests_copyCuts (l : List (Nat × Nat)) (s : State) (o : FabricOp) : KeepsTests s (s.copyCuts o l).1 := by
  induction l generalizing s o with
  | nil => exact .refl
  | cons c l ih =>
    unfold State.copyCuts
    simp only
    split
    · exact ih _ _
    · split
      · exact (keepsTests_sendPacket _ _ _ _).trans (ih _ _)
      · exact .refl

theorem keepsTests_copyPayload (s : State) (o : FabricOp) : KeepsTests s (s.copyPayload o) :=
  (keepsTests_setOp _ _).after (keepsTests_copyCuts _ _ _)

theorem keepsTests_pump (s : State) : KeepsTests s s.pump :=
  .trans (t := (s.fab.ops.filter fun o => !o.rest.isEmpty).foldl State.copyPayload s)
    (.foldl keepsTests_copyPayload _ _) (.same rfl rfl)

theorem keepsTests_farAnswered (s : State) (ids : List Nat) : KeepsTests s (s.farAnswered ids) :=
  (keepsTests_pump _).after (keepsTests_setFab _ _)

theorem keepsTests_farSend {s t : State} {k : CoreKey} {grp : Option (BitVec 16 × Word)} {pl : Place} {op : PacketOp}
    {bs : List Byte} {n : Nat} (h : s.farSend k grp pl op bs = .ok (n, t)) : KeepsTests s t := by
  unfold State.farSend at h
  split at h
  · obtain ⟨j, -, h⟩ := chk_bind_ok h
    simp only at h
    split at h
    · cases h
      exact .same rfl rfl
    · cases h
  · cases h

/-! Deterministic updates and fold groups. -/

theorem keepsTests_foldAccept {s t : State} {g : FoldGroup} {win : Nat} {u : FoldUpd} (h : s.foldAccept g win u = .accepted t) :
    KeepsTests s t := by
  unfold State.foldAccept at h
  extract_lets w unit n clash s1 fair at h
  split at h
  · cases h
  · split at h
    · rw [← FoldAnswer.accepted.inj h]
      exact .same rfl rfl
    · cases h

theorem keepsTests_strandUpdate {s t : State} {k : CoreKey} {b : Fin 2} {pa : Nat} {wide : Bool} {x : Word}
    (h : s.strandUpdate k b pa wide x = .accepted t) : KeepsTests s t := by
  unfold State.strandUpdate at h
  split at h
  · cases h
  · split at h
    · next hu =>
      cases h
      exact (keepsTests_foldAccept hu).trans (.same rfl rfl)
    · next hu => exact keepsTests_foldAccept h

theorem keepsTests_writeBackDet (s : State) (k : CoreKey) (b : Fin 2) (n : Nat) (p : Pending) (d : DReg) (wide : Bool) (x : Word) :
    KeepsTests s (writeBackDet s k b n p d wide x) := by
  simp only [writeBackDet]
  split
  · exact .same rfl rfl
  · split
    · exact .refl
    · exact .same rfl rfl
    · split
      · exact .refl
      · exact .same rfl rfl
      · next hu => exact (keepsTests_strandUpdate hu).trans (.same rfl rfl)

theorem keepsTests_unhold (s : State) (k : CoreKey) (b : Fin 2) (h : StoreHeld) (t : Option Trap) :
    KeepsTests s (s.unhold k b h t) :=
  (keepsTests_farAnswered _ _).after (keepsTests_setBank _ _ _ _)

theorem keepsTests_acceptDet (s : State) (k : CoreKey) (b : Fin 2) (h : StoreHeld) (wide : Bool) (x : Word)
    (far : Option FarReply) : KeepsTests s (acceptDet s k b h wide x far) := by
  simp only [acceptDet]
  split
  · exact keepsTests_unhold _ _ _ _ _
  · split
    · split
      · exact .refl
      · split
        · split
          · exact .refl
          · exact keepsTests_unhold _ _ _ _ _
          · next hsent => exact (keepsTests_farSend hsent).trans (.same rfl rfl)
        · split
          · exact .refl
          · split
            · exact keepsTests_unhold _ _ _ _ _
            · exact (keepsTests_unhold _ _ _ _ _).after ((keepsTests_setBank _ _ _ _).after (keepsTests_setFold _ _))
    · split
      · exact .refl
      · exact keepsTests_unhold _ _ _ _ _
      · split
        · exact .refl
        · exact keepsTests_unhold _ _ _ _ _
        · next hu => exact (keepsTests_strandUpdate hu).trans (keepsTests_unhold _ _ _ _ _)

theorem keepsTests_settleDet (s : State) (w : StrandAt) : KeepsTests s (s.settleDet w) := by
  unfold State.settleDet
  split
  · exact .refl
  · split
    · exact .refl
    · split
      · split
        · exact keepsTests_writeBackDet _ _ _ _ _ _ _ _
        · exact .refl
      · split
        · split
          · exact keepsTests_acceptDet _ _ _ _ _ _ _
          · exact .refl
        · exact .refl

theorem keepsTests_foldLeavesAt (s : State) (g : FoldGroup) (rank win : Nat) : KeepsTests s (s.foldLeavesAt g rank win) :=
  .ite _ (.same rfl rfl) (.same rfl rfl)

/-! A strand's registers and offers. -/

theorem keepsTests_setStrand (s : State) (w : StrandAt) (x : Bank) : KeepsTests s (s.setStrand w x) := by
  cases w <;> exact .same rfl rfl

theorem keepsTests_setRegionWord (s : State) (w : StrandAt) (i : Nat) (x : Word) : KeepsTests s (s.setRegionWord w i x) := by
  unfold State.setRegionWord
  split
  · exact .same rfl rfl
  · exact keepsTests_setStrand _ _ _

theorem keepsTests_setEntry (s : State) (w : StrandAt) (i : Nat) (e : Offer) : KeepsTests s (s.setEntry w i e) := by
  unfold State.setEntry
  split
  · exact keepsTests_setStrand _ _ _
  · exact (keepsTests_setRegionWord _ _ _ _).trans (keepsTests_setRegionWord _ _ _ _)

theorem keepsTests_mapEntries (s : State) (w : StrandAt) (p : Offer → Bool) (f : Offer → Offer) :
    KeepsTests s (s.mapEntries w p f) :=
  .foldl (fun _ _ => .ite _ (keepsTests_setEntry _ _ _ _) .refl) _ _

theorem keepsTests_setSlot (s : State) (h : Home) (n : Nat) (e : EvSlot) : KeepsTests s (s.setSlot h n e) := by
  cases h <;> exact .same rfl rfl

theorem keepsTests_leaveEvent (s : State) (w : StrandAt) (who : StrandId) (h : Home) (n : Nat) :
    KeepsTests s (s.leaveEvent w who h n) :=
  (keepsTests_mapEntries _ _ _ _).trans (keepsTests_setSlot _ _ _ _)

theorem keepsTests_leaveAll (s : State) (w : StrandAt) (who : StrandId) : KeepsTests s (s.leaveAll w who) :=
  .foldl (fun _ _ => keepsTests_leaveEvent _ _ _ _ _) _ _

theorem keepsTests_foldGone (s : State) (a : StrandAt) : KeepsTests s (s.foldGone a) := by
  unfold State.foldGone
  simp only
  split
  · exact .refl
  · exact ((keepsTests_foldLeavesAt _ _ _ _).trans (keepsTests_setRegionWord _ _ _ _)).trans (keepsTests_setRegionWord _ _ _ _)

theorem keepsTests_withdrawFuse (s : State) (k : CoreKey) (who : StrandId) (result : Bool) :
    KeepsTests s (s.withdrawFuse k who result) :=
  .ite _ (.same rfl rfl) (.same rfl rfl)

/-! The end of a strand. -/

theorem keepsTests_withdrawGang (s : State) (c : ClusterKey) (who : StrandId) (result : Bool) :
    KeepsTests s (s.withdrawGang c who result) := .same rfl rfl
theorem keepsTests_dropUnsent (s : State) (who : StrandId) : KeepsTests s (s.dropUnsent who) := .same rfl rfl
theorem keepsTests_dropAwaited (s : State) (who : StrandId) : KeepsTests s (s.dropAwaited who) := .same rfl rfl
theorem keepsTests_dropReads (s : State) (k : CoreKey) : KeepsTests s (s.dropReads k) := .same rfl rfl
theorem keepsTests_mapLaunch (s : State) (ln : BitVec 16) (f : Launch → Launch) : KeepsTests s (s.mapLaunch ln f) := .same rfl rfl

theorem keepsTests_letGo (s : State) (a : StrandAt) (discard : Bool) : KeepsTests s (s.letGo a discard) := by
  have hoffers : KeepsTests s ((s.withdraw a).foldGone a) := (keepsTests_foldGone _ _).after (keepsTests_mapEntries _ _ _ _)
  have hfuse := (keepsTests_withdrawFuse _ a.core (s.strand a).id.who discard).after
    ((keepsTests_withdrawGang _ (clusterOf a.core) (s.strand a).id.who discard).after hoffers)
  exact (keepsTests_dropAwaited _ _).after ((keepsTests_dropUnsent _ _).after hfuse)

theorem keepsTests_emptied (s : State) (k : CoreKey) : KeepsTests s (s.emptied k) := .ite _ (.same rfl rfl) .refl

theorem keepsTests_endStrand (s : State) (a : StrandAt) (kill : Bool) : KeepsTests s (s.endStrand a kill) := by
  have hleft : KeepsTests s ((s.letGo a kill).leaveAll a (s.strand a).id.who) :=
    (keepsTests_leaveAll _ _ _).after (keepsTests_letGo _ _ _)
  refine (keepsTests_mapLaunch _ _ _).after ?_
  cases a with
  | bank k b => exact (keepsTests_emptied _ _).after ((keepsTests_setBank _ _ _ _).after hleft)
  | saved k n => exact (keepsTests_setCore _ _ _).after hleft

theorem keepsTests_killLaunches (s : State) (lns : List (BitVec 16)) : KeepsTests s (s.killLaunches lns) := by
  refine .foldl (fun s w => ?_) _ _
  split
  · exact keepsTests_endStrand _ _ _
  · exact .refl

theorem keepsTests_settleDets (s : State) (lns : List (BitVec 16)) : KeepsTests s (s.settleDets lns) := by
  refine .foldl (fun s w => ?_) _ _
  split
  · exact keepsTests_settleDet _ _
  · exact .refl

theorem keepsTests_killOn (s : State) (ks : List CoreKey) : KeepsTests s (s.killOn ks) :=
  .ite _ (keepsTests_settleDets _ _) ((keepsTests_settleDets _ _).trans (keepsTests_killLaunches _ _))

/-! The journal. -/

theorem keepsTests_raiseMsix (s : State) (n : Nat) : KeepsTests s (s.raiseMsix n) :=
  ⟨rfl, fun i h => by simp [State.raiseMsix, h]⟩

theorem keepsTests_writeAt {s t : State} {v : View} {p w : Nat} {bs : List Byte} (h : s.writeAt v p w bs = .ok t) :
    KeepsTests s t := by
  obtain ⟨pl, -, h⟩ := chk_bind_ok h
  obtain ⟨ps, -, h⟩ := chk_bind_ok h
  cases h
  exact .of_accessFrame ((accessFrame_served _ _ _ _ _ _).trans (accessFrame_store _ _ _))

theorem keepsTests_addAt {s t : State} {v : View} {p : Nat} {x : Word} (h : s.addAt v p x = .ok t) : KeepsTests s t := by
  obtain ⟨pl, -, h⟩ := chk_bind_ok h
  obtain ⟨ps, -, h⟩ := chk_bind_ok h
  cases h
  exact .of_accessFrame ((accessFrame_served _ _ _ _ _ _).trans (accessFrame_store _ _ _))

theorem keepsTests_makeOwed {s t : State} {o : Owed} (h : s.makeOwed o = .ok t) : KeepsTests s t := by
  unfold State.makeOwed at h
  extract_lets v far at h
  have hfar : ∀ op bs u, far op bs = .ok (some u) → KeepsTests s u := by
    intro op bs u hu
    simp only [far] at hu
    split at hu
    · obtain ⟨-, -, hu⟩ := chk_bind_ok hu
      obtain ⟨r, hr, hu⟩ := chk_bind_ok hu
      cases hu
      exact keepsTests_farSend hr
    · cases hu
  split at h
  · obtain ⟨-, -, h⟩ := chk_bind_ok h
    cases h
    exact (keepsTests_raiseMsix _ _).after (keepsTests_put _ _ _)
  · obtain ⟨r, hr, h⟩ := chk_bind_ok h
    cases r with
    | some u => cases h; exact hfar _ _ _ hr
    | none => exact keepsTests_writeAt h
  · obtain ⟨r, hr, h⟩ := chk_bind_ok h
    cases r with
    | some u => cases h; exact hfar _ _ _ hr
    | none => exact keepsTests_addAt h

theorem keepsTests_owe (s : State) (o : Owed) : KeepsTests s (s.owe o) := by
  unfold State.owe
  split
  · exact .same rfl rfl
  · split
    · next hmade => exact keepsTests_makeOwed hmade
    · exact .same rfl rfl
    · exact .refl

theorem keepsTests_journal (s : State) (t : Word) (ln : BitVec 16) (q tr idx : Nat) (w3 : Word) :
    KeepsTests s (s.journal t ln q tr idx w3) :=
  .ite _ ((keepsTests_owe _ _).after (keepsTests_setJrn _ _)) .refl

/-! Traps of a fusion, and fencing. -/

theorem keepsTests_skidPc (s : State) (k : CoreKey) (b : Fin 2) : KeepsTests s (s.skidPc k b) := .ite _ (.same rfl rfl) .refl

theorem keepsTests_report (s : State) (kind : Nat) (server sid : Word) (who : StrandId) (ptr : Word) (spid : BitVec 20)
    (words : List Word) : KeepsTests s (s.report kind server sid who ptr spid words) := .same rfl rfl

theorem keepsTests_enterTrap (s : State) (k : CoreKey) (b : Fin 2) (r : TrapRec) : KeepsTests s (s.enterTrap k b r) := by
  unfold State.enterTrap
  extract_lets
  split
  · exact (keepsTests_skidPc _ _ _).after ((keepsTests_setBank _ _ _ _).after (keepsTests_report _ _ _ _ _ _ _ _))
  · split
    · exact (keepsTests_skidPc _ _ _).after (keepsTests_setBank _ _ _ _)
    · exact (keepsTests_skidPc _ _ _).after ((keepsTests_setBank _ _ _ _).after (keepsTests_report _ _ _ _ _ _ _ _))

theorem keepsTests_raise (s : State) (k : CoreKey) (b : Fin 2) (r : TrapRec) : KeepsTests s (s.raise k b r) :=
  .ite _ (keepsTests_enterTrap _ _ _ _) (.same rfl rfl)

theorem keepsTests_fuseTrap (s : State) (j cause : Nat) (o : FuseOffer) : KeepsTests s (s.fuseTrap j cause o) := by
  unfold State.fuseTrap
  split
  · exact .ite _ .refl ((keepsTests_raise _ _ _ _).after (keepsTests_setBank _ _ _ _))
  · exact .refl

theorem keepsTests_planesBack (s : State) (d pq : Nat) : KeepsTests s (s.planesBack d pq) :=
  .foldl (fun _ _ => keepsTests_setCore _ _ _) _ _

theorem keepsTests_fusionFails (s : State) (d pq j cause : Nat) : KeepsTests s (s.fusionFails d pq j cause) := by
  unfold State.fusionFails
  extract_lets
  split
  · exact .refl
  · exact (KeepsTests.foldl (fun _ _ => keepsTests_fuseTrap _ _ _ _) _ _).after
      ((keepsTests_setQuad _ _ _ _).after (keepsTests_planesBack _ _ _))

theorem keepsTests_fence (s : State) (k : CoreKey) : KeepsTests s (s.fence k) := by
  unfold State.fence
  extract_lets
  split
  · exact .refl
  · exact (keepsTests_dropReads _ _).after ((KeepsTests.foldl (fun _ _ => keepsTests_letGo _ _ _) _ _).after
      ((KeepsTests.ite _ (keepsTests_fusionFails _ _ _ _ _) .refl).after (keepsTests_setCore _ _ _)))

/-! A remap. -/

theorem keepsTests_recreate (s : State) (a : StrandAt) (id : Ident) (wsp : BitVec 18) : KeepsTests s (s.recreate a id wsp).2 := by
  simp only [State.recreate]
  split
  · exact (keepsTests_journal _ _ _ _ _ _ _).after (keepsTests_letGo _ _ _)
  · exact keepsTests_letGo _ _ _

theorem keepsTests_restartCore (s : State) (k t : CoreKey) : KeepsTests s (s.restartCore k t) := by
  unfold State.restartCore
  extract_lets c one s1 s2 s5
  have hone : ∀ s b, KeepsTests s (one s b) := fun s b =>
    .ite _ ((keepsTests_setBank _ _ _ _).after ((keepsTests_setBank _ _ _ _).after (keepsTests_recreate _ _ _ _))) .refl
  have hunbound : KeepsTests s1 s2 := .foldl (fun _ _ => (keepsTests_setCore _ _ _).after ((keepsTests_put _ _ _).after
    ((keepsTests_setCore _ _ _).after (keepsTests_recreate _ _ _ _)))) _ _
  exact (keepsTests_setDisp _ _).after ((keepsTests_setCore _ _ _).after (hunbound.after ((hone _ 1).after (hone s 0))))

theorem keepsTests_countLost (s : State) (cmds : List Cmd) : KeepsTests s (s.countLost cmds) := by
  refine .foldl (fun s m => ?_) _ _
  split <;> exact .same rfl rfl

theorem keepsTests_endGone (s : State) (d pq : Nat) : KeepsTests s (s.endGone d pq) := by
  unfold State.endGone
  simp only
  split
  · exact keepsTests_fusionFails _ _ _ _ _
  · exact .refl

theorem keepsTests_writeRcfg (s : State) (c : ClusterKey) (i : Nat) (v : Word) : KeepsTests s (s.writeRcfg c i v) := by
  unfold State.writeRcfg
  extract_lets
  split
  · exact (keepsTests_put _ _ _).after ((keepsTests_put _ _ _).after (keepsTests_setRing _ _ _ _))
  · exact keepsTests_setRing _ _ _ _

theorem keepsTests_launchRings (s : State) (l : RecLists) (c : ClusterKey) (on : Bool) : KeepsTests s (s.launchRings l c on) :=
  .foldl (fun _ _ => (keepsTests_endGone _ _ _).after ((keepsTests_writeRcfg _ _ _ _).after (keepsTests_setRing _ _ _ _))) _ _

theorem keepsTests_moveCluster (s : State) (c t : ClusterKey) : KeepsTests s (s.moveCluster c t) := by
  unfold State.moveCluster
  extract_lets
  exact (keepsTests_setDisp _ _).after ((KeepsTests.foldl (fun _ _ => keepsTests_launchRings _ _ _ _) _ _).after
    ((keepsTests_countLost _ _).after ((keepsTests_setClu _ _ _).after (keepsTests_setClu _ _ _))))

theorem keepsTests_remap (s : State) (k : CoreKey) : KeepsTests s (s.remap k) := by
  unfold State.remap
  extract_lets
  split
  · exact .refl
  · split
    · split
      · exact .ite _ ((keepsTests_restartCore _ _ _).after ((keepsTests_setClu _ _ _).after (keepsTests_killOn _ _)))
          (keepsTests_killOn _ _)
      · exact keepsTests_killOn _ _
    · simp only
      split
      · exact .refl
      · have hfenced := KeepsTests.foldl keepsTests_fence (quadCores (quadOf (clusterOf k)).1 (quadOf (clusterOf k)).2) s
        split
        · exact (keepsTests_killOn _ _).after hfenced
        · split
          · exact hfenced
          · exact (KeepsTests.foldl (fun _ _ => keepsTests_restartCore _ _ _) _ _).after
              ((KeepsTests.foldl (fun _ _ => keepsTests_moveCluster _ _ _) _ _).after
                ((keepsTests_setDie _ _ _).after hfenced))

theorem keepsTests_remapQuad (s : State) (c : ClusterKey) : KeepsTests s (s.remapQuad c) :=
  (keepsTests_remap _ _).after (.foldl keepsTests_fence _ _)

/-- What follows a test (R414): a spare counted, a fence, a remap, a lane's spare back, or a core in use again. -/
theorem keepsTests_afterTest (s : State) (b : Block) (spare : Bool) (r : TestResult) : KeepsTests s (s.afterTest b spare r) := by
  have hspare : KeepsTests s (match blockSpares b with
      | some (key, _) => { s with test := { s.test with used := insertKey key (lookupD 0 s.test.used key + 1) s.test.used } }
      | none => s) := by
    split
    · exact ⟨rfl, fun _ h => h⟩
    · exact .refl
  unfold State.afterTest
  split
  · exact hspare
  · exact hspare
  · exact keepsTests_fence _ _
  · exact keepsTests_remapQuad _ _
  · exact .ite _ (keepsTests_setLink _ _ _) .refl
  · exact (keepsTests_remapQuad _ _).after (keepsTests_fence _ _)
  · exact (keepsTests_remapQuad _ _).after (keepsTests_fence _ _)
  · exact keepsTests_setCore _ _ _
  · exact .refl

end Sys2Proof.Machine

/-! The die: its translation stations and the crossbar. -/

namespace Sys2Proof.Machine

open Sys2Proof

theorem die_setDie_same (s : State) {d : Nat} (x : Die) (h : d < 4) : (s.setDie d x).die d = x := by
  simp [State.die, State.setDie, Vector.getD, h]

theorem die_of_ge (s : State) {d : Nat} (h : 4 ≤ d) : s.die d = Die.reset := by
  simp [State.die, Vector.getD, Nat.not_lt.mpr h]

/-- A die that is not as at reset is one of the four. -/
theorem lt_of_die_ne_reset {s : State} {d : Nat} (h : s.die d ≠ Die.reset) : d < 4 :=
  Nat.lt_of_not_le fun hd => h (die_of_ge s hd)

/-- The end of an invalidation (R338): the leaves and the space-table entries that it names are gone. -/
theorem execTstatDone_removes {s : State} {d : Nat} {v : Word} (hv : (s.die d).tinv = some v)
    (hwalks : ∀ w ∈ (s.die d).walks, w.early = false) :
    ∃ t, execTstatDone d s = .next t ∧ t.mem = s.mem ∧ (t.die d).tinv = none ∧
      (t.die d).tlb = (s.die d).tlb.filter (fun q => !tinvHits v q) ∧
      (t.die d).spaces = (s.die d).spaces.filter fun q => !tinvSpace v q.1 := by
  have hd : d < 4 := lt_of_die_ne_reset (s := s) fun h => by simp [h, Die.reset] at hv
  have hnone : (s.die d).walks.any Walk.early = false := by simpa [List.any_eq_false] using hwalks
  simp only [execTstatDone, hv, hnone]
  exact ⟨_, rfl, rfl, by rw [die_setDie_same _ _ hd], by rw [die_setDie_same _ _ hd], by rw [die_setDie_same _ _ hd]⟩

theorem execTstatDone_waits {s : State} {d : Nat} {v : Word} (hv : (s.die d).tinv = some v)
    (hwalk : ∃ w ∈ (s.die d).walks, w.early = true) : execTstatDone d s = .next s := by
  have hany : (s.die d).walks.any Walk.early = true := List.any_eq_true.mpr hwalk
  simp [execTstatDone, hv, hany]

/-- A station holds no leaf for an address where none of its leaves is for that address's page. -/
theorem held_none {x : Die} {sp : BitVec 20} {va : Nat}
    (h : ∀ z ∈ x.tlb, z.station = stationOf va → z.spid = sp → z.page ≠ va / 2 ^ z.bits * 2 ^ z.bits) : x.held sp va = none := by
  rw [Die.held, List.find?_eq_none]
  intro z hz hmatch
  simp only [Bool.and_eq_true, beq_iff_eq] at hmatch
  obtain ⟨⟨hstation, hspid⟩, hpage⟩ := hmatch
  exact h z hz hstation hspid hpage

theorem execTranslationWalk_begins {s : State} {d : Nat} {sp : BitVec 20} {va : Nat}
    (hnone : ∀ w ∈ (s.die d).walks, w.serves sp va = false) (hheld : (s.die d).held sp va = none) :
    execTranslationWalk d sp va s = .next (if walkSlots ≤ (s.die d).walksAt (stationOf va) then s
      else s.setDie d { s.die d with walks := (s.die d).walks ++ [⟨stationOf va, sp, va, false⟩] }) := by
  have hany : ((s.die d).walks.any fun w => w.serves sp va) = false := by simpa [List.any_eq_false] using hnone
  by_cases hfull : walkSlots ≤ (s.die d).walksAt (stationOf va) <;> simp [execTranslationWalk, hany, hheld, hfull]

theorem walked_of_walkFrom {s : State} {d : Nat} {sp : BitVec 20} {va root : Nat} {q : TlbEntry} (hroot : s.spaceRoot d sp va = .ok root)
    (hleaf : s.walkFrom d sp va walkLevels root = .ok q) (hfits : s.fitted (q.pa + va % 2 ^ q.bits) = true) :
    s.walked d sp va = .ok (root, q) := by
  simp [State.walked, hroot, hleaf, demand, hfits, bind, Except.bind, pure, Except.pure]

/-- A walk that succeeds ends, and its station keeps the leaf. -/
theorem execTranslationWalk_ends {s : State} {d : Nat} {sp : BitVec 20} {va root : Nat} {q : TlbEntry}
    (hwalk : ∃ w ∈ (s.die d).walks, w.serves sp va = true) (hwalked : s.walked d sp va = .ok (root, q)) :
    ∃ t, execTranslationWalk d sp va s = .next t ∧ t.mem = s.mem ∧ q ∈ (t.die d).tlb ∧
      (t.die d).walks = (s.die d).walks.filter fun w => !w.serves sp va := by
  have hd : d < 4 := lt_of_die_ne_reset (s := s) fun h => by simp [h, Die.reset] at hwalk
  have hany : ((s.die d).walks.any fun w => w.serves sp va) = true := List.any_eq_true.mpr hwalk
  simp only [execTranslationWalk, hany, if_true, State.walkEnds, hwalked]
  exact ⟨_, rfl, rfl, by rw [die_setDie_same _ _ hd]; simp [Die.keep], by rw [die_setDie_same _ _ hd]; rfl⟩

end Sys2Proof.Machine

/-! The host port, the patrol scrub and the self-test. -/

namespace Sys2Proof.Machine

open Sys2Proof

theorem length_getBytes (m : List Host.Cell) (a n : Nat) : (getBytes m a n).length = n := by
  induction n generalizing a with
  | zero => rfl
  | succ n ih => simp [getBytes, ih]

/-- The bytes of the number of some bytes are those bytes. -/
theorem leBytes_leNat (l : List Byte) : leBytes l.length (leNat l) = l := by
  induction l with
  | nil => rfl
  | cons b l ih =>
    have hb : b.toNat < 256 := b.isLt
    have hlow : BitVec.ofNat 8 (b.toNat + 256 * leNat l) = b := by
      apply BitVec.eq_of_toNat_eq
      rw [BitVec.toNat_ofNat]
      omega
    have hrest : (b.toNat + 256 * leNat l) / 256 = leNat l := by omega
    simp only [List.length_cons, leNat, leBytes, hlow, hrest, ih]

theorem hostAtomic_wide {s : State} {pa : Nat} (f : Nat → Nat) (halign : pa % 8 = 0) (hin : pa + 8 ≤ hbmEnd)
    (hclean : poisoned s.poison pa 8 = false) :
    s.hostAtomic pa true f = { s.store [(pa, 8)] (leBytes 8 (f (leNat (getBytes s.mem pa 8)) % 2 ^ 64)) with
      hostData := leBytes 8 (leNat (getBytes s.mem pa 8)) } := by
  have hold : leBytes 8 (leNat (getBytes s.mem pa 8)) = getBytes s.mem pa 8 := by
    simpa only [length_getBytes] using leBytes_leNat (getBytes s.mem pa 8)
  rw [hold]
  simp [State.hostAtomic, halign, Nat.not_lt.mpr hin, hclean]

/-- An uncorrectable read of HBM leaves the four words of its sector poisoned (R393). -/
theorem execPatrolScrub_uncorrectable {s : State} {pa : Nat} (h : pa < hbmEnd) :
    ∃ t, execPatrolScrub pa .uncorrectable s = .next t ∧ t.mem = s.mem ∧ ∀ i, i < 4 → pa / 32 * 32 + 8 * i ∈ t.poison := by
  have hnoTag : ¬2 ^ 48 ≤ pa := by
    have : hbmEnd = 2 ^ 39 := rfl
    omega
  have hpoison : execPatrolScrub pa .uncorrectable s =
      .next { s with poison := s.poison ++ (badWords pa).filter fun a => !s.poison.contains a } := by
    simp only [execPatrolScrub, hnoTag, h, if_false, true_or, if_true]
  refine ⟨_, hpoison, rfl, fun i hi => ?_⟩
  have hbad : pa / 32 * 32 + 8 * i ∈ badWords pa := by
    simp only [badWords, h, if_true, List.mem_map, List.mem_range]
    exact ⟨i, by omega, rfl⟩
  by_cases hold : pa / 32 * 32 + 8 * i ∈ s.poison
  · exact List.mem_append_left _ hold
  · exact List.mem_append_right _ (List.mem_filter.mpr ⟨hbad, by simpa using hold⟩)

/-- A test that has joined those that run. -/
def State.withTest (s : State) (t : Test) : State := { s with test := { s.test with running := s.test.running ++ [t] } }

/-- The start of a test fires the Ivory trigger, and may begin the retrain of a link. -/
theorem execSelfTest_cases {s : State} {b : Block} {e : ErrKind} (h : ∀ z ∈ s.test.running, z.block ≠ b) :
    let s1 := (s.withTest ⟨b, e, s.tick, s.spareFree b⟩).ivoryFire 2 0
    execSelfTest b e s = .next s1 ∨ ∃ l x, execSelfTest b e s = .next (s1.setLink l x) := by
  intro s1
  have hnone : (s.test.running.any fun t => t.block == b) = false := by simpa [List.any_eq_false] using h
  simp only [execSelfTest, hnone]
  cases b with
  | gdLane l dir n =>
    by_cases hgo : (s1.links[Fin.ofNat 4 l]).st = 0 ∧ (s1.links[Fin.ofNat 4 l]).spare[dir] ≠ 0
    · exact .inr ⟨_, _, if_pos hgo⟩
    · exact .inl (if_neg hgo)
  | sramBank | gfLane | slice | core => exact .inl rfl

/-- An error starts the test of its block, which joins those that run (R413). -/
theorem execSelfTest_new {s : State} {b : Block} {e : ErrKind} (h : ∀ z ∈ s.test.running, z.block ≠ b) :
    ∃ t, execSelfTest b e s = .next t ∧ t.mem = s.mem ∧
      t.test.running = s.test.running ++ [⟨b, e, s.tick, s.spareFree b⟩] := by
  have hmem : ((s.withTest ⟨b, e, s.tick, s.spareFree b⟩).ivoryFire 2 0).mem = s.mem := (sameBut_ivoryFire _ 2 0).mem
  have hrunning : ((s.withTest ⟨b, e, s.tick, s.spareFree b⟩).ivoryFire 2 0).test.running =
      s.test.running ++ [⟨b, e, s.tick, s.spareFree b⟩] := by
    rw [(accessFrame_ivoryFire _ 2 0).test]
    rfl
  obtain hstep | ⟨l, x, hstep⟩ := execSelfTest_cases h
  · exact ⟨_, hstep, hmem, hrunning⟩
  · exact ⟨_, hstep, hmem, hrunning⟩

theorem execSelfTest_running {s : State} {b : Block} {e : ErrKind} (h : ∃ z ∈ s.test.running, z.block = b) :
    execSelfTest b e s = .next s := by
  have hany : (s.test.running.any fun t => t.block == b) = true := by simpa [List.any_eq_true] using h
  simp [execSelfTest, hany]

/-- The result of a test is recorded, its block is no longer under test, and MSI-X vector 3 is raised (R415). -/
theorem execSelfTestResult_recorded {s : State} {b : Block} {r : TestResult} {t0 : Test}
    (hfound : s.test.running.find? (fun z => z.block == b) = some t0) (hok : s.resultOk t0 r = true) :
    ∃ t, execSelfTestResult b r s = .next t ∧ t.test.running = s.test.running.filter (fun z => z.block != b) ∧
      t.msix.getLsbD 3 = true := by
  simp only [execSelfTestResult, hfound, hok]
  refine ⟨_, rfl, (keepsTests_afterTest _ _ _ _).running, (keepsTests_afterTest _ _ _ _).msix 3 ?_⟩
  simp [State.raiseMsix]

end Sys2Proof.Machine

/-! The die and the host. -/

namespace Sys2Proof.Machine

open Sys2Proof

/-- Settles O52: each step is its lemma above, or its definition with the guard decided. -/
theorem dieAndHost : Obligations.DieAndHost := by
  intro s d out pa va reply inputs v x y sp bs b e r t0 die order won old atomic
  refine ⟨⟨_, rfl, rfl⟩, ?tinv, ?tinvBusy, ?idle, ?waits, ?done, ?walkBegins, ?walkEnds, ?grants, ?noGrant, ?readPast, ?read, rfl,
    ?oddRegister, ?write, ?writePast, ?fetchAdd, ?swap, ?cas, ?uncorrectable, ?corrected, ?testNew, ?testRuns, ?result⟩
  case tinv =>
    intro hidle
    change execTinv d v s = _
    simp [execTinv, die, show (s.die d).tinv = none from hidle]
  case tinvBusy =>
    intro hbusy
    change execTinv d v s = _
    simp [execTinv, Option.isSome_iff_ne_none.mpr hbusy, die]
  case idle =>
    intro hidle
    change execTstatDone d s = _
    simp [execTstatDone, show (s.die d).tinv = none from hidle]
  case waits => exact execTstatDone_waits
  case done =>
    intro hv hwalks
    obtain ⟨t, ht, hmem, htinv, htlb, hspaces⟩ := execTstatDone_removes hv hwalks
    exact ⟨t, ht, hmem, htinv, fun q => by simp [htlb, die], fun q => by simp [hspaces, die]⟩
  case walkBegins => exact fun hnone hleaf => execTranslationWalk_begins hnone (held_none hleaf)
  case walkEnds =>
    intro root q hwalk hroot hleaf hfits
    obtain ⟨t, ht, hmem, hkept, hwalks⟩ := execTranslationWalk_ends hwalk (walked_of_walkFrom hroot hleaf hfits)
    refine ⟨t, ht, hmem, hkept, fun w hw => ?_⟩
    rw [hwalks] at hw
    simpa using (List.mem_filter.mp hw).2
  case grants =>
    intro hout hwon
    change execCrossbarMessage d out reply inputs s = _
    have hgo : (won.isEmpty || decide (100 ≤ out)) = false := by simp [hwon, hout]
    simp only [execCrossbarMessage]
    exact if_neg (by rw [hgo]; decide)
  case noGrant =>
    intro hwon
    change execCrossbarMessage d out reply inputs s = _
    have hstop : (won.isEmpty || decide (100 ≤ out)) = true := by simp [hwon]
    simp only [execCrossbarMessage]
    exact if_pos hstop
  case readPast => exact fun hpast => if_pos hpast
  case read =>
    intro hin hclean
    change execHostAccess (.read pa va) s = _
    simp [execHostAccess, Nat.not_lt.mpr hin, hclean]
  case oddRegister => exact fun hodd => by simp [State.readRegister, hodd]
  case write =>
    intro hin
    change execHostAccess (.write pa bs) s = _
    simp [execHostAccess, Nat.not_lt.mpr hin]
  case writePast =>
    intro hpast
    change execHostAccess (.write pa bs) s = _
    simp [execHostAccess, hpast]
  case fetchAdd => exact fun halign hin hclean => congrArg _ (hostAtomic_wide _ halign hin hclean)
  case swap => exact fun halign hin hclean => congrArg _ (hostAtomic_wide _ halign hin hclean)
  case cas =>
    intro halign hin hclean
    change Host.Outcome.next (s.hostAtomic pa true fun n => if n = y.toNat % 2 ^ 64 then x.toNat else n) = _
    rw [Nat.mod_eq_of_lt y.isLt, hostAtomic_wide _ halign hin hclean]
  case uncorrectable => exact execPatrolScrub_uncorrectable
  case corrected =>
    intro hin
    change execPatrolScrub pa .corrected s = _
    simp [execPatrolScrub, hin]
  case testNew => exact execSelfTest_new
  case testRuns => exact execSelfTest_running
  case result => exact execSelfTestResult_recorded

end Sys2Proof.Machine

/-! Floating-point arithmetic: the exact result rounded once. -/

namespace Sys2Proof

/-- An exact product is never a signalling NaN: its NaN is the default one. -/
@[simp] theorem mulAll_readFlag (l : List FVal) : (mulAll l).1.readFlag = 0 := by
  have hfold (us : List FVal) (t : Bool) (m : Nat) (e : Int) :
      (us.foldl (fun a v => match a, v with
        | .fin t m e, .fin _ m' e' => .fin t (m * m') (e + e')
        | a, _ => a) (FVal.fin t m e)).readFlag = 0 := by
    induction us generalizing m e with
    | nil => rfl
    | cons u us ih => cases u <;> exact ih _ _
  unfold mulAll
  simp only
  split
  · rfl
  split
  · rfl
  split
  · rfl
  · exact hfold l _ 1 0

@[simp] theorem negate_readFlag (v : FVal) : v.negate.readFlag = v.readFlag := by cases v <;> rfl

end Sys2Proof

namespace Sys2Proof.Machine

open Sys2Proof

/-- Of an instruction's map only its value at the strand's context counts. -/
theorem ran_congr {s : State} {k : CoreKey} {b : Fin 2} {f g : Ctx → Ctx} (h : f (s.bank k b).ctx = g (s.bank k b).ctx)
    (goto : Option Word) : s.ran k b f goto = s.ran k b g goto := by
  unfold State.ran
  rw [h]

section Quiet

variable {s : State} {k : CoreKey} {b : Fin 2} (hq : Quiet s k b)
include hq

/-- A scalar operation delivers its value and ORs its flags. -/
theorem issueFp_quiet (f : Foot) (d : DReg) (p : Level) (g : Ctx → Word × Flags) :
    issueFp s f d p g = .next (s.ran k b (fun c => (c.deliver d p (g (s.bank k b).ctx).1).orFlags (g (s.bank k b).ctx).2) none) := by
  rw [issueFp, issueMap_quiet _ _ _ _ _ hq, ran_congr]
  rfl

/-- FADD, FSUB and FMUL deliver the pattern of their operation zero-extended, and its flags. -/
theorem issueFp2_quiet (d : DReg) (a c : SReg) (f : FTy) (r : Rnd) (p : Level) (op : Fmt → Mode → Nat → Nat → Nat × Flags)
    {m : Mode} {y : Nat × Flags} (hm : (s.bank k b).ctx.mode r = m)
    (hy : op f.fmt m (low f.fmt ((s.bank k b).ctx.s a.val)) (low f.fmt ((s.bank k b).ctx.s c.val)) = y) :
    issueFp2 s d a c f r p op = .next (s.ran k b (fun q => (q.deliver d p (zext f.fmt.width y.1)).orFlags y.2) none) := by
  subst hm hy
  rw [issueFp2, issueFp_quiet hq]

/-- FFMA and FFMS deliver the pattern of their operation zero-extended, and its flags. -/
theorem issueFma_quiet (d : DReg) (a c : SReg) (f : FTy) (r : Rnd) (p : Level) (neg : Bool)
    {m : Mode} {y : Nat × Flags} (hm : (s.bank k b).ctx.mode r = m)
    (hy : fFma f.fmt m (low f.fmt ((s.bank k b).ctx.s a.val)) (low f.fmt ((s.bank k b).ctx.s c.val))
      (low f.fmt ((s.bank k b).ctx.s d.val)) neg = y) :
    issueFma s d a c f r p neg = .next (s.ran k b (fun q => (q.deliver d p (zext f.fmt.width y.1)).orFlags y.2) none) := by
  subst hm hy
  rw [issueFma, issueFp_quiet hq]

end Quiet

/-- Settles O23: each operation is the exact sum or product of the values read, delivered in the mode of its position. -/
theorem floatArithmetic : Obligations.FloatArithmetic := by
  intro s k b d a c f r p hq x m v sum prod gives
  have hmode : x.mode r = m := by cases r <;> rfl
  refine ⟨issueFp2_quiet hq d a c f r p fAdd hmode ?fadd, issueFp2_quiet hq d a c f r p fSub hmode ?fsub,
    issueFp2_quiet hq d a c f r p fMul hmode ?fmul, issueFma_quiet hq d a c f r p false hmode ?ffma,
    issueFma_quiet hq d a c f r p true hmode ?ffms⟩
  case fadd => simp [fAdd, sum, v, low, withFlags, x]
  case fsub => simp [fSub, sum, v, low, withFlags, x]
  case fmul => rfl
  case ffma => simp [fFma, sum, prod, v, low, withFlags, x]
  case ffms => simp [fFma, sum, prod, v, low, withFlags, x]

end Sys2Proof.Machine

/-! Steps of the exact accumulators (R49 to R51, R155, R156). -/

namespace Sys2Proof

/-- No finite value of a format has an exponent below that of its subnormal values. -/
theorem qmin_le_of_read {f : Fmt} {x m : Nat} {s : Bool} {e : Int} (h : f.read x = .fin s m e) : f.qmin ≤ e := by
  unfold Fmt.read at h
  simp only at h
  split at h
  · split at h <;> cases h
  split at h
  · cases h
  split at h
  · cases h
    exact le_rfl
  · rename_i hne
    obtain ⟨-, -, rfl⟩ := FVal.fin.inj h
    have hpos : x / 2 ^ f.mb % 2 ^ f.eb ≠ 0 := by simpa using hne
    omega

/-- Every factor of a step is a multiple of 2^−1074. -/
theorem exp_of_fTy2 {f : FTy2} {x m : Nat} {s : Bool} {e : Int} (h : f.fmt.read x = .fin s m e) : -1074 ≤ e := by
  refine le_trans ?_ (qmin_le_of_read h)
  cases f <;> decide

end Sys2Proof

namespace Sys2Proof.Machine

open Sys2Proof

/-- The exact product of two finite factors, where 2^−3232 divides it. -/
theorem exactTerm_two {s1 s2 : Bool} {m1 m2 : Nat} {e1 e2 : Int} (he : -3232 ≤ e1 + e2) :
    exactTerm [.fin s1 m1 e1, .fin s2 m2 e2] =
      some ((if s1 = s2 then (1 : Int) else -1) * (m1 * m2 * 2 ^ (e1 + e2 + 3232).toNat : Nat)) := by
  have hd : (-(0 + e1 + e2 + 3232)).toNat = 0 := by omega
  simp only [exactTerm, List.foldl, hd]
  cases s1 <;> cases s2 <;> simp

/-- The exact product of three finite factors, where 2^−3232 divides it. -/
theorem exactTerm_three {s1 s2 s3 : Bool} {m1 m2 m3 : Nat} {e1 e2 e3 : Int} (he : -3232 ≤ e1 + e2 + e3) :
    exactTerm [.fin s1 m1 e1, .fin s2 m2 e2, .fin s3 m3 e3] =
      some ((if (s1 != s2) = s3 then (1 : Int) else -1) * (m1 * m2 * m3 * 2 ^ (e1 + e2 + e3 + 3232).toNat : Nat)) := by
  have hd : (-(0 + e1 + e2 + e3 + 3232)).toNat = 0 := by omega
  simp only [exactTerm, List.foldl, hd]
  cases s1 <;> cases s2 <;> cases s3 <;> simp

/-- A fold that gives up at a bad element, and for good, gives up on a list that holds one. -/
theorem foldl_none_of_bad {α β : Type} {g : Option α → β → Option α} {bad : β → Bool} (hnone : ∀ v, g none v = none)
    (hbad : ∀ a v, bad v = true → g a v = none) {l : List β} (h : l.any bad = true) (o : Option α) : l.foldl g o = none := by
  induction l generalizing o with
  | nil => cases h
  | cons u us ih =>
    rw [List.any_cons, Bool.or_eq_true] at h
    obtain hu | hus := h
    · rw [List.foldl_cons, hbad o u hu]
      exact List.foldl_fixed' hnone us
    · exact ih hus _

/-- A product with an infinity or a NaN among its factors is none. -/
theorem exactTerm_none {l : List FVal} (h : (l.any fun v => v.isNan || v.isInf) = true) : exactTerm l = none := by
  rw [exactTerm, foldl_none_of_bad _ _ h]
  · exact fun _ => rfl
  · intro a v hv
    cases v with
    | nan g => cases a <;> rfl
    | inf g => cases a <;> rfl
    | fin t n f => cases hv

/-- A count below 2^64 counts on. -/
theorem count'_of_lt {q : ExactAcc} {n : Nat} (h : q.count.toNat + n < 2 ^ 64) :
    q.count' n = { q with count := q.count + BitVec.ofNat 64 n } := by
  rw [ExactAcc.count', if_pos (by omega)]
  congr 1
  simp [BitVec.ofNat_add]

/-- A count beyond 2^64 − 1 stays there and sets OF. -/
theorem count'_of_ge {q : ExactAcc} {n : Nat} (h : ¬q.count.toNat + n < 2 ^ 64) :
    q.count' n = { q with count := 0xFFFFFFFFFFFFFFFF, status := q.status ||| 2 } := by
  rw [ExactAcc.count', if_neg (by omega)]
  rfl

/-- A step on finite factors adds their product. -/
theorem step_of_term {q : ExactAcc} {l : List FVal} {x : Int} (h : exactTerm l = some x) :
    q.step false l = ExactAcc.count' { q with value := q.value + BitVec.ofInt 6400 x } 1 := by
  rw [ExactAcc.step, h]
  rfl

/-- A subtracting step on finite factors subtracts it. -/
theorem step_neg_of_term {q : ExactAcc} {l : List FVal} {x : Int} (h : exactTerm l = some x) :
    q.step true l = ExactAcc.count' { q with value := q.value - BitVec.ofInt 6400 x } 1 := by
  rw [ExactAcc.step, h]
  simp [BitVec.ofInt_neg, BitVec.sub_eq_add_neg]

/-- A step with an infinity or a NaN among its factors sets IV and counts. -/
theorem step_of_none {q : ExactAcc} {neg : Bool} {l : List FVal} (h : (l.any fun v => v.isNan || v.isInf) = true) :
    q.step neg l = ExactAcc.count' { q with status := q.status ||| 1 } 1 := by
  rw [ExactAcc.step, exactTerm_none h]
  rfl

/-- A long-latency instruction of an accumulator, from a quiet strand: it takes effect at once and leaves an entry that writes nothing. -/
theorem issueLong_acc {s : State} {k : CoreKey} {b : Fin 2} (hq : Quiet s k b) (ft : Foot) (h : La) (x : XAcc) (g : Ctx → ExactAcc)
    {q : ExactAcc} (hg : g (s.bank k b).ctx = q) :
    issueLong s ft h false (fun c => (c.setAcc x (g c), [], 0)) =
      .next ((s.setBank k b { (s.bank k b).push ((s.bank k b).pendingOf ft h) with
        ctx := { (s.bank k b).ctx with xa := (s.bank k b).ctx.xa.set x q } }).complete k b none none) := by
  subst hg
  rw [issueLong, issue_quiet _ _ _ _ _ hq]
  simp only [State.apply]
  rw [skidStart_same _ _ _ (by simp)]
  rfl

/-- Settles O27: a step is what its exact term gives, and the counts saturate as R50 says. -/
theorem exactSteps : Obligations.ExactSteps := by
  intro s k b x y a c e f h hq bk g v full sent f2 f3 old other wrong
  have hfull (q : ExactAcc) (n : Nat) : q.count' n = full q n := by
    by_cases hn : q.count.toNat + n < 2 ^ 64
    · simp only [full, if_pos hn, count'_of_lt hn]
    · simp only [full, if_neg hn, count'_of_ge hn]
  have hea (srcs : List SReg) (neg : Bool) (q : ExactAcc) (hs : old.step neg (srcs.map fun r => v r) = q) :
      issueEa s x srcs f h neg = .next ((s.setBank k b { bk.push (bk.pendingOf (footL (srcs.flatMap fun r => rS r.val) []) h) with
        ctx := { g with xa := g.xa.set x q } }).complete k b none none) :=
    issueLong_acc hq _ h x _ hs
  have two (neg : Bool) (q : ExactAcc) (hs : old.step neg [v a, v c] = q) :
      issueEa s x [a, c] f h neg = .next ((s.setBank k b { bk.push (bk.pendingOf f2 h) with
        ctx := { g with xa := g.xa.set x q } }).complete k b none none) := by
    simpa [f2] using hea [a, c] neg q hs
  have three (neg : Bool) (q : ExactAcc) (hs : old.step neg [v a, v c, v e] = q) :
      issueEa s x [a, c, e] f h neg = .next ((s.setBank k b { bk.push (bk.pendingOf f3 h) with
        ctx := { g with xa := g.xa.set x q } }).complete k b none none) := by
    simpa [f3] using hea [a, c, e] neg q hs
  refine ⟨?finTwo, ?finThree, ?badTwo, ?badThree, ?clear, ?add, ?sub⟩
  case finTwo =>
    intro s1 s2 m1 m2 e1 e2 ha hc
    have ht := exactTerm_two (s1 := s1) (s2 := s2) (m1 := m1) (m2 := m2) (e1 := e1) (e2 := e2)
      (by have := exp_of_fTy2 ha; have := exp_of_fTy2 hc; omega)
    rw [← ha, ← hc] at ht
    exact ⟨two false _ ((step_of_term ht).trans (hfull _ 1)), two true _ ((step_neg_of_term ht).trans (hfull _ 1))⟩
  case finThree =>
    intro s1 s2 s3 m1 m2 m3 e1 e2 e3 ha hc he
    have ht := exactTerm_three (s1 := s1) (s2 := s2) (s3 := s3) (m1 := m1) (m2 := m2) (m3 := m3) (e1 := e1) (e2 := e2) (e3 := e3)
      (by have := exp_of_fTy2 ha; have := exp_of_fTy2 hc; have := exp_of_fTy2 he; omega)
    rw [← ha, ← hc, ← he] at ht
    exact ⟨three false _ ((step_of_term ht).trans (hfull _ 1)), three true _ ((step_neg_of_term ht).trans (hfull _ 1))⟩
  case badTwo =>
    intro hbad
    have hs (neg : Bool) : old.step neg [v a, v c] = wrong :=
      (step_of_none (by simpa [Bool.or_assoc] using hbad)).trans (hfull _ 1)
    exact ⟨two false _ (hs false), two true _ (hs true)⟩
  case badThree =>
    intro hbad
    have hs (neg : Bool) : old.step neg [v a, v c, v e] = wrong :=
      (step_of_none (by simpa [Bool.or_assoc] using hbad)).trans (hfull _ 1)
    exact ⟨three false _ (hs false), three true _ (hs true)⟩
  case clear => exact issueLong_acc hq (footL [] []) 0 x (fun _ => ExactAcc.zero) rfl
  case add => exact issueLong_acc hq (footL [] []) h x (fun c => (c.acc x).addAcc (c.acc y) false) (hfull _ _)
  case sub => exact issueLong_acc hq (footL [] []) h x (fun c => (c.acc x).addAcc (c.acc y) true) (hfull _ _)

end Sys2Proof.Machine

/-! The reduction tree (R47): a level of nodes as a function of the lane number, and what four levels make of sixteen lanes. -/

namespace Sys2Proof.Machine

open Sys2Proof

/-- Node i of the level above l: its two inputs combined, or the one that is present, with the flags of all nodes below it. -/
def treeNode (f : Nat → Nat → Nat × Flags) (l : Nat → Option Nat × Flags) (i : Nat) : Option Nat × Flags :=
  match (l (2 * i)).1, (l (2 * i + 1)).1 with
  | some g, some h => (some (f g h).1, (l (2 * i)).2 ||| (l (2 * i + 1)).2 ||| (f g h).2)
  | some g, none => (some g, (l (2 * i)).2 ||| (l (2 * i + 1)).2)
  | none, o => (o, (l (2 * i)).2 ||| (l (2 * i + 1)).2)

/-- The root over sixteen lanes. -/
def treeTop (f : Nat → Nat → Nat × Flags) (l : Nat → Option Nat × Flags) : Option Nat × Flags :=
  treeNode f (treeNode f (treeNode f (treeNode f l))) 0

/-- The lanes that enter the tree: those that p chooses. -/
def treeLeaves (p : Nat → Bool) (A : Nat → Nat) (i : Nat) : Option Nat × Flags := (if p i then some (A i) else none, 0)

/-- The flags of the first n nodes of a level. -/
def levelFlags (l : Nat → Option Nat × Flags) : Nat → Flags
  | 0 => 0
  | n + 1 => (l 0).2 ||| levelFlags (fun i => l (i + 1)) n

/-- The values of the first n nodes of a level. -/
def levelValues (l : Nat → Option Nat × Flags) (n : Nat) : List (Option Nat) := (List.range n).map fun i => (l i).1

theorem levelValues_succ (l : Nat → Option Nat × Flags) (n : Nat) :
    levelValues l (n + 1) = (l 0).1 :: levelValues (fun i => l (i + 1)) n := by
  simp [levelValues, List.range_succ_eq_map, Function.comp_def]

/-- One level of the model's tree computes the level of nodes above, their values and all flags. -/
theorem treeLevel_eq (f : Nat → Nat → Nat × Flags) (l : Nat → Option Nat × Flags) (m : Nat) (fl : Flags) :
    treeLevel f (levelValues l (2 * m)) (fl ||| levelFlags l (2 * m)) =
      (levelValues (treeNode f l) m, fl ||| levelFlags (treeNode f l) m) := by
  induction m generalizing l fl with
  | zero => rfl
  | succ m ih =>
    have hrest := ih (fun i => l (i + 2)) (fl ||| (l 0).2 ||| (l 1).2)
    have hshift : treeNode f (fun i => l (i + 2)) = fun i => treeNode f l (i + 1) := rfl
    have hflags : fl ||| levelFlags l (2 * (m + 1)) = fl ||| (l 0).2 ||| (l 1).2 ||| levelFlags (fun i => l (i + 2)) (2 * m) := by
      simp only [Nat.mul_succ, levelFlags, BitVec.or_assoc]
    rw [hflags, Nat.mul_succ, levelValues_succ, levelValues_succ, levelValues_succ, levelFlags, ← hshift]
    simp only [treeLevel, Nat.zero_add, Nat.add_assoc, Nat.reduceAdd, hrest]
    generalize levelFlags (treeNode f fun i => l (i + 2)) m = above
    cases h0 : (l 0).1 <;> cases h1 : (l 1).1 <;> simp [treeNode, h0, h1, BitVec.or_assoc, BitVec.or_comm above]

/-- Lanes raise no flags before they are combined. -/
theorem levelFlags_leaves (p : Nat → Bool) (A : Nat → Nat) (n : Nat) : levelFlags (treeLeaves p A) n = 0 := by
  induction n generalizing p A with
  | zero => rfl
  | succ n ih =>
    rw [levelFlags]
    exact (BitVec.zero_or).trans (ih (fun i => p (i + 1)) fun i => A (i + 1))

/-- The model's tree over sixteen lanes is four levels of nodes. -/
theorem treeRoot_eq (f : Nat → Nat → Nat × Flags) (p : Nat → Bool) (A : Nat → Nat) :
    treeRoot f ((List.range 16).map fun i => if p i then some (A i) else none) = treeTop f (treeLeaves p A) := by
  have hlevel (l : Nat → Option Nat × Flags) (m : Nat) :
      treeLevel f (levelValues l (2 * m)) (levelFlags l (2 * m)) = (levelValues (treeNode f l) m, levelFlags (treeNode f l) m) := by
    simpa using treeLevel_eq f l m 0
  have hleaves := hlevel (treeLeaves p A) 8
  rw [levelFlags_leaves] at hleaves
  change (fun r : List (Option Nat) × Flags => (r.1.headD none, r.2)) (List.foldl _ (levelValues (treeLeaves p A) (2 * 8), 0) [0, 1, 2, 3]) = _
  simp only [List.foldl, hleaves, hlevel _ 4, hlevel _ 2, hlevel _ 1]
  exact Prod.ext rfl BitVec.or_zero

/-- No lane chosen, no value and no flags. -/
theorem treeTop_of_none (f : Nat → Nat → Nat × Flags) {p : Nat → Bool} (A : Nat → Nat) (hp : ∀ i, p i = false) :
    treeTop f (treeLeaves p A) = (none, 0) := by
  have hl : treeLeaves p A = fun _ => (none, 0) := by
    funext i
    simp [treeLeaves, hp]
  have hn : treeNode f (fun _ => (none, 0)) = fun _ => (none, 0) := by
    funext i
    simp [treeNode]
  rw [treeTop, hl, hn, hn, hn, hn]

/-- A level whose nodes raise no flags has none above it where f raises none. -/
theorem treeNode_flags {f : Nat → Nat → Nat × Flags} (hf : ∀ x y, (f x y).2 = 0) {l : Nat → Option Nat × Flags}
    (hl : ∀ i, (l i).2 = 0) (i : Nat) : (treeNode f l i).2 = 0 := by
  unfold treeNode
  split <;> simp [hl, hf]

theorem treeTop_flags {f : Nat → Nat → Nat × Flags} (hf : ∀ x y, (f x y).2 = 0) (p : Nat → Bool) (A : Nat → Nat) :
    (treeTop f (treeLeaves p A)).2 = 0 :=
  treeNode_flags hf (treeNode_flags hf (treeNode_flags hf (treeNode_flags hf fun _ => rfl))) 0

/-! The sum of integer lanes. -/

/-- The sum of the values of the first n nodes of a level. -/
def levelSum (l : Nat → Option Nat × Flags) (n : Nat) : Nat := ∑ i ∈ Finset.range n, ((l i).1.getD 0)

/-- Addition modulo 2^n in the nodes keeps the sum of a level modulo 2^n. -/
theorem levelSum_treeNode {f : Nat → Nat → Nat × Flags} {N : Nat} (hf : ∀ x y, (f x y).1 = (x + y) % N)
    (l : Nat → Option Nat × Flags) (m : Nat) : levelSum (treeNode f l) m % N = levelSum l (2 * m) % N := by
  have hnode (i : Nat) : (treeNode f l i).1.getD 0 % N = ((l (2 * i)).1.getD 0 + (l (2 * i + 1)).1.getD 0) % N := by
    unfold treeNode
    split <;> simp [*]
  induction m with
  | zero => rfl
  | succ m ih =>
    rw [levelSum, Finset.sum_range_succ, Nat.add_mod, hnode, show ∑ i ∈ Finset.range m, _ = levelSum (treeNode f l) m from rfl, ih,
      ← Nat.add_mod, Nat.mul_succ, levelSum, levelSum, Finset.sum_range_succ, Finset.sum_range_succ, Nat.add_assoc]

/-- The sum of the lanes chosen. -/
theorem levelSum_leaves (p : Nat → Bool) (A : Nat → Nat) (n : Nat) :
    levelSum (treeLeaves p A) n = (((List.range n).filter p).map A).sum := by
  induction n with
  | zero => rfl
  | succ n ih =>
    rw [levelSum, Finset.sum_range_succ, show ∑ i ∈ Finset.range n, _ = levelSum (treeLeaves p A) n from rfl, ih, List.range_succ]
    cases hp : p n <;> simp [treeLeaves, hp]

/-- The root of a tree of additions modulo N is the sum of the lanes chosen, modulo N. -/
theorem treeTop_sum {f : Nat → Nat → Nat × Flags} {N : Nat} (hf : ∀ x y, (f x y).1 = (x + y) % N) (p : Nat → Bool) (A : Nat → Nat) :
    (treeTop f (treeLeaves p A)).1.getD 0 % N = (((List.range 16).filter p).map A).sum % N := by
  rw [← levelSum_leaves, ← levelSum_treeNode hf _ 8, ← levelSum_treeNode hf _ 4, ← levelSum_treeNode hf _ 2,
    ← levelSum_treeNode hf _ 1, levelSum, Finset.sum_range_one]
  rfl

/-! The least of integer lanes under an order. -/

/-- Some node among the first n of a level holds z. -/
def LevelHolds (l : Nat → Option Nat × Flags) (n z : Nat) : Prop := ∃ i < n, (l i).1 = some z

/-- The level u holds only values of the level l, and for each of those one whose key is no greater. -/
structure LevelLeast (key : Nat → Int) (l : Nat → Option Nat × Flags) (n : Nat) (u : Nat → Option Nat × Flags) (m : Nat) : Prop where
  pick : ∀ z, LevelHolds u m z → LevelHolds l n z
  least : ∀ z, LevelHolds l n z → ∃ w, LevelHolds u m w ∧ key w ≤ key z

theorem LevelLeast.trans {key : Nat → Int} {l u v : Nat → Option Nat × Flags} {n m r : Nat} (h : LevelLeast key l n u m) (g : LevelLeast key u m v r) :
    LevelLeast key l n v r where
  pick z hz := h.pick z (g.pick z hz)
  least z hz := by
    obtain ⟨w, hw, hwz⟩ := h.least z hz
    obtain ⟨x, hx, hxw⟩ := g.least w hw
    exact ⟨x, hx, hxw.trans hwz⟩

/-- f chooses the one of two values with the lesser key. -/
def Chooses (key : Nat → Int) (f : Nat → Nat → Nat × Flags) : Prop :=
  ∀ x y, ((f x y).1 = x ∨ (f x y).1 = y) ∧ key (f x y).1 ≤ key x ∧ key (f x y).1 ≤ key y

theorem levelLeast_treeNode {key : Nat → Int} {f : Nat → Nat → Nat × Flags} (hf : Chooses key f) (l : Nat → Option Nat × Flags) (m : Nat) :
    LevelLeast key l (2 * m) (treeNode f l) m where
  pick z := by
    rintro ⟨i, hi, hz⟩
    have hor : (l (2 * i)).1 = some z ∨ (l (2 * i + 1)).1 = some z := by
      unfold treeNode at hz
      split at hz
      next g h h0 h1 =>
        obtain hx | hy := (hf g h).1
        · exact .inl (by rw [h0, ← hz, hx])
        · exact .inr (by rw [h1, ← hz, hy])
      next h0 h1 => exact .inl (h0.trans hz)
      next h0 => exact .inr hz
    obtain h0 | h1 := hor
    · exact ⟨2 * i, by omega, h0⟩
    · exact ⟨2 * i + 1, by omega, h1⟩
  least z := by
    rintro ⟨i, hi, hz⟩
    have hnode : ∃ w, (treeNode f l (i / 2)).1 = some w ∧ key w ≤ key z := by
      obtain hi0 | hi1 : i = 2 * (i / 2) ∨ i = 2 * (i / 2) + 1 := by omega
      · rw [hi0] at hz
        unfold treeNode
        rw [hz]
        split
        next g h hg h1 =>
          obtain rfl := Option.some.inj hg
          exact ⟨_, rfl, (hf z h).2.1⟩
        next g hg h1 =>
          obtain rfl := Option.some.inj hg
          exact ⟨_, rfl, le_rfl⟩
        next hg => cases hg
      · rw [hi1] at hz
        unfold treeNode
        rw [hz]
        split
        next g h h0 hh =>
          obtain rfl := Option.some.inj hh
          exact ⟨_, rfl, (hf g z).2.2⟩
        next hh => cases hh
        next => exact ⟨_, rfl, le_rfl⟩
    obtain ⟨w, hw, hle⟩ := hnode
    exact ⟨w, ⟨i / 2, by omega, hw⟩, hle⟩

/-- The root of a tree that chooses by a key is a chosen lane with the least key. -/
theorem treeTop_least {key : Nat → Int} {f : Nat → Nat → Nat × Flags} (hf : Chooses key f) {p : Nat → Bool} {A : Nat → Nat}
    (hp : (List.range 16).filter p ≠ []) :
    ∃ i ∈ (List.range 16).filter p, (treeTop f (treeLeaves p A)).1 = some (A i) ∧
      ∀ h ∈ (List.range 16).filter p, key (A i) ≤ key (A h) := by
  have hholds (z : Nat) : LevelHolds (treeLeaves p A) 16 z ↔ ∃ i ∈ (List.range 16).filter p, A i = z := by
    simp [LevelHolds, treeLeaves, and_assoc]
  have hl : LevelLeast key (treeLeaves p A) 16 (treeNode f (treeNode f (treeNode f (treeNode f (treeLeaves p A))))) 1 :=
    (((levelLeast_treeNode hf _ 8).trans (levelLeast_treeNode hf _ 4)).trans (levelLeast_treeNode hf _ 2)).trans (levelLeast_treeNode hf _ 1)
  have htop {w : Nat} (hw : LevelHolds (treeNode f (treeNode f (treeNode f (treeNode f (treeLeaves p A))))) 1 w) :
      (treeTop f (treeLeaves p A)).1 = some w := by
    obtain ⟨i, hi, hw⟩ := hw
    obtain rfl : i = 0 := by omega
    exact hw
  obtain ⟨j, hj⟩ := List.exists_mem_of_ne_nil _ hp
  obtain ⟨z, hz, -⟩ := hl.least _ ((hholds _).mpr ⟨j, hj, rfl⟩)
  obtain ⟨i, hi, rfl⟩ := (hholds z).mp (hl.pick z hz)
  refine ⟨i, hi, htop hz, fun h hh => ?_⟩
  obtain ⟨w, hw, hle⟩ := hl.least _ ((hholds _).mpr ⟨h, hh, rfl⟩)
  obtain rfl : A i = w := Option.some.inj ((htop hz).symm.trans (htop hw))
  exact hle

/-! The reductions of lanes (R47). -/

/-- What an integer lane counts in its type's order, or against it where the greatest is wanted. -/
def laneKey (t : VTy) (wantMax : Bool) (x : Nat) : Int :=
  let v : Int := if vtySigned t then signedOf (vtyWidth t) x else x
  if wantMax then -v else v

/-- Two's complement by the sign bit. -/
theorem signedOf_eq {n y : Nat} (hn : 0 < n) (hy : y < 2 ^ n) : signedOf n y = (y : Int) - 2 ^ n * (y / 2 ^ (n - 1) : Nat) := by
  have hpow : 2 ^ n = 2 * 2 ^ (n - 1) := by rw [← Nat.pow_succ', Nat.succ_eq_add_one, Nat.sub_add_cancel hn]
  unfold signedOf
  split
  next h => simp [Nat.div_eq_of_lt h]
  next h =>
    have hone : y / 2 ^ (n - 1) = 1 := Nat.div_eq_of_lt_le (by omega) (by omega)
    simp [hone]

theorem vtyWidth_pos (t : VTy) : 0 < vtyWidth t := by cases t <;> decide

/-- The node of VRED MIN and MAX chooses by the order of the integer type. -/
theorem chooses_nodeMinMax {t : VTy} (ht : t.isInt = true) (wantMax : Bool) : Chooses (laneKey t wantMax) (nodeMinMax t wantMax) := by
  intro x y
  cases wantMax <;> cases hs : vtySigned t <;>
    simp only [nodeMinMax, ht, hs, laneKey, opMin, opMinn, opMax, opMaxn, if_true, if_false, Bool.false_eq_true] <;>
    split <;> simp <;> omega

theorem nodeMinMax_flags {t : VTy} (ht : t.isInt = true) (wantMax : Bool) (x y : Nat) : (nodeMinMax t wantMax x y).2 = 0 := by
  rw [nodeMinMax, if_pos ht]

theorem nodeMinMax_float {t : VTy} (ht : t.isInt = false) (wantMax : Bool) : nodeMinMax t wantMax = fMinMax (vtyFmt t) wantMax := by
  funext x y
  simp [nodeMinMax, ht]

/-- The active lanes of a vector, as patterns of the type. -/
def vredLeaves (c : Ctx) (v : VSrc) (m : MReg) (t : VTy) : Nat → Option Nat × Flags :=
  treeLeaves (fun i => (c.mask m.val).getLsbD i) fun i => ((c.vec v.val).getD i 0).toNat % 2 ^ vtyWidth t

/-- VRED from a quiet strand: the root over the active lanes, or the identity where none is active. -/
theorem issueVred_quiet {s : State} {k : CoreKey} {b : Fin 2} (hq : Quiet s k b) (r : DReg) (v : VSrc) (m : MReg) (t : VTy) (p : Level)
    (f : Ctx → Nat → Nat → Nat × Flags) (identity : Nat) {y : Word} {fl : Flags}
    (hy : vfit t ((treeTop (f (s.bank k b).ctx) (vredLeaves (s.bank k b).ctx v m t)).1.getD identity) = y)
    (hfl : (treeTop (f (s.bank k b).ctx) (vredLeaves (s.bank k b).ctx v m t)).2 = fl) :
    issueVred s r v m t p f identity = .next (s.ran k b (fun o => (o.deliver r p y).orFlags fl) none) := by
  subst hy hfl
  rw [issueVred, issueFp_quiet hq]
  simp only [vredLeaves, ← treeRoot_eq]
  rfl

/-- The node of VRED ADD (R47). -/
def nodeAdd (t : VTy) (m : Mode) (x y : Nat) : Nat × Flags :=
  if t.isInt then (opAdd (vtyWidth t) x y, 0) else fAdd (vtyFmt t) m x y

theorem nodeAdd_value {t : VTy} (ht : t.isInt = true) (m : Mode) (x y : Nat) : (nodeAdd t m x y).1 = (x + y) % 2 ^ vtyWidth t := by
  rw [nodeAdd, if_pos ht]
  rfl

theorem nodeAdd_flags {t : VTy} (ht : t.isInt = true) (m : Mode) (x y : Nat) : (nodeAdd t m x y).2 = 0 := by
  rw [nodeAdd, if_pos ht]

theorem nodeAdd_float {t : VTy} (ht : t.isInt = false) (m : Mode) : nodeAdd t m = fAdd (vtyFmt t) m := by
  funext x y
  simp [nodeAdd, ht]

/-- A fit takes the low bits of the type's width. -/
theorem vfit_mod (t : VTy) (y : Nat) : vfit t (y % 2 ^ vtyWidth t) = vfit t y := by
  simp [vfit, sext, zext]

/-- The identity of VRED MIN and MAX: the type's largest and its smallest value. -/
def redIdentity (t : VTy) (wantMax : Bool) : Nat :=
  if wantMax then
    if t.isInt then (if vtySigned t then 2 ^ (vtyWidth t - 1) else 0) else (vtyFmt t).infPat + 2 ^ (vtyWidth t - 1)
  else if t.isInt then (if vtySigned t then 2 ^ (vtyWidth t - 1) - 1 else 2 ^ vtyWidth t - 1) else (vtyFmt t).infPat

/-- VRED MIN from a quiet strand. -/
theorem execVredMin_quiet {s : State} {k : CoreKey} {b : Fin 2} (hq : Quiet s k b) (d : DReg) (a : VSrc) (m : MReg) (t : VTy) (p : Level)
    {top : Option Nat × Flags} (htop : treeTop (nodeMinMax t false) (vredLeaves (s.bank k b).ctx a m t) = top) :
    execVredMin d a m t p s =
      .next (s.ran k b (fun o => (o.deliver d p (vfit t (top.1.getD (redIdentity t false)))).orFlags top.2) none) := by
  subst htop
  refine issueVred_quiet hq d a m t p _ _ ?_ rfl
  cases t <;> rfl

/-- VRED MAX from a quiet strand. -/
theorem execVredMax_quiet {s : State} {k : CoreKey} {b : Fin 2} (hq : Quiet s k b) (d : DReg) (a : VSrc) (m : MReg) (t : VTy) (p : Level)
    {top : Option Nat × Flags} (htop : treeTop (nodeMinMax t true) (vredLeaves (s.bank k b).ctx a m t) = top) :
    execVredMax d a m t p s =
      .next (s.ran k b (fun o => (o.deliver d p (vfit t (top.1.getD (redIdentity t true)))).orFlags top.2) none) := by
  subst htop
  refine issueVred_quiet hq d a m t p _ _ ?_ rfl
  cases t <;> rfl

/-- VRED ADD from a quiet strand. -/
theorem execVredAdd_quiet {s : State} {k : CoreKey} {b : Fin 2} (hq : Quiet s k b) (d : DReg) (a : VSrc) (q : Rnd) (m : MReg) (t : VTy)
    (p : Level) {mode : Mode} (hmode : (s.bank k b).ctx.mode q = mode)
    {top : Option Nat × Flags} (htop : treeTop (nodeAdd t mode) (vredLeaves (s.bank k b).ctx a m t) = top) :
    execVredAdd d a q m t p s = .next (s.ran k b (fun o => (o.deliver d p (vfit t (top.1.getD 0))).orFlags top.2) none) := by
  subst hmode htop
  exact issueVred_quiet hq d a m t p _ _ rfl rfl

/-- A lane, read. -/
theorem vget_lane (v : Lanes) (j : Fin 16) : vget v 0 j.val = v[j] := by
  simp [vget, Vector.getD]

/-- A lane, written. -/
theorem setIfInBounds_lane (v : Lanes) (j : Fin 16) (y : Word) : v.setIfInBounds j.val y = v.set j y := by
  ext i hi
  simp [Vector.getElem_set, Vector.getElem_setIfInBounds]

/-- VEXT from a quiet strand. -/
theorem execVext_quiet {s : State} {k : CoreKey} {b : Fin 2} (hq : Quiet s k b) (d : DReg) (a : VSrc) (j : Fin 16) (t : VTy) (p : Level) :
    execVext d a j t p s =
      .next (s.ran k b (fun o => o.deliver d p (vfit t (((s.bank k b).ctx.vec a.val)[j]).toNat)) none) := by
  rw [execVext, issueMap_quiet _ _ _ _ _ hq, ran_congr]
  simp only [vget_lane, refit]

/-- VINS from a quiet strand. -/
theorem execVins_quiet {s : State} {k : CoreKey} {b : Fin 2} (hq : Quiet s k b) (r : SReg) (e : VReg) (j : Fin 16) (t : VTy) (p : Level) :
    execVins r e j t p s =
      .next (s.ran k b (fun o => o.deliverV e p (((s.bank k b).ctx.vec e.val).set j (vfit t ((s.bank k b).ctx.s r.val).toNat))) none) := by
  rw [execVins, issueMap_quiet _ _ _ _ _ hq, ran_congr]
  simp only [setIfInBounds_lane, refit]

theorem vfit_zero (t : VTy) : vfit t 0 = 0 := by cases t <;> decide

/-- Settles O30: the lane moves are single writes; a reduction is the root of its tree, of which the type says what a node does. -/
theorem laneMovesAndReductions : Obligations.LaneMovesAndReductions := by
  intro s k b d a r e j m t q p hq x n fit act A iv mode node leaves tree
  have hmode : x.mode q = mode := by cases q <;> rfl
  let lv := vredLeaves x a m t
  have htree {f g : Nat → Nat → Nat × Flags} (hg : g = f) (id : Nat) :
      tree f (vfit t ((treeTop g lv).1.getD id)) (treeTop g lv).2 := by
    subst hg
    refine ⟨rfl, fun z hz => ?_⟩
    rw [show (treeTop g lv).1 = some z from hz, Option.getD_some]
    rfl
  have hnone (f : Nat → Nat → Nat × Flags) (hact : act = []) : treeTop f lv = (none, 0) := by
    refine treeTop_of_none f A fun i => ?_
    obtain hi | hi := lt_or_ge i 16
    · simpa using List.filter_eq_nil_iff.mp hact i (List.mem_range.mpr hi)
    · exact BitVec.getLsbD_of_ge _ i hi
  have hkey (w : Bool) (i : Nat) : laneKey t w (A i) = if w then -iv (A i) else iv (A i) := by
    have hA : A i < 2 ^ vtyWidth t := Nat.mod_lt _ (Nat.two_pow_pos _)
    rw [laneKey, signedOf_eq (vtyWidth_pos t) hA]
  have hleast (w : Bool) (id : Nat) (ht : t.isInt = true) : (treeTop (nodeMinMax t w) lv).2 = 0 ∧ (act ≠ [] → ∃ i ∈ act,
      vfit t ((treeTop (nodeMinMax t w) lv).1.getD id) = fit (A i) ∧
        ∀ h ∈ act, if w then iv (A h) ≤ iv (A i) else iv (A i) ≤ iv (A h)) := by
    refine ⟨treeTop_flags (nodeMinMax_flags ht w) _ _, fun hact => ?_⟩
    obtain ⟨i, hi, htop, hle⟩ := treeTop_least (chooses_nodeMinMax ht w) (A := A) hact
    refine ⟨i, hi, ?_, fun h hh => ?_⟩
    · rw [show (treeTop (nodeMinMax t w) lv).1 = some (A i) from htop]
      rfl
    · have hih := hle h hh
      rw [hkey, hkey] at hih
      cases w
      · exact hih
      · exact neg_le_neg_iff.mp hih
  refine ⟨execVext_quiet hq d a j t p, execVins_quiet hq r e j t p,
    ⟨_, _, execVredAdd_quiet hq d a q m t p hmode rfl, ?addInt, ?addNone, ?addFloat⟩,
    ⟨_, _, execVredMin_quiet hq d a m t p rfl, ?minInt, ?minNone, ?minFloat⟩,
    ⟨_, _, execVredMax_quiet hq d a m t p rfl, ?maxInt, ?maxNone, ?maxFloat⟩⟩
  case addInt =>
    intro ht
    have hsum : (treeTop (nodeAdd t mode) lv).1.getD 0 % 2 ^ n = (act.map A).sum % 2 ^ n := treeTop_sum (nodeAdd_value ht mode) _ A
    exact ⟨(vfit_mod t _).symm.trans (congrArg (vfit t) hsum), treeTop_flags (nodeAdd_flags ht mode) _ _⟩
  case addNone =>
    intro hact
    rw [show treeTop (nodeAdd t mode) (vredLeaves x a m t) = _ from hnone _ hact]
    exact ⟨vfit_zero t, rfl⟩
  case addFloat => exact fun ht => htree (nodeAdd_float ht mode) 0
  case minInt => exact hleast false _
  case minNone =>
    intro hact
    rw [show treeTop (nodeMinMax t false) (vredLeaves x a m t) = _ from hnone _ hact]
    rfl
  case minFloat => exact fun ht => htree (nodeMinMax_float ht false) _
  case maxInt => exact hleast true _
  case maxNone =>
    intro hact
    rw [show treeTop (nodeMinMax t true) (vredLeaves x a m t) = _ from hnone _ hact]
    rfl
  case maxFloat => exact fun ht => htree (nodeMinMax_float ht true) _

end Sys2Proof.Machine

/-! Conversions (R41 to R44): what `convert` delivers, by the destination type. -/

namespace Sys2Proof

/-- A floating-point destination (R33, R41). -/
theorem convert_float {dt : TyCode} {f : Fmt} (hf : dt.fmt? = some f) (st : TyCode) (mode : Mode) (x : Nat) :
    ((st.read x).isNan = true → convert st dt mode x = (f.nanPat, if dt = .e2m1 ∨ st.read x = .nan true then fIV else 0)) ∧
    (∀ s, st.read x = .inf s →
      convert st dt mode x = if f.sp = .ieee then (f.signPat s + f.infPat, 0) else (f.signPat s + f.maxPat, fOF ||| fNX)) ∧
    (∀ s m e, st.read x = .fin s m e → convert st dt mode x = f.deliver mode (st.read x)) := by
  have hconv : convert st dt mode x =
      withFlags (if dt = .e2m1 && (st.read x).isNan then fIV else (st.read x).readFlag) (f.deliver mode (st.read x)) := by
    simp only [convert, hf]
  rw [hconv]
  refine ⟨fun hnan => ?_, fun s hinf => ?_, fun s m e hfin => ?_⟩
  · cases hv : st.read x with
    | nan g => cases g <;> simp [withFlags, Fmt.deliver, FVal.isNan, FVal.readFlag, fNone]
    | inf g => simp [hv, FVal.isNan] at hnan
    | fin g m e => simp [hv, FVal.isNan] at hnan
  · rw [hinf]
    cases hsp : f.sp <;> simp [withFlags, Fmt.deliver, FVal.isNan, FVal.readFlag, fNone, hsp]
  · rw [hfin]
    simp [withFlags, FVal.isNan, FVal.readFlag, fNone]

/-- A positive value between two powers of two goes to the exponent of one of them (R42). -/
theorem toE8m0_pos (mode : Mode) {m : Nat} (hm : 0 < m) (e : Int) :
    toE8m0 mode (.fin false m e) =
      let l := Nat.log2 m
      let k : Int := e + l
      let exact := m = 2 ^ l
      let r : Int := match mode with
        | .rtz | .rdn => k
        | .rup => if exact then k else k + 1
        | .rne => if 2 * m < 3 * 2 ^ l then k else if 3 * 2 ^ l < 2 * m then k + 1 else if (k + 127) % 2 = 0 then k else k + 1
      if 127 < r then (0xFE, fOF ||| fNX) else if r < -127 then (0x00, fUF ||| fNX) else ((r + 127).toNat, if exact then 0 else fNX) := by
  have hm0 : m ≠ 0 := by omega
  have hl : bitSize m - 1 = Nat.log2 m := by simp [bitSize, hm0]
  simp only [toE8m0, hm0, hl, if_false, Bool.false_eq_true]
  generalize Nat.log2 m = l
  cases mode with
  | rtz => simp [fNone]
  | rdn => simp [fNone]
  | rup => by_cases hp : m = 2 ^ l <;> simp [hp, fNone]
  | rne =>
    have hround (k : Int) (u : Nat) :
        (if (decide (u < 2 * m) || (2 * m == u && (k + 127) % 2 != 0)) = true then k + 1 else k) =
          if 2 * m < u then k else if u < 2 * m then k + 1 else if (k + 127) % 2 = 0 then k else k + 1 := by
      rcases lt_trichotomy (2 * m) u with h | h | h
      · simp [h, h.not_gt, h.ne]
      · obtain hp | hp : (k + 127) % 2 = 0 ∨ (k + 127) % 2 = 1 := by omega
        · rw [if_neg (by simp [h, hp]), if_neg h.not_lt, if_neg h.not_gt, if_pos hp]
        · rw [if_pos (by simp [h, hp]), if_neg h.not_lt, if_neg h.not_gt, if_neg (by simp [hp])]
      · simp [h, h.not_gt]
    simp only [hround, fNone, beq_iff_eq]

/-- An exact number rounded to an integer (R44). -/
theorem roundAt_zero (mode : Mode) (s : Bool) (m : Nat) (e : Int) :
    roundAt mode s m e 0 =
      let a := m * 2 ^ e.toNat
      let d := 2 ^ (-e).toNat
      (if a % d = 0 then a / d else match mode with
        | .rtz => a / d
        | .rup => if s then a / d else a / d + 1
        | .rdn => if s then a / d + 1 else a / d
        | .rne => if 2 * (a % d) < d ∨ (2 * (a % d) = d ∧ a / d % 2 = 0) then a / d else a / d + 1, decide (a % d = 0)) := by
  by_cases he : 0 ≤ e
  · have hd : (-e).toNat = 0 := by omega
    simp [roundAt, he, hd, Nat.mod_one]
  · have hn : e.toNat = 0 := by omega
    simp only [roundAt, he, if_false, hn, pow_zero, Nat.mul_one, zero_sub]
    generalize 2 ^ (-e).toNat = d
    by_cases hr : m % d = 0
    · simp [hr]
    · simp only [hr, if_false, decide_false, Prod.mk.injEq, and_true]
      cases mode with
      | rtz => simp [roundsUp]
      | rup => cases s <;> simp [roundsUp]
      | rdn => cases s <;> simp [roundsUp]
      | rne =>
        have hodd : m / d % 2 = 0 ∨ m / d % 2 = 1 := by omega
        rcases lt_trichotomy (2 * (m % d)) d with h | h | h
        · simp [roundsUp, h, h.not_gt, h.ne]
        · obtain ho | ho := hodd <;> simp [roundsUp, h, ho]
        · simp [roundsUp, h, h.not_gt, h.ne']

/-! PS2 (R34, R43). -/

/-- R34's set, in units of 2^−6. -/
def InPs2 (q : Nat) : Prop := ∃ c, c < 256 ∧ (ps2Units c).natAbs = q

/-- The sum code of a sign and two shifts. -/
def ps2Sum (s : Bool) (p : Nat × Nat) : Nat := 16 * ps2Nib s p.1 + ps2Nib s p.2

/-- The difference code of a sign and two shifts. -/
def ps2Diff (s : Bool) (p : Nat × Nat) : Nat := 16 * ps2Nib s p.1 + ps2Nib (!s) p.2

/-- A signed magnitude. -/
def ps2Signed (s : Bool) (q : Nat) : Int := if s then -(q : Int) else q

@[simp] theorem ps2Signed_natAbs (s : Bool) (q : Nat) : (ps2Signed s q).natAbs = q := by cases s <;> simp [ps2Signed]

/-- The magnitudes of one term. -/
def IsPs2Term (q : Nat) : Prop := ∃ e, e ≤ 6 ∧ q = 2 ^ (6 - e)

/-- What R34 asks of the canonical code of a magnitude: 0x77 for zero; a single term first where one suffices; else two terms with the shifts in order, of one sign where that is possible. -/
structure IsPs2Canon (c : Nat) : Prop where
  zero : (ps2Units c).natAbs = 0 → c = 0x77
  single : IsPs2Term (ps2Units c).natAbs → c % 16 = 7
  order : (ps2Units c).natAbs ≠ 0 → ¬IsPs2Term (ps2Units c).natAbs → c / 16 % 8 ≤ c % 8 ∧ c % 8 < 7
  sum : (ps2Units c).natAbs ≠ 0 → ¬IsPs2Term (ps2Units c).natAbs →
    ∀ z, z < 256 → ps2Units z = ps2Units c → z / 16 % 8 < 7 → z % 8 < 7 → z / 128 = z / 8 % 2 → c / 128 = c / 8 % 2

theorem ps2_single_code : ∀ e < 7, ∀ s, 16 * ps2Nib s e + 7 < 256 ∧ ps2Units (16 * ps2Nib s e + 7) = ps2Signed s (2 ^ (6 - e)) ∧
    (16 * ps2Nib s e + 7) % 16 = 7 := by decide

theorem ps2_sum_code : ∀ p ∈ ps2Shifts, ∀ s, ps2Sum s p < 256 ∧ ps2Units (ps2Sum s p) = ps2Signed s (2 ^ (6 - p.1) + 2 ^ (6 - p.2)) ∧
    ps2Sum s p / 16 % 8 ≤ ps2Sum s p % 8 ∧ ps2Sum s p % 8 < 7 ∧ ps2Sum s p / 128 = ps2Sum s p / 8 % 2 := by decide

theorem ps2_diff_code : ∀ p ∈ ps2Shifts, ∀ s, ps2Diff s p < 256 ∧ ps2Units (ps2Diff s p) = ps2Signed s (2 ^ (6 - p.1) - 2 ^ (6 - p.2)) ∧
    ps2Diff s p / 16 % 8 ≤ ps2Diff s p % 8 ∧ ps2Diff s p % 8 < 7 := by decide

/-- Two terms of one sign are a sum of shifts in order. -/
theorem ps2_sum_of_terms : ∀ u < 16, ∀ v < 16, u % 8 < 7 → v % 8 < 7 → u / 8 = v / 8 →
    ∃ p ∈ ps2Shifts, (ps2Term u + ps2Term v).natAbs = 2 ^ (6 - p.1) + 2 ^ (6 - p.2) := by decide

theorem ps2Canon_isSome_of_terms : ∀ u < 16, ∀ v < 16, (ps2Canon false (ps2Term u + ps2Term v).natAbs).isSome = true := by decide

/-- The cases of the canonical code: zero, one term, else a sum, else a difference. -/
theorem ps2Canon_cases {s : Bool} {q c : Nat} (h : ps2Canon s q = some c) :
    (q = 0 ∧ c = 0x77) ∨
    (q ≠ 0 ∧ ∃ e < 7, q = 2 ^ (6 - e) ∧ c = 16 * ps2Nib s e + 7) ∨
    (q ≠ 0 ∧ ¬IsPs2Term q ∧ ∃ p ∈ ps2Shifts, q = 2 ^ (6 - p.1) + 2 ^ (6 - p.2) ∧ c = ps2Sum s p) ∨
    (q ≠ 0 ∧ ¬IsPs2Term q ∧ (∀ p ∈ ps2Shifts, q ≠ 2 ^ (6 - p.1) + 2 ^ (6 - p.2)) ∧
      ∃ p ∈ ps2Shifts, q = 2 ^ (6 - p.1) - 2 ^ (6 - p.2) ∧ c = ps2Diff s p) := by
  unfold ps2Canon at h
  split at h
  next hq => exact .inl ⟨hq, (Option.some.inj h).symm⟩
  next hq =>
    split at h
    next e he =>
      have hqe := List.find?_some he
      have hmem := List.mem_of_find?_eq_some he
      exact .inr (.inl ⟨hq, e, List.mem_range.mp hmem, by simpa using hqe, (Option.some.inj h).symm⟩)
    next he =>
      have hterm : ¬IsPs2Term q := by
        rintro ⟨e, he6, hqe⟩
        exact List.find?_eq_none.mp he e (List.mem_range.mpr (by omega)) (by simpa using hqe)
      split at h
      next p hp =>
        have hqp := List.find?_some hp
        exact .inr (.inr (.inl ⟨hq, hterm, p, List.mem_of_find?_eq_some hp, by simpa using hqp, (Option.some.inj h).symm⟩))
      next hsum =>
        split at h
        next p hp =>
          have hqp := List.find?_some hp
          exact .inr (.inr (.inr ⟨hq, hterm, fun p hp => by simpa using List.find?_eq_none.mp hsum p hp, p, List.mem_of_find?_eq_some hp,
            by simpa using hqp, (Option.some.inj h).symm⟩))
        next => cases h

/-- Whether R34's set has a magnitude does not depend on the sign. -/
theorem ps2Canon_isSome_sign (s : Bool) (q : Nat) : (ps2Canon s q).isSome = (ps2Canon false q).isSome := by
  unfold ps2Canon
  split
  · rfl
  split
  · rfl
  split
  · rfl
  split <;> rfl

/-- The canonical code is a byte that encodes the signed magnitude. -/
theorem ps2Units_of_canon {s : Bool} {q c : Nat} (h : ps2Canon s q = some c) : c < 256 ∧ ps2Units c = ps2Signed s q := by
  obtain ⟨rfl, rfl⟩ | ⟨-, e, he, rfl, rfl⟩ | ⟨-, -, p, hp, rfl, rfl⟩ | ⟨-, -, -, p, hp, rfl, rfl⟩ := ps2Canon_cases h
  · cases s <;> decide
  · obtain ⟨hlt, hunits, -⟩ := ps2_single_code e he s
    exact ⟨hlt, hunits⟩
  · obtain ⟨hlt, hunits, -⟩ := ps2_sum_code p hp s
    exact ⟨hlt, hunits⟩
  · obtain ⟨hlt, hunits, -⟩ := ps2_diff_code p hp s
    exact ⟨hlt, hunits⟩

theorem isPs2Canon_of_canon {s : Bool} {q c : Nat} (h : ps2Canon s q = some c) : IsPs2Canon c := by
  obtain ⟨-, hunits⟩ := ps2Units_of_canon h
  have hq : (ps2Units c).natAbs = q := by rw [hunits, ps2Signed_natAbs]
  obtain ⟨rfl, rfl⟩ | ⟨h0, e, he, hqe, rfl⟩ | ⟨h0, hterm, p, hp, -, rfl⟩ | ⟨h0, hterm, hsum, p, hp, -, rfl⟩ := ps2Canon_cases h
  · exact ⟨fun _ => rfl, fun _ => rfl, fun h => absurd hq h, fun h => absurd hq h⟩
  · have hterm : IsPs2Term q := ⟨e, by omega, hqe⟩
    obtain ⟨-, -, hseven⟩ := ps2_single_code e he s
    rw [← hq] at h0 hterm
    exact ⟨fun h => absurd h h0, fun _ => hseven, fun _ h => absurd hterm h, fun _ h => absurd hterm h⟩
  · obtain ⟨-, -, horder, hshift, hsign⟩ := ps2_sum_code p hp s
    rw [← hq] at h0 hterm
    exact ⟨fun h => absurd h h0, fun h => absurd h hterm, fun _ _ => ⟨horder, hshift⟩, fun _ _ _ _ _ _ _ _ => hsign⟩
  · obtain ⟨-, -, horder, hshift⟩ := ps2_diff_code p hp s
    rw [← hq] at h0 hterm hsum
    refine ⟨fun h => absurd h h0, fun h => absurd h hterm, fun _ _ => ⟨horder, hshift⟩, fun _ _ z hz hzc hu hv hsign => ?_⟩
    have hhigh : z / 16 / 8 = z / 128 := Nat.div_div_eq_div_mul z 16 8
    have hlow : z % 16 / 8 = z / 8 % 2 := Nat.mod_mul_right_div_self z 8 2
    obtain ⟨r, hr, hzr⟩ := ps2_sum_of_terms (z / 16) (by omega) (z % 16) (by omega) hu (by omega) (by omega)
    exact absurd (hzc ▸ hzr) (hsum r hr)

/-- The magnitudes that have a canonical code are those of R34's set. -/
theorem inPs2_iff {q : Nat} : InPs2 q ↔ (ps2Canon false q).isSome = true := by
  constructor
  · rintro ⟨c, hc, rfl⟩
    exact ps2Canon_isSome_of_terms (c / 16) (by omega) (c % 16) (by omega)
  · intro h
    obtain ⟨c, hc⟩ := Option.isSome_iff_exists.mp h
    obtain ⟨hlt, hunits⟩ := ps2Units_of_canon hc
    exact ⟨c, hlt, by rw [hunits, ps2Signed_natAbs]⟩

/-- Counting down finds the greatest magnitude of the set that is no greater. -/
theorem ps2Down_spec (n : Nat) : InPs2 (ps2Down n) ∧ ps2Down n ≤ n ∧ ∀ q, InPs2 q → q ≤ n → q ≤ ps2Down n := by
  induction n with
  | zero => exact ⟨inPs2_iff.mpr rfl, le_rfl, fun q _ hq => hq⟩
  | succ n ih =>
    obtain ⟨hin, hle, hgreatest⟩ := ih
    unfold ps2Down
    split
    next h => exact ⟨inPs2_iff.mpr h, le_rfl, fun q _ hq => hq⟩
    next h =>
      refine ⟨hin, by omega, fun q hq hqn => hgreatest q hq ?_⟩
      have hne : q ≠ n + 1 := fun he => h (inPs2_iff.mp (he ▸ hq))
      omega

/-- Counting up finds the least magnitude of the set that is no less, where there is one within the steps. -/
theorem ps2Up_spec {d n m : Nat} (hm : InPs2 m) (hn : n ≤ m) (hd : m ≤ n + d) :
    InPs2 (ps2Up d n) ∧ n ≤ ps2Up d n ∧ ∀ q, InPs2 q → n ≤ q → ps2Up d n ≤ q := by
  induction d generalizing n with
  | zero =>
    obtain rfl : m = n := by omega
    exact ⟨hm, le_rfl, fun q _ hq => hq⟩
  | succ d ih =>
    unfold ps2Up
    split
    next h => exact ⟨inPs2_iff.mpr h, le_rfl, fun q _ hq => hq⟩
    next h =>
      have hne {q : Nat} (hq : InPs2 q) : q ≠ n := fun he => h (inPs2_iff.mp (he ▸ hq))
      have hmn := hne hm
      obtain ⟨hin, hle, hleast⟩ := ih (n := n + 1) (by omega) (by omega)
      refine ⟨hin, by omega, fun q hq hqn => hleast q hq ?_⟩
      have hqn' := hne hq
      omega

/-- The neighbours of a / d in R34's set, up to its greatest magnitude: at or below it, and above it or at it. -/
theorem ps2_neighbours {a d : Nat} (hd : 0 < d) (ha : a ≤ 128 * d) :
    let lo := ps2Down (a / d)
    let hi := ps2Up 128 ((a + d - 1) / d)
    InPs2 lo ∧ InPs2 hi ∧ lo * d ≤ a ∧ (lo * d = a ∨ a < hi * d) ∧ ∀ q, InPs2 q → q ≤ lo ∨ hi ≤ q := by
  intro lo hi
  have hmax : InPs2 128 := ⟨0, by decide⟩
  have hceil : (a + d - 1) / d ≤ 128 := by
    rw [Nat.div_le_iff_le_mul_add_pred hd]
    have := Nat.mul_comm d 128
    omega
  have hfloor : a < (a / d + 1) * d := Nat.lt_mul_of_div_lt (Nat.lt_succ_self _) hd
  obtain ⟨hloIn, hloLe, hloMax⟩ := ps2Down_spec (a / d)
  obtain ⟨hhiIn, hhiLe, hhiMin⟩ := ps2Up_spec hmax hceil (Nat.le_add_left 128 _)
  have hlo : lo * d ≤ a := (Nat.le_div_iff_mul_le hd).mp hloLe
  have hhi : a ≤ hi * d := by
    have h : (a + d - 1) / d < hi + 1 := Nat.lt_succ_of_le hhiLe
    rw [Nat.div_lt_iff_lt_mul hd, Nat.add_one_mul] at h
    omega
  refine ⟨hloIn, hhiIn, hlo, ?_, fun q hq => ?_⟩
  · obtain h | h := hhi.lt_or_eq
    · exact .inr h
    · have hle : hi ≤ lo := hloMax hi hhiIn (by rw [h, Nat.mul_div_cancel _ hd])
      have := Nat.mul_le_mul_right d hle
      exact .inl (by omega)
  · obtain h | h := le_or_gt q (a / d)
    · exact .inl (hloMax q hq h)
    · refine .inr (hhiMin q hq ?_)
      have hstep := Nat.mul_le_mul_right d (Nat.succ_le_of_lt h)
      rw [Nat.succ_eq_add_one] at hstep
      rw [Nat.div_le_iff_le_mul_add_pred hd, Nat.mul_comm d q]
      omega

/-- The neighbour that a mode names: at a tie the smaller (R43). -/
def ps2Choice (mode : Mode) (s : Bool) (a d lo hi : Nat) : Nat :=
  if lo * d = a then lo else match mode with
    | .rtz => lo
    | .rup => if s then lo else hi
    | .rdn => if s then hi else lo
    | .rne => if (lo + hi) * d < 2 * a then hi else lo

theorem inPs2_ps2Choice {lo hi : Nat} (hlo : InPs2 lo) (hhi : InPs2 hi) (mode : Mode) (s : Bool) (a d : Nat) :
    InPs2 (ps2Choice mode s a d lo hi) := by
  have hite (c : Prop) [Decidable c] {p q : Nat} (hp : InPs2 p) (hq : InPs2 q) : InPs2 (if c then p else q) := by
    split
    · exact hp
    · exact hq
  cases mode with
  | rtz => exact hite _ hlo hlo
  | rup => exact hite _ hlo (hite _ hlo hhi)
  | rdn => exact hite _ hlo (hite _ hhi hlo)
  | rne => exact hite _ hlo (hite _ hhi hlo)

/-- Whether the mode takes the greater neighbour, as the model decides it. -/
def ps2Takes (mode : Mode) (s : Bool) (a d lo hi : Nat) : Bool :=
  match mode with
  | .rne => decide ((hi + lo) * d < 2 * a)
  | .rtz => false
  | .rup => !s
  | .rdn => s

theorem ps2Choice_eq (mode : Mode) (s : Bool) (a d lo hi : Nat) :
    (if lo * d == a then lo else if ps2Takes mode s a d lo hi then hi else lo) = ps2Choice mode s a d lo hi := by
  cases mode with
  | rtz => simp [ps2Choice, ps2Takes]
  | rup => cases s <;> simp [ps2Choice, ps2Takes]
  | rdn => cases s <;> simp [ps2Choice, ps2Takes]
  | rne => simp [ps2Choice, ps2Takes, Nat.add_comm]

/-- Within the range of R34's set a value goes to the canonical code of the neighbour that the mode names. -/
theorem toPs2_within (mode : Mode) (s : Bool) (m : Nat) (e : Int) :
    let a := m * 2 ^ (e + 6).toNat
    let d := 2 ^ (-(e + 6)).toNat
    let lo := ps2Down (a / d)
    let hi := ps2Up 128 ((a + d - 1) / d)
    a ≤ 128 * d → toPs2 mode (.fin s m e) =
      ((ps2Canon s (ps2Choice mode s a d lo hi)).getD 0x77, if lo * d = a then 0 else fNX) := by
  intro a d lo hi ha
  refine (if_neg ha.not_gt).trans (congrArg₂ Prod.mk ?_ ?_)
  · rw [← ps2Choice_eq]
    rfl
  · exact if_congr beq_iff_eq rfl rfl

end Sys2Proof

/-! FCVT and VCVT deliver what the rules of conversion give (R41 to R44, R143, R151). -/

namespace Sys2Proof.Machine

open Sys2Proof

theorem eq_nan_of_isNan {v : FVal} (h : v.isNan = true) : ∃ g, v = .nan g := by
  cases v with
  | nan g => exact ⟨g, rfl⟩
  | inf g => cases h
  | fin g m e => cases h

/-- A floating-point destination (R33, R41). -/
theorem convertsTo_float {dt : TyCode} {f : Fmt} (hf : dt.fmt? = some f) (st : TyCode) (mode : Mode) (x : Nat) :
    ConvertsTo st dt mode x (convert st dt mode x) := by
  have h := convert_float hf st mode x
  cases dt with
  | f64 | f32 | bf16 | e4m3 | e5m2 | e2m1 =>
    obtain rfl := Option.some.inj hf
    exact h
  | s8 | s16 | s32 | s64 | n8 | n16 | n32 | n64 | e8m0 | ps2 => cases hf

/-- The destination E8M0 (R42). -/
theorem convertsTo_e8m0 (st : TyCode) (mode : Mode) (x : Nat) : ConvertsTo st .e8m0 mode x (convert st .e8m0 mode x) := by
  unfold ConvertsTo
  intro v float scale term units inSet canonical weight integer
  refine ⟨fun hst => by subst hst; rfl, fun hst => ?_⟩
  have hconv : convert st .e8m0 mode x = toE8m0 mode v := by simp [convert, TyCode.fmt?, hst, v]
  rw [hconv]
  refine ⟨fun hnan => ?nan, fun hv => by rw [hv]; rfl, fun hv => by rw [hv]; rfl, fun s e hv => by rw [hv]; rfl, fun m e hm hv => ?neg,
    fun m e hm hv => by rw [hv]; exact toE8m0_pos mode hm e⟩
  case nan =>
    obtain ⟨g, hg⟩ := eq_nan_of_isNan hnan
    rw [hg]
    rfl
  case neg =>
    rw [hv]
    exact if_neg hm.ne'

/-- The destination PS2 (R34, R43): the neighbours are what the model's two searches find. -/
theorem convertsTo_ps2 (st : TyCode) (mode : Mode) (x : Nat) : ConvertsTo st .ps2 mode x (convert st .ps2 mode x) := by
  unfold ConvertsTo
  intro v float scale term units inSet canonical weight integer
  change weight
  change _ ∧ _ ∧ _
  have hconv : convert st .ps2 mode x = toPs2 mode v := rfl
  have hterm : ∀ t < 16, term t = ps2Term t := by decide
  have hunits (c : Nat) (hc : c < 256) : units c = ps2Units c :=
    congrArg₂ (· + ·) (hterm (c / 16) (by omega)) (hterm (c % 16) (by omega))
  have hset (q : Nat) : inSet q ↔ InPs2 q := exists_congr fun c => and_congr_right fun hc => by rw [hunits c hc]
  have hcanon (c : Nat) (hc : c < 256) (h : IsPs2Canon c) : canonical c := by
    simp only [canonical, hunits c hc]
    refine ⟨h.zero, h.single, fun h0 hterm => ?_⟩
    have hnot : ¬IsPs2Term (ps2Units c).natAbs := fun ⟨e, he, hq⟩ => hterm e he hq
    obtain ⟨horder, hshift⟩ := h.order h0 hnot
    refine ⟨horder, hshift, fun ⟨z, hz, hzc, hu, hv, hsign⟩ => ?_⟩
    exact h.sum h0 hnot z hz ((hunits z hz).symm.trans hzc) hu hv hsign
  rw [hconv]
  refine ⟨fun hnan => ?nan, fun s hv => by rw [hv]; rfl, fun s m e hv => ?fin⟩
  case nan =>
    obtain ⟨g, hg⟩ := eq_nan_of_isNan hnan
    rw [hg]
    rfl
  case fin =>
    intro a d
    refine ⟨fun ha => by rw [hv]; exact if_pos ha, fun ha => ?_⟩
    obtain ⟨hloIn, hhiIn, hlo, hhi, hnext⟩ := ps2_neighbours (Nat.two_pow_pos _ : 0 < d) ha
    refine ⟨ps2Down (a / d), ps2Up 128 ((a + d - 1) / d), (hset _).mpr hloIn, (hset _).mpr hhiIn, hlo, hhi,
      fun q hq => hnext q ((hset q).mp hq), ?_⟩
    intro mag
    have hmag : InPs2 mag := inPs2_ps2Choice hloIn hhiIn mode s a d
    obtain ⟨c, hc⟩ := Option.isSome_iff_exists.mp ((ps2Canon_isSome_sign s mag).trans (inPs2_iff.mp hmag))
    obtain ⟨hlt, hcu⟩ := ps2Units_of_canon hc
    have hy : toPs2 mode v = (c, if ps2Down (a / d) * d = a then 0 else fNX) := by
      rw [hv, toPs2_within mode s m e ha]
      exact congrArg₂ Prod.mk (congrArg (·.getD 0x77) hc) rfl
    rw [hy]
    exact ⟨hlt, hcanon c hlt (isPs2Canon_of_canon hc), (hunits c hlt).trans hcu, rfl⟩

/-- An integer destination (R44). -/
theorem convertsTo_int {dt : TyCode} (hi : dt.isInt = true) (st : TyCode) (mode : Mode) (x : Nat) :
    ConvertsTo st dt mode x (convert st dt mode x) := by
  unfold ConvertsTo
  intro v float scale term units inSet canonical weight integer
  have hint (hconv : convert st dt mode x = toInt dt.width dt.signed mode v) : integer := by
    change _ ∧ _ ∧ _
    rw [hconv]
    refine ⟨fun hnan => ?nan, fun s hv => by rw [hv]; rfl, fun s m e hv => ?fin⟩
    case nan =>
      obtain ⟨g, hg⟩ := eq_nan_of_isNan hnan
      rw [hg]
      rfl
    case fin =>
      rw [hv, toInt, roundAt_zero]
      simp only [decide_eq_true_eq]
      rfl
  cases dt with
  | s8 | s16 | s32 | s64 | n8 | n16 | n32 | n64 => exact hint rfl
  | f64 | f32 | bf16 | e4m3 | e5m2 | e2m1 | e8m0 | ps2 => cases hi

theorem convertsTo_convert (st dt : TyCode) (mode : Mode) (x : Nat) : ConvertsTo st dt mode x (convert st dt mode x) := by
  cases hf : dt.fmt? with
  | some f => exact convertsTo_float hf st mode x
  | none =>
    cases dt with
    | e8m0 => exact convertsTo_e8m0 st mode x
    | ps2 => exact convertsTo_ps2 st mode x
    | s8 | s16 | s32 | s64 | n8 | n16 | n32 | n64 => exact convertsTo_int rfl st mode x
    | f64 | f32 | bf16 | e4m3 | e5m2 | e2m1 => cases hf

/-- A vector operation from a quiet strand: the active lanes computed, the others kept, the flags of the active ones. -/
theorem issueVec_quiet {s : State} {k : CoreKey} {b : Fin 2} (hq : Quiet s k b) (ft : Foot) (d : VReg) (m : MReg) (p : Level)
    (f : Ctx → Nat → Word × Flags) {lane : Nat → Word × Flags} (hf : f (s.bank k b).ctx = lane) :
    issueVec s ft d m p f = .next (s.ran k b (fun o =>
      (o.deliverV d p (Vector.ofFn fun j => if ((s.bank k b).ctx.mask m.val).getLsbD j.val then (lane j.val).1
        else ((s.bank k b).ctx.vec d.val)[j])).orFlags
        ((List.range 16).foldl (fun o j => if ((s.bank k b).ctx.mask m.val).getLsbD j then o ||| (lane j).2 else o) 0)) none) := by
  subst hf
  rw [issueVec, issueMap_quiet _ _ _ _ _ hq, ran_congr]
  simp only [mapLanes, vget_lane]

/-- VCVT from a quiet strand: every active lane converted. -/
theorem execVcvt_quiet {s : State} {k : CoreKey} {b : Fin 2} (hq : Quiet s k b) (e : VReg) (c : VSrc) (st dt : TyCode) (n : MReg)
    (r : Rnd) {m : Mode} (hm : (s.bank k b).ctx.mode r = m) {lane : Nat → Nat × Flags}
    (hl : ∀ j, convert st dt m ((((s.bank k b).ctx.vec c.val).getD j 0).toNat % 2 ^ st.width) = lane j) :
    execVcvt e c st dt n r s = .next (s.ran k b (fun o =>
      (o.deliverV e .both (Vector.ofFn fun j => if ((s.bank k b).ctx.mask n.val).getLsbD j.val then fitTy dt (lane j.val).1
        else ((s.bank k b).ctx.vec e.val)[j])).orFlags
        ((List.range 16).foldl (fun o j => if ((s.bank k b).ctx.mask n.val).getLsbD j then o ||| (lane j).2 else o) 0)) none) := by
  have hlane : (fun i => cvtWord st dt ((s.bank k b).ctx.mode r) (vget ((s.bank k b).ctx.vec c.val) 0 i)) =
      fun i => (fitTy dt (lane i).1, (lane i).2) := by
    funext i
    rw [cvtWord, hm, vget, hl]
  rw [execVcvt, issueVec_quiet hq _ _ _ _ _ hlane]

/-- Settles O25: both instructions deliver `convert`, which is what the rules give. -/
theorem conversions : Obligations.Conversions := by
  intro s k b d a e c n st dt r hq x m put
  have hmode : x.mode r = m := by cases r <;> rfl
  let lane (j : Nat) := convert st dt m (((x.vec c.val).getD j 0).toNat % 2 ^ st.width)
  refine ⟨⟨convert st dt m ((x.s a.val).toNat % 2 ^ st.width), convertsTo_convert st dt m _, ?fcvt⟩,
    ⟨lane, fun j _ => convertsTo_convert st dt m _, ?vcvt⟩⟩
  case fcvt =>
    rw [← hmode]
    exact issueFp_quiet hq _ d .both fun o => cvtWord st dt (o.mode r) (o.s a.val)
  case vcvt =>
    change execVcvt e c st dt n r s = _
    exact execVcvt_quiet hq e c st dt n r hmode (lane := lane) fun _ => rfl

end Sys2Proof.Machine

/-! What each read of the decoder accepts (R57 to R62): a field passes as the one value that the encoder writes for it. -/

namespace Sys2Proof

open Laws

/-! The monad of the decoder. -/

@[simp] theorem dec_bind_eq_ok {α β : Type} {x : Dec α} {f : α → Dec β} {r : β} :
    (x >>= f) = .ok r ↔ ∃ a, x = .ok a ∧ f a = .ok r := by
  cases x <;> simp [bind, Except.bind]

@[simp] theorem dec_map_eq_ok {α β : Type} {x : Dec α} {f : α → β} {r : β} :
    (f <$> x) = .ok r ↔ ∃ a, x = .ok a ∧ f a = r := by
  cases x <;> simp [Functor.map, Except.map]

@[simp] theorem dec_pure_eq_ok {α : Type} {a r : α} : (pure a : Dec α) = .ok r ↔ a = r := by
  simp [pure, Except.pure]

@[simp] theorem need_eq_ok {b : Bool} {e : Nat} {u : Unit} : need b e = .ok u ↔ b = true := by
  cases b <;> simp [need]

@[simp] theorem zero_eq_ok {n : Nat} {u : Unit} : zero n = .ok u ↔ n = 0 := by simp [zero]

@[simp] theorem code_eq_ok {α : Type} {o : Option α} {a : α} : code o = .ok a ↔ o = some a := by
  cases o <;> simp [code]

@[simp] theorem coded_eq_ok {α : Type} {o : Option α} {u : Unit} : coded o = .ok u ↔ o.isSome = true := by simp [coded]

/-! Register specifiers. -/

/-- A specifier below its bound. -/
theorem dFin_eq_ok {n k e : Nat} {a : Fin k} : (if h : n < k then .ok ⟨n, h⟩ else .error e : Dec (Fin k)) = .ok a ↔ n = a.val := by
  split
  · simp [Fin.ext_iff]
  · simp only [reduceCtorEq, false_iff]
    omega

@[simp] theorem dSreg_eq_ok {n : Nat} {a : SReg} : dSreg n = .ok a ↔ n = a.val := dFin_eq_ok
@[simp] theorem dDreg_eq_ok {n : Nat} {d : DReg} : dDreg n = .ok d ↔ n = d.val := dFin_eq_ok
@[simp] theorem dWreg_eq_ok {n : Nat} {a : WReg} : dWreg n = .ok a ↔ n = a.val := dFin_eq_ok
@[simp] theorem dVsrc_eq_ok {n : Nat} {a : VSrc} : dVsrc n = .ok a ↔ n = a.val := dFin_eq_ok
@[simp] theorem dVreg_eq_ok {n : Nat} {d : VReg} : dVreg n = .ok d ↔ n = d.val := dFin_eq_ok
@[simp] theorem fixS_eq_ok {n : Nat} {u : Unit} : fixS n = .ok u ↔ n < 44 := by simp [fixS]
@[simp] theorem fixD_eq_ok {n : Nat} {u : Unit} : fixD n = .ok u ↔ n < 40 := by simp [fixD]
@[simp] theorem fixV_eq_ok {n : Nat} {u : Unit} : fixV n = .ok u ↔ n < 18 := by simp [fixV]

/-! Codes with reserved values. -/

@[simp] theorem cLevel_eq_some {n : Nat} {p : Level} : cLevel n = some p ↔ n = p.code := by
  unfold cLevel
  split <;> cases p <;> simp_all [Level.code]

@[simp] theorem cRnd_eq_some {n : Nat} {r : Rnd} : cRnd n = some r ↔ n = r.code := by
  unfold cRnd
  split <;> rcases r with (_ | _ | _ | _) | _ <;> simp_all [Rnd.code, Mode.code]

@[simp] theorem cFTy_eq_some {n : Nat} {f : FTy} : cFTy n = some f ↔ n = f.code := by
  unfold cFTy
  split <;> cases f <;> simp_all [FTy.code]

@[simp] theorem cVTy_eq_some {n : Nat} {t : VTy} : cVTy n = some t ↔ n = t.code := by
  unfold cVTy
  split <;> cases t <;> simp_all [VTy.code]

@[simp] theorem cTyCode_eq_some {n : Nat} {t : TyCode} : cTyCode n = some t ↔ n = t.code := by
  unfold cTyCode
  split <;> cases t <;> simp_all [TyCode.code]

@[simp] theorem cScope_eq_some {n : Nat} {s : Scope} : cScope n = some s ↔ n = s.code := by
  unfold cScope
  split <;> cases s <;> simp_all [Scope.code]

@[simp] theorem cFence_eq_some {n : Nat} {k : FenceKind} : cFence n = some k ↔ n = k.code := by
  unfold cFence
  split <;> cases k <;> simp_all [FenceKind.code]

@[simp] theorem cRTy_eq_some {n : Nat} {t : RTy} : cRTy n = some t ↔ n = t.code := by
  unfold cRTy
  split <;> cases t <;> simp_all [RTy.code]

@[simp] theorem dLevel_eq_ok {n d : Nat} {p : Level} : dLevel n d = .ok p ↔ n = p.code ∧ lastOk p d = true := by
  simp [dLevel]

/-! Fields that every value fills: the read gives the value whose code the field holds. -/

theorem fld_lt (w lo len : Nat) : fld w lo len < 2 ^ len := Nat.mod_lt _ (Nat.two_pow_pos _)

@[simp] theorem ofNat_fld_eq_zero {w lo len : Nat} : BitVec.ofNat len (fld w lo len) = 0#len ↔ fld w lo len = 0 := by
  simp [BitVec.toNat_eq, fld]

@[simp] theorem fld_eq_toNat {w lo len : Nat} {v : BitVec len} : fld w lo len = v.toNat ↔ v = BitVec.ofNat len (fld w lo len) := by
  simp [BitVec.toNat_eq, fld, eq_comm]

/-- A field of as many bits as its number needs. -/
theorem fld_eq_val {w lo len n : Nat} [NeZero n] (hn : n = 2 ^ len) {x : Fin n} :
    fld w lo len = x.val ↔ x = Fin.ofNat n (fld w lo len) := by
  subst hn
  simp [Fin.ext_iff, fld, eq_comm]

@[simp] theorem fld_eq_fin2 {w lo : Nat} {x : Fin 2} : fld w lo 1 = x.val ↔ x = Fin.ofNat 2 (fld w lo 1) := fld_eq_val rfl
@[simp] theorem fld_eq_fin4 {w lo : Nat} {x : Fin 4} : fld w lo 2 = x.val ↔ x = Fin.ofNat 4 (fld w lo 2) := fld_eq_val rfl
@[simp] theorem fld_eq_fin8 {w lo : Nat} {x : Fin 8} : fld w lo 3 = x.val ↔ x = Fin.ofNat 8 (fld w lo 3) := fld_eq_val rfl
@[simp] theorem fld_eq_fin16 {w lo : Nat} {x : Fin 16} : fld w lo 4 = x.val ↔ x = Fin.ofNat 16 (fld w lo 4) := fld_eq_val rfl
@[simp] theorem fld_eq_fin32 {w lo : Nat} {x : Fin 32} : fld w lo 5 = x.val ↔ x = Fin.ofNat 32 (fld w lo 5) := fld_eq_val rfl
@[simp] theorem fMreg_eq (n : Nat) : fMreg n = Fin.ofNat 8 n := rfl
@[simp] theorem fLa_eq (n : Nat) : fLa n = Fin.ofNat 16 n := rfl

@[simp] theorem fld_eq_intTy {w lo : Nat} {t : IntTy} : fld w lo 3 = t.code ↔ t = fIntTy (fld w lo 3) :=
  (show ∀ n < 2 ^ 3, n = t.code ↔ t = fIntTy n by cases t <;> decide) _ (fld_lt w lo 3)

@[simp] theorem fld_eq_eWid {w lo : Nat} {e : EWid} : fld w lo 2 = e.code ↔ e = fEWid (fld w lo 2) :=
  (show ∀ n < 2 ^ 2, n = e.code ↔ e = fEWid n by cases e <;> decide) _ (fld_lt w lo 2)

@[simp] theorem fld_eq_mode {w lo : Nat} {m : Mode} : fld w lo 2 = m.code ↔ m = fMode (fld w lo 2) :=
  (show ∀ n < 2 ^ 2, n = m.code ↔ m = fMode n by cases m <;> decide) _ (fld_lt w lo 2)

@[simp] theorem fld_eq_fTy2 {w lo : Nat} {f : FTy2} : fld w lo 1 = f.code ↔ f = fFTy2 (fld w lo 1) :=
  (show ∀ n < 2 ^ 1, n = f.code ↔ f = fFTy2 n by cases f <;> decide) _ (fld_lt w lo 1)

@[simp] theorem fld_eq_aTy {w lo : Nat} {t : ATy} : fld w lo 1 = t.code ↔ t = fATy (fld w lo 1) :=
  (show ∀ n < 2 ^ 1, n = t.code ↔ t = fATy n by cases t <;> decide) _ (fld_lt w lo 1)

/-- HM and HX: a register below 64, an index of the event table from 64 on (R181). -/
@[simp] theorem dEvRef_eq_ok {w lo : Nat} {e : EvRef} : dEvRef (fld w lo 7) = .ok e ↔ fld w lo 7 = e.code := by
  have h := fld_lt w lo 7
  generalize fld w lo 7 = n at *
  unfold dEvRef
  split
  · change (EvRef.reg <$> dSreg n = .ok e) ↔ _
    cases e with
    | reg r => simp [EvRef.code]
    | sym x =>
      simp only [EvRef.code, dec_map_eq_ok, reduceCtorEq, and_false, exists_false, false_iff]
      omega
  · cases e with
    | reg r =>
      simp only [EvRef.code, Except.ok.injEq, reduceCtorEq, false_iff]
      omega
    | sym x =>
      simp only [EvRef.code, Except.ok.injEq, EvRef.sym.injEq, Fin.ext_iff, Fin.val_ofNat]
      omega

/-! The codes fit their fields. -/

@[simp] theorem sreg_lt (a : SReg) : a.val < 64 := by omega
@[simp] theorem dreg_lt (d : DReg) : d.val < 64 := by omega
@[simp] theorem vsrc_lt (a : VSrc) : a.val < 32 := by omega
@[simp] theorem level_lt (p : Level) : p.code < 4 := (level_code_lt p).trans (by decide)
@[simp] theorem rnd_lt (r : Rnd) : r.code < 8 := (rnd_code_lt r).trans (by decide)
@[simp] theorem fTy_lt (f : FTy) : f.code < 4 := (fTy_code_lt f).trans (by decide)
@[simp] theorem vTy_lt (t : VTy) : t.code < 8 := (vTy_code_lt t).trans (by decide)
@[simp] theorem tyCode_lt (t : TyCode) : t.code < 32 := (tyCode_code_lt t).trans (by decide)
@[simp] theorem scope_lt (s : Scope) : s.code < 8 := (scope_code_lt s).trans (by decide)
@[simp] theorem fenceKind_lt (k : FenceKind) : k.code < 4 := (fenceKind_code_lt k).trans (by decide)
@[simp] theorem rTy_lt (t : RTy) : t.code < 16 := (rTy_code_lt t).trans (by decide)
@[simp] theorem intTy_lt (t : IntTy) : t.code < 8 := intTy_code_lt t
@[simp] theorem eWid_lt (e : EWid) : e.code < 4 := eWid_code_lt e
@[simp] theorem fin2_le (x : Fin 2) : x.val ≤ 1 := by omega
@[simp] theorem aTy_le (t : ATy) : t.code ≤ 1 := Nat.le_of_lt_succ (aTy_code_lt t)
@[simp] theorem fTy2_le (f : FTy2) : f.code ≤ 1 := Nat.le_of_lt_succ (fTy2_code_lt f)
@[simp] theorem mode_lt (m : Mode) : m.code < 4 := mode_code_lt m
@[simp] theorem evRef_lt (e : EvRef) : e.code < 128 := evRef_code_lt e
@[simp] theorem bitVec6_lt (x : BitVec 6) : x.toNat < 64 := x.isLt
@[simp] theorem bitVec7_lt (x : BitVec 7) : x.toNat < 128 := x.isLt
@[simp] theorem bitVec11_lt (x : BitVec 11) : x.toNat < 2048 := x.isLt
@[simp] theorem bitVec12_lt (x : BitVec 12) : x.toNat < 4096 := x.isLt
@[simp] theorem bitVec13_lt (x : BitVec 13) : x.toNat < 8192 := x.isLt
@[simp] theorem bitVec17_lt (x : BitVec 17) : x.toNat < 131072 := x.isLt
@[simp] theorem bitVec19_lt (x : BitVec 19) : x.toNat < 524288 := x.isLt

end Sys2Proof

/-! The formats of R57: a word is that of its fields exactly where its reads give them. -/

namespace Sys2Proof

/-- A word of 32 bits with an opcode (R56, R57). -/
def HasOpc (opc w : Nat) : Prop := w < 2 ^ 32 ∧ fld w 25 7 = opc

theorem enR_eq_iff {opc d a b ty sb dl w : Nat} (ho : opc < 128) (hd : d < 64) (ha : a < 64) (hb : b < 64) (hty : ty < 8) (hsb : sb < 4)
    (hdl : dl < 4) :
    enR opc d a b ty sb dl = w ↔ HasOpc opc w ∧ fld w 19 6 = d ∧ fld w 13 6 = a ∧ fld w 7 6 = b ∧ fld w 4 3 = ty ∧ fld w 2 2 = sb ∧
      fld w 0 2 = dl := by
  unfold enR HasOpc fld
  omega

theorem enRf_eq_iff {opc d a b ft rm dl w : Nat} (ho : opc < 128) (hd : d < 64) (ha : a < 64) (hb : b < 64) (hft : ft < 4) (hrm : rm < 8)
    (hdl : dl < 4) :
    enRf opc d a b ft rm dl = w ↔ HasOpc opc w ∧ fld w 19 6 = d ∧ fld w 13 6 = a ∧ fld w 7 6 = b ∧ fld w 5 2 = ft ∧ fld w 2 3 = rm ∧
      fld w 0 2 = dl := by
  unfold enRf HasOpc fld
  omega

theorem enRc_eq_iff {opc d a sf df rm w : Nat} (ho : opc < 128) (hd : d < 64) (ha : a < 64) (hsf : sf < 32) (hdf : df < 32) (hrm : rm < 8) :
    enRc opc d a sf df rm = w ↔ HasOpc opc w ∧ fld w 19 6 = d ∧ fld w 13 6 = a ∧ fld w 8 5 = sf ∧ fld w 3 5 = df ∧ fld w 0 3 = rm := by
  unfold enRc HasOpc fld
  omega

theorem enI_eq_iff {opc d a imm dl w : Nat} (ho : opc < 128) (hd : d < 64) (ha : a < 64) (himm : imm < 2048) (hdl : dl < 4) :
    enI opc d a imm dl = w ↔ HasOpc opc w ∧ fld w 19 6 = d ∧ fld w 13 6 = a ∧ fld w 2 11 = imm ∧ fld w 0 2 = dl := by
  unfold enI HasOpc fld
  omega

theorem enIw_eq_iff {opc d imm dl w : Nat} (ho : opc < 128) (hd : d < 64) (himm : imm < 131072) (hdl : dl < 4) :
    enIw opc d imm dl = w ↔ HasOpc opc w ∧ fld w 19 6 = d ∧ fld w 2 17 = imm ∧ fld w 0 2 = dl := by
  unfold enIw HasOpc fld
  omega

theorem enM_eq_iff {d b lw off la w : Nat} (hd : d < 64) (hb : b < 32) (hlw : lw < 8) (hoff : off < 128) (hla : la < 16) :
    enM d b lw off la = w ↔ HasOpc 0x29 w ∧ fld w 19 6 = d ∧ fld w 14 5 = b ∧ fld w 11 3 = lw ∧ fld w 4 7 = off ∧ fld w 0 4 = la := by
  unfold enM HasOpc fld
  omega

theorem enMa_eq_iff {opc d rb ba ty sc la w : Nat} (ho : opc < 128) (hd : d < 64) (hrb : rb < 64) (hba : ba < 32) (hty : ty < 2)
    (hsc : sc < 8) (hla : la < 16) :
    enMa opc d rb ba ty sc la = w ↔ HasOpc opc w ∧ fld w 19 6 = d ∧ fld w 13 6 = rb ∧ fld w 8 5 = ba ∧ fld w 7 1 = ty ∧ fld w 4 3 = sc ∧
      fld w 0 4 = la := by
  unfold enMa HasOpc fld
  omega

theorem enMv_eq_iff {opc d ew ba x mk la w : Nat} (ho : opc < 128) (hd : d < 16) (hew : ew < 4) (hba : ba < 32) (hx : x < 64)
    (hmk : mk < 8) (hla : la < 16) :
    enMv opc d ew ba x mk la = w ↔ HasOpc opc w ∧ fld w 21 4 = d ∧ fld w 19 2 = ew ∧ fld w 14 5 = ba ∧ fld w 8 6 = x ∧ fld w 5 3 = mk ∧
      fld w 4 1 = 0 ∧ fld w 0 4 = la := by
  unfold enMv HasOpc fld
  omega

theorem enS_eq_iff {s ba sw off w : Nat} (hs : s < 64) (hba : ba < 32) (hsw : sw < 4) (hoff : off < 4096) :
    enS s ba sw off = w ↔ HasOpc 0x2A w ∧ fld w 19 6 = s ∧ fld w 14 5 = ba ∧ fld w 12 2 = sw ∧ fld w 0 12 = off := by
  unfold enS HasOpc fld
  omega

theorem enSv_eq_iff {opc s ew ba x mk w : Nat} (ho : opc < 128) (hs : s < 32) (hew : ew < 4) (hba : ba < 32) (hx : x < 64) (hmk : mk < 8) :
    enSv opc s ew ba x mk = w ↔ HasOpc opc w ∧ fld w 20 5 = s ∧ fld w 18 2 = ew ∧ fld w 13 5 = ba ∧ fld w 7 6 = x ∧ fld w 4 3 = mk ∧
      fld w 0 4 = 0 := by
  unfold enSv HasOpc fld
  omega

theorem enIs_eq_iff {opc a fn arg w : Nat} (ho : opc < 128) (ha : a < 64) (hfn : fn < 8) (harg : arg < 64) :
    enIs opc a fn arg = w ↔ HasOpc opc w ∧ fld w 19 6 = 0 ∧ fld w 13 6 = a ∧ fld w 8 5 = fn ∧ fld w 2 6 = arg ∧ fld w 0 2 = 0 := by
  unfold enIs HasOpc fld
  omega

theorem enB_eq_iff {opc a b disp w : Nat} (ho : opc < 128) (ha : a < 64) (hb : b < 64) (hdisp : disp < 8192) :
    enB opc a b disp = w ↔ HasOpc opc w ∧ fld w 19 6 = a ∧ fld w 13 6 = b ∧ fld w 0 13 = disp := by
  unfold enB HasOpc fld
  omega

theorem enBz_eq_iff {opc a disp w : Nat} (ho : opc < 128) (ha : a < 64) (hdisp : disp < 524288) :
    enBz opc a disp = w ↔ HasOpc opc w ∧ fld w 19 6 = a ∧ fld w 0 19 = disp := by
  unfold enBz HasOpc fld
  omega

theorem enBm_eq_iff {opc m disp w : Nat} (ho : opc < 128) (hm : m < 8) (hdisp : disp < 524288) :
    enBm opc m disp = w ↔ HasOpc opc w ∧ fld w 22 3 = m ∧ fld w 19 3 = 0 ∧ fld w 0 19 = disp := by
  unfold enBm HasOpc fld
  omega

theorem enL_eq_iff {opc d a b f la w : Nat} (ho : opc < 128) (hd : d < 64) (ha : a < 64) (hb : b < 64) (hf : f < 8) (hla : la < 16) :
    enL opc d a b f la = w ↔ HasOpc opc w ∧ fld w 19 6 = d ∧ fld w 13 6 = a ∧ fld w 7 6 = b ∧ fld w 4 3 = f ∧ fld w 0 4 = la := by
  unfold enL HasOpc fld
  omega

theorem enV_eq_iff {opc d a b mk vt rm dl w : Nat} (ho : opc < 128) (hd : d < 16) (ha : a < 32) (hb : b < 32) (hmk : mk < 8)
    (hvt : vt < 8) (hrm : rm < 8) (hdl : dl < 4) :
    enV opc d a b mk vt rm dl = w ↔ HasOpc opc w ∧ fld w 21 4 = d ∧ fld w 16 5 = a ∧ fld w 11 5 = b ∧ fld w 8 3 = mk ∧ fld w 5 3 = vt ∧
      fld w 2 3 = rm ∧ fld w 0 2 = dl := by
  unfold enV HasOpc fld
  omega

theorem enVl_eq_iff {opc d a b mk ft rm la w : Nat} (ho : opc < 128) (hd : d < 16) (ha : a < 32) (hb : b < 32) (hmk : mk < 8)
    (hft : ft < 2) (hrm : rm < 8) (hla : la < 16) :
    enVl opc d a b mk ft rm la = w ↔ HasOpc opc w ∧ fld w 21 4 = d ∧ fld w 16 5 = a ∧ fld w 11 5 = b ∧ fld w 8 3 = mk ∧ fld w 7 1 = ft ∧
      fld w 4 3 = rm ∧ fld w 0 4 = la := by
  unfold enVl HasOpc fld
  omega

theorem enVs_eq_iff {opc sr vr ln mk vt op dl w : Nat} (ho : opc < 128) (hsr : sr < 64) (hvr : vr < 32) (hln : ln < 16) (hmk : mk < 8)
    (hvt : vt < 8) (hop : op < 4) (hdl : dl < 4) :
    enVs opc sr vr ln mk vt op dl = w ↔ HasOpc opc w ∧ fld w 19 6 = sr ∧ fld w 14 5 = vr ∧ fld w 10 4 = ln ∧ fld w 7 3 = mk ∧
      fld w 4 3 = vt ∧ fld w 2 2 = op ∧ fld w 0 2 = dl := by
  unfold enVs HasOpc fld
  omega

theorem enVc_eq_iff {d a sf df mk rm w : Nat} (hd : d < 16) (ha : a < 32) (hsf : sf < 32) (hdf : df < 32) (hmk : mk < 8) (hrm : rm < 8) :
    enVc d a sf df mk rm = w ↔ HasOpc 0x56 w ∧ fld w 21 4 = d ∧ fld w 16 5 = a ∧ fld w 11 5 = sf ∧ fld w 6 5 = df ∧ fld w 3 3 = mk ∧
      fld w 0 3 = rm := by
  unfold enVc HasOpc fld
  omega

theorem enVm_eq_iff {opc d ma mb mf dl w : Nat} (ho : opc < 128) (hd : d < 64) (hma : ma < 8) (hmb : mb < 8) (hmf : mf < 4) (hdl : dl < 4) :
    enVm opc d ma mb mf dl = w ↔ HasOpc opc w ∧ fld w 19 6 = d ∧ fld w 16 3 = ma ∧ fld w 13 3 = mb ∧ fld w 11 2 = mf ∧ fld w 2 9 = 0 ∧
      fld w 0 2 = dl := by
  unfold enVm HasOpc fld
  omega

theorem enV4_eq_iff {ng rm d a b c mk dl ft w : Nat} (hng : ng < 2) (hrm : rm < 4) (hd : d < 16) (ha : a < 32) (hb : b < 32)
    (hc : c < 32) (hmk : mk < 8) (hdl : dl < 4) (hft : ft < 2) :
    enV4 ng rm d a b c mk dl ft = w ↔ HasOpc (0x78 + ng * 4 + rm) w ∧ fld w 25 2 = rm ∧ fld w 21 4 = d ∧ fld w 16 5 = a ∧ fld w 11 5 = b ∧
      fld w 6 5 = c ∧ fld w 3 3 = mk ∧ fld w 1 2 = dl ∧ fld w 0 1 = ft := by
  unfold enV4 HasOpc fld
  omega

theorem enX_eq_iff {s d a b la w : Nat} (hs : s < 8) (hd : d < 64) (ha : a < 64) (hb : b < 64) (hla : la < 16) :
    enX s d a b la = w ↔ HasOpc 0x5D w ∧ fld w 22 3 = s ∧ fld w 16 6 = d ∧ fld w 10 6 = a ∧ fld w 4 6 = b ∧ fld w 0 4 = la := by
  unfold enX HasOpc fld
  omega

theorem enXc_eq_iff {opc s b la w : Nat} (ho : opc < 128) (hs : s < 8) (hb : b < 32) (hla : la < 16) :
    enXc opc s b la = w ↔ HasOpc opc w ∧ fld w 22 3 = s ∧ fld w 17 5 = b ∧ fld w 4 13 = 0 ∧ fld w 0 4 = la := by
  unfold enXc HasOpc fld
  omega

theorem enE_eq_iff {opc d h a f w : Nat} (ho : opc < 128) (hd : d < 64) (hh : h < 128) (ha : a < 64) (hf : f < 64) :
    enE opc d h a f = w ↔ HasOpc opc w ∧ fld w 19 6 = d ∧ fld w 12 7 = h ∧ fld w 6 6 = a ∧ fld w 0 6 = f := by
  unfold enE HasOpc fld
  omega

theorem enEf_eq_iff {opc da sa ln sg f w : Nat} (ho : opc < 128) (hda : da < 32) (hsa : sa < 32) (hln : ln < 64) (hsg : sg < 32)
    (hf : f < 16) :
    enEf opc da sa ln sg f = w ↔ HasOpc opc w ∧ fld w 20 5 = da ∧ fld w 15 5 = sa ∧ fld w 9 6 = ln ∧ fld w 4 5 = sg ∧ fld w 0 4 = f := by
  unfold enEf HasOpc fld
  omega

theorem enXe_eq_iff {opc x ng a b c f la w : Nat} (ho : opc < 128) (hx : x < 2) (hng : ng < 2) (ha : a < 64) (hb : b < 64) (hc : c < 64)
    (hf : f < 2) (hla : la < 16) :
    enXe opc x ng a b c f la = w ↔ HasOpc opc w ∧ fld w 24 1 = x ∧ fld w 23 1 = ng ∧ fld w 17 6 = a ∧ fld w 11 6 = b ∧ fld w 5 6 = c ∧
      fld w 4 1 = f ∧ fld w 0 4 = la := by
  unfold enXe HasOpc fld
  omega

end Sys2Proof

/-! What each decoder accepts: the words of its format that the encoder writes, and no other (R57, R66, R67). Both sides of each statement are the same reads and checks, the decoder's in its own order and the format's in that of the word; `simp` brings them into one order (and_left_comm, and exists_and_left from right to left). Where an entry fixes a field that is first checked for reserved values (log 46), the cases of that field come before. -/

namespace Sys2Proof

variable {opc w : Nat} {i : Instr}

theorem decR_iff {root : Option (DReg → SReg → SReg → IntTy → Level → Instr)} {allow : IntTy → Bool} (ho : opc < 128) : HasOpc opc w ∧
    decR w root allow = .ok i ↔
    ∃ (d : DReg) (a b : SReg) (f : DReg → SReg → SReg → IntTy → Level → Instr) (t : IntTy) (sb : Fin 4) (p : Level),
      enR opc d.val a.val b.val t.code sb.val p.code = w ∧
      allow t = true ∧ lastOk p d.val = true ∧ root = some f ∧ f d a b t p = i := by
  simp [decR, enR_eq_iff, ho, and_assoc, and_left_comm, ← exists_and_left]

theorem decBits_iff {root : Option (DReg → SReg → IntTy → Level → Instr)} (ho : opc < 128) : HasOpc opc w ∧ decBits w root = .ok i ↔
    ∃ (d : DReg) (a : SReg) (f : DReg → SReg → IntTy → Level → Instr) (t : IntTy) (sb : Fin 4) (p : Level),
      enR opc d.val a.val 0 t.code sb.val p.code = w ∧
      lastOk p d.val = true ∧ root = some f ∧ f d a t p = i := by
  by_cases h0 : fld w 7 6 = 0 <;> simp [decBits, enR_eq_iff, ho, h0, and_assoc, and_left_comm, ← exists_and_left]

theorem decSel_iff : (HasOpc 7 w ∧ fld w 2 2 = 2) ∧ decSel w = .ok i ↔
    ∃ (d : DReg) (a b : SReg) (p : Level), enR 7 d.val a.val b.val 3 2 p.code = w ∧ notLast p = true ∧ .sel d a b p = i := by
  simp [decSel, enR_eq_iff, and_assoc, and_left_comm, ← exists_and_left]

theorem decLea_iff {f : DReg → SReg → SReg → Level → Instr} (ho : opc < 128) : HasOpc opc w ∧ decLea w f = .ok i ↔
    ∃ (d : DReg) (a b : SReg) (sb : Fin 4) (p : Level), enR opc d.val a.val b.val 3 sb.val p.code = w ∧ lastOk p d.val = true ∧
      f d a b p = i := by
  simp [decLea, enR_eq_iff, ho, and_assoc, and_left_comm, ← exists_and_left]

theorem decChk_iff : HasOpc 15 w ∧ decChk w = .ok i ↔
    ∃ a b : SReg, enR 15 0 a.val b.val 3 0 0 = w ∧ .chk a b = i := by
  have h4 : fld w 0 4 = 0 ↔ fld w 2 2 = 0 ∧ fld w 0 2 = 0 := by unfold fld; omega
  by_cases h0 : fld w 19 6 = 0 <;> by_cases h1 : fld w 0 2 = 0 <;> simp [decChk, enR_eq_iff, h4, cLevel, h0, h1, and_assoc, and_left_comm,
    ← exists_and_left]

theorem decI_iff {f : DReg → SReg → BitVec 11 → Level → Instr} (ho : opc < 128) : HasOpc opc w ∧ decI w f = .ok i ↔
    ∃ (d : DReg) (a : SReg) (m : BitVec 11) (p : Level), enI opc d.val a.val m.toNat p.code = w ∧ lastOk p d.val = true ∧
      f d a m p = i := by
  simp [decI, enI_eq_iff, ho, and_assoc]

theorem decIw_iff {f : DReg → BitVec 17 → Level → Instr} (ho : opc < 128) : HasOpc opc w ∧ decIw w f = .ok i ↔
    ∃ (d : DReg) (m : BitVec 17) (p : Level), enIw opc d.val m.toNat p.code = w ∧ lastOk p d.val = true ∧ f d m p = i := by
  simp [decIw, enIw_eq_iff, ho, and_assoc]

theorem decL_iff {f : DReg → SReg → SReg → La → Instr} (ho : opc < 128) : HasOpc opc w ∧ decL w f = .ok i ↔
    ∃ (d : DReg) (a b : SReg) (n : Fin 8) (h : La), enL opc d.val a.val b.val n.val h.val = w ∧ f d a b h = i := by
  simp [decL, enL_eq_iff, ho, and_assoc]

theorem decFsqrt_iff : HasOpc 17 w ∧ decFsqrt w = .ok i ↔
    ∃ (d : DReg) (a : SReg) (f : FTy) (r : Rnd) (h : La), enL 17 d.val a.val (f.code * 16 + r.code * 2) 0 h.val = w ∧
      .fsqrt d a f r h = i := by
  have hlt (f : FTy) (r : Rnd) : f.code * 16 + r.code * 2 < 64 := by
    have := fTy_lt f
    have := rnd_lt r
    omega
  have hsplit (f : FTy) (r : Rnd) : fld w 7 6 = f.code * 16 + r.code * 2 ↔ fld w 11 2 = f.code ∧ fld w 8 3 = r.code ∧ fld w 7 1 = 0 := by
    have := fTy_lt f
    have := rnd_lt r
    unfold fld
    omega
  simp [decFsqrt, enL_eq_iff, hsplit, hlt, and_assoc, and_left_comm, ← exists_and_left]

theorem decFdiv_iff {t : FTy2} (ho : opc < 128) : HasOpc opc w ∧ decFdiv w t = .ok i ↔
    ∃ (d : DReg) (a b : SReg) (r : Rnd) (h : La), enL opc d.val a.val b.val r.code h.val = w ∧ .fdiv d a b t r h = i := by
  cases hr : cRnd (fld w 4 3) <;>
    simp [decFdiv, enL_eq_iff, ho, hr, ← cRnd_eq_some (n := fld w 4 3), and_assoc, and_left_comm, ← exists_and_left]

theorem decHalloc_iff : HasOpc 21 w ∧ decHalloc w = .ok i ↔
    ∃ (d : DReg) (a b : SReg) (h : La), enL 21 d.val a.val b.val 0 h.val = w ∧ .halloc d a b h = i := by
  simp [decHalloc, enL_eq_iff, and_assoc]

theorem decHfree_iff : HasOpc 22 w ∧ decHfree w = .ok i ↔
    ∃ (a b : SReg) (h : La), enL 22 0 a.val b.val 0 h.val = w ∧ .hfree a b h = i := by
  simp [decHfree, enL_eq_iff, and_assoc, and_left_comm, ← exists_and_left]

theorem decFoldmark_iff : HasOpc 23 w ∧ decFoldmark w = .ok i ↔
    ∃ (a : SReg) (h : La), enL 23 0 a.val 0 0 h.val = w ∧ .foldmark a h = i := by
  simp [decFoldmark, enL_eq_iff, and_assoc, and_left_comm, ← exists_and_left]

theorem decB_iff {f : SReg → SReg → BitVec 13 → Instr} (ho : opc < 128) : HasOpc opc w ∧ decB w f = .ok i ↔
    ∃ (a b : SReg) (o : BitVec 13), enB opc a.val b.val o.toNat = w ∧ f a b o = i := by
  simp [decB, enB_eq_iff, ho, and_assoc]

theorem decBz_iff {f : SReg → BitVec 19 → Instr} (ho : opc < 128) : HasOpc opc w ∧ decBz w f = .ok i ↔
    ∃ (a : SReg) (o : BitVec 19), enBz opc a.val o.toNat = w ∧ f a o = i := by
  simp [decBz, enBz_eq_iff, ho, and_assoc]

theorem decJr_iff : HasOpc 0x22 w ∧ decJr w = .ok i ↔
    ∃ a : SReg, enBz 0x22 a.val 0 = w ∧ (if a.val = 31 then .ret else .jr a) = i := by
  simp [decJr, enBz_eq_iff, and_assoc]

theorem decCallr_iff : HasOpc 0x23 w ∧ decCallr w = .ok i ↔
    ∃ a : SReg, enBz 0x23 a.val 0 = w ∧ .callr a = i := by
  simp [decCallr, enBz_eq_iff, and_assoc]

theorem decLoop_iff : HasOpc 0x24 w ∧ decLoop w = .ok i ↔
    ∃ (a : SReg) (n : BitVec 12), enBz 0x24 a.val (n.toNat * 128) = w ∧ n ≠ 0 ∧ .loop a n = i := by
  have hlt (n : BitVec 12) : n.toNat * 128 < 524288 := by omega
  have hsplit (n : BitVec 12) : fld w 0 19 = n.toNat * 128 ↔ fld w 7 12 = n.toNat ∧ fld w 0 7 = 0 := by unfold fld; omega
  simp [decLoop, enBz_eq_iff, hlt, hsplit, and_assoc, and_left_comm, ← exists_and_left]

theorem decLoopi_iff : HasOpc 0x25 w ∧ decLoopi w = .ok i ↔
    ∃ (a : WReg) (b c : SReg) (n : BitVec 7), enB 0x25 a.val b.val (c.val * 128 + n.toNat) = w ∧ a ≠ 0 ∧ n ≠ 0 ∧ .loopi a b c n = i := by
  have hw (a : WReg) : a.val < 64 := by omega
  have hlt (c : SReg) (n : BitVec 7) : c.val * 128 + n.toNat < 8192 := by omega
  have hsplit (c : SReg) (n : BitVec 7) : fld w 0 13 = c.val * 128 + n.toNat ↔ fld w 7 6 = c.val ∧
    fld w 0 7 = n.toNat := by unfold fld; omega
  simp [decLoopi, enB_eq_iff, hlt, hsplit, hw, and_assoc, and_left_comm, ← exists_and_left]

theorem decRds_iff : HasOpc 0x27 w ∧ decRds w = .ok i ↔
    ∃ (d : DReg) (m : BitVec 11) (p : Level), enI 0x27 d.val 0 m.toNat p.code = w ∧ Instr.wf.sysNumber m.toNat = true ∧
      lastOk p d.val = true ∧ .rds d m p = i := by
  have hmod : fld w 2 11 % 2048 = fld w 2 11 := Nat.mod_eq_of_lt (fld_lt w 2 11)
  by_cases h0 : fld w 13 6 = 0 <;> simp [decRds, enI_eq_iff, hmod, h0, and_assoc, and_left_comm, ← exists_and_left]

theorem decWrs_iff : HasOpc 0x28 w ∧ decWrs w = .ok i ↔
    ∃ (a : SReg) (m : BitVec 11), enI 0x28 0 a.val m.toNat 0 = w ∧ Instr.wf.sysWritable m.toNat = true ∧ .wrs a m = i := by
  have hmod : fld w 2 11 % 2048 = fld w 2 11 := Nat.mod_eq_of_lt (fld_lt w 2 11)
  by_cases h0 : fld w 19 6 = 0 <;> by_cases h1 : fld w 0 2 = 0 <;> simp [decWrs, enI_eq_iff, cLevel, hmod, h0, h1, and_assoc,
    and_left_comm, ← exists_and_left]

theorem decVld_iff : HasOpc 0x2B w ∧ decVld w = .ok i ↔
    ∃ (d : VReg) (e : EWid) (b : WReg) (x : BitVec 6) (k : MReg) (h : La), enMv 0x2B d.val e.code b.val x.toNat k.val h.val = w ∧
      .vld d e b x k h = i := by
  simp [decVld, enMv_eq_iff, and_assoc]

theorem decVlds_iff : HasOpc 0x2C w ∧ decVlds w = .ok i ↔
    ∃ (d : VReg) (e : EWid) (b : WReg) (x : SReg) (k : MReg) (h : La), enMv 0x2C d.val e.code b.val x.val k.val h.val = w ∧
      .vlds d e b x k h = i := by
  simp [decVlds, enMv_eq_iff, and_assoc]

theorem decVldx_iff : HasOpc 0x2D w ∧ decVldx w = .ok i ↔
    ∃ (d : VReg) (e : EWid) (b : WReg) (x : VSrc) (k : MReg) (h : La), enMv 0x2D d.val e.code b.val x.val k.val h.val = w ∧
      .vldx d e b x k h = i := by
  have hlt (x : VSrc) : x.val < 64 := by omega
  have hsplit (x : VSrc) : fld w 8 6 = x.val ↔ fld w 8 5 = x.val ∧ fld w 13 1 = 0 := by unfold fld; omega
  simp [decVldx, enMv_eq_iff, hlt, hsplit, and_assoc, and_left_comm, ← exists_and_left]

theorem decVst_iff : HasOpc 0x2E w ∧ decVst w = .ok i ↔
    ∃ (s : VSrc) (e : EWid) (b : WReg) (x : BitVec 6) (k : MReg), enSv 0x2E s.val e.code b.val x.toNat k.val = w ∧ .vst s e b x k = i := by
  simp [decVst, enSv_eq_iff, and_assoc]

theorem decVstx_iff : HasOpc 0x2F w ∧ decVstx w = .ok i ↔
    ∃ (s : VSrc) (e : EWid) (b : WReg) (x : VSrc) (k : MReg), enSv 0x2F s.val e.code b.val x.val k.val = w ∧ .vstx s e b x k = i := by
  have hlt (x : VSrc) : x.val < 64 := by omega
  have hsplit (x : VSrc) : fld w 7 6 = x.val ↔ fld w 7 5 = x.val ∧ fld w 12 1 = 0 := by unfold fld; omega
  simp [decVstx, enSv_eq_iff, hlt, hsplit, and_assoc, and_left_comm, ← exists_and_left]

theorem decMa_iff {f : DReg → SReg → WReg → ATy → Scope → La → Instr} (ho : opc < 128) : HasOpc opc w ∧ decMa w f = .ok i ↔
    ∃ (d : DReg) (c : SReg) (b : WReg) (t : ATy) (s : Scope) (h : La), enMa opc d.val c.val b.val t.code s.code h.val = w ∧
      f d c b t s h = i := by
  simp [decMa, enMa_eq_iff, ho, and_assoc]

theorem decAfadd_iff : HasOpc 53 w ∧ decAfadd w = .ok i ↔
    ∃ (d : DReg) (c : SReg) (b : WReg) (t : FTy2) (s : Scope) (h : La), enMa 53 d.val c.val b.val t.code s.code h.val = w ∧
      .afadd d c b t s h = i := by
  simp [decAfadd, enMa_eq_iff, and_assoc]

theorem decAfaddDet_iff : HasOpc 0x36 w ∧ decAfaddDet w = .ok i ↔
    ∃ (d : DReg) (c : SReg) (b : WReg) (t : FTy2) (h : La), enMa 0x36 d.val c.val b.val t.code 5 h.val = w ∧ .afaddDet d c b t h = i := by
  simp [decAfaddDet, enMa_eq_iff, and_assoc]

theorem decRf_iff {f : DReg → SReg → SReg → FTy → Rnd → Level → Instr} (ho : opc < 128) : HasOpc opc w ∧ decRf w f = .ok i ↔
    ∃ (d : DReg) (a b : SReg) (t : FTy) (r : Rnd) (p : Level), enRf opc d.val a.val b.val t.code r.code p.code = w ∧
      lastOk p d.val = true ∧ f d a b t r p = i := by
  simp [decRf, enRf_eq_iff, ho, and_assoc]

theorem decFfma_iff {f : DReg → SReg → SReg → FTy → Rnd → Level → Instr} (ho : opc < 128) : HasOpc opc w ∧ decFfma w f = .ok i ↔
    ∃ (d : DReg) (a b : SReg) (t : FTy) (r : Rnd) (p : Level), enRf opc d.val a.val b.val t.code r.code p.code = w ∧ notLast p = true ∧
      f d a b t r p = i := by
  simp [decFfma, enRf_eq_iff, ho, and_assoc]

theorem decRfSel_iff {root : Option (DReg → SReg → SReg → FTy → Level → Instr)} (ho : opc < 128) : HasOpc opc w ∧ decRfSel w root = .ok i ↔
    ∃ (d : DReg) (a b : SReg) (f : DReg → SReg → SReg → FTy → Level → Instr) (t : FTy) (rm : Fin 8) (p : Level),
      enRf opc d.val a.val b.val t.code rm.val p.code = w ∧
      lastOk p d.val = true ∧ root = some f ∧ f d a b t p = i := by
  simp [decRfSel, enRf_eq_iff, ho, and_assoc, and_left_comm, ← exists_and_left]

theorem decFclass_iff : HasOpc 0x3F w ∧ decFclass w = .ok i ↔
    ∃ (d : DReg) (a : SReg) (t : FTy) (p : Level), enRf 0x3F d.val a.val 0 t.code 0 p.code = w ∧ lastOk p d.val = true ∧
      .fclass d a t p = i := by
  by_cases h0 : fld w 7 6 = 0 <;> by_cases h1 : fld w 2 3 = 0 <;> simp [decFclass, enRf_eq_iff, cRnd, h0, h1, and_assoc, and_left_comm,
    ← exists_and_left]

theorem decFcvt_iff : HasOpc 0x41 w ∧ decFcvt w = .ok i ↔
    ∃ (d : DReg) (a : SReg) (s t : TyCode) (r : Rnd), enRc 0x41 d.val a.val s.code t.code r.code = w ∧ .fcvt d a s t r = i := by
  simp [decFcvt, enRc_eq_iff, and_assoc]

theorem decMpop_iff : HasOpc 0x43 w ∧ decMpop w = .ok i ↔
    ∃ (d : DReg) (a : MReg) (p : Level), enVm 0x43 d.val a.val 0 0 p.code = w ∧ lastOk p d.val = true ∧ .mpop d a p = i := by
  have hsplit : fld w 2 14 = 0 ↔ fld w 13 3 = 0 ∧ fld w 11 2 = 0 ∧ fld w 2 9 = 0 := by unfold fld; omega
  simp [decMpop, enVm_eq_iff, hsplit, and_assoc, and_left_comm, ← exists_and_left]

theorem decBm_iff {f : MReg → BitVec 19 → Instr} (ho : opc < 128) : HasOpc opc w ∧ decBm w f = .ok i ↔
    ∃ (m : MReg) (o : BitVec 19), enBm opc m.val o.toNat = w ∧ f m o = i := by
  simp [decBm, enBm_eq_iff, ho, and_assoc]

theorem decV_iff {f : VReg → VSrc → VSrc → MReg → VTy → Rnd → Level → Instr} (ho : opc < 128) : HasOpc opc w ∧ decV w f = .ok i ↔
    ∃ (d : VReg) (a b : VSrc) (k : MReg) (t : VTy) (r : Rnd) (p : Level), enV opc d.val a.val b.val k.val t.code r.code p.code = w ∧
      rndOk t r = true ∧ lastOk p d.val = true ∧ f d a b k t r p = i := by
  simp [decV, enV_eq_iff, ho, and_assoc, and_left_comm, ← exists_and_left]

theorem decVSel_iff {root : Option (VReg → VSrc → VSrc → MReg → VTy → Level → Instr)} {allow : VTy → Bool}
    (ho : opc < 128) : HasOpc opc w ∧ decVSel w root allow = .ok i ↔
    ∃ (d : VReg) (a b : VSrc) (k : MReg) (f : VReg → VSrc → VSrc → MReg → VTy → Level → Instr) (t : VTy) (rm : Fin 8) (p : Level),
      enV opc d.val a.val b.val k.val t.code rm.val p.code = w ∧
      allow t = true ∧ lastOk p d.val = true ∧ root = some f ∧ f d a b k t p = i := by
  simp [decVSel, enV_eq_iff, ho, and_assoc, and_left_comm, ← exists_and_left]

theorem decVcmp_iff {root : Option (MReg → VSrc → VSrc → MReg → VTy → Instr)} {un : Bool} (ho : opc < 128) : HasOpc opc w ∧
    decVcmp w root un = .ok i ↔
    ∃ (d : MReg) (a b : VSrc) (k : MReg) (f : MReg → VSrc → VSrc → MReg → VTy → Instr) (t : VTy) (rm : Fin 8),
      enV opc d.val a.val b.val k.val t.code rm.val 0 = w ∧
      (!un || !t.isInt) = true ∧ root = some f ∧ f d a b k t = i := by
  have hlt (d : MReg) : d.val < 16 := by omega
  have hsplit (d : MReg) : fld w 21 4 = d.val ↔ fld w 24 1 = 0 ∧ fld w 21 3 = d.val := by unfold fld; omega
  by_cases h0 : fld w 0 2 = 0 <;> simp [decVcmp, enV_eq_iff, ho, hlt, hsplit, cLevel, h0, and_assoc, and_left_comm, ← exists_and_left]

theorem decVMove_iff {f : VReg → VSrc → VSrc → MReg → Level → Instr} (ho : opc < 128) : HasOpc opc w ∧ decVMove w f = .ok i ↔
    ∃ (d : VReg) (a b : VSrc) (k : MReg) (p : Level), enV opc d.val a.val b.val k.val 2 0 p.code = w ∧ lastOk p d.val = true ∧
      f d a b k p = i := by
  by_cases h0 : fld w 5 3 = 2 <;> simp [decVMove, enV_eq_iff, ho, cVTy, h0, and_assoc, and_left_comm, ← exists_and_left]

theorem decVsign_iff {root : Option (VReg → VSrc → MReg → VTy → Level → Instr)} (ho : opc < 128) : HasOpc opc w ∧ decVsign w root = .ok i ↔
    ∃ (d : VReg) (a : VSrc) (k : MReg) (f : VReg → VSrc → MReg → VTy → Level → Instr) (t : VTy) (rm : Fin 8) (p : Level),
      enV opc d.val a.val 0 k.val t.code rm.val p.code = w ∧
      t.hasSign = true ∧ lastOk p d.val = true ∧ root = some f ∧ f d a k t p = i := by
  by_cases h0 : fld w 11 5 = 0 <;> simp [decVsign, enV_eq_iff, ho, h0, and_assoc, and_left_comm, ← exists_and_left]

theorem decViota_iff : HasOpc 0x59 w ∧ decViota w = .ok i ↔
    ∃ (d : VReg) (k : MReg) (t : VTy) (p : Level), enV 0x59 d.val 0 0 k.val t.code 0 p.code = w ∧ lastOk p d.val = true ∧
      .viota d k t p = i := by
  have hsplit : fld w 11 10 = 0 ↔ fld w 16 5 = 0 ∧ fld w 11 5 = 0 := by unfold fld; omega
  by_cases h0 : fld w 16 5 = 0 <;> by_cases h1 : fld w 11 5 = 0 <;> simp [decViota, enV_eq_iff, hsplit, h0, h1, and_assoc, and_left_comm,
    ← exists_and_left]

theorem decVdiv_iff : HasOpc 0x4B w ∧ decVdiv w = .ok i ↔
    ∃ (d : VReg) (a b : VSrc) (k : MReg) (f : FTy2) (r : Rnd) (h : La), enVl 0x4B d.val a.val b.val k.val f.code r.code h.val = w ∧
      .vdiv d a b k f r h = i := by
  simp [decVdiv, enVl_eq_iff, and_assoc]

theorem decVsqrt_iff : HasOpc 0x57 w ∧ decVsqrt w = .ok i ↔
    ∃ (d : VReg) (a : VSrc) (k : MReg) (f : FTy2) (r : Rnd) (h : La), enVl 0x57 d.val a.val 0 k.val f.code r.code h.val = w ∧
      .vsqrt d a k f r h = i := by
  by_cases h0 : fld w 11 5 = 0 <;> simp [decVsqrt, enVl_eq_iff, h0, and_assoc, and_left_comm, ← exists_and_left]

theorem decVbcast_iff : HasOpc 0x51 w ∧ decVbcast w = .ok i ↔
    ∃ (s : SReg) (v : VReg) (k : MReg) (t : VTy) (p : Level), enVs 0x51 s.val v.val 0 k.val t.code 0 p.code = w ∧ lastOk p v.val = true ∧
      .vbcast s v k t p = i := by
  have hw (v : VReg) : v.val < 32 := by omega
  by_cases h0 : fld w 2 2 = 0 <;> simp [decVbcast, enVs_eq_iff, hw, h0, and_assoc, and_left_comm, ← exists_and_left]

theorem decVext_iff : HasOpc 0x52 w ∧ decVext w = .ok i ↔
    ∃ (s : DReg) (v : VSrc) (n : Fin 16) (t : VTy) (p : Level), enVs 0x52 s.val v.val n.val 0 t.code 0 p.code = w ∧ lastOk p s.val = true ∧
      .vext s v n t p = i := by
  by_cases h0 : fld w 2 2 = 0 <;> simp [decVext, enVs_eq_iff, h0, and_assoc, and_left_comm, ← exists_and_left]

theorem decVins_iff : HasOpc 0x53 w ∧ decVins w = .ok i ↔
    ∃ (s : SReg) (v : VReg) (n : Fin 16) (t : VTy) (p : Level), enVs 0x53 s.val v.val n.val 0 t.code 0 p.code = w ∧ lastOk p v.val = true ∧
      .vins s v n t p = i := by
  have hw (v : VReg) : v.val < 32 := by omega
  by_cases h0 : fld w 2 2 = 0 <;> simp [decVins, enVs_eq_iff, hw, h0, and_assoc, and_left_comm, ← exists_and_left]

theorem decVcvt_iff : HasOpc 0x56 w ∧ decVcvt w = .ok i ↔
    ∃ (d : VReg) (a : VSrc) (s t : TyCode) (k : MReg) (r : Rnd), enVc d.val a.val s.code t.code k.val r.code = w ∧
      .vcvt d a s t k r = i := by
  simp [decVcvt, enVc_eq_iff, and_assoc]

theorem decEamac_iff {f : XAcc → SReg → SReg → FTy2 → La → Instr} (ho : opc < 128) : HasOpc opc w ∧ decEamac w f = .ok i ↔
    ∃ (x : XAcc) (n : Fin 2) (a b : SReg) (t : FTy2) (h : La), enXe opc x.val n.val a.val b.val 0 t.code h.val = w ∧ f x a b t h = i := by
  by_cases h0 : fld w 5 6 = 0 <;> simp [decEamac, enXe_eq_iff, ho, -Fin.exists_fin_two, h0, and_assoc, and_left_comm, ← exists_and_left]

theorem decEamac3_iff {f : XAcc → SReg → SReg → SReg → FTy2 → La → Instr} (ho : opc < 128) : HasOpc opc w ∧ decEamac3 w f = .ok i ↔
    ∃ (x : XAcc) (n : Fin 2) (a b c : SReg) (t : FTy2) (h : La), enXe opc x.val n.val a.val b.val c.val t.code h.val = w ∧
      f x a b c t h = i := by
  simp [decEamac3, enXe_eq_iff, ho, -Fin.exists_fin_two, and_assoc]

theorem decXop_iff : HasOpc 0x5D w ∧ decXop w = .ok i ↔
    ∃ (s : Fin 8) (d a b : BitVec 6) (h : La), enX s.val d.toNat a.toNat b.toNat h.val = w ∧ .xop s d a b h = i := by
  simp [decXop, enX_eq_iff, and_assoc]

theorem decXcfg_iff : HasOpc 0x5E w ∧ decXcfg w = .ok i ↔
    ∃ (s : Fin 8) (b : WReg) (h : La), enXc 0x5E s.val b.val h.val = w ∧ .xcfg s b h = i := by
  simp [decXcfg, enXc_eq_iff, and_assoc]

theorem decXdrop_iff : HasOpc 0x5F w ∧ decXdrop w = .ok i ↔
    ∃ (s : Fin 8) (h : La), enXc 0x5F s.val 0 h.val = w ∧ .xdrop s h = i := by
  have hsplit : fld w 4 18 = 0 ↔ fld w 17 5 = 0 ∧ fld w 4 13 = 0 := by unfold fld; omega
  simp [decXdrop, enXc_eq_iff, hsplit, and_assoc, and_left_comm]

theorem decOffer_iff {f : DReg → EvRef → SReg → Instr} (ho : opc < 128) : HasOpc opc w ∧ decOffer w f = .ok i ↔
    ∃ (d : DReg) (e : EvRef) (a : SReg) (n : BitVec 6), enE opc d.val e.code a.val n.toNat = w ∧ f d e a = i := by
  simp [decOffer, enE_eq_iff, ho, and_assoc]

theorem decChoose_iff {f : DReg → Instr} (ho : opc < 128) : HasOpc opc w ∧ decChoose w f = .ok i ↔
    ∃ d : DReg, enE opc d.val 0 0 0 = w ∧ f d = i := by
  have hsplit : fld w 6 13 = 0 ↔ fld w 12 7 = 0 ∧ fld w 6 6 = 0 := by unfold fld; omega
  have he : ∃ e : EvRef, dEvRef 0 = .ok e := ⟨.reg 0, rfl⟩
  by_cases h0 : fld w 12 7 = 0 <;> by_cases h1 : fld w 6 6 = 0 <;> simp [decChoose, enE_eq_iff, ho, hsplit, he, h0, h1, and_assoc,
    and_left_comm, ← exists_and_left]

theorem decEvjoin_iff {f : EvRef → Instr} (ho : opc < 128) : HasOpc opc w ∧ decEvjoin w f = .ok i ↔
    ∃ e : EvRef, enE opc 0 e.code 0 0 = w ∧ f e = i := by
  by_cases h0 : fld w 19 6 = 0 <;> by_cases h1 : fld w 6 6 = 0 <;> simp [decEvjoin, enE_eq_iff, ho, h0, h1, and_assoc, and_left_comm,
    ← exists_and_left]

theorem decRqpush_iff : HasOpc 0x67 w ∧ decRqpush w = .ok i ↔
    ∃ (d : DReg) (v a : SReg), enE 0x67 d.val v.val a.val 0 = w ∧ .rqpush d v a = i := by
  have hlt (v : SReg) : v.val < 128 := by omega
  have hsplit (v : SReg) : fld w 12 7 = v.val ↔ fld w 12 6 = v.val ∧ fld w 18 1 = 0 := by unfold fld; omega
  simp [decRqpush, enE_eq_iff, hlt, hsplit, and_assoc, and_left_comm, ← exists_and_left]

theorem decRqpop_iff : HasOpc 0x68 w ∧ decRqpop w = .ok i ↔
    ∃ (d t : DReg) (a : SReg), enE 0x68 d.val t.val a.val 0 = w ∧ .rqpop d t a = i := by
  have hlt (t : DReg) : t.val < 128 := by omega
  have hsplit (t : DReg) : fld w 12 7 = t.val ↔ fld w 12 6 = t.val ∧ fld w 18 1 = 0 := by unfold fld; omega
  simp [decRqpop, enE_eq_iff, hlt, hsplit, and_assoc, and_left_comm, ← exists_and_left]

theorem decQstat_iff : HasOpc 0x6A w ∧ decQstat w = .ok i ↔
    ∃ (d : DReg) (a : WReg), enE 0x6A d.val 0 a.val 0 = w ∧ .qstat d a = i := by
  have hw (a : WReg) : a.val < 64 := by omega
  simp [decQstat, enE_eq_iff, hw, and_assoc, and_left_comm, ← exists_and_left]

theorem decGang_iff {f : DReg → WReg → Instr} (ho : opc < 128) : HasOpc opc w ∧ decGang w f = .ok i ↔
    ∃ (d : DReg) (a : WReg), enE opc d.val 0 a.val 0 = w ∧ f d a = i := by
  have hw (a : WReg) : a.val < 64 := by omega
  simp [decGang, enE_eq_iff, ho, hw, and_assoc, and_left_comm, ← exists_and_left]

theorem decUnfuse_iff : HasOpc 0x6D w ∧ decUnfuse w = .ok i ↔
    ∃ d : DReg, enE 0x6D d.val 0 0 0 = w ∧ .unfuse d = i := by
  have hsplit : fld w 0 19 = 0 ↔ fld w 12 7 = 0 ∧ fld w 6 6 = 0 ∧ fld w 0 6 = 0 := by unfold fld; omega
  simp [decUnfuse, enE_eq_iff, hsplit, and_assoc, and_left_comm, ← exists_and_left]

theorem decRwr_iff : HasOpc 0x70 w ∧ decRwr w = .ok i ↔
    ∃ (d s : WReg) (n : SReg), enEf 0x70 d.val s.val n.val 0 0 = w ∧ .rwr d s n = i := by
  simp [decRwr, enEf_eq_iff, and_assoc, and_left_comm, ← exists_and_left]

theorem decRwrs_iff {f : WReg → WReg → SReg → WReg → Instr} (ho : opc < 128) : HasOpc opc w ∧ decRwrs w f = .ok i ↔
    ∃ (d s : WReg) (n : SReg) (g : WReg), enEf opc d.val s.val n.val g.val 0 = w ∧ f d s n g = i := by
  simp [decRwrs, enEf_eq_iff, ho, and_assoc]

theorem decRadd_iff : HasOpc 0x73 w ∧ decRadd w = .ok i ↔
    ∃ (d : WReg) (n : SReg) (t : RTy), enEf 0x73 d.val 0 n.val 0 t.code = w ∧ .radd d n t = i := by
  simp [decRadd, enEf_eq_iff, and_assoc, and_left_comm, ← exists_and_left]

theorem decRadds_iff : HasOpc 0x75 w ∧ decRadds w = .ok i ↔
    ∃ (d : WReg) (n : SReg) (g : WReg) (t : RTy), enEf 0x75 d.val 0 n.val g.val t.code = w ∧ .radds d n g t = i := by
  simp [decRadds, enEf_eq_iff, and_assoc, and_left_comm, ← exists_and_left]

theorem decFence_iff : HasOpc 0x37 w ∧ decFence w = .ok i ↔
    ∃ (k : FenceKind) (s : Scope), 0x37 * 33554432 + k.code * 32 + s.code * 4 = w ∧ .fence k s = i := by
  have hform (k : FenceKind) (s : Scope) : 0x37 * 33554432 + k.code * 32 + s.code * 4 = w ↔
      HasOpc 0x37 w ∧ fld w 7 18 = 0 ∧ fld w 5 2 = k.code ∧ fld w 2 3 = s.code ∧ fld w 0 2 = 0 := by
    have := fenceKind_lt k
    have := scope_lt s
    unfold HasOpc fld
    omega
  simp [decFence, hform, and_assoc, and_left_comm, ← exists_and_left]

end Sys2Proof

/-! The decoders of several instructions: one line for each of theirs. -/

namespace Sys2Proof

variable {opc w : Nat} {i : Instr}

theorem decLd_iff : HasOpc 0x29 w ∧ decLd w = .ok i ↔ ∃ (d : DReg) (b : WReg) (o : BitVec 7) (h : La),
    (enM d.val b.val 0 o.toNat h.val = w ∧ .ldS8 d b o h = i) ∨ (enM d.val b.val 1 o.toNat h.val = w ∧ .ldN8 d b o h = i) ∨
    (enM d.val b.val 2 o.toNat h.val = w ∧ .ldS16 d b o h = i) ∨ (enM d.val b.val 3 o.toNat h.val = w ∧ .ldN16 d b o h = i) ∨
    (enM d.val b.val 4 o.toNat h.val = w ∧ .ldS32 d b o h = i) ∨ (enM d.val b.val 5 o.toNat h.val = w ∧ .ldN32 d b o h = i) ∨
    (enM d.val b.val 6 o.toNat h.val = w ∧ .ldD d b o h = i) := by
  have hlt := fld_lt w 11 3
  interval_cases hn : fld w 11 3 <;> simp [decLd, enM_eq_iff, hn, and_assoc]

theorem decSt_iff : HasOpc 0x2A w ∧ decSt w = .ok i ↔ ∃ (s : SReg) (b : WReg) (o : BitVec 12),
    (enS s.val b.val 0 o.toNat = w ∧ .stB s b o = i) ∨ (enS s.val b.val 1 o.toNat = w ∧ .stH s b o = i) ∨
    (enS s.val b.val 2 o.toNat = w ∧ .stW s b o = i) ∨ (enS s.val b.val 3 o.toNat = w ∧ .stD s b o = i) := by
  have hlt := fld_lt w 12 2
  interval_cases hn : fld w 12 2 <;> simp [decSt, enS_eq_iff, hn, and_assoc]

theorem decEard_iff : HasOpc 20 w ∧ decEard w = .ok i ↔ ∃ (d : DReg) (x : XAcc) (h : La),
    (enL 20 d.val x.val 0 0 h.val = w ∧ .easgn d x h = i) ∨
    (∃ r : Rnd, enL 20 d.val x.val (r.code * 8) 1 h.val = w ∧ .earnd d x r h = i) ∨
    (enL 20 d.val x.val 0 2 h.val = w ∧ .easts d x h = i) := by
  have hxlt (x : XAcc) : x.val < 64 := by omega
  have hx (x : XAcc) : fld w 13 6 = x.val ↔ x = Fin.ofNat 2 (fld w 13 6) ∧ fld w 13 6 < 2 := by simp [Fin.ext_iff]; omega
  have hrlt (r : Rnd) : r.code * 8 < 64 := by have := rnd_lt r; omega
  have hr (r : Rnd) : fld w 7 6 = r.code * 8 ↔ fld w 10 3 = r.code ∧ fld w 7 3 = 0 := by
    have := rnd_lt r
    unfold fld
    omega
  have hlt := fld_lt w 4 3
  by_cases h2 : fld w 13 6 < 2
  · have h44 : fld w 13 6 < 44 := h2.trans (by decide)
    interval_cases hn : fld w 4 3 <;>
      simp [decEard, enL_eq_iff, hn, hx, hxlt, hr, hrlt, h2, h44, -Fin.exists_fin_two, and_assoc, and_left_comm, ← exists_and_left]
  · interval_cases hn : fld w 4 3 <;>
      simp [decEard, enL_eq_iff, hn, hx, hxlt, hr, hrlt, h2, -Fin.exists_fin_two, and_assoc, and_left_comm]

theorem decQpush_iff : HasOpc 0x69 w ∧ decQpush w = .ok i ↔ ∃ (d : DReg) (a : WReg),
    (∃ s : Fin 4, enE 0x69 d.val 0 a.val s.val = w ∧ .qpushSl d a s = i) ∨
    (enE 0x69 d.val 0 a.val 4 = w ∧ .qpushGth d a = i) ∨ (enE 0x69 d.val 0 a.val 5 = w ∧ .qpushCpy d a = i) := by
  have hw (a : WReg) : a.val < 64 := by omega
  have hslt (s : Fin 4) : s.val < 64 := by omega
  have hs (s : Fin 4) : fld w 0 6 = s.val ↔ s = Fin.ofNat 4 (fld w 0 6) ∧ fld w 0 6 < 4 := by simp [Fin.ext_iff]; omega
  by_cases h6 : fld w 0 6 < 6
  · interval_cases hn : fld w 0 6 <;> simp [decQpush, enE_eq_iff, hn, hw, hs, hslt, and_assoc, and_left_comm, ← exists_and_left]
  · have h4 : ¬fld w 0 6 < 4 := by omega
    have hne (n : Nat) (h : n < 6) : fld w 0 6 ≠ n := by omega
    simp [decQpush, enE_eq_iff, h6, hw, hs, hslt, h4, hne]

theorem decRaddDet_iff : HasOpc 0x74 w ∧ decRaddDet w = .ok i ↔ ∃ (d : WReg) (n : SReg),
    (enEf 0x74 d.val 0 n.val 0 0 = w ∧ .raddDetF64 d n = i) ∨ (enEf 0x74 d.val 0 n.val 0 1 = w ∧ .raddDetF32 d n = i) := by
  by_cases h2 : fld w 0 4 < 2
  · interval_cases hn : fld w 0 4 <;> simp [decRaddDet, enEf_eq_iff, hn, and_assoc, and_left_comm, ← exists_and_left]
  · have h0 : fld w 0 4 ≠ 0 := by omega
    have h1 : fld w 0 4 ≠ 1 := by omega
    simp [decRaddDet, enEf_eq_iff, h2, h0, h1]

theorem decMlogic_iff : HasOpc 0x42 w ∧ decMlogic w = .ok i ↔ ∃ d a : MReg,
    (∃ b : MReg, (enVm 0x42 d.val a.val b.val 0 0 = w ∧ .mand d a b = i) ∨ (enVm 0x42 d.val a.val b.val 1 0 = w ∧ .mor d a b = i) ∨
      (enVm 0x42 d.val a.val b.val 2 0 = w ∧ .mxor d a b = i)) ∨
    (enVm 0x42 d.val a.val 0 3 0 = w ∧ .mnot d a = i) := by
  have hdlt (d : MReg) : d.val < 64 := by omega
  have hd (d : MReg) : fld w 19 6 = d.val ↔ fld w 22 3 = 0 ∧ fld w 19 3 = d.val := by unfold fld; omega
  have h0 : fld w 0 11 = 0 ↔ fld w 2 9 = 0 ∧ fld w 0 2 = 0 := by unfold fld; omega
  have hlt := fld_lt w 11 2
  interval_cases hn : fld w 11 2 <;> simp [decMlogic, enVm_eq_iff, hn, hd, hdlt, h0, and_assoc, and_left_comm]

theorem decVred_iff : HasOpc 0x55 w ∧ decVred w = .ok i ↔ ∃ (s : DReg) (v : VSrc) (k : MReg) (t : VTy),
    (∃ (r : Rnd) (p : Level), enVs 0x55 s.val v.val r.code k.val t.code 0 p.code = w ∧ rndOk t r = true ∧ lastOk p s.val = true ∧
      .vredAdd s v r k t p = i) ∨
    (∃ p : Level, enVs 0x55 s.val v.val 0 k.val t.code 1 p.code = w ∧ lastOk p s.val = true ∧ .vredMin s v k t p = i) ∨
    (∃ p : Level, enVs 0x55 s.val v.val 0 k.val t.code 2 p.code = w ∧ lastOk p s.val = true ∧ .vredMax s v k t p = i) := by
  have hrlt (r : Rnd) : r.code < 16 := (rnd_lt r).trans (by decide)
  have hr (r : Rnd) : fld w 10 4 = r.code ↔ fld w 10 3 = r.code ∧ fld w 13 1 = 0 := by
    have := rnd_lt r
    unfold fld
    omega
  have h0 : fld w 10 4 = 0 ↔ fld w 10 3 = 0 ∧ fld w 13 1 = 0 := by unfold fld; omega
  have hlt := fld_lt w 2 2
  interval_cases hn : fld w 2 2 <;> simp [decVred, enVs_eq_iff, hn, hr, hrlt, h0, and_assoc, and_left_comm, ← exists_and_left]

theorem decEagen_iff : HasOpc 0x5C w ∧ decEagen w = .ok i ↔ ∃ x : XAcc,
    (enXe 0x5C x.val 0 0 0 0 0 0 = w ∧ .eaclr x = i) ∨
    ∃ (s : XAcc) (h : La), (enXe 0x5C x.val 0 s.val 0 0 1 h.val = w ∧ .eaadd x s h = i) ∨
      (enXe 0x5C x.val 1 s.val 0 0 1 h.val = w ∧ .eaaddNg x s h = i) := by
  have hxlt (x : XAcc) : x.val < 64 := by omega
  have hx (x : XAcc) : fld w 17 6 = x.val ↔ x = Fin.ofNat 2 (fld w 17 6) ∧ fld w 17 6 < 2 := by simp [Fin.ext_iff]; omega
  have h19 : fld w 5 19 = 0 ↔ fld w 23 1 = 0 ∧ fld w 17 6 = 0 ∧ fld w 11 6 = 0 ∧ fld w 5 6 = 0 := by unfold fld; omega
  have h12 : fld w 5 12 = 0 ↔ fld w 11 6 = 0 ∧ fld w 5 6 = 0 := by unfold fld; omega
  have h4 := fld_lt w 4 1
  have h23 := fld_lt w 23 1
  by_cases h17 : fld w 17 6 < 2
  · have h44 : fld w 17 6 < 44 := h17.trans (by decide)
    by_cases h5 : fld w 5 6 = 0 <;> by_cases h11 : fld w 11 6 = 0 <;> interval_cases hn : fld w 4 1 <;> interval_cases hg : fld w 23 1 <;>
      simp [decEagen, enXe_eq_iff, hxlt, hx, h19, h12, h5, h11, h17, h44, hn, hg, -Fin.exists_fin_two, and_assoc, and_left_comm]
  · have h0 : fld w 17 6 ≠ 0 := by omega
    interval_cases hn : fld w 4 1 <;> simp [decEagen, enXe_eq_iff, hxlt, hx, h19, h17, h0, hn, -Fin.exists_fin_two]

theorem decEvbind_iff : HasOpc 0x66 w ∧ decEvbind w = .ok i ↔ 
    (∃ (d : DReg) (e : EvRef) (a : SReg), enE 0x66 d.val e.code a.val 0 = w ∧ .evbind d e a = i) ∨
    (∃ (e : EvRef) (a : SReg), enE 0x66 0 e.code a.val 1 = w ∧ .evbindU e a = i) := by
  by_cases h0 : fld w 0 6 = 0
  · simp [decEvbind, decOffer, enE_eq_iff, h0, and_assoc, and_left_comm, ← exists_and_left]
  by_cases h1 : fld w 0 6 = 1
  · by_cases h2 : fld w 19 6 = 0 <;>
      simp [decEvbind, enE_eq_iff, h1, h2, and_assoc, and_left_comm, ← exists_and_left]
  · simp [decEvbind, enE_eq_iff, h0, h1]

theorem decOffer0_iff : HasOpc 0x60 w ∧ decOffer0 w = .ok i ↔ ∃ (d : DReg) (e : EvRef) (a : SReg),
    enE 0x60 d.val e.code a.val 0 = w ∧ .offer d e a = i := by
  by_cases h0 : fld w 0 6 = 0 <;> simp [decOffer0, decOffer, enE_eq_iff, h0, and_assoc, and_left_comm, ← exists_and_left]

theorem decSys_iff : HasOpc 0x26 w ∧ decSys w = .ok i ↔
    (∃ n : BitVec 6, enIs 0x26 0 1 n.toNat = w ∧ .trap n = i) ∨
    (∃ a : SReg, (enIs 0x26 a.val 3 0 = w ∧ .swapw a = i) ∨ (enIs 0x26 a.val 7 0 = w ∧ .waitt a = i)) ∨
    (enIs 0x26 0 0 0 = w ∧ .nop = i) ∨ (enIs 0x26 0 2 0 = w ∧ .eret = i) ∨ (enIs 0x26 0 4 0 = w ∧ .phase = i) ∨
    (enIs 0x26 0 5 0 = w ∧ .retire = i) ∨ (enIs 0x26 0 6 0 = w ∧ .snap = i) := by
  have hzero : ∃ a : SReg, 0 = a.val := ⟨0, rfl⟩
  by_cases h8 : fld w 8 5 < 8
  · by_cases h0 : fld w 19 6 = 0 <;> by_cases h1 : fld w 0 2 = 0 <;> by_cases h2 : fld w 13 6 = 0 <;> interval_cases hn : fld w 8 5 <;>
      simp [decSys, enIs_eq_iff, h0, h1, h2, hn, hzero, cLevel, and_assoc, and_left_comm, ← exists_and_left]
  · have hne (n : Nat) (h : n < 8) : fld w 8 5 ≠ n := by omega
    simp [decSys, enIs_eq_iff, h8, hne]

/-- The opcode's two low bits hold the mode (R148). -/
theorem decV4_iff {f : Mode → VReg → VSrc → VSrc → VSrc → MReg → Level → FTy2 → Instr} {ng : Nat} {r : Mode} (hng : ng < 2) :
    HasOpc (0x78 + ng * 4 + r.code) w ∧ decV4 w f = .ok i ↔
    ∃ (d : VReg) (a b c : VSrc) (m : MReg) (p : Level) (t : FTy2),
      enV4 ng r.code d.val a.val b.val c.val m.val p.code t.code = w ∧ lastOk p d.val = true ∧ f r d a b c m p t = i := by
  by_cases hw : HasOpc (0x78 + ng * 4 + r.code) w
  · have hmode : fld w 25 2 = r.code := by
      have := mode_lt r
      obtain ⟨-, hopc⟩ := hw
      unfold fld at *
      omega
    rw [fld_eq_mode] at hmode
    simp [decV4, enV4_eq_iff, hng, hw, ← hmode, and_assoc]
  · simp [enV4_eq_iff, hng, hw]

end Sys2Proof

/-! Decode and encode agree (R57, R66, R67). -/

namespace Sys2Proof

/-- The word w is that of the well-formed instruction i. -/
def WordOf (w : Nat) (i : Instr) : Prop := encode i = some w ∧ i.wf = true

/-! The selector of a word is the one that its format was given. -/

theorem sel_enR {opc d a b ty sb dl w : Nat} (h : enR opc d a b ty sb dl = w) (hsb : sb < 4) (hdl : dl < 4) : fld w 2 2 = sb := by
  subst h
  unfold enR fld
  omega

theorem sel_enRf {opc d a b ft rm dl w : Nat} (h : enRf opc d a b ft rm dl = w) (hrm : rm < 8) (hdl : dl < 4) : fld w 2 3 = rm := by
  subst h
  unfold enRf fld
  omega

theorem sel_enL {opc d a b f la w : Nat} (h : enL opc d a b f la = w) (hf : f < 8) (hla : la < 16) : fld w 4 3 = f := by
  subst h
  unfold enL fld
  omega

theorem sel_enV {opc d a b mk vt rm dl w : Nat} (h : enV opc d a b mk vt rm dl = w) (hrm : rm < 8) (hdl : dl < 4) : fld w 2 3 = rm := by
  subst h
  unfold enV fld
  omega

theorem sel_enXe {opc x ng a b c f la w : Nat} (h : enXe opc x ng a b c f la = w) (hng : ng < 2) (ha : a < 64) (hb : b < 64)
    (hc : c < 64) (hf : f < 2) (hla : la < 16) : fld w 23 1 = ng := by
  subst h
  unfold enXe fld
  omega

/-- J and CALL: a displacement of 25 bits alone. -/
theorem enJ_eq_iff {opc w : Nat} {o : BitVec 25} (ho : opc < 128) :
    opc * 33554432 + o.toNat = w ↔ HasOpc opc w ∧ o = BitVec.ofNat 25 (fld w 0 25) := by
  rw [← fld_eq_toNat]
  unfold HasOpc fld
  omega

/-- The word that decodes to an instruction is that instruction's word, and the instruction is well formed: the cases stand in the order of the opcode map. -/
theorem wordOf_of_decodeOpc {opc w : Nat} {i : Instr} (hw : HasOpc opc w) (h : decodeOpc opc w = .ok i) : WordOf w i := by
  unfold decodeOpc at h
  dsimp only at h
  split at h
  case h_1 | h_3 | h_4 =>
    obtain ⟨d, a, b, f, t, sb, p, hen, -, hl, hf, rfl⟩ := (decR_iff (by decide)).1 ⟨hw, h⟩
    rw [sel_enR hen sb.isLt (level_lt p)] at hf
    fin_cases sb <;> cases hf <;> exact ⟨congrArg some hen, hl⟩
  case h_2 | h_6 =>
    obtain ⟨d, a, b, f, t, sb, p, hen, hallow, hl, hf, rfl⟩ := (decR_iff (by decide)).1 ⟨hw, h⟩
    rw [sel_enR hen sb.isLt (level_lt p)] at hf hallow
    fin_cases sb <;> cases hf <;> exact ⟨congrArg some hen, Bool.and_eq_true_iff.mpr ⟨hallow, hl⟩⟩
  case h_5 =>
    obtain ⟨d, a, f, t, sb, p, hen, hl, hf, rfl⟩ := (decBits_iff (by decide)).1 ⟨hw, h⟩
    rw [sel_enR hen sb.isLt (level_lt p)] at hf
    fin_cases sb <;> cases hf <;> exact ⟨congrArg some hen, hl⟩
  case h_7 =>
    split at h
    next hsb =>
      obtain ⟨d, a, b, p, hen, hp, rfl⟩ := decSel_iff.1 ⟨⟨hw, hsb⟩, h⟩
      exact ⟨congrArg some hen, hp⟩
    next hsb =>
      obtain ⟨d, a, b, f, t, sb, p, hen, hallow, hl, hf, rfl⟩ := (decR_iff (by decide)).1 ⟨hw, h⟩
      rw [sel_enR hen sb.isLt (level_lt p)] at hf hallow
      fin_cases sb <;> cases hf <;> exact ⟨congrArg some hen, Bool.and_eq_true_iff.mpr ⟨hallow, hl⟩⟩
  case h_8 | h_9 | h_10 | h_11 =>
    obtain ⟨d, a, m, p, hen, hl, rfl⟩ := (decI_iff (by decide)).1 ⟨hw, h⟩
    exact ⟨congrArg some hen, hl⟩
  case h_12 | h_13 =>
    obtain ⟨d, m, p, hen, hl, rfl⟩ := (decIw_iff (by decide)).1 ⟨hw, h⟩
    exact ⟨congrArg some hen, hl⟩
  case h_14 =>
    obtain ⟨d, a, b, sb, p, hen, hl, rfl⟩ := (decLea_iff (by decide)).1 ⟨hw, h⟩
    rw [sel_enR hen sb.isLt (level_lt p)]
    fin_cases sb <;> exact ⟨congrArg some hen, hl⟩
  case h_15 =>
    obtain ⟨a, b, hen, rfl⟩ := decChk_iff.1 ⟨hw, h⟩
    exact ⟨congrArg some hen, rfl⟩
  case h_16 =>
    obtain ⟨d, a, b, n, la, hen, rfl⟩ := (decL_iff (by decide)).1 ⟨hw, h⟩
    rw [sel_enL hen n.isLt la.isLt]
    fin_cases n <;> exact ⟨congrArg some hen, rfl⟩
  case h_17 =>
    obtain ⟨d, a, f, r, la, hen, rfl⟩ := decFsqrt_iff.1 ⟨hw, h⟩
    exact ⟨congrArg some hen, rfl⟩
  case h_18 | h_19 =>
    obtain ⟨d, a, b, r, la, hen, rfl⟩ := (decFdiv_iff (by decide)).1 ⟨hw, h⟩
    exact ⟨congrArg some hen, rfl⟩
  case h_20 =>
    obtain ⟨d, x, la, ⟨hen, rfl⟩ | ⟨r, hen, rfl⟩ | ⟨hen, rfl⟩⟩ := decEard_iff.1 ⟨hw, h⟩ <;> exact ⟨congrArg some hen, rfl⟩
  case h_21 =>
    obtain ⟨d, a, b, la, hen, rfl⟩ := decHalloc_iff.1 ⟨hw, h⟩
    exact ⟨congrArg some hen, rfl⟩
  case h_22 =>
    obtain ⟨a, b, la, hen, rfl⟩ := decHfree_iff.1 ⟨hw, h⟩
    exact ⟨congrArg some hen, rfl⟩
  case h_23 =>
    obtain ⟨a, la, hen, rfl⟩ := decFoldmark_iff.1 ⟨hw, h⟩
    exact ⟨congrArg some hen, rfl⟩
  case h_24 | h_25 | h_26 | h_27 | h_28 | h_29 =>
    obtain ⟨a, b, o, hen, rfl⟩ := (decB_iff (by decide)).1 ⟨hw, h⟩
    exact ⟨congrArg some hen, rfl⟩
  case h_30 | h_31 =>
    obtain ⟨a, o, hen, rfl⟩ := (decBz_iff (by decide)).1 ⟨hw, h⟩
    exact ⟨congrArg some hen, rfl⟩
  case h_32 | h_33 =>
    cases h
    exact ⟨congrArg some ((enJ_eq_iff (by decide)).mpr ⟨hw, rfl⟩), rfl⟩
  case h_34 =>
    obtain ⟨a, hen, rfl⟩ := decJr_iff.1 ⟨hw, h⟩
    split
    next ha => exact ⟨congrArg some (ha ▸ hen), rfl⟩
    next ha => exact ⟨congrArg some hen, bne_iff_ne.mpr ha⟩
  case h_35 =>
    obtain ⟨a, hen, rfl⟩ := decCallr_iff.1 ⟨hw, h⟩
    exact ⟨congrArg some hen, rfl⟩
  case h_36 =>
    obtain ⟨a, n, hen, hn, rfl⟩ := decLoop_iff.1 ⟨hw, h⟩
    exact ⟨congrArg some hen, bne_iff_ne.mpr hn⟩
  case h_37 =>
    obtain ⟨a, b, c, n, hen, ha, hn, rfl⟩ := decLoopi_iff.1 ⟨hw, h⟩
    exact ⟨congrArg some hen, Bool.and_eq_true_iff.mpr ⟨bne_iff_ne.mpr fun h0 => ha (Fin.ext h0), bne_iff_ne.mpr hn⟩⟩
  case h_38 =>
    obtain ⟨n, hen, rfl⟩ | ⟨a, ⟨hen, rfl⟩ | ⟨hen, rfl⟩⟩ | ⟨hen, rfl⟩ | ⟨hen, rfl⟩ | ⟨hen, rfl⟩ | ⟨hen, rfl⟩ | ⟨hen, rfl⟩ :=
      decSys_iff.1 ⟨hw, h⟩ <;> exact ⟨congrArg some hen, rfl⟩
  case h_39 =>
    obtain ⟨d, m, p, hen, hm, hl, rfl⟩ := decRds_iff.1 ⟨hw, h⟩
    exact ⟨congrArg some hen, Bool.and_eq_true_iff.mpr ⟨hm, hl⟩⟩
  case h_40 =>
    obtain ⟨a, m, hen, hm, rfl⟩ := decWrs_iff.1 ⟨hw, h⟩
    exact ⟨congrArg some hen, hm⟩
  case h_41 =>
    obtain ⟨d, b, o, la, ⟨hen, rfl⟩ | ⟨hen, rfl⟩ | ⟨hen, rfl⟩ | ⟨hen, rfl⟩ | ⟨hen, rfl⟩ | ⟨hen, rfl⟩ | ⟨hen, rfl⟩⟩ :=
      decLd_iff.1 ⟨hw, h⟩ <;> exact ⟨congrArg some hen, rfl⟩
  case h_42 =>
    obtain ⟨s, b, o, ⟨hen, rfl⟩ | ⟨hen, rfl⟩ | ⟨hen, rfl⟩ | ⟨hen, rfl⟩⟩ := decSt_iff.1 ⟨hw, h⟩ <;> exact ⟨congrArg some hen, rfl⟩
  case h_43 =>
    obtain ⟨d, e, b, x, k, la, hen, rfl⟩ := decVld_iff.1 ⟨hw, h⟩
    exact ⟨congrArg some hen, rfl⟩
  case h_44 =>
    obtain ⟨d, e, b, x, k, la, hen, rfl⟩ := decVlds_iff.1 ⟨hw, h⟩
    exact ⟨congrArg some hen, rfl⟩
  case h_45 =>
    obtain ⟨d, e, b, x, k, la, hen, rfl⟩ := decVldx_iff.1 ⟨hw, h⟩
    exact ⟨congrArg some hen, rfl⟩
  case h_46 =>
    obtain ⟨s, e, b, x, k, hen, rfl⟩ := decVst_iff.1 ⟨hw, h⟩
    exact ⟨congrArg some hen, rfl⟩
  case h_47 =>
    obtain ⟨s, e, b, x, k, hen, rfl⟩ := decVstx_iff.1 ⟨hw, h⟩
    exact ⟨congrArg some hen, rfl⟩
  case h_48 | h_49 | h_50 | h_51 | h_52 =>
    obtain ⟨d, c, b, t, s, la, hen, rfl⟩ := (decMa_iff (by decide)).1 ⟨hw, h⟩
    exact ⟨congrArg some hen, rfl⟩
  case h_53 =>
    obtain ⟨d, c, b, t, s, la, hen, rfl⟩ := decAfadd_iff.1 ⟨hw, h⟩
    exact ⟨congrArg some hen, rfl⟩
  case h_54 =>
    obtain ⟨d, c, b, t, la, hen, rfl⟩ := decAfaddDet_iff.1 ⟨hw, h⟩
    exact ⟨congrArg some hen, rfl⟩
  case h_55 =>
    obtain ⟨k, s, hen, rfl⟩ := decFence_iff.1 ⟨hw, h⟩
    exact ⟨congrArg some hen, rfl⟩
  case h_56 | h_57 | h_58 =>
    obtain ⟨d, a, b, t, r, p, hen, hl, rfl⟩ := (decRf_iff (by decide)).1 ⟨hw, h⟩
    exact ⟨congrArg some hen, hl⟩
  case h_59 | h_60 =>
    obtain ⟨d, a, b, t, r, p, hen, hp, rfl⟩ := (decFfma_iff (by decide)).1 ⟨hw, h⟩
    exact ⟨congrArg some hen, hp⟩
  case h_61 | h_62 | h_64 =>
    obtain ⟨d, a, b, f, t, rm, p, hen, hl, hf, rfl⟩ := (decRfSel_iff (by decide)).1 ⟨hw, h⟩
    rw [sel_enRf hen rm.isLt (level_lt p)] at hf
    fin_cases rm <;> cases hf <;> exact ⟨congrArg some hen, hl⟩
  case h_63 =>
    obtain ⟨d, a, t, p, hen, hl, rfl⟩ := decFclass_iff.1 ⟨hw, h⟩
    exact ⟨congrArg some hen, hl⟩
  case h_65 =>
    obtain ⟨d, a, s, t, r, hen, rfl⟩ := decFcvt_iff.1 ⟨hw, h⟩
    exact ⟨congrArg some hen, rfl⟩
  case h_66 =>
    obtain ⟨d, a, ⟨b, ⟨hen, rfl⟩ | ⟨hen, rfl⟩ | ⟨hen, rfl⟩⟩ | ⟨hen, rfl⟩⟩ := decMlogic_iff.1 ⟨hw, h⟩ <;>
      exact ⟨congrArg some hen, rfl⟩
  case h_67 =>
    obtain ⟨d, a, p, hen, hl, rfl⟩ := decMpop_iff.1 ⟨hw, h⟩
    exact ⟨congrArg some hen, hl⟩
  case h_68 | h_69 =>
    obtain ⟨m, o, hen, rfl⟩ := (decBm_iff (by decide)).1 ⟨hw, h⟩
    exact ⟨congrArg some hen, rfl⟩
  case h_70 | h_71 | h_72 =>
    obtain ⟨d, a, b, k, t, r, p, hen, hr, hl, rfl⟩ := (decV_iff (by decide)).1 ⟨hw, h⟩
    exact ⟨congrArg some hen, Bool.and_eq_true_iff.mpr ⟨hr, hl⟩⟩
  case h_73 =>
    obtain ⟨d, a, b, k, f, r, la, hen, rfl⟩ := decVdiv_iff.1 ⟨hw, h⟩
    exact ⟨congrArg some hen, rfl⟩
  case h_74 =>
    obtain ⟨d, a, b, k, f, t, rm, p, hen, -, hl, hf, rfl⟩ := (decVSel_iff (by decide)).1 ⟨hw, h⟩
    rw [sel_enV hen rm.isLt (level_lt p)] at hf
    fin_cases rm <;> cases hf <;> exact ⟨congrArg some hen, hl⟩
  case h_75 | h_76 =>
    obtain ⟨d, a, b, k, f, t, rm, p, hen, hallow, hl, hf, rfl⟩ := (decVSel_iff (by decide)).1 ⟨hw, h⟩
    rw [sel_enV hen rm.isLt (level_lt p)] at hf
    fin_cases rm <;> cases hf <;> exact ⟨congrArg some hen, Bool.and_eq_true_iff.mpr ⟨hallow, hl⟩⟩
  case h_77 =>
    obtain ⟨d, a, b, k, f, t, rm, hen, hun, hf, rfl⟩ := (decVcmp_iff (by decide)).1 ⟨hw, h⟩
    rw [sel_enV hen rm.isLt (by decide)] at hf hun
    fin_cases rm <;> cases hf <;> exact ⟨congrArg some hen, hun⟩
  case h_78 | h_82 =>
    obtain ⟨d, a, b, k, p, hen, hl, rfl⟩ := (decVMove_iff (by decide)).1 ⟨hw, h⟩
    exact ⟨congrArg some hen, hl⟩
  case h_79 =>
    obtain ⟨s, v, k, t, p, hen, hl, rfl⟩ := decVbcast_iff.1 ⟨hw, h⟩
    exact ⟨congrArg some hen, hl⟩
  case h_80 =>
    obtain ⟨s, v, n, t, p, hen, hl, rfl⟩ := decVext_iff.1 ⟨hw, h⟩
    exact ⟨congrArg some hen, hl⟩
  case h_81 =>
    obtain ⟨s, v, n, t, p, hen, hl, rfl⟩ := decVins_iff.1 ⟨hw, h⟩
    exact ⟨congrArg some hen, hl⟩
  case h_83 =>
    obtain ⟨s, v, k, t, ⟨r, p, hen, hr, hl, rfl⟩ | ⟨p, hen, hl, rfl⟩ | ⟨p, hen, hl, rfl⟩⟩ := decVred_iff.1 ⟨hw, h⟩
    · exact ⟨congrArg some hen, Bool.and_eq_true_iff.mpr ⟨hr, hl⟩⟩
    · exact ⟨congrArg some hen, hl⟩
    · exact ⟨congrArg some hen, hl⟩
  case h_84 =>
    obtain ⟨d, a, s, t, k, r, hen, rfl⟩ := decVcvt_iff.1 ⟨hw, h⟩
    exact ⟨congrArg some hen, rfl⟩
  case h_85 =>
    obtain ⟨d, a, k, f, r, la, hen, rfl⟩ := decVsqrt_iff.1 ⟨hw, h⟩
    exact ⟨congrArg some hen, rfl⟩
  case h_86 =>
    obtain ⟨d, a, k, f, t, rm, p, hen, hsign, hl, hf, rfl⟩ := (decVsign_iff (by decide)).1 ⟨hw, h⟩
    rw [sel_enV hen rm.isLt (level_lt p)] at hf
    fin_cases rm <;> cases hf <;> exact ⟨congrArg some hen, Bool.and_eq_true_iff.mpr ⟨hsign, hl⟩⟩
  case h_87 =>
    obtain ⟨d, k, t, p, hen, hl, rfl⟩ := decViota_iff.1 ⟨hw, h⟩
    exact ⟨congrArg some hen, hl⟩
  case h_88 =>
    obtain ⟨x, n, a, b, t, la, hen, rfl⟩ := (decEamac_iff (by decide)).1 ⟨hw, h⟩
    rw [sel_enXe hen n.isLt (sreg_lt a) (sreg_lt b) (by decide) (Laws.fTy2_code_lt t) la.isLt]
    fin_cases n <;> exact ⟨congrArg some hen, rfl⟩
  case h_89 =>
    obtain ⟨x, n, a, b, c, t, la, hen, rfl⟩ := (decEamac3_iff (by decide)).1 ⟨hw, h⟩
    rw [sel_enXe hen n.isLt (sreg_lt a) (sreg_lt b) (sreg_lt c) (Laws.fTy2_code_lt t) la.isLt]
    fin_cases n <;> exact ⟨congrArg some hen, rfl⟩
  case h_90 =>
    obtain ⟨x, ⟨hen, rfl⟩ | ⟨s, la, ⟨hen, rfl⟩ | ⟨hen, rfl⟩⟩⟩ := decEagen_iff.1 ⟨hw, h⟩ <;> exact ⟨congrArg some hen, rfl⟩
  case h_91 =>
    obtain ⟨s, d, a, b, la, hen, rfl⟩ := decXop_iff.1 ⟨hw, h⟩
    exact ⟨congrArg some hen, rfl⟩
  case h_92 =>
    obtain ⟨s, b, la, hen, rfl⟩ := decXcfg_iff.1 ⟨hw, h⟩
    exact ⟨congrArg some hen, rfl⟩
  case h_93 =>
    obtain ⟨s, la, hen, rfl⟩ := decXdrop_iff.1 ⟨hw, h⟩
    exact ⟨congrArg some hen, rfl⟩
  case h_94 =>
    obtain ⟨d, e, a, hen, rfl⟩ := decOffer0_iff.1 ⟨hw, h⟩
    exact ⟨congrArg some hen, rfl⟩
  case h_95 | h_96 | h_97 =>
    obtain ⟨d, hen, rfl⟩ := (decChoose_iff (by decide)).1 ⟨hw, h⟩
    exact ⟨congrArg some hen, rfl⟩
  case h_98 | h_99 =>
    obtain ⟨e, hen, rfl⟩ := (decEvjoin_iff (by decide)).1 ⟨hw, h⟩
    exact ⟨congrArg some hen, rfl⟩
  case h_100 =>
    obtain ⟨d, e, a, hen, rfl⟩ | ⟨e, a, hen, rfl⟩ := decEvbind_iff.1 ⟨hw, h⟩ <;> exact ⟨congrArg some hen, rfl⟩
  case h_101 =>
    obtain ⟨d, v, a, hen, rfl⟩ := decRqpush_iff.1 ⟨hw, h⟩
    exact ⟨congrArg some hen, rfl⟩
  case h_102 =>
    obtain ⟨d, t, a, hen, rfl⟩ := decRqpop_iff.1 ⟨hw, h⟩
    exact ⟨congrArg some hen, rfl⟩
  case h_103 =>
    obtain ⟨d, a, ⟨s, hen, rfl⟩ | ⟨hen, rfl⟩ | ⟨hen, rfl⟩⟩ := decQpush_iff.1 ⟨hw, h⟩ <;> exact ⟨congrArg some hen, rfl⟩
  case h_104 =>
    obtain ⟨d, a, hen, rfl⟩ := decQstat_iff.1 ⟨hw, h⟩
    exact ⟨congrArg some hen, rfl⟩
  case h_105 | h_106 =>
    obtain ⟨d, a, hen, rfl⟩ := (decGang_iff (by decide)).1 ⟨hw, h⟩
    exact ⟨congrArg some hen, rfl⟩
  case h_107 =>
    obtain ⟨d, hen, rfl⟩ := decUnfuse_iff.1 ⟨hw, h⟩
    exact ⟨congrArg some hen, rfl⟩
  case h_108 =>
    obtain ⟨d, s, n, hen, rfl⟩ := decRwr_iff.1 ⟨hw, h⟩
    exact ⟨congrArg some hen, rfl⟩
  case h_109 | h_110 =>
    obtain ⟨d, s, n, g, hen, rfl⟩ := (decRwrs_iff (by decide)).1 ⟨hw, h⟩
    exact ⟨congrArg some hen, rfl⟩
  case h_111 =>
    obtain ⟨d, n, t, hen, rfl⟩ := decRadd_iff.1 ⟨hw, h⟩
    exact ⟨congrArg some hen, rfl⟩
  case h_112 =>
    obtain ⟨d, n, ⟨hen, rfl⟩ | ⟨hen, rfl⟩⟩ := decRaddDet_iff.1 ⟨hw, h⟩ <;> exact ⟨congrArg some hen, rfl⟩
  case h_113 =>
    obtain ⟨d, n, g, t, hen, rfl⟩ := decRadds_iff.1 ⟨hw, h⟩
    exact ⟨congrArg some hen, rfl⟩
  case h_114 =>
    obtain ⟨d, a, b, c, m, p, t, hen, hl, rfl⟩ := (decV4_iff (ng := 0) (r := .rne) (by decide)).1 ⟨hw, h⟩
    exact ⟨congrArg some hen, hl⟩
  case h_115 =>
    obtain ⟨d, a, b, c, m, p, t, hen, hl, rfl⟩ := (decV4_iff (ng := 0) (r := .rtz) (by decide)).1 ⟨hw, h⟩
    exact ⟨congrArg some hen, hl⟩
  case h_116 =>
    obtain ⟨d, a, b, c, m, p, t, hen, hl, rfl⟩ := (decV4_iff (ng := 0) (r := .rup) (by decide)).1 ⟨hw, h⟩
    exact ⟨congrArg some hen, hl⟩
  case h_117 =>
    obtain ⟨d, a, b, c, m, p, t, hen, hl, rfl⟩ := (decV4_iff (ng := 0) (r := .rdn) (by decide)).1 ⟨hw, h⟩
    exact ⟨congrArg some hen, hl⟩
  case h_118 =>
    obtain ⟨d, a, b, c, m, p, t, hen, hl, rfl⟩ := (decV4_iff (ng := 1) (r := .rne) (by decide)).1 ⟨hw, h⟩
    exact ⟨congrArg some hen, hl⟩
  case h_119 =>
    obtain ⟨d, a, b, c, m, p, t, hen, hl, rfl⟩ := (decV4_iff (ng := 1) (r := .rtz) (by decide)).1 ⟨hw, h⟩
    exact ⟨congrArg some hen, hl⟩
  case h_120 =>
    obtain ⟨d, a, b, c, m, p, t, hen, hl, rfl⟩ := (decV4_iff (ng := 1) (r := .rup) (by decide)).1 ⟨hw, h⟩
    exact ⟨congrArg some hen, hl⟩
  case h_121 =>
    obtain ⟨d, a, b, c, m, p, t, hen, hl, rfl⟩ := (decV4_iff (ng := 1) (r := .rdn) (by decide)).1 ⟨hw, h⟩
    exact ⟨congrArg some hen, hl⟩
  case h_122 => cases h

/-! The other direction: an instruction's word decodes to it. -/

theorem decodes {opc w : Nat} {i : Instr} {x : Dec Instr} (h : HasOpc opc w ∧ x = .ok i) (hop : decodeOpc opc w = x) :
    w < 2 ^ 32 ∧ decodeNat w = .ok i :=
  ⟨h.1.1, by rw [decodeNat, h.1.2, hop, h.2]⟩

section

variable {opc w n : Nat} {d : DReg} {a b c : SReg} {e g : VSrc} {v : VReg} {m k : MReg} {p : Level} {la : La}

theorem decodes_R {t : IntTy} {f : DReg → SReg → SReg → IntTy → Level → Instr} {root : Option (DReg → SReg → SReg → IntTy → Level → Instr)}
    {allow : IntTy → Bool} (hen : enR opc d.val a.val b.val t.code n p.code = w) (ho : opc < 128) (hn : n < 4) (hl : lastOk p d.val = true)
    (hop : decodeOpc opc w = decR w root allow) (hsel : fld w 2 2 = n → root = some f ∧ allow t = true) :
    w < 2 ^ 32 ∧ decodeNat w = .ok (f d a b t p) :=
  have ⟨hroot, hallow⟩ := hsel (sel_enR hen hn (level_lt p))
  decodes ((decR_iff ho).2 ⟨d, a, b, f, t, ⟨n, hn⟩, p, hen, hallow, hl, hroot, rfl⟩) hop

theorem decodes_bits {t : IntTy} {f : DReg → SReg → IntTy → Level → Instr} {root : Option (DReg → SReg → IntTy → Level → Instr)}
    (hen : enR opc d.val a.val 0 t.code n p.code = w) (ho : opc < 128) (hn : n < 4) (hl : lastOk p d.val = true)
    (hop : decodeOpc opc w = decBits w root) (hsel : fld w 2 2 = n → root = some f) :
    w < 2 ^ 32 ∧ decodeNat w = .ok (f d a t p) :=
  decodes ((decBits_iff ho).2 ⟨d, a, f, t, ⟨n, hn⟩, p, hen, hl, hsel (sel_enR hen hn (level_lt p)), rfl⟩) hop

theorem decodes_lea {f root : DReg → SReg → SReg → Level → Instr}
    (hen : enR opc d.val a.val b.val 3 n p.code = w) (ho : opc < 128) (hn : n < 4) (hl : lastOk p d.val = true)
    (hop : decodeOpc opc w = decLea w root) (hsel : fld w 2 2 = n → root = f) :
    w < 2 ^ 32 ∧ decodeNat w = .ok (f d a b p) := by
  obtain rfl := hsel (sel_enR hen hn (level_lt p))
  exact decodes ((decLea_iff ho).2 ⟨d, a, b, ⟨n, hn⟩, p, hen, hl, rfl⟩) hop

theorem decodes_L {f root : DReg → SReg → SReg → La → Instr}
    (hen : enL opc d.val a.val b.val n la.val = w) (ho : opc < 128) (hn : n < 8)
    (hop : decodeOpc opc w = decL w root) (hsel : fld w 4 3 = n → root = f) :
    w < 2 ^ 32 ∧ decodeNat w = .ok (f d a b la) := by
  obtain rfl := hsel (sel_enL hen hn la.isLt)
  exact decodes ((decL_iff ho).2 ⟨d, a, b, ⟨n, hn⟩, la, hen, rfl⟩) hop

theorem decodes_RfSel {t : FTy} {f : DReg → SReg → SReg → FTy → Level → Instr} {root : Option (DReg → SReg → SReg → FTy → Level → Instr)}
    (hen : enRf opc d.val a.val b.val t.code n p.code = w) (ho : opc < 128) (hn : n < 8) (hl : lastOk p d.val = true)
    (hop : decodeOpc opc w = decRfSel w root) (hsel : fld w 2 3 = n → root = some f) :
    w < 2 ^ 32 ∧ decodeNat w = .ok (f d a b t p) :=
  decodes ((decRfSel_iff ho).2 ⟨d, a, b, f, t, ⟨n, hn⟩, p, hen, hl, hsel (sel_enRf hen hn (level_lt p)), rfl⟩) hop

theorem decodes_VSel {t : VTy} {f : VReg → VSrc → VSrc → MReg → VTy → Level → Instr}
    {root : Option (VReg → VSrc → VSrc → MReg → VTy → Level → Instr)} {allow : VTy → Bool}
    (hen : enV opc v.val e.val g.val k.val t.code n p.code = w) (ho : opc < 128) (hn : n < 8) (hl : lastOk p v.val = true)
    (hop : decodeOpc opc w = decVSel w root allow) (hsel : fld w 2 3 = n → root = some f ∧ allow t = true) :
    w < 2 ^ 32 ∧ decodeNat w = .ok (f v e g k t p) :=
  have ⟨hroot, hallow⟩ := hsel (sel_enV hen hn (level_lt p))
  decodes ((decVSel_iff ho).2 ⟨v, e, g, k, f, t, ⟨n, hn⟩, p, hen, hallow, hl, hroot, rfl⟩) hop

theorem decodes_vcmp {t : VTy} {f : MReg → VSrc → VSrc → MReg → VTy → Instr} {root : Option (MReg → VSrc → VSrc → MReg → VTy → Instr)}
    {un : Bool} (hen : enV opc m.val e.val g.val k.val t.code n 0 = w) (ho : opc < 128) (hn : n < 8)
    (hop : decodeOpc opc w = decVcmp w root un) (hsel : fld w 2 3 = n → root = some f ∧ (!un || !t.isInt) = true) :
    w < 2 ^ 32 ∧ decodeNat w = .ok (f m e g k t) :=
  have ⟨hroot, hun⟩ := hsel (sel_enV hen hn (by decide))
  decodes ((decVcmp_iff ho).2 ⟨m, e, g, k, f, t, ⟨n, hn⟩, hen, hun, hroot, rfl⟩) hop

theorem decodes_vsign {t : VTy} {f : VReg → VSrc → MReg → VTy → Level → Instr} {root : Option (VReg → VSrc → MReg → VTy → Level → Instr)}
    (hen : enV opc v.val e.val 0 k.val t.code n p.code = w) (ho : opc < 128) (hn : n < 8) (hsign : t.hasSign = true)
    (hl : lastOk p v.val = true) (hop : decodeOpc opc w = decVsign w root) (hsel : fld w 2 3 = n → root = some f) :
    w < 2 ^ 32 ∧ decodeNat w = .ok (f v e k t p) :=
  decodes ((decVsign_iff ho).2 ⟨v, e, k, f, t, ⟨n, hn⟩, p, hen, hsign, hl, hsel (sel_enV hen hn (level_lt p)), rfl⟩) hop

theorem decodes_eamac {x : XAcc} {t : FTy2} {f root : XAcc → SReg → SReg → FTy2 → La → Instr}
    (hen : enXe opc x.val n a.val b.val 0 t.code la.val = w) (ho : opc < 128) (hn : n < 2)
    (hop : decodeOpc opc w = decEamac w root) (hsel : fld w 23 1 = n → root = f) :
    w < 2 ^ 32 ∧ decodeNat w = .ok (f x a b t la) := by
  obtain rfl := hsel (sel_enXe hen hn (sreg_lt a) (sreg_lt b) (by decide) (Laws.fTy2_code_lt t) la.isLt)
  exact decodes ((decEamac_iff ho).2 ⟨x, ⟨n, hn⟩, a, b, t, la, hen, rfl⟩) hop

theorem decodes_eamac3 {x : XAcc} {t : FTy2} {f root : XAcc → SReg → SReg → SReg → FTy2 → La → Instr}
    (hen : enXe opc x.val n a.val b.val c.val t.code la.val = w) (ho : opc < 128) (hn : n < 2)
    (hop : decodeOpc opc w = decEamac3 w root) (hsel : fld w 23 1 = n → root = f) :
    w < 2 ^ 32 ∧ decodeNat w = .ok (f x a b c t la) := by
  obtain rfl := hsel (sel_enXe hen hn (sreg_lt a) (sreg_lt b) (sreg_lt c) (Laws.fTy2_code_lt t) la.isLt)
  exact decodes ((decEamac3_iff ho).2 ⟨x, ⟨n, hn⟩, a, b, c, t, la, hen, rfl⟩) hop

end

/-- The opcode of VFMA and VFMS holds the sign and the mode (R148). -/
theorem decodes_V4 {w ng : Nat} {r : Mode} {d : VReg} {a b c : VSrc} {m : MReg} {p : Level} {t : FTy2}
    {f : Mode → VReg → VSrc → VSrc → VSrc → MReg → Level → FTy2 → Instr}
    (hen : enV4 ng r.code d.val a.val b.val c.val m.val p.code t.code = w) (hng : ng < 2) (hl : lastOk p d.val = true)
    (hop : decodeOpc (0x78 + ng * 4 + r.code) w = decV4 w f) : w < 2 ^ 32 ∧ decodeNat w = .ok (f r d a b c m p t) :=
  decodes ((decV4_iff hng).2 ⟨d, a, b, c, m, p, t, hen, hl, rfl⟩) hop

/-- The word of a well-formed instruction decodes to it. -/
theorem decodeNat_of_encode {i : Instr} {w : Nat} (hwf : i.wf = true) (hne : ∀ v, i ≠ .illegal v) (he : encode i = some w) :
    w < 2 ^ 32 ∧ decodeNat w = .ok i := by
  cases i with
  | add d a b t p | sub d a b t p | mul d a b t p | and d a b t p | or d a b t p | xor d a b t p | shl d a b t p | shr d a b t p
  | sha d a b t p | rol d a b t p =>
    exact decodes_R (Option.some.inj he) (by decide) (by decide) hwf (by unfold decodeOpc; rfl) fun h => by simp [h]
  | mulh d a b t p | mulhn d a b t p | min d a b t p | max d a b t p | minn d a b t p | maxn d a b t p =>
    obtain ⟨ht, hl⟩ := Bool.and_eq_true_iff.mp hwf
    exact decodes_R (Option.some.inj he) (by decide) (by decide) hl (by unfold decodeOpc; rfl) fun h => by simpa [h] using ht
  | clz d a t p | ctz d a t p | popc d a t p =>
    exact decodes_bits (Option.some.inj he) (by decide) (by decide) hwf (by unfold decodeOpc; rfl) fun h => by simp [h]
  | slt d a b t p | sltn d a b t p =>
    obtain ⟨ht, hl⟩ := Bool.and_eq_true_iff.mp hwf
    have hsb := sel_enR (Option.some.inj he) (by decide) (level_lt p)
    exact decodes_R (Option.some.inj he) (by decide) (by decide) hl (by unfold decodeOpc; exact if_neg (by simp [hsb])) fun h => by simpa [h] using ht
  | sel d a b p =>
    obtain ⟨⟨hw, hsb⟩, h⟩ := decSel_iff.2 ⟨d, a, b, p, Option.some.inj he, hwf, rfl⟩
    exact decodes ⟨hw, h⟩ (by unfold decodeOpc; exact if_pos hsb)
  | addi d a m p | andi d a m p | ori d a m p | xori d a m p =>
    exact decodes ((decI_iff (by decide)).2 ⟨d, a, m, p, Option.some.inj he, hwf, rfl⟩) (by unfold decodeOpc; rfl)
  | li d m p | lih d m p =>
    exact decodes ((decIw_iff (by decide)).2 ⟨d, m, p, Option.some.inj he, hwf, rfl⟩) (by unfold decodeOpc; rfl)
  | lea d a b p | leaX2 d a b p | leaX4 d a b p | leaX8 d a b p =>
    exact decodes_lea (Option.some.inj he) (by decide) (by decide) hwf (by unfold decodeOpc; rfl) fun h => by simp [h]
  | chk a b =>
    exact decodes (decChk_iff.2 ⟨a, b, Option.some.inj he, rfl⟩) (by unfold decodeOpc; rfl)
  | div d a b la | divn d a b la | rem d a b la | remn d a b la | divS32 d a b la | divnN32 d a b la | remS32 d a b la
  | remnN32 d a b la =>
    exact decodes_L (Option.some.inj he) (by decide) (by decide) (by unfold decodeOpc; rfl) fun h => by simp [h]
  | fsqrt d a f r la =>
    exact decodes (decFsqrt_iff.2 ⟨d, a, f, r, la, Option.some.inj he, rfl⟩) (by unfold decodeOpc; rfl)
  | fdiv d a b f r la =>
    cases f with
    | f64 | f32 => exact decodes ((decFdiv_iff (by decide)).2 ⟨d, a, b, r, la, Option.some.inj he, rfl⟩) (by unfold decodeOpc; rfl)
  | easgn d x la =>
    exact decodes (decEard_iff.2 ⟨d, x, la, .inl ⟨Option.some.inj he, rfl⟩⟩) (by unfold decodeOpc; rfl)
  | earnd d x r la =>
    exact decodes (decEard_iff.2 ⟨d, x, la, .inr (.inl ⟨r, Option.some.inj he, rfl⟩)⟩) (by unfold decodeOpc; rfl)
  | easts d x la =>
    exact decodes (decEard_iff.2 ⟨d, x, la, .inr (.inr ⟨Option.some.inj he, rfl⟩)⟩) (by unfold decodeOpc; rfl)
  | halloc d a b la =>
    exact decodes (decHalloc_iff.2 ⟨d, a, b, la, Option.some.inj he, rfl⟩) (by unfold decodeOpc; rfl)
  | hfree a b la =>
    exact decodes (decHfree_iff.2 ⟨a, b, la, Option.some.inj he, rfl⟩) (by unfold decodeOpc; rfl)
  | foldmark a la =>
    exact decodes (decFoldmark_iff.2 ⟨a, la, Option.some.inj he, rfl⟩) (by unfold decodeOpc; rfl)
  | beq a b o | bne a b o | blt a b o | bge a b o | bltn a b o | bgen a b o =>
    exact decodes ((decB_iff (by decide)).2 ⟨a, b, o, Option.some.inj he, rfl⟩) (by unfold decodeOpc; rfl)
  | bz a o | bnz a o =>
    exact decodes ((decBz_iff (by decide)).2 ⟨a, o, Option.some.inj he, rfl⟩) (by unfold decodeOpc; rfl)
  | j o | call o =>
    obtain ⟨hw, rfl⟩ := (enJ_eq_iff (by decide)).mp (Option.some.inj he)
    exact decodes ⟨hw, rfl⟩ (by unfold decodeOpc; rfl)
  | jr a =>
    exact decodes (decJr_iff.2 ⟨a, Option.some.inj he, if_neg (bne_iff_ne.mp hwf)⟩) (by unfold decodeOpc; rfl)
  | ret =>
    exact decodes (decJr_iff.2 ⟨31, Option.some.inj he, rfl⟩) (by unfold decodeOpc; rfl)
  | callr a =>
    exact decodes (decCallr_iff.2 ⟨a, Option.some.inj he, rfl⟩) (by unfold decodeOpc; rfl)
  | loop a n =>
    exact decodes (decLoop_iff.2 ⟨a, n, Option.some.inj he, bne_iff_ne.mp hwf, rfl⟩) (by unfold decodeOpc; rfl)
  | loopi a b c n =>
    obtain ⟨ha, hn⟩ := Bool.and_eq_true_iff.mp hwf
    exact decodes (decLoopi_iff.2 ⟨a, b, c, n, Option.some.inj he, fun h0 => bne_iff_ne.mp ha (congrArg Fin.val h0), bne_iff_ne.mp hn,
      rfl⟩) (by unfold decodeOpc; rfl)
  | trap n =>
    exact decodes (decSys_iff.2 (.inl ⟨n, Option.some.inj he, rfl⟩)) (by unfold decodeOpc; rfl)
  | swapw a =>
    exact decodes (decSys_iff.2 (.inr (.inl ⟨a, .inl ⟨Option.some.inj he, rfl⟩⟩))) (by unfold decodeOpc; rfl)
  | waitt a =>
    exact decodes (decSys_iff.2 (.inr (.inl ⟨a, .inr ⟨Option.some.inj he, rfl⟩⟩))) (by unfold decodeOpc; rfl)
  | nop =>
    exact decodes (decSys_iff.2 (.inr (.inr (.inl ⟨Option.some.inj he, rfl⟩)))) (by unfold decodeOpc; rfl)
  | eret =>
    exact decodes (decSys_iff.2 (.inr (.inr (.inr (.inl ⟨Option.some.inj he, rfl⟩))))) (by unfold decodeOpc; rfl)
  | phase =>
    exact decodes (decSys_iff.2 (.inr (.inr (.inr (.inr (.inl ⟨Option.some.inj he, rfl⟩)))))) (by unfold decodeOpc; rfl)
  | retire =>
    exact decodes (decSys_iff.2 (.inr (.inr (.inr (.inr (.inr (.inl ⟨Option.some.inj he, rfl⟩))))))) (by unfold decodeOpc; rfl)
  | snap =>
    exact decodes (decSys_iff.2 (.inr (.inr (.inr (.inr (.inr (.inr ⟨Option.some.inj he, rfl⟩))))))) (by unfold decodeOpc; rfl)
  | rds d m p =>
    obtain ⟨hm, hl⟩ := Bool.and_eq_true_iff.mp hwf
    exact decodes (decRds_iff.2 ⟨d, m, p, Option.some.inj he, hm, hl, rfl⟩) (by unfold decodeOpc; rfl)
  | wrs a m =>
    exact decodes (decWrs_iff.2 ⟨a, m, Option.some.inj he, hwf, rfl⟩) (by unfold decodeOpc; rfl)
  | ldS8 d b o la =>
    exact decodes (decLd_iff.2 ⟨d, b, o, la, .inl ⟨Option.some.inj he, rfl⟩⟩) (by unfold decodeOpc; rfl)
  | ldN8 d b o la =>
    exact decodes (decLd_iff.2 ⟨d, b, o, la, .inr (.inl ⟨Option.some.inj he, rfl⟩)⟩) (by unfold decodeOpc; rfl)
  | ldS16 d b o la =>
    exact decodes (decLd_iff.2 ⟨d, b, o, la, .inr (.inr (.inl ⟨Option.some.inj he, rfl⟩))⟩) (by unfold decodeOpc; rfl)
  | ldN16 d b o la =>
    exact decodes (decLd_iff.2 ⟨d, b, o, la, .inr (.inr (.inr (.inl ⟨Option.some.inj he, rfl⟩)))⟩) (by unfold decodeOpc; rfl)
  | ldS32 d b o la =>
    exact decodes (decLd_iff.2 ⟨d, b, o, la, .inr (.inr (.inr (.inr (.inl ⟨Option.some.inj he, rfl⟩))))⟩) (by unfold decodeOpc; rfl)
  | ldN32 d b o la =>
    exact decodes (decLd_iff.2 ⟨d, b, o, la, .inr (.inr (.inr (.inr (.inr (.inl ⟨Option.some.inj he, rfl⟩)))))⟩) (by unfold decodeOpc; rfl)
  | ldD d b o la =>
    exact decodes (decLd_iff.2 ⟨d, b, o, la, .inr (.inr (.inr (.inr (.inr (.inr ⟨Option.some.inj he, rfl⟩)))))⟩) (by unfold decodeOpc; rfl)
  | stB s b o =>
    exact decodes (decSt_iff.2 ⟨s, b, o, .inl ⟨Option.some.inj he, rfl⟩⟩) (by unfold decodeOpc; rfl)
  | stH s b o =>
    exact decodes (decSt_iff.2 ⟨s, b, o, .inr (.inl ⟨Option.some.inj he, rfl⟩)⟩) (by unfold decodeOpc; rfl)
  | stW s b o =>
    exact decodes (decSt_iff.2 ⟨s, b, o, .inr (.inr (.inl ⟨Option.some.inj he, rfl⟩))⟩) (by unfold decodeOpc; rfl)
  | stD s b o =>
    exact decodes (decSt_iff.2 ⟨s, b, o, .inr (.inr (.inr ⟨Option.some.inj he, rfl⟩))⟩) (by unfold decodeOpc; rfl)
  | vld d e b x k la =>
    exact decodes (decVld_iff.2 ⟨d, e, b, x, k, la, Option.some.inj he, rfl⟩) (by unfold decodeOpc; rfl)
  | vlds d e b x k la =>
    exact decodes (decVlds_iff.2 ⟨d, e, b, x, k, la, Option.some.inj he, rfl⟩) (by unfold decodeOpc; rfl)
  | vldx d e b x k la =>
    exact decodes (decVldx_iff.2 ⟨d, e, b, x, k, la, Option.some.inj he, rfl⟩) (by unfold decodeOpc; rfl)
  | vst s e b x k =>
    exact decodes (decVst_iff.2 ⟨s, e, b, x, k, Option.some.inj he, rfl⟩) (by unfold decodeOpc; rfl)
  | vstx s e b x k =>
    exact decodes (decVstx_iff.2 ⟨s, e, b, x, k, Option.some.inj he, rfl⟩) (by unfold decodeOpc; rfl)
  | aadd d c b t s la | amin d c b t s la | amax d c b t s la | axchg d c b t s la | acas d c b t s la =>
    exact decodes ((decMa_iff (by decide)).2 ⟨d, c, b, t, s, la, Option.some.inj he, rfl⟩) (by unfold decodeOpc; rfl)
  | afadd d c b t s la =>
    exact decodes (decAfadd_iff.2 ⟨d, c, b, t, s, la, Option.some.inj he, rfl⟩) (by unfold decodeOpc; rfl)
  | afaddDet d c b t la =>
    exact decodes (decAfaddDet_iff.2 ⟨d, c, b, t, la, Option.some.inj he, rfl⟩) (by unfold decodeOpc; rfl)
  | fence k s =>
    exact decodes (decFence_iff.2 ⟨k, s, Option.some.inj he, rfl⟩) (by unfold decodeOpc; rfl)
  | fadd d a b t r p | fsub d a b t r p | fmul d a b t r p =>
    exact decodes ((decRf_iff (by decide)).2 ⟨d, a, b, t, r, p, Option.some.inj he, hwf, rfl⟩) (by unfold decodeOpc; rfl)
  | ffma d a b t r p | ffms d a b t r p =>
    exact decodes ((decFfma_iff (by decide)).2 ⟨d, a, b, t, r, p, Option.some.inj he, hwf, rfl⟩) (by unfold decodeOpc; rfl)
  | fmin d a b t p | fmax d a b t p | fcmpEq d a b t p | fcmpNe d a b t p | fcmpLt d a b t p | fcmpLe d a b t p | fcmpUn d a b t p
  | fsgnCp d a b t p | fsgnNg d a b t p | fsgnXr d a b t p =>
    exact decodes_RfSel (Option.some.inj he) (by decide) (by decide) hwf (by unfold decodeOpc; rfl) fun h => by simp [h]
  | fclass d a t p =>
    exact decodes (decFclass_iff.2 ⟨d, a, t, p, Option.some.inj he, hwf, rfl⟩) (by unfold decodeOpc; rfl)
  | fcvt d a s t r =>
    exact decodes (decFcvt_iff.2 ⟨d, a, s, t, r, Option.some.inj he, rfl⟩) (by unfold decodeOpc; rfl)
  | mand d a b =>
    exact decodes (decMlogic_iff.2 ⟨d, a, .inl ⟨b, .inl ⟨Option.some.inj he, rfl⟩⟩⟩) (by unfold decodeOpc; rfl)
  | mor d a b =>
    exact decodes (decMlogic_iff.2 ⟨d, a, .inl ⟨b, .inr (.inl ⟨Option.some.inj he, rfl⟩)⟩⟩) (by unfold decodeOpc; rfl)
  | mxor d a b =>
    exact decodes (decMlogic_iff.2 ⟨d, a, .inl ⟨b, .inr (.inr ⟨Option.some.inj he, rfl⟩)⟩⟩) (by unfold decodeOpc; rfl)
  | mnot d a =>
    exact decodes (decMlogic_iff.2 ⟨d, a, .inr ⟨Option.some.inj he, rfl⟩⟩) (by unfold decodeOpc; rfl)
  | mpop d a p =>
    exact decodes (decMpop_iff.2 ⟨d, a, p, Option.some.inj he, hwf, rfl⟩) (by unfold decodeOpc; rfl)
  | bmany m o | bmall m o =>
    exact decodes ((decBm_iff (by decide)).2 ⟨m, o, Option.some.inj he, rfl⟩) (by unfold decodeOpc; rfl)
  | vadd d a b k t r p | vsub d a b k t r p | vmul d a b k t r p =>
    obtain ⟨hr, hl⟩ := Bool.and_eq_true_iff.mp hwf
    exact decodes ((decV_iff (by decide)).2 ⟨d, a, b, k, t, r, p, Option.some.inj he, hr, hl, rfl⟩) (by unfold decodeOpc; rfl)
  | vdiv d a b k f r la =>
    exact decodes (decVdiv_iff.2 ⟨d, a, b, k, f, r, la, Option.some.inj he, rfl⟩) (by unfold decodeOpc; rfl)
  | vmin d a b k t p | vmax d a b k t p =>
    exact decodes_VSel (Option.some.inj he) (by decide) (by decide) hwf (by unfold decodeOpc; rfl) fun h => by simp [h]
  | vand d a b k t p | vor d a b k t p | vxor d a b k t p | vshl d a b k t p | vshr d a b k t p =>
    obtain ⟨ht, hl⟩ := Bool.and_eq_true_iff.mp hwf
    exact decodes_VSel (Option.some.inj he) (by decide) (by decide) hl (by unfold decodeOpc; rfl) fun h => by simpa [h] using ht
  | vcmpEq d a b k t | vcmpNe d a b k t | vcmpLt d a b k t | vcmpLe d a b k t =>
    exact decodes_vcmp (Option.some.inj he) (by decide) (by decide) (by unfold decodeOpc; rfl) fun h => by simp [h]
  | vcmpUn d a b k t =>
    have ht : (!t.isInt) = true := hwf
    exact decodes_vcmp (Option.some.inj he) (by decide) (by decide) (by unfold decodeOpc; rfl) fun h => by simpa [h] using ht
  | vsel d a b k p | vshuf d a b k p =>
    exact decodes ((decVMove_iff (by decide)).2 ⟨d, a, b, k, p, Option.some.inj he, hwf, rfl⟩) (by unfold decodeOpc; rfl)
  | vbcast s v k t p =>
    exact decodes (decVbcast_iff.2 ⟨s, v, k, t, p, Option.some.inj he, hwf, rfl⟩) (by unfold decodeOpc; rfl)
  | vext s v n t p =>
    exact decodes (decVext_iff.2 ⟨s, v, n, t, p, Option.some.inj he, hwf, rfl⟩) (by unfold decodeOpc; rfl)
  | vins s v n t p =>
    exact decodes (decVins_iff.2 ⟨s, v, n, t, p, Option.some.inj he, hwf, rfl⟩) (by unfold decodeOpc; rfl)
  | vredAdd s v r k t p =>
    obtain ⟨hr, hl⟩ := Bool.and_eq_true_iff.mp hwf
    exact decodes (decVred_iff.2 ⟨s, v, k, t, .inl ⟨r, p, Option.some.inj he, hr, hl, rfl⟩⟩) (by unfold decodeOpc; rfl)
  | vredMin s v k t p =>
    exact decodes (decVred_iff.2 ⟨s, v, k, t, .inr (.inl ⟨p, Option.some.inj he, hwf, rfl⟩)⟩) (by unfold decodeOpc; rfl)
  | vredMax s v k t p =>
    exact decodes (decVred_iff.2 ⟨s, v, k, t, .inr (.inr ⟨p, Option.some.inj he, hwf, rfl⟩)⟩) (by unfold decodeOpc; rfl)
  | vcvt d a s t k r =>
    exact decodes (decVcvt_iff.2 ⟨d, a, s, t, k, r, Option.some.inj he, rfl⟩) (by unfold decodeOpc; rfl)
  | vsqrt d a k f r la =>
    exact decodes (decVsqrt_iff.2 ⟨d, a, k, f, r, la, Option.some.inj he, rfl⟩) (by unfold decodeOpc; rfl)
  | vabs d a k t p | vneg d a k t p =>
    obtain ⟨ht, hl⟩ := Bool.and_eq_true_iff.mp hwf
    exact decodes_vsign (Option.some.inj he) (by decide) (by decide) ht hl (by unfold decodeOpc; rfl) fun h => by simp [h]
  | viota d k t p =>
    exact decodes (decViota_iff.2 ⟨d, k, t, p, Option.some.inj he, hwf, rfl⟩) (by unfold decodeOpc; rfl)
  | eamac x a b f la | eamacNg x a b f la =>
    exact decodes_eamac (Option.some.inj he) (by decide) (by decide) (by unfold decodeOpc; rfl) fun h => by simp [h]
  | eamac3 x a b c f la | eamac3Ng x a b c f la =>
    exact decodes_eamac3 (Option.some.inj he) (by decide) (by decide) (by unfold decodeOpc; rfl) fun h => by simp [h]
  | eaclr x =>
    exact decodes (decEagen_iff.2 ⟨x, .inl ⟨Option.some.inj he, rfl⟩⟩) (by unfold decodeOpc; rfl)
  | eaadd x s la =>
    exact decodes (decEagen_iff.2 ⟨x, .inr ⟨s, la, .inl ⟨Option.some.inj he, rfl⟩⟩⟩) (by unfold decodeOpc; rfl)
  | eaaddNg x s la =>
    exact decodes (decEagen_iff.2 ⟨x, .inr ⟨s, la, .inr ⟨Option.some.inj he, rfl⟩⟩⟩) (by unfold decodeOpc; rfl)
  | xop s d a b la =>
    exact decodes (decXop_iff.2 ⟨s, d, a, b, la, Option.some.inj he, rfl⟩) (by unfold decodeOpc; rfl)
  | xcfg s b la =>
    exact decodes (decXcfg_iff.2 ⟨s, b, la, Option.some.inj he, rfl⟩) (by unfold decodeOpc; rfl)
  | xdrop s la =>
    exact decodes (decXdrop_iff.2 ⟨s, la, Option.some.inj he, rfl⟩) (by unfold decodeOpc; rfl)
  | offer d e a =>
    exact decodes (decOffer0_iff.2 ⟨d, e, a, Option.some.inj he, rfl⟩) (by unfold decodeOpc; rfl)
  | choose d | poll d | withdraw d =>
    exact decodes ((decChoose_iff (by decide)).2 ⟨d, Option.some.inj he, rfl⟩) (by unfold decodeOpc; rfl)
  | evjoin e | evleave e =>
    exact decodes ((decEvjoin_iff (by decide)).2 ⟨e, Option.some.inj he, rfl⟩) (by unfold decodeOpc; rfl)
  | evbind d e a =>
    exact decodes (decEvbind_iff.2 (.inl ⟨d, e, a, Option.some.inj he, rfl⟩)) (by unfold decodeOpc; rfl)
  | evbindU e a =>
    exact decodes (decEvbind_iff.2 (.inr ⟨e, a, Option.some.inj he, rfl⟩)) (by unfold decodeOpc; rfl)
  | rqpush d v a =>
    exact decodes (decRqpush_iff.2 ⟨d, v, a, Option.some.inj he, rfl⟩) (by unfold decodeOpc; rfl)
  | rqpop d t a =>
    exact decodes (decRqpop_iff.2 ⟨d, t, a, Option.some.inj he, rfl⟩) (by unfold decodeOpc; rfl)
  | qpushSl d a s =>
    exact decodes (decQpush_iff.2 ⟨d, a, .inl ⟨s, Option.some.inj he, rfl⟩⟩) (by unfold decodeOpc; rfl)
  | qpushGth d a =>
    exact decodes (decQpush_iff.2 ⟨d, a, .inr (.inl ⟨Option.some.inj he, rfl⟩)⟩) (by unfold decodeOpc; rfl)
  | qpushCpy d a =>
    exact decodes (decQpush_iff.2 ⟨d, a, .inr (.inr ⟨Option.some.inj he, rfl⟩)⟩) (by unfold decodeOpc; rfl)
  | qstat d a =>
    exact decodes (decQstat_iff.2 ⟨d, a, Option.some.inj he, rfl⟩) (by unfold decodeOpc; rfl)
  | mgang d a | fuse d a =>
    exact decodes ((decGang_iff (by decide)).2 ⟨d, a, Option.some.inj he, rfl⟩) (by unfold decodeOpc; rfl)
  | unfuse d =>
    exact decodes (decUnfuse_iff.2 ⟨d, Option.some.inj he, rfl⟩) (by unfold decodeOpc; rfl)
  | rwr d s n =>
    exact decodes (decRwr_iff.2 ⟨d, s, n, Option.some.inj he, rfl⟩) (by unfold decodeOpc; rfl)
  | rwrs d s n g | rrd d s n g =>
    exact decodes ((decRwrs_iff (by decide)).2 ⟨d, s, n, g, Option.some.inj he, rfl⟩) (by unfold decodeOpc; rfl)
  | radd d n t =>
    exact decodes (decRadd_iff.2 ⟨d, n, t, Option.some.inj he, rfl⟩) (by unfold decodeOpc; rfl)
  | raddDetF64 d n =>
    exact decodes (decRaddDet_iff.2 ⟨d, n, .inl ⟨Option.some.inj he, rfl⟩⟩) (by unfold decodeOpc; rfl)
  | raddDetF32 d n =>
    exact decodes (decRaddDet_iff.2 ⟨d, n, .inr ⟨Option.some.inj he, rfl⟩⟩) (by unfold decodeOpc; rfl)
  | radds d n g t =>
    exact decodes (decRadds_iff.2 ⟨d, n, g, t, Option.some.inj he, rfl⟩) (by unfold decodeOpc; rfl)
  | vfma r d a b c k p f | vfms r d a b c k p f =>
    cases r with
    | rne | rtz | rup | rdn => exact decodes_V4 (Option.some.inj he) (by decide) hwf (by unfold decodeOpc; rfl)
  | illegal v => exact absurd rfl (hne v)
  | _ => cases he

/-- Settles O58: both directions, by the cases of the instruction and by those of the opcode map. -/
theorem encodeDecodeRoundTrip : Obligations.EncodeDecodeRoundTrip := by
  refine ⟨fun i w hwf hne he => ?_, fun i w hw h => wordOf_of_decodeOpc ⟨hw, rfl⟩ h⟩
  obtain ⟨hw, h⟩ := decodeNat_of_encode hwf hne he
  refine ⟨hw, h, ?_⟩
  rw [decode, BitVec.toNat_ofNat, Nat.mod_eq_of_lt hw, h]

end Sys2Proof

/-! A word that is no instruction (R67, R68). -/

namespace Sys2Proof.Machine

open Sys2Proof

/-- A first check that fails traps a quiet strand at the instruction, which does nothing else. -/
theorem issueWith_quiet_trap {s : State} {k : CoreKey} {b : Fin 2} {t : Trap} (f : Foot) {pre : Bank → CoreKey → Option Trap}
    (body : State → CoreKey → Fin 2 → Act) (hq : Quiet s k b) (ht : pre (s.bank k b) k = some t) :
    issueWith s f pre body = .next (s.trapNow k b t) := by
  obtain ⟨hi, hp, hr⟩ := hq
  simp [issueWith, hi, ht, gate_pre _ _ _ hp hr]

/-- Settles O14: the check that a word fails is the first check of its issue, and its number is the detail. -/
theorem illegalWordTraps : Obligations.IllegalWordTraps := by
  unfold Obligations.IllegalWordTraps
  intro s k b w hq
  refine ⟨BitVec.ofNat 8 (illegalDetail (s.bank k b) w.toNat), ?_⟩
  change execIllegal w s = _
  exact issueWith_quiet_trap _ _ hq rfl

end Sys2Proof.Machine

/-! The commands' pushes (R77, R249, R252). -/

namespace Sys2Proof.Machine

open Sys2Proof

/-! What a skid record leaves. -/

theorem accessFrame_skidMore (s : State) (k : CoreKey) (m : Nat) : AccessFrame s (s.skidMore k m) :=
  .ite _ (.setClu rfl) .refl

theorem accessFrame_skidStart (t s : State) (k : CoreKey) : AccessFrame t (t.skidStart s k) :=
  .ite _ (.setClu rfl) .refl

@[simp] theorem skidMore_mem (s : State) (k : CoreKey) (m : Nat) : (s.skidMore k m).mem = s.mem :=
  (sameBut_ite _ (sameBut_setClu _ _ _) .rfl : SameBut s (s.skidMore k m)).mem

@[simp] theorem skidStart_mem (t s : State) (k : CoreKey) : (t.skidStart s k).mem = t.mem :=
  (sameBut_ite _ (sameBut_setClu _ _ _) .rfl : SameBut t (t.skidStart s k)).mem

theorem AccessFrame.bank {s t : State} (a : AccessFrame s t) (k : CoreKey) (b : Fin 2) : t.bank k b = s.bank k b := by
  rw [State.bank, a.core]
  rfl

/-! An instruction that ends by writing RD. -/

@[simp] theorem advance_ctx (x : Bank) (goto : Option Word) : (x.advance goto).ctx = x.ctx := by
  unfold Bank.advance
  simp only
  split
  · split <;> rfl
  · split <;> rfl

/-- What `finish` leaves: the package as its body left it, but for the strand's own bank, RD in it, and a skid record. -/
theorem apply_finish (s t : State) (k : CoreKey) (b : Fin 2) (d : DReg) (w : Word) :
    (s.apply k b (finish t k b d w none)).mem = t.mem ∧
    ((s.apply k b (finish t k b d w none)).bank k b).ctx = (t.bank k b).ctx.setS d.val w ∧
    ∀ c, ((s.apply k b (finish t k b d w none)).clu c).cmds = (t.clu c).cmds := by
  simp only [finish, State.apply, State.complete, State.skidDone]
  refine ⟨?_, ?_, fun c => ?_⟩
  · simp only [skidStart_mem, skidMore_mem]
    rfl
  · simp [(accessFrame_skidStart _ _ _).bank, (accessFrame_skidMore _ _ _).bank]
  · simp [(accessFrame_skidStart _ _ _).cmds, (accessFrame_skidMore _ _ _).cmds]

/-- An instruction that writes RD of the strand as it stands, and changes nothing else. -/
theorem apply_finish_same (s : State) (k : CoreKey) (b : Fin 2) (d : DReg) (w : Word) :
    s.apply k b (finish s k b d w none) = s.ran k b (fun r => r.setS d.val w) none :=
  skidStart_same _ _ _ (by simp)

/-! The read of a command word. -/

/-- The read of a command word leaves memory and the banks as they were. -/
theorem sameBut_readCommand {s s1 : State} {v : View} {p : Word} {n loc : Nat} {bs : List Byte} {w : Option Trap}
    (h : s.readCommand v p n = .ok (loc, bs, s1, w)) : SameBut s s1 := by
  unfold State.readCommand at h
  split at h
  · cases h
  · split at h
    · cases h
    · cases h
      exact sameBut_served _ _ _ _ _ _

/-! What an acceptance adds. -/

theorem cmds_addLocks (l : List Lock) (x : Cluster) : (x.addLocks l).cmds = x.cmds := by
  induction l generalizing x with
  | nil => rfl
  | cons a l ih =>
    rw [Cluster.addLocks]
    split
    · exact ih _
    · rfl

theorem cmds_enterNode (x : Cluster) (w : CmdWords) : (x.enterNode w).cmds = x.cmds := by
  unfold Cluster.enterNode
  split <;> rfl

/-- A fresh push appends its command, queued, to those of the cluster. -/
theorem acceptCmd_fresh {s : State} {u : Pusher} {loc : Nat} (q : Fin 6) (p : Word) (w : CmdWords)
    (h : (s.clu (clusterOf u.core)).cmdAt loc = none) :
    ∃ m : Cmd, ((s.acceptCmd u q p loc w none).clu (clusterOf u.core)).cmds = (s.clu (clusterOf u.core)).cmds ++ [m] ∧
      m.q = q ∧ m.words = w ∧ m.st = .queued ∧ m.pch = w.pch ∧ m.loc = loc ∧ m.core = u.core ∧ m.who = u.who ∧ m.tok = u.tok := by
  unfold State.acceptCmd
  simp only [h]
  refine ⟨_, (congrArg Cluster.cmds (clu_setClu_same _ _ _)).trans (congrArg (· ++ [_]) ?_), rfl, rfl, rfl, rfl, rfl, rfl, rfl, rfl⟩
  split
  · rw [cmds_addLocks, cmds_addLocks, cmds_enterNode]; rfl
  · rw [cmds_addLocks, cmds_enterNode]; rfl

/-! QPUSH. -/

/-- What a push makes of the package as the read of its word leaves it. -/
def pushAct (s : State) (k : CoreKey) (b : Fin 2) (d : DReg) (q : Fin 6) (p : Word) (loc : Nat) (cw : CmdWords) : Act :=
  match s.checkCmd k q.val p loc cw (s.pusher k b).tok false with
  | some t => .trapAt s t
  | none =>
    if depth q.val ≤ (s.clu (clusterOf k)).queued q.val then finish s k b d minus1 none
    else if (s.clu (clusterOf k)).freeLocks < pushRanges ((opOf cw.cop).getD .mzero) cw q.val then finish s k b d minus2 none
    else finish (s.acceptCmd (s.pusher k b) q p loc cw none) k b d 0 none

/-- The commands that a queue holds are those of it that are not stopped. -/
theorem queued_eq (x : Cluster) (q : Nat) :
    x.queued q = (x.cmds.filter fun m => decide (m.st ≠ .stopped) && m.q.val == q).length := by
  simp [Cluster.queued, Cmd.held, bne, beq_eq_decide]

/-- A push of a quiet strand with no one-sided operation out reads its word and then acts on it. -/
theorem issuePush_of_read {s s1 : State} {k : CoreKey} {b : Fin 2} {a : WReg} {loc : Nat} {bs : List Byte} (d : DReg) (q : Fin 6)
    (hq : Quiet s k b) (hops : s.opsOut (s.bank k b).id.who .dm = false)
    (hread : s.readCommand (s.view k b) ((s.bank k b).ctx.s a.val) 32 = .ok (loc, bs, s1, none)) :
    issuePush s d a q = .next (s.apply k b (pushAct s1 k b d q ((s.bank k b).ctx.s a.val) loc (cmdWordsOf bs))) := by
  have hrel : s.relWaits (s.bank k b) .dm = false := by
    obtain ⟨-, hp, -⟩ := hq
    simp [State.relWaits, State.fenceWaits, hp, hops]
  rw [issuePush, issue_quiet _ _ _ _ _ hq]
  simp only [hrel, hread]
  rfl

section

variable {s : State} {k : CoreKey} {b : Fin 2} (d : DReg) (q : Fin 6) (p : Word) {loc : Nat} {cw : CmdWords}

theorem pushAct_check {t : Trap} (h : s.checkCmd k q.val p loc cw (s.pusher k b).tok false = some t) :
    pushAct s k b d q p loc cw = .trapAt s t := by
  simp only [pushAct, h]

variable (hok : s.checkCmd k q.val p loc cw (s.pusher k b).tok false = none)
include hok

theorem pushAct_full (h : depth q.val ≤ (s.clu (clusterOf k)).queued q.val) :
    pushAct s k b d q p loc cw = finish s k b d minus1 none := by
  simp only [pushAct, hok, if_pos h]

theorem pushAct_noLocks (h : (s.clu (clusterOf k)).queued q.val < depth q.val)
    (hl : (s.clu (clusterOf k)).freeLocks < pushRanges ((opOf cw.cop).getD .mzero) cw q.val) :
    pushAct s k b d q p loc cw = finish s k b d minus2 none := by
  simp only [pushAct, hok, if_neg (Nat.not_le.mpr h), if_pos hl]

theorem pushAct_accepts (h : (s.clu (clusterOf k)).queued q.val < depth q.val)
    (hl : pushRanges ((opOf cw.cop).getD .mzero) cw q.val ≤ (s.clu (clusterOf k)).freeLocks) :
    pushAct s k b d q p loc cw = finish (s.acceptCmd (s.pusher k b) q p loc cw none) k b d 0 none := by
  simp only [pushAct, hok, if_neg (Nat.not_le.mpr h), if_neg (Nat.not_lt.mpr hl)]

end

/-! QSTAT. -/

section

variable {s s1 : State} {k : CoreKey} {b : Fin 2} {a : WReg} {pl : Place} {loc : Nat} {bs : List Byte} (d : DReg)
  (hq : Quiet s k b) (hpl : s.commandPlace (s.view k b) ((s.bank k b).ctx.s a.val) 8 = .ok pl)
include hq hpl

/-- QSTAT of a word whose command is held reads no memory. -/
theorem execQstat_held {y : Nat} (hy : ((s.clu (clusterOf k)).cmdAt pl.loc).bind Cmd.progress = some y) :
    execQstat d a s = .next (s.ran k b (fun r => r.setS d.val (BitVec.ofNat 64 y)) none) := by
  rw [execQstat, issue_quiet _ _ _ _ _ hq]
  simp only [hpl, hy, apply_finish_same]

/-- QSTAT of a word whose command is not held reads the word. -/
theorem execQstat_reads (hn : ((s.clu (clusterOf k)).cmdAt pl.loc).bind Cmd.progress = none)
    (hread : s.readCommand (s.view k b) ((s.bank k b).ctx.s a.val) 8 = .ok (loc, bs, s1, none)) :
    execQstat d a s = .next (s.apply k b (finish s1 k b d (BitVec.ofNat 64 (leNat bs % 2048)) none)) := by
  rw [execQstat, issue_quiet _ _ _ _ _ hq]
  simp only [hpl, hn, hread]

end

theorem progress_stopped {m : Cmd} (h : m.st = .stopped) : m.progress = none := by simp only [Cmd.progress, h]

theorem progress_held {m : Cmd} (h : m.st ≠ .stopped) :
    m.progress = some (if m.st = .queued then 0 else 0x200 + min m.pch (m.steps - 1)) := by
  unfold Cmd.progress
  split <;> simp_all

theorem depth_slice (n : Fin 4) : depth n.val = 32 := if_neg (by omega)

/-- What an instruction leaves that ends by writing RD: memory, the strand's registers but RD, and the commands of the clusters as its body left them. -/
theorem apply_finish_of {s u : State} {k : CoreKey} {b : Fin 2} (d : DReg) (w : Word) (hbank : u.bank k b = s.bank k b) (hmem : u.mem = s.mem) :
    ((s.apply k b (finish u k b d w none)).mem = s.mem ∧
      ((s.apply k b (finish u k b d w none)).bank k b).ctx = (s.bank k b).ctx.setS d.val w) ∧
    ∀ c, ((s.apply k b (finish u k b d w none)).clu c).cmds = (u.clu c).cmds := by
  obtain ⟨hm, hc, hcmds⟩ := apply_finish s u k b d w
  exact ⟨⟨hm.trans hmem, hc.trans (by rw [hbank])⟩, hcmds⟩

/-- Settles O36: a push is its read followed by `pushAct`, QSTAT is one of its two cases. -/
theorem commandPush : Obligations.CommandPush := by
  unfold Obligations.CommandPush
  intro s s1 k b d a n loc bs hq x cl p cw put held free tok pushes
  have hpush : ∀ (i : Instr) (q : Fin 6) (room : Nat), exec i s = issuePush s d a q → depth q.val = room → pushes i q room := by
    intro i q room hi hdepth hops hread
    subst hdepth
    have hbut := sameBut_readCommand hread
    have hbank : s1.bank k b = x := by simp only [State.bank, State.core, hbut.cores, x]
    have htok : (s1.pusher k b).tok = tok := by simp only [State.pusher, hbank, tok]
    have hexec := hi.trans (issuePush_of_read d q hq hops hread)
    have hheld : (s1.clu cl).queued q.val = held q.val := queued_eq _ _
    rw [← htok, ← hheld]
    refine ⟨fun t ht => ?_, fun hok => ⟨fun hfull => ?_, fun hroom hl => ?_, fun hroom hl hat => ?_⟩⟩
    · rw [hexec, pushAct_check d q p ht]
      rfl
    · rw [pushAct_full d q p hok hfull] at hexec
      obtain ⟨hput, hcmds⟩ := apply_finish_of d minus1 hbank hbut.mem
      exact ⟨_, hexec, hput, hcmds cl⟩
    · rw [pushAct_noLocks d q p hok hroom hl] at hexec
      obtain ⟨hput, hcmds⟩ := apply_finish_of d minus2 hbank hbut.mem
      exact ⟨_, hexec, hput, hcmds cl⟩
    · rw [pushAct_accepts d q p hok hroom hl] at hexec
      obtain ⟨m, hm, hqm, hw, hst, hpch, hloc, hcore, hwho, htokm⟩ := acceptCmd_fresh (u := s1.pusher k b) q p cw hat
      obtain ⟨hput, hcmds⟩ := apply_finish_of (u := s1.acceptCmd (s1.pusher k b) q p loc cw none) d 0 hbank hbut.mem
      exact ⟨_, m, hexec, hput, (hcmds cl).trans hm, hqm, hw, hst, hpch, hloc, hcore, hwho.trans (by rw [State.pusher, hbank]), htokm⟩
  refine ⟨hpush (.qpushSl d a n) _ 32 rfl (depth_slice n), hpush (.qpushGth d a) 4 32 rfl rfl, hpush (.qpushCpy d a) 5 64 rfl rfl,
    fun pl hpl => ⟨fun m hm hst => ?_, fun hn hread => ?_⟩⟩
  · refine (execQstat_held d hq hpl (by rw [hm]; exact progress_held hst)).trans ?_
    split <;> rfl
  · have hnone : ((s.clu cl).cmdAt pl.loc).bind Cmd.progress = none :=
      Option.bind_eq_none_iff.mpr fun m hm => progress_stopped (hn m hm)
    have hbut := sameBut_readCommand hread
    have hbank : s1.bank k b = x := by simp only [State.bank, State.core, hbut.cores, x]
    exact ⟨_, execQstat_reads d hq hpl hnone hread, (apply_finish_of d _ hbank hbut.mem).1⟩

end Sys2Proof.Machine

/-! The steps of the copy and gather commands (R73, R190, R254, R255, R279). -/

namespace Sys2Proof.Machine

open Sys2Proof

/-! A step of a running command. -/

/-- The command's next step may be made: it runs as the operation, in a cluster that is not frozen and is owed no delivery, or its accesses to another package are under way. -/
def State.RunsStep (s : State) (c : ClusterKey) (i : Nat) (m : Cmd) (o : Op) : Prop :=
  (s.clu c).cmd i = some m ∧ m.st = .running ∧ m.op = some o ∧
    (s.asks (.cmd m.id) = true ∨ ((s.clu c).verm.frz = false ∧ (m.q = 5 → s.deliversIn c = false)))

/-- The package after a step of m that leaves the command as y: the step counts. -/
def State.stepDone (t : State) (c : ClusterKey) (m y : Cmd) : State :=
  (t.setClu c ((t.clu c).setCmd
    { y with pch := m.pch + 1, st := if m.steps ≤ m.pch + 1 then .finished else .running })).dropAsks (.cmd m.id)

section

variable {s t : State} {c : ClusterKey} {i : Nat} {m y : Cmd} {o : Op} {f : State → Cmd → Eng (State × Cmd)} {cause : Cause} {e : Nat}

theorem RunsStep.notHeld (hr : s.RunsStep c i m o) :
    (m.st != .running || m.op != some o || (!s.asks (.cmd m.id) && ((s.clu c).verm.frz || (m.q == 5 && s.deliversIn c)))) = false := by
  obtain ⟨-, hst, hop, hgo⟩ := hr
  rcases hgo with hasks | ⟨hfrz, hdel⟩
  · simp [hst, hop, hasks]
  · by_cases hq : m.q = 5
    · simp [hst, hop, hfrz, hdel hq]
    · simp [hst, hop, hfrz, hq]

theorem stepWith_done (hr : s.RunsStep c i m o) (hf : f s m = .ok (t, y)) : stepWith s c i o f = .next (t.stepDone c m y) := by
  obtain ⟨hm, -⟩ := id hr
  simp only [stepWith, hm, RunsStep.notHeld hr, hf]
  rfl

theorem stepWith_fails (hr : s.RunsStep c i m o) (hf : f s m = .error (.stop (.trap cause e))) :
    stepWith s c i o f = .next (s.stepFails c m cause) := by
  obtain ⟨hm, -⟩ := id hr
  simp only [stepWith, hm, RunsStep.notHeld hr, hf]
  rfl

end

/-! Accesses of a copy in this package. -/

/-- The place of n bytes at p lies in this package. -/
def State.Here (s : State) (v : View) (p n : Nat) : Prop := ∃ pl, s.issueChecks v p n 1 = .ok pl ∧ pl.isFar = false

section

variable {s t : State} {m : Cmd} {p n : Nat} {bs : List Byte}

theorem copyGet_here (h : s.Here m.view p n) : s.copyGet m p n = eng (s.engineRead m.view p n 1) := by
  obtain ⟨pl, hpl, hfar⟩ := h
  simp [State.copyGet, eng, hpl, hfar, bind, Except.bind]

theorem copyMay_here (h : s.Here m.view p n) : s.copyMay m p n = .ok () := by
  obtain ⟨pl, hpl, hfar⟩ := h
  simp [State.copyMay, eng, hpl, hfar, bind, Except.bind, pure, Except.pure]

theorem copyPut_here (h : s.Here m.view p bs.length) : s.copyPut m p bs = eng (s.engineWrite m.view p 1 bs) := by
  obtain ⟨pl, hpl, hfar⟩ := h
  simp [State.copyPut, eng, hpl, hfar, bind, Except.bind]

theorem writeRuns_here (h : s.Here m.view p bs.length) : s.writeRuns m [(p, bs)] = eng (s.engineWrite m.view p 1 bs) := by
  obtain ⟨pl, hpl, hfar⟩ := h
  cases hw : s.engineWrite m.view p 1 bs <;>
    simp [State.writeRuns, State.writeHere, eng, hpl, hfar, hw, bind, Except.bind]

end

/-! Words read ahead (R190). -/

/-- Where the read of n bytes at p ends, of a range that ends at hi: with the aligned word that it ends in. -/
def readTop (hi p n : Nat) : Nat := max (p + n) (min hi ((p + n + 7) / 8 * 8))

section

variable {s t : State} {m : Cmd} {hi p n : Nat} {bs : List Byte}

theorem copyRead_ok (ha : m.ahead = none) (hn : 0 < n) (hg : s.copyGet m p (readTop hi p n - p) = .ok (bs, t)) :
    s.copyRead m hi p n =
      .ok (bs.take n, t, { m with ahead := if (bs.drop n).isEmpty then none else some (p + n, bs.drop n) }) := by
  have hlo : ¬ p + n ≤ p := by omega
  unfold readTop at hg
  simp only [State.copyRead, ha, List.length_nil, if_neg hlo, Nat.add_zero, hg, Nat.add_sub_cancel_left]
  rfl

theorem copyRead_error {e : EngStop} (ha : m.ahead = none) (hn : 0 < n) (hg : s.copyGet m p (readTop hi p n - p) = .error e) :
    s.copyRead m hi p n = .error e := by
  have hlo : ¬ p + n ≤ p := by omega
  unfold readTop at hg
  simp only [State.copyRead, ha, List.length_nil, if_neg hlo, Nat.add_zero, hg]
  rfl

/-- Bytes read ahead are taken as they stand. -/
theorem copyRead_ahead (ha : m.ahead = some (p, bs)) (hn : 0 < n) (hl : n ≤ bs.length) :
    s.copyRead m hi p n = .ok (bs.take n, s, m) := by
  have hin : p < p + bs.length := by omega
  have hlen : (bs.take n).length = n := by simpa using hl
  simp only [State.copyRead, ha, hin, Nat.le_refl, true_and, if_true, Nat.sub_self, List.drop_zero, hlen]
  rfl

end

/-! The runs of a step. -/

/-- A step of a copy: its runs read, or as they were read, and written. -/
def copyStep (read : State → Cmd → Eng (List (Nat × List Byte) × State × Cmd)) (next : Option Nat) (s : State) (m : Cmd) :
    Eng (State × Cmd) := do
  let (rs, s1, m1) ← stepRuns s m read
  s1.copyWrite m1 next rs

/-- The one run of a step of CPY: n bytes at offset o. -/
def cpyRuns (w : CmdWords) (o n : Nat) (s : State) (m : Cmd) : Eng (List (Nat × List Byte) × State × Cmd) := do
  let (bs, s1, m1) ← s.copyRead m (w.p1 + w.len) (w.p1 + o) n
  return ([(w.p2 + o, bs)], s1, m1)

theorem cpyStep_eq {s : State} {m : Cmd} {o n : Nat} (h : copyPiece (CmdWords.len m.words) m.pch = (o, n)) :
    cpyStep s m = copyStep (cpyRuns m.words o n)
      (if o + n < CmdWords.len m.words then some (CmdWords.p2 m.words + o + n) else none) s m := by
  simp only [cpyStep, h]
  rfl

theorem cpy2dStep_eq {s : State} {m : Cmd} {g : Nat} (h : cdiv (CmdWords.nrow m.words) 256 = g) :
    cpy2dStep s m = copyStep (fun s m1 => readRows m1 (min g (CmdWords.nrow m.words - m.pch * g)) (m.pch * g) s)
      (if m.pch * g + min g (CmdWords.nrow m.words - m.pch * g) < CmdWords.nrow m.words then
        some (CmdWords.p2 m.words + (m.pch * g + min g (CmdWords.nrow m.words - m.pch * g)) * CmdWords.dpitch m.words) else none) s m := by
  simp only [cpy2dStep, h]
  rfl

section

variable {s t : State} {m m1 : Cmd} {w : CmdWords} {o n : Nat} {bs : List Byte} {e : EngStop}

theorem cpyRuns_ok (h : s.copyRead m (w.p1 + w.len) (w.p1 + o) n = .ok (bs, t, m1)) :
    cpyRuns w o n s m = .ok ([(w.p2 + o, bs)], t, m1) := by
  rw [cpyRuns, h]; rfl

theorem cpyRuns_error (h : s.copyRead m (w.p1 + w.len) (w.p1 + o) n = .error e) : cpyRuns w o n s m = .error e := by
  rw [cpyRuns, h]; rfl

end

section

variable {s t : State} {m m1 : Cmd} {rs : List (Nat × List Byte)} {st : Stop} {next : Option Nat}
  {read : State → Cmd → Eng (List (Nat × List Byte) × State × Cmd)}

theorem copyStep_reads (h0 : m.runs = []) (h : read s m = .ok (rs, t, m1)) :
    copyStep read next s m = t.copyWrite { m1 with runs := rs } next rs := by
  simp only [copyStep, stepRuns, h0, List.isEmpty_nil, if_true, h]
  rfl

theorem copyStep_stops (h0 : m.runs = []) (h : read s m = .error (.stop st)) : copyStep read next s m = .error (.stop st) := by
  simp only [copyStep, stepRuns, h0, List.isEmpty_nil, if_true, h]
  rfl

theorem copyStep_held (h0 : m.runs ≠ []) : copyStep read next s m = s.copyWrite m next m.runs := by
  have hne : m.runs.isEmpty = false := by simpa using h0
  simp only [copyStep, stepRuns, hne]
  rfl

end

/-- What a command makes whose step is that of a copy: its read, then its write, or the write of what it has read. -/
theorem stepWith_copyStep {s : State} {c : ClusterKey} {i : Nat} {m : Cmd} {o : Op} {f : State → Cmd → Eng (State × Cmd)} {next : Option Nat}
    {read : State → Cmd → Eng (List (Nat × List Byte) × State × Cmd)} {cause : Cause} {e : Nat} (hr : s.RunsStep c i m o)
    (hf : f s m = copyStep read next s m) :
    (m.runs = [] →
      (read s m = .error (.stop (.trap cause e)) → stepWith s c i o f = .next (s.stepFails c m cause)) ∧
      ∀ rs s1 m1, read s m = .ok (rs, s1, m1) →
        (∀ s2 m2, s1.copyWrite { m1 with runs := rs } next rs = .ok (s2, m2) → stepWith s c i o f = .next (s2.stepDone c m m2)) ∧
        (s1.copyWrite { m1 with runs := rs } next rs = .error (.stop (.trap cause e)) → stepWith s c i o f = .next (s.stepFails c m cause))) ∧
    (m.runs ≠ [] →
      (∀ s2 m2, s.copyWrite m next m.runs = .ok (s2, m2) → stepWith s c i o f = .next (s2.stepDone c m m2)) ∧
      (s.copyWrite m next m.runs = .error (.stop (.trap cause e)) → stepWith s c i o f = .next (s.stepFails c m cause))) := by
  refine ⟨fun h0 => ⟨fun h => ?_, fun rs s1 m1 h => ?_⟩, fun h0 => ?_⟩
  · exact stepWith_fails hr (hf.trans (copyStep_stops h0 h))
  · rw [copyStep_reads h0 h] at hf
    exact ⟨fun s2 m2 hw => stepWith_done hr (hf.trans hw), fun hw => stepWith_fails hr (hf.trans hw)⟩
  · rw [copyStep_held h0] at hf
    exact ⟨fun s2 m2 hw => stepWith_done hr (hf.trans hw), fun hw => stepWith_fails hr (hf.trans hw)⟩

theorem cdiv_eq {a b : Nat} (h : 0 < b) : cdiv a b = (a + (b - 1)) / b := by
  rw [cdiv, Nat.add_sub_assoc h]

theorem copyPiece_eq (len j : Nat) :
    copyPiece len j = (j * (128 * ((len + 32767) / 32768)), min (128 * ((len + 32767) / 32768)) (len - j * (128 * ((len + 32767) / 32768)))) := by
  simp [copyPiece, cdiv_eq]

/-! A step of CPY whose ranges are aligned moves its own bytes alone. -/

theorem copyPiece_le {len j : Nat} (h : 0 < (copyPiece len j).2) : (copyPiece len j).1 + (copyPiece len j).2 ≤ len := by
  simp only [copyPiece] at h ⊢
  omega

/-- A step that is not the last ends at a word's edge. -/
theorem copyPiece_next {len j : Nat} (h : (copyPiece len j).1 + (copyPiece len j).2 < len) :
    ((copyPiece len j).1 + (copyPiece len j).2) % 8 = 0 := by
  simp only [copyPiece] at h ⊢
  have hmin : min (128 * cdiv len 32768) (len - j * (128 * cdiv len 32768)) = 128 * cdiv len 32768 := by omega
  have hmul : j * (128 * cdiv len 32768) = 128 * (j * cdiv len 32768) := by ring
  rw [hmin, hmul]
  omega

theorem readTop_whole {hi p n : Nat} (hle : p + n ≤ hi) (hedge : p + n < hi → (p + n) % 8 = 0) : readTop hi p n = p + n := by
  unfold readTop
  omega

/-- The index at p is read with the rest of its word, as far as the vector goes. -/
theorem readTop_index (hi p : Nat) : readTop hi p 2 - p = max 2 (min hi ((p + 9) / 8 * 8) - p) := by
  unfold readTop
  omega

theorem splitRuns_below {p : Nat} {bs : List Byte} (h : bs ≠ []) : splitRuns (p + bs.length) [(p, bs)] = ([(p, bs)], []) := by
  simp [splitRuns, h]

/-- A run that ends at a word's edge, or the copy, is written at once. -/
theorem copyWrite_whole {s : State} {m : Cmd} {p : Nat} {bs : List Byte} {next : Option Nat} (hlag : m.lag = []) (hne : bs ≠ [])
    (hnext : ∀ a, next = some a → a = p + bs.length ∧ a % 8 = 0) (hh : s.Here m.view p bs.length) :
    s.copyWrite m next [(p, bs)] = do
      let t ← eng (s.engineWrite m.view p 1 bs)
      return (t, { m with lag := [], lagAt := [], runs := [] }) := by
  have hall : joinRuns ([] ++ [(p, bs)]) = [(p, bs)] := rfl
  have hmay : s.mayRuns m [(p, bs)] = .ok () := by
    simp only [State.mayRuns, copyMay_here hh]
    rfl
  cases next with
  | none =>
    simp only [State.copyWrite, hlag, hall, List.append_nil, hmay, writeRuns_here hh]
    rfl
  | some a =>
    obtain ⟨ha, h8⟩ := hnext a rfl
    have hedge : a / 8 * 8 = p + bs.length := by omega
    simp only [State.copyWrite, hlag, hall, hedge, splitRuns_below hne, List.append_nil, hmay, writeRuns_here hh]
    rfl

/-- A copy at the start of a step, its ranges aligned, whose next bytes, n of them from offset o on, lie in this package. -/
structure State.WholePiece (s : State) (m : Cmd) (o n : Nat) : Prop where
  piece : copyPiece (CmdWords.len m.words) m.pch = (o, n)
  lag : m.lag = []
  lagAt : m.lagAt = []
  ahead : m.ahead = none
  runs : m.runs = []
  pos : 0 < n
  source : CmdWords.p1 m.words % 8 = 0
  dest : CmdWords.p2 m.words % 8 = 0
  here : s.Here m.view (CmdWords.p1 m.words + o) n

section

variable {s t : State} {m : Cmd} {o n : Nat} {bs : List Byte} (h : s.WholePiece m o n)
include h

theorem WholePiece.get :
    s.copyGet m (CmdWords.p1 m.words + o) (readTop (CmdWords.p1 m.words + CmdWords.len m.words) (CmdWords.p1 m.words + o) n - (CmdWords.p1 m.words + o)) =
      eng (s.engineRead m.view (CmdWords.p1 m.words + o) n 1) := by
  have hle := copyPiece_le (len := CmdWords.len m.words) (j := m.pch) (by rw [h.piece]; exact h.pos)
  have hedge := copyPiece_next (len := CmdWords.len m.words) (j := m.pch)
  have hsource := h.source
  rw [h.piece] at hle hedge
  rw [readTop_whole (by omega) (by omega), Nat.add_sub_cancel_left, copyGet_here h.here]

theorem cpyStep_readFails {st : Stop} (hread : s.engineRead m.view (CmdWords.p1 m.words + o) n 1 = .error st) :
    cpyStep s m = .error (.stop st) := by
  have hget := WholePiece.get h
  rw [hread] at hget
  rw [cpyStep_eq h.piece]
  exact copyStep_stops h.runs (cpyRuns_error (copyRead_error h.ahead h.pos hget))

theorem cpyStep_whole (hread : s.engineRead m.view (CmdWords.p1 m.words + o) n 1 = .ok (bs, t)) (hlen : bs.length = n)
    (hdst : t.Here m.view (CmdWords.p2 m.words + o) n) :
    cpyStep s m = do
      let u ← eng (t.engineWrite m.view (CmdWords.p2 m.words + o) 1 bs)
      return (u, m) := by
  have hget := WholePiece.get h
  rw [hread] at hget
  have hedge := copyPiece_next (len := CmdWords.len m.words) (j := m.pch)
  have hdest := h.dest
  have hpos := h.pos
  rw [h.piece] at hedge
  have hm : { m with lag := [], ahead := none, lagAt := [], runs := [] } = m := by
    obtain ⟨-, hlag, hlagAt, hahead, hruns, -⟩ := h
    cases m
    simp_all
  have hrd := cpyRuns_ok (copyRead_ok h.ahead h.pos hget)
  rw [← hlen, List.take_length, List.drop_length] at hrd
  rw [cpyStep_eq h.piece, ← hlen, copyStep_reads h.runs hrd, copyWrite_whole]
  · simp only [List.isEmpty_nil, if_true, hm]
    rfl
  · exact h.lag
  · exact List.ne_nil_of_length_pos (hlen ▸ hpos)
  · intro a ha
    split at ha
    · cases ha
      exact ⟨rfl, by omega⟩
    · cases ha
  · rw [hlen]; exact hdst

theorem cpyStep_writes {u : State} (hread : s.engineRead m.view (CmdWords.p1 m.words + o) n 1 = .ok (bs, t)) (hlen : bs.length = n)
    (hdst : t.Here m.view (CmdWords.p2 m.words + o) n) (hwrite : t.engineWrite m.view (CmdWords.p2 m.words + o) 1 bs = .ok u) :
    cpyStep s m = .ok (u, m) := by
  rw [cpyStep_whole h hread hlen hdst, hwrite]
  rfl

theorem cpyStep_writeFails {st : Stop} (hread : s.engineRead m.view (CmdWords.p1 m.words + o) n 1 = .ok (bs, t)) (hlen : bs.length = n)
    (hdst : t.Here m.view (CmdWords.p2 m.words + o) n) (hwrite : t.engineWrite m.view (CmdWords.p2 m.words + o) 1 bs = .error st) :
    cpyStep s m = .error (.stop st) := by
  rw [cpyStep_whole h hread hlen hdst, hwrite]
  rfl

end

/-! FILL and GTHR. -/

/-- What a step of FILL writes: word 1 over its piece. -/
def fillBytes (w : CmdWords) (n : Nat) : List Byte := (List.replicate (n / 8) (leBytes 8 w.p1)).flatten

theorem length_fillBytes {w : CmdWords} {n : Nat} (h : n % 8 = 0) : (fillBytes w n).length = n := by
  simp only [fillBytes, List.length_flatten, List.map_replicate, length_leBytes, List.sum_replicate, smul_eq_mul]
  omega

theorem flatMap_range_const {α : Type} (n : Nat) (l : List α) : ((List.range n).flatMap fun _ => l) = (List.replicate n l).flatten := by
  simp [List.flatMap_def, List.map_const']

theorem fillStep_eq {s : State} {m : Cmd} {o n : Nat} (h : copyPiece (CmdWords.len m.words) m.pch = (o, n)) :
    fillStep s m = do
      s.copyMay m (CmdWords.p2 m.words + o) n
      let s1 ← s.copyPut m (CmdWords.p2 m.words + o) (fillBytes m.words n)
      return (s1, m) := by
  simp only [fillStep, h, flatMap_range_const]
  rfl

section

variable {s t : State} {m : Cmd} {o n : Nat} {st : Stop} (h : copyPiece (CmdWords.len m.words) m.pch = (o, n))
include h

theorem fillStep_refused (hmay : s.copyMay m (CmdWords.p2 m.words + o) n = .error (.stop st)) : fillStep s m = .error (.stop st) := by
  rw [fillStep_eq h, hmay]
  rfl

variable (hmay : s.copyMay m (CmdWords.p2 m.words + o) n = .ok ())
include hmay

theorem fillStep_puts (hput : s.copyPut m (CmdWords.p2 m.words + o) (fillBytes m.words n) = .ok t) : fillStep s m = .ok (t, m) := by
  rw [fillStep_eq h, hmay]
  change (s.copyPut m _ _ >>= _) = _
  rw [hput]
  rfl

theorem fillStep_putFails (hput : s.copyPut m (CmdWords.p2 m.words + o) (fillBytes m.words n) = .error (.stop st)) :
    fillStep s m = .error (.stop st) := by
  rw [fillStep_eq h, hmay]
  change (s.copyPut m _ _ >>= _) = _
  rw [hput]
  rfl

end

section

variable {s t u : State} {m m1 : Cmd} {xb bs : List Byte} {st : Stop}

theorem gthrStep_indexFails (hx : s.copyRead m (CmdWords.p2 m.words + 2 * CmdWords.nidx m.words) (CmdWords.p2 m.words + 2 * m.pch) 2 = .error (.stop st)) :
    gthrStep s m = .error (.stop st) := by
  rw [gthrStep, hx]
  rfl

variable (hx : s.copyRead m (CmdWords.p2 m.words + 2 * CmdWords.nidx m.words) (CmdWords.p2 m.words + 2 * m.pch) 2 = .ok (xb, t, m1))
include hx

theorem gthrStep_row (hrow : t.engineRead m.view (CmdWords.p1 m.words + leNat xb * CmdWords.gLda m.words * 16) (CmdWords.rowb m.words * 16) 16 = .ok (bs, u)) :
    gthrStep s m = .ok (u, { m1 with rows := m.rows.take m.pch ++ [bs] }) := by
  rw [gthrStep, hx]
  change (eng (t.engineRead _ _ _ _) >>= _) = _
  rw [hrow]
  rfl

theorem gthrStep_rowFails (hrow : t.engineRead m.view (CmdWords.p1 m.words + leNat xb * CmdWords.gLda m.words * 16) (CmdWords.rowb m.words * 16) 16 = .error st) :
    gthrStep s m = .error (.stop st) := by
  rw [gthrStep, hx]
  change (eng (t.engineRead _ _ _ _) >>= _) = _
  rw [hrow]
  rfl

end

/-- The read of an index whose word has not been read: its word's indexes in this package, and those past it kept. -/
theorem copyGet_index {s : State} {m : Cmd} {hi p len : Nat} {r : Chk (List Byte × State)} (hlen : len = max 2 (min hi ((p + 9) / 8 * 8) - p))
    (hh : s.Here m.view p len) (hread : s.engineRead m.view p len 1 = r) : s.copyGet m p (readTop hi p 2 - p) = eng r := by
  rw [readTop_index, ← hlen, copyGet_here hh, hread]

theorem isEmpty_drop_two {l : List Byte} (h : 2 ≤ l.length) : (l.drop 2).isEmpty = decide (l.length = 2) := by
  rw [Bool.eq_iff_iff]
  simp
  omega

/-- Settles O38: a step of CPY and of CPY2D is a `copyStep`, on aligned ranges `cpyStep_whole`; FILL and GTHR go by the results of their accesses. -/
theorem copySteps : Obligations.CopySteps := by
  unfold Obligations.CopySteps
  intro s s1 s2 c i m m1 m2 bs ix rows cause e w v runs after failed here stops len piece o n src dst next g r0 nr next2 whole fill ip iw row rowb
  have hpiece : copyPiece (CmdWords.len m.words) m.pch = (o, n) := copyPiece_eq _ _
  have hg : cdiv (CmdWords.nrow m.words) 256 = g := cdiv_eq (by decide)
  have hcpy (hr : runs .cpy) := stepWith_copyStep (cause := cause) (e := e) hr (cpyStep_eq hpiece)
  have hcpy2d (hr : runs .cpy2d) := stepWith_copyStep (cause := cause) (e := e) hr (cpy2dStep_eq hg)
  have hwhole : whole → s.WholePiece m o n := by
    rintro ⟨hlag, hlagAt, hahead, hruns, hpos, hsource, hdest, hhere⟩
    exact ⟨hpiece, hlag, hlagAt, hahead, hruns, hpos, hsource, hdest, hhere⟩
  refine ⟨?_, ?_, ?_, ?_, ?_, ?_, ?_, ?_, ?_, ?_, ?_, ?_⟩
  · exact fun hr hw hh hread hlen hwrite => stepWith_done hr (cpyStep_writes (hwhole hw) hread hlen hh hwrite)
  · exact fun hr hw hread => stepWith_fails hr (cpyStep_readFails (hwhole hw) hread)
  · exact fun hr hw hh hread hlen hwrite => stepWith_fails hr (cpyStep_writeFails (hwhole hw) hread hlen hh hwrite)
  · intro hr h0
    obtain ⟨hstop, hread⟩ := (hcpy hr).1 h0
    refine ⟨fun h => hstop (cpyRuns_error h), fun h => ?_⟩
    obtain ⟨hdone, hfail⟩ := hread _ _ _ (cpyRuns_ok h)
    exact ⟨hdone s2 m2, hfail⟩
  · intro hr h0
    obtain ⟨hdone, hfail⟩ := (hcpy hr).2 h0
    exact ⟨hdone s2 m2, hfail⟩
  · intro hr h0
    obtain ⟨hstop, hread⟩ := (hcpy2d hr).1 h0
    refine ⟨hstop, fun h => ?_⟩
    obtain ⟨hdone, hfail⟩ := hread _ _ _ h
    exact ⟨hdone s2 m2, hfail⟩
  · intro hr h0
    obtain ⟨hdone, hfail⟩ := (hcpy2d hr).2 h0
    exact ⟨hdone s2 m2, hfail⟩
  · intro hr hn hh
    have hlen : (fillBytes m.words n).length = n := length_fillBytes hn
    have hput := copyPut_here (bs := fillBytes m.words n) (by rw [hlen]; exact hh)
    exact ⟨fun hw => stepWith_done hr (fillStep_puts hpiece (copyMay_here hh) (hput.trans (congrArg eng hw))),
      fun hw => stepWith_fails hr (fillStep_putFails hpiece (copyMay_here hh) (hput.trans (congrArg eng hw)))⟩
  · exact fun hr => ⟨fun h => stepWith_fails hr (fillStep_refused hpiece h), fun hmay =>
      ⟨fun h => stepWith_done hr (fillStep_puts hpiece hmay h), fun h => stepWith_fails hr (fillStep_putFails hpiece hmay h)⟩⟩
  · intro hr ha hh hread hlen
    have hx := copyRead_ok ha (by decide) (copyGet_index rfl hh hread)
    have htwo : 2 ≤ ix.length := hlen ▸ Nat.le_max_left _ _
    simp only [isEmpty_drop_two htwo, hlen, decide_eq_true_eq] at hx
    exact ⟨fun h => stepWith_done hr (gthrStep_row hx h), fun h => stepWith_fails hr (gthrStep_rowFails hx h)⟩
  · exact fun hr ha hh hread => stepWith_fails hr (gthrStep_indexFails (copyRead_error ha (by decide) (copyGet_index rfl hh hread)))
  · intro hr ha hlen
    have hx := copyRead_ahead (s := s) (hi := CmdWords.p2 m.words + 2 * CmdWords.nidx m.words) ha (by decide) hlen
    exact ⟨fun h => stepWith_done hr (gthrStep_row hx h), fun h => stepWith_fails hr (gthrStep_rowFails hx h)⟩

end Sys2Proof.Machine

/-! The step of the package (R56, R67, R111, R203, R323, R416). -/

namespace Sys2Proof.Machine

open Sys2Proof

/-! A fetched word and its meaning. -/

theorem decode_of_ok {w : BitVec 32} {i : Instr} (h : decodeNat w.toNat = .ok i) : decode w = i := by
  simp only [decode, h]

theorem decode_of_refused {w : BitVec 32} (h : ∀ j, decodeNat w.toNat ≠ .ok j) : decode w = .illegal w := by
  cases hd : decodeNat w.toNat with
  | ok i => exact absurd hd (h i)
  | error c => simp only [decode, hd]

/-- The fetch of a word of memory where the instruction cache holds no other. -/
theorem fetchWord_current {s : State} {k : CoreKey} {b : Fin 2} {loc n : Nat} {ps : List (Nat × Nat)} {w : BitVec 32}
    (hat : s.fetchAt k b = .ok ((loc, n) :: ps)) (hw : wordOfBytes (s.load ((loc, n) :: ps)) = some w)
    (hold : lookupD w (s.clu (clusterOf k)).icache loc = w) :
    s.fetchWord k b = .ok (w, s.mapClu (clusterOf k) fun x => { x with icache := insertKey loc w x.icache }) := by
  simp only [State.fetchWord, hat, hw, State.cacheFetch, hold, if_true]

/-! The turn of a step. -/

section

variable {s : State} {l : List Turn}

/-- A ROM in recovery answers the boot block alone. -/
theorem step_romHalted {t : Turn} (htrip : s.ctl.tripped = false) (hst : s.boot.stage = 1) (hag : s.agenda = t :: l) (ht : t.isBoot = false) :
    step s = .fault .romHalted := by
  simp [step, htrip, hst, hag, ht]

/-- The first turn of the agenda is taken. -/
theorem step_agenda {t : Turn} (htrip : s.ctl.tripped = false) (hst : s.boot.stage ≠ 1 ∨ t.isBoot = true) (hag : s.agenda = t :: l) :
    step s = settleOutcome (runTurn t { s with agenda := l }) := by
  have hrec : ¬(s.boot.stage = 1 ∧ t.isBoot = false) := by
    rintro ⟨hone, hboot⟩
    rcases hst with hne | ht
    · exact hne hone
    · exact Bool.false_ne_true (hboot.symm.trans ht)
  simp only [step, htrip, hag, List.head?_cons, Option.elim, if_neg hrec, Bool.false_eq_true, if_false]

/-- With no agenda and nothing due, the strand that issues takes its turn once the six cycles of a stop are over. -/
theorem step_issue {k : CoreKey} {b : Fin 2} (htrip : s.ctl.tripped = false) (hst : s.boot.stage ≠ 1) (hag : s.agenda = [])
    (hdue : s.endGrace.due = none) (hi : s.endGrace.issuing = some (k, b)) (hheld : (s.endGrace.bank k b).held = false) :
    step s = settleOutcome (issueTurn s.endGrace) := by
  have hturn : s.endGrace.turn = .next s.endGrace := by simp [State.turn, State.heldNow, hi, hheld]
  have hrec : ¬(s.boot.stage = 1 ∧ (s.agenda.head?.elim false Turn.isBoot) = false) := fun h => hst h.1
  rw [step, if_neg hrec, hag]
  simp only [htrip, Bool.false_eq_true, if_false, freeTurn, hdue, hturn]

end

section

variable {s s1 : State} {k : CoreKey} {b : Fin 2} {w : BitVec 32}

theorem issueTurn_waiting (hi : s.issuing = some (k, b)) (hw : (s.bank k b).waitingWord = some w) : issueTurn s = exec (decode w) s := by
  simp only [issueTurn, hi, hw]

theorem issueTurn_fetched (hi : s.issuing = some (k, b)) (hw : (s.bank k b).waitingWord = none) (hf : s.fetchWord k b = .ok (w, s1)) :
    issueTurn s = notedOutcome k b (s.bank k b).curPc w (exec (decode w) s1) := by
  simp only [issueTurn, hi, hw, hf]

end

/-- Settles O56: with an empty agenda the step is the turn of the strand that issues, else the agenda's first turn. -/
theorem stepRunsDecoded : Obligations.StepRunsDecoded := by
  unfold Obligations.StepRunsDecoded
  intro s s1 k b loc n ps w i l htrip s0 pc
  refine ⟨fun hst hag hdue hi hheld => ?_, fetchWord_current, fun hst hag => step_agenda (t := .act i) htrip hst hag, fun hst hag hswp => ?_,
    fun hst hi hag => step_romHalted htrip hst hag hi⟩
  · have hstep := step_issue htrip hst hag hdue hi hheld
    refine ⟨fun hw hf => ?_, fun hw hd => ?_⟩
    · rw [issueTurn_fetched hi hw hf] at hstep
      refine ⟨fun hd => ?_, fun hd => ?_⟩
      · rw [decode_of_ok hd] at hstep
        refine ⟨hstep, fun t ht => ?_⟩
        rw [hstep, ht]
        rfl
      · rw [decode_of_refused hd] at hstep
        exact hstep
    · rw [issueTurn_waiting hi hw, decode_of_ok hd] at hstep
      exact hstep
  · rw [step_agenda htrip (.inl hst) hag, runTurn]
    exact congrArg settleOutcome (if_pos hswp)

end Sys2Proof.Machine

/-! Taking a trap (R93, R95). -/

namespace Sys2Proof.Machine

open Sys2Proof

/-! The skid record that follows a trap entry (R321). -/

@[simp] theorem skidPc_bank (s : State) (k : CoreKey) (b : Fin 2) (j : CoreKey) (e : Fin 2) : (s.skidPc k b).bank j e = s.bank j e := by
  unfold State.skidPc
  extract_lets
  split <;> rfl

@[simp] theorem skidPc_fab (s : State) (k : CoreKey) (b : Fin 2) : (s.skidPc k b).fab = s.fab := by
  unfold State.skidPc
  extract_lets
  split <;> rfl

@[simp] theorem skidPc_mem (s : State) (k : CoreKey) (b : Fin 2) : (s.skidPc k b).mem = s.mem := by
  unfold State.skidPc
  extract_lets
  split <;> rfl

/-! The bits H and PRK of tstat (R91). -/

@[simp] theorem getLsbD_setH_zero (t : TrapBlock) (on : Bool) : (t.setH on).tstat.getLsbD 0 = on := by
  cases on <;> simp [TrapBlock.setH]

@[simp] theorem getLsbD_setH_one (t : TrapBlock) (on : Bool) : (t.setH on).tstat.getLsbD 1 = t.tstat.getLsbD 1 := by
  cases on <;> simp [TrapBlock.setH]

@[simp] theorem getLsbD_setPrk_zero (t : TrapBlock) (on : Bool) : (t.setPrk on).tstat.getLsbD 0 = t.tstat.getLsbD 0 := by
  cases on <;> simp [TrapBlock.setPrk]

@[simp] theorem getLsbD_setPrk_one (t : TrapBlock) (on : Bool) : (t.setPrk on).tstat.getLsbD 1 = on := by
  cases on <;> simp [TrapBlock.setPrk]

/-! The words of the trap block (R91, R92). -/

/-- A precise trap whose instruction is the youngest issued has an empty window. -/
theorem window_youngest {x : Bank} {r : TrapRec} (hseq : r.seq = x.nIssued) (hrep : r.replayed = none) : x.window r = (0, 0) := by
  simp [Bank.window, hrep, hseq, mask15]

theorem word_precise (c : Cause) : c.word false = BitVec.ofNat 64 (c.cls * 256 + c.code) := by
  simp [Cause.word]

theorem tinfoWord_noWindow (sk : Bool) (d : BitVec 8) : tinfoWord sk 0#15 0 d = BitVec.ofNat 64 ((if sk then 2 ^ 27 else 0) + d.toNat) := by
  simp [tinfoWord]

/-! TAKING A TRAP (R93): a double trap, the local handler, or parked for the server. -/

/-- The report that a double trap adds (R95). -/
def State.doubleReport (s : State) (k : CoreKey) (b : Fin 2) (r : TrapRec) : State :=
  let x := s.bank k b
  s.report 2 (s.server x.id.fsrv) (s.sid k b) x.id.who 0 x.id.spid
    (trapReport x.ctx.tb x.wsp ++ [BitVec.ofNat 64 r.trap.cause.code, r.trap.val, r.pc])

/-- The report that a trap adds whose strand is parked (R93). -/
def State.parkReport (s : State) (k : CoreKey) (b : Fin 2) (r : TrapRec) : State :=
  let x := s.bank k b
  s.report 1 (s.server x.id.fsrv) (s.sid k b) x.id.who 0 x.id.spid (trapReport ((x.trapBlock r).setPrk true) x.wsp)

section

variable {s : State} {k : CoreKey} {b : Fin 2} {r : TrapRec}

theorem enterTrap_double (h : (s.bank k b).h = true ∨ (s.bank k b).prk = true) :
    s.enterTrap k b r = ((s.doubleReport k b r).setBank k b
      { (s.bank k b).cleared r.pc ((s.bank k b).ctx.tb.setPrk true) with dbl := some ⟨r.trap, r.pc⟩ }).skidPc k b := by
  have hor : ((s.bank k b).h || (s.bank k b).prk) = true := by simpa using h
  simp only [State.enterTrap, hor, if_true]
  rfl

variable (hh : (s.bank k b).h = false) (hp : (s.bank k b).prk = false)
include hh hp

theorem enterTrap_local (hl : ((s.bank k b).trapBlock r).local? r.trap.cause = true) :
    s.enterTrap k b r = (s.setBank k b { (s.bank k b).cleared (s.bank k b).ctx.tb.twvec (((s.bank k b).trapBlock r).setH true) with
      trapAt := some r.pc }).skidPc k b := by
  simp only [State.enterTrap, hh, hp, hl, Bool.or_self, Bool.false_eq_true, if_false, if_true]
  rfl

theorem enterTrap_parks (hl : ((s.bank k b).trapBlock r).local? r.trap.cause = false) :
    s.enterTrap k b r = ((s.parkReport k b r).setBank k b
      { (s.bank k b).cleared (r.pc &&& pcMask) (((s.bank k b).trapBlock r).setPrk true) with trapAt := some r.pc }).skidPc k b := by
  simp only [State.enterTrap, hh, hp, hl, Bool.or_self, Bool.false_eq_true, if_false]
  rfl

end

/-- A trap with nothing older pending is entered in the step that raises it (log 16). -/
theorem raise_enters {s : State} {k : CoreKey} {b : Fin 2} (r : TrapRec) (hd : (s.bank k b).drained = true)
    (ht : (s.bank k b).trapped = []) : s.raise k b r = s.enterTrap k b r := by
  simp [State.raise, hd, ht]

theorem drained_of_none {x : Bank} (hp : x.pend = []) (hst : x.store = none) (hse : x.sending = none) : x.drained = true := by
  simp [Bank.drained, hp, hst, hse]

theorem oldest_head {r : TrapRec} {l : List TrapRec} (h : ∀ q ∈ l, r.seq ≤ q.seq) : oldest (r :: l) = some r := by
  have hmem : ∀ (l : List TrapRec) q, oldest l = some q → q ∈ l := by
    intro l
    induction l with
    | nil => simp [oldest]
    | cons a l ih =>
      intro q hq
      simp only [oldest] at hq
      split at hq
      · next p hp =>
        cases hq
        split
        · exact List.mem_cons_of_mem _ (ih _ hp)
        · exact List.mem_cons_self
      · cases hq
        exact List.mem_cons_self
  simp only [oldest]
  split
  · next q hq => rw [if_neg (Nat.not_lt.2 (h q (hmem l q hq)))]
  · rfl

/-- Trap entry takes the oldest trap of a drained bank (R93). -/
theorem execTrapEntry_oldest {s : State} {k : CoreKey} {b : Fin 2} {r : TrapRec} {l : List TrapRec} (hb : (s.bank k b).st = .bound)
    (hd : (s.bank k b).drained = true) (ht : (s.bank k b).trapped = r :: l) (hl : ∀ q ∈ l, r.seq ≤ q.seq) :
    exec (.trapEntry k b) s = .next (s.enterTrap k b r) := by
  have hdue : (s.bank k b).trapDue = true := by simp [Bank.trapDue, hb, hd, ht]
  change execTrapEntry k b s = _
  simp [execTrapEntry, ht, oldest_head hl, hdue]

/-- Settles O11: `raise_enters` leaves the three cases of `enterTrap`. -/
theorem trapTaken : Obligations.TrapTaken := by
  unfold Obligations.TrapTaken
  refine ⟨?_, ?_, ?_⟩
  · intro s k b r x t y hpend hst hse htr hh hp hseq hlate hrep c sk localOk
    have ht : t = s.enterTrap k b r := raise_enters r (drained_of_none hpend hst hse) htr
    have hlocal : localOk ↔ (x.trapBlock r).local? c = true := by
      simp [localOk, TrapBlock.local?, Bank.trapBlock, and_assoc]
    have hcause : r.trap.cause.word r.late = BitVec.ofNat 64 (c.cls * 256 + c.code) := by rw [hlate, word_precise]
    have hinfo : (x.trapBlock r).tinfo = BitVec.ofNat 64 (sk + r.trap.detail.toNat) := by
      simp [Bank.trapBlock, window_youngest hseq hrep, tinfoWord_noWindow, sk, c]
    by_cases hl : localOk
    · have he := enterTrap_local hh hp (hlocal.1 hl)
      simp only [y, ht, he, skidPc_bank, skidPc_fab, bank_setBank_same]
      exact ⟨rfl, hcause, rfl, hinfo, rfl, rfl, rfl, rfl, fun _ => ⟨getLsbD_setH_zero _ _, (getLsbD_setH_one _ _).trans hp, rfl, rfl⟩,
        fun h => absurd hl h⟩
    · have he := enterTrap_parks hh hp (Bool.eq_false_iff.2 (hl ∘ hlocal.2))
      simp only [y, ht, he, skidPc_bank, skidPc_fab, bank_setBank_same, state_setBank_fab]
      refine ⟨rfl, hcause, rfl, hinfo, rfl, rfl, rfl, rfl, fun h => absurd h hl,
        fun _ => ⟨(getLsbD_setPrk_zero _ _).trans hh, getLsbD_setPrk_one _ _, rfl, ?_⟩⟩
      simp [State.parkReport, State.report, x]
  · intro s k b r x t hpend hst hse htr hd
    have ht : t = s.enterTrap k b r := raise_enters r (drained_of_none hpend hst hse) htr
    rw [ht, enterTrap_double hd]
    simp [State.doubleReport, State.report, Bank.cleared, Bank.prk, trapReport, x]
  · intro s k b r l hb hpend hst hse htr hl
    exact execTrapEntry_oldest hb (drained_of_none hpend hst hse) htr hl

end Sys2Proof.Machine

/-! Resolution: the snapshot, a round of one event, the end of the round (R299 to R307, R312). -/

namespace Sys2Proof.Machine

open Sys2Proof

theorem mem_boundaryHomes (s : State) (homes : List Home) (h : Home) :
    h ∈ s.boundaryHomes homes ↔ h ∈ s.homes ∧ s.skips h = false ∧ ∃ g ∈ homes, Home.lvl h ≤ Home.lvl g := by
  simp [State.boundaryHomes]

/-! A home's resolver and slots under updates. -/

/-- The home is one of the package: a die is one of the four. -/
def Home.Present : Home → Prop
  | .die d => d < 4
  | _ => True

theorem present_of_mem_homes {s : State} {h : Home} (hm : h ∈ s.homes) : Home.Present h := by
  cases h with
  | die d => simpa [State.homes, Home.Present] using hm
  | cluster c => trivial
  | package => trivial

/-- s and t differ at most in what resolvers and probes hold. -/
structure ResolverFrame (s t : State) : Prop where
  mem : t.mem = s.mem
  deliveries : t.deliveries = s.deliveries
  cores : t.cores = s.cores

namespace ResolverFrame

variable {s t u : State}

theorem refl : ResolverFrame s s := ⟨rfl, rfl, rfl⟩

theorem trans (a : ResolverFrame s t) (b : ResolverFrame t u) : ResolverFrame s u :=
  ⟨b.mem.trans a.mem, b.deliveries.trans a.deliveries, b.cores.trans a.cores⟩

end ResolverFrame

theorem resolverFrame_setResolver (s : State) (h : Home) (r : Resolver) : ResolverFrame s (s.setResolver h r) := by
  cases h <;> exact ⟨rfl, rfl, rfl⟩

theorem resolverFrame_setSlot (s : State) (h : Home) (n : Nat) (e : EvSlot) : ResolverFrame s (s.setSlot h n e) :=
  resolverFrame_setResolver _ _ _

theorem resolver_setResolver {h : Home} (hp : Home.Present h) (s : State) (r : Resolver) : (s.setResolver h r).resolver h = r := by
  cases h with
  | cluster c => simp [State.setResolver, State.resolver]
  | die d => simp [State.setResolver, State.resolver, die_setDie_same _ _ hp]
  | package => rfl

theorem resolver_setSlot {h : Home} (hp : Home.Present h) (s : State) (n : Nat) (e : EvSlot) :
    (s.setSlot h n e).resolver h = { s.resolver h with slots := insertKey n e (s.resolver h).slots } :=
  resolver_setResolver hp _ _

/-! The snapshot (R300). -/

theorem mem_insertBy {α : Type} {f : α → Nat} {x a : α} {l : List α} : a ∈ insertBy f x l ↔ a = x ∨ a ∈ l := by
  induction l with
  | nil => simp [insertBy]
  | cons y l ih =>
    simp only [insertBy]
    split
    · simp
    · simp [ih, or_left_comm]

theorem mem_of_mem_sortBy {α : Type} {f : α → Nat} {a : α} {l : List α} (h : a ∈ sortBy f l) : a ∈ l := by
  have hfold : ∀ (l acc : List α), a ∈ l.foldl (fun b x => insertBy f x b) acc → a ∈ acc ∨ a ∈ l := by
    intro l
    induction l with
    | nil => exact fun acc h => .inl h
    | cons x l ih =>
      intro acc h
      rcases ih _ h with h | h
      · rcases mem_insertBy.1 h with rfl | h
        · exact .inr List.mem_cons_self
        · exact .inl h
      · exact .inr (List.mem_cons_of_mem _ h)
  simpa using hfold l [] h

theorem resolverFrame_snapSlot (s : State) (h : Home) (n : Nat) : ResolverFrame s (s.snapSlot h n).1 := by
  unfold State.snapSlot
  extract_lets
  split
  · exact .refl
  · exact resolverFrame_setSlot _ _ _ _

theorem home_of_snapSlot {s : State} {h : Home} {n : Nat} {c : Claim} (hc : (s.snapSlot h n).2 = some c) : c.home = h := by
  unfold State.snapSlot at hc
  extract_lets e hd noff ready s1 at hc
  split at hc
  · cases hc
  · simp only at hc
    split at hc <;> cases hc
    rfl

/-- What the snapshot finds, slot by slot, before it is put in order. -/
def State.snapSlots (l : List (Home × Nat)) (a : State × List Claim) : State × List Claim :=
  l.foldl (fun a x => ((a.1.snapSlot x.1 x.2).1, a.2 ++ (a.1.snapSlot x.1 x.2).2.toList)) a

theorem resolverFrame_snapSlots (l : List (Home × Nat)) (a : State × List Claim) :
    ResolverFrame a.1 (State.snapSlots l a).1 := by
  induction l generalizing a with
  | nil => exact .refl
  | cons x l ih => exact (resolverFrame_snapSlot a.1 x.1 x.2).trans (ih (_, _))

theorem home_of_snapSlots (l : List (Home × Nat)) (a : State × List Claim) {c : Claim} (hc : c ∈ (State.snapSlots l a).2) :
    c ∈ a.2 ∨ c.home ∈ l.map Prod.fst := by
  induction l generalizing a with
  | nil => exact .inl hc
  | cons x l ih =>
    rcases ih _ hc with h | h
    · rcases List.mem_append.1 h with h | h
      · exact .inl h
      · exact .inr (List.mem_cons.2 (.inl (home_of_snapSlot (Option.mem_toList.1 h))))
    · exact .inr (List.mem_cons_of_mem _ h)

theorem resolverFrame_snapshot (s : State) (homes : List Home) : ResolverFrame s (s.snapshot homes).1 :=
  resolverFrame_snapSlots _ (s, [])

theorem home_of_snapshot {s : State} {homes : List Home} {c : Claim} (hc : c ∈ (s.snapshot homes).2) : c.home ∈ homes := by
  rcases home_of_snapSlots _ (s, []) (mem_of_mem_sortBy hc) with h | h
  · cases h
  · simp only [List.map_flatMap, List.map_map, List.mem_flatMap, List.mem_map] at h
    obtain ⟨g, hg, -, -, rfl⟩ := h
    exact hg

/-! A round. -/

theorem prune_all {r : Round} (h : ∀ c ∈ r.left, ∀ w ∈ c.parts, r.st.strandOffers c.handle w = true) : r.prune = r := by
  have hgone : ∀ c ∈ r.left, (c.parts.all fun w => r.st.strandOffers c.handle w) = true := fun c hc => List.all_eq_true.2 (h c hc)
  have hleft : (r.left.filter fun c => !!(c.parts.all fun w => r.st.strandOffers c.handle w)) = r.left :=
    List.filter_eq_self.2 fun c hc => by rw [hgone c hc]; rfl
  have hlost : (r.left.filter fun c => !(c.parts.all fun w => r.st.strandOffers c.handle w) && c.parts.any fun w => r.occAt.contains w) = [] :=
    List.filter_eq_nil_iff.2 fun c hc => by rw [hgone c hc]; exact Bool.false_ne_true
  simp only [Round.prune, hleft, hlost, List.append_nil]

theorem winners_single (c : Claim) : winners [c] = [c] :=
  List.filter_eq_self.2 fun d hd => by
    obtain rfl := List.mem_singleton.1 hd
    simp +contextual

theorem run_empty (n : Nat) {r : Round} (h : r.left = []) : Round.run n r = r := by
  cases n <;> simp [Round.run, h]

/-- A round of a single event that all its strands offer, without signals: it occurs (R303, R305). -/
theorem run_single (n : Nat) {s : State} {c : Claim} (hsigs : c.sigs = []) (hparts : ∀ w ∈ c.parts, s.strandOffers c.handle w = true) :
    Round.run (n + 1) ⟨s, [c], [], [], [], []⟩ = ⟨s.occur c, [], c.parts, [], [], [c]⟩ := by
  have hprune : Round.prune ⟨s, [c], [], [], [], []⟩ = ⟨s, [c], [], [], [], []⟩ := prune_all (by simpa using hparts)
  have hdecide : Round.decide ⟨s, [c], [], [], [], []⟩ c = ⟨s.occur c, [], c.parts, [], [], [c]⟩ := by
    simp [Round.decide, hsigs, State.commitSignals]
  simp only [Round.run, hprune, winners_single, List.foldl_cons, List.foldl_nil, hdecide, run_empty]
  rfl

/-- The probes that wait for these homes to resolve have seen them do so (R314). -/
def State.probesResolved (s : State) (homes : List Home) : State :=
  { s with probe := s.probe.resolved homes, dies := s.dies.map fun d => { d with probe := d.probe.resolved homes } }

theorem resolverFrame_probesResolved (s : State) (homes : List Home) : ResolverFrame s (s.probesResolved homes) := ⟨rfl, rfl, rfl⟩

theorem resolver_probesResolved (s : State) (homes : List Home) (h : Home) : (s.probesResolved homes).resolver h = s.resolver h := by
  cases h with
  | cluster c => rfl
  | package => rfl
  | die d =>
    by_cases hd : d < 4
    · simp [State.resolver, State.probesResolved, State.die, Vector.getD, hd]
    · rw [State.resolver, State.resolver, die_of_ge _ (by omega), die_of_ge _ (by omega)]

theorem resolve_nothing {s : State} {homes : List Home} (h : (s.snapshot homes).2 = []) :
    s.resolve homes = (s.snapshot homes).1.probesResolved homes := by
  simp only [State.resolve, h, run_empty, Round.finish]
  rfl

/-- A resolution in which one event is ready, without signals and offered by all its strands (R306, R307). -/
theorem resolve_single {s t : State} {homes : List Home} {c : Claim} (h : s.snapshot homes = (t, [c])) (hsigs : c.sigs = [])
    (hparts : ∀ w ∈ c.parts, t.strandOffers c.handle w = true) :
    let u := (t.occur c).setSlot c.home c.slot { (t.occur c).slot c.home c.slot with credit := 0 }
    s.resolve homes = (u.setResolver c.home { u.resolver c.home with
      rot := ((u.resolver c.home).rot + 1) % slotCount c.home }).probesResolved homes := by
  simp only [State.resolve, h, run_single _ hsigs hparts]
  rfl

/-- The event of a resolution of one ready event has occurred: its credit is 0 and its home's rotation advances. -/
structure State.Occurred (s : State) (c : Claim) (t : State) : Prop where
  credit : (t.slot c.home c.slot).credit = 0
  rot : (t.resolver c.home).rot = (((s.occur c).resolver c.home).rot + 1) % slotCount c.home
  frame : ResolverFrame (s.occur c) t

theorem occurred_resolve {s t : State} {homes : List Home} {c : Claim} (h : s.snapshot homes = (t, [c])) (hsigs : c.sigs = [])
    (hparts : ∀ w ∈ c.parts, t.strandOffers c.handle w = true) (hp : Home.Present c.home) : t.Occurred c (s.resolve homes) := by
  rw [resolve_single h hsigs hparts]
  refine ⟨?_, ?_, ?_⟩
  · simp only [State.slot, resolver_probesResolved, resolver_setResolver hp, resolver_setSlot hp, lookupD_insertKey_same]
  · simp only [resolver_probesResolved, resolver_setResolver hp, resolver_setSlot hp]
  · exact (resolverFrame_setSlot _ _ _ _).trans ((resolverFrame_setResolver _ _ _).trans (resolverFrame_probesResolved _ _))

/-! RTICK (R259, R312). -/

theorem toNat_vctlWord (scope : BitVec 2) (score : Fin 8) {act : Nat} (h : act < 16) :
    (vctlWord scope score act).toNat = scope.toNat * 128 + act * 8 + score.val := by
  have := scope.isLt
  simp only [vctlWord, BitVec.toNat_ofNat]
  omega

theorem bits_vctlWord (scope : BitVec 2) (score : Fin 8) {act : Nat} (h : act < 16) :
    bits (vctlWord scope score act) 3 4 = act ∧ bits (vctlWord scope score act) 7 2 = scope.toNat ∧
      bits (vctlWord scope score act) 0 3 = score.val := by
  have := scope.isLt
  have := score.isLt
  simp only [bits, toNat_vctlWord _ _ h]
  omega

/-- A write of VCTL that keeps SCOPE and SCORE writes no field. -/
theorem writeFields_same (s : State) (c : ClusterKey) {act : Nat} (h : act < 16) :
    s.writeFields c (vctlWord (s.clu c).verm.scope (s.clu c).verm.score act) = s := by
  obtain ⟨-, hscope, hscore⟩ := bits_vctlWord (s.clu c).verm.scope (s.clu c).verm.score h
  simp [State.writeFields, Vermilion.fields, hscope, hscore]

theorem exec_rtick (s : State) (c : ClusterKey) :
    exec (.rtick c) s = .next (if (s.clu c).verm.frz then s.resolve [.cluster c] else s) := by
  have hact := (bits_vctlWord (s.clu c).verm.scope (s.clu c).verm.score (show 2 < 16 by decide)).1
  change execRtick c s = _
  simp only [execRtick, State.writeVctl, hact, writeFields_same s c (show 2 < 16 by decide)]

end Sys2Proof.Machine

/-! The delivery of an event's pieces (R178, R310). -/

namespace Sys2Proof.Machine

open Sys2Proof

/-! Strands and their words. -/

theorem findStrand_congr {s t : State} (h : t.cores = s.cores) (w : StrandId) : t.findStrand w = s.findStrand w := by
  simp only [State.findStrand, h]

theorem AccessFrame.cores {s t : State} (a : AccessFrame s t) : t.cores = s.cores := by rw [a.state]

theorem inWorkspace_bound {s : State} {k : CoreKey} {b : Fin 2} (h : (s.bank k b).st = .bound) : s.inWorkspace (.bank k b) = none := by
  simp [State.inWorkspace, h]

theorem word_offer (c : Ctx) (i : Fin 8) : c.word (80 + 2 * i.val) = c.offers[i].w0 ∧ c.word (81 + 2 * i.val) = c.offers[i].w1 := by
  fin_cases i <;> simp [Ctx.word, vget, Vector.getD]

theorem setIfInBounds_fin {α : Type} {n : Nat} (v : Vector α n) (i : Fin n) (x : α) : v.setIfInBounds i.val x = v.set i.val x := by
  simp [Vector.setIfInBounds, Vector.set, Array.setIfInBounds]

/-- The offer entry of a strand whose registers stand in its bank. -/
theorem entry_bound {s : State} {k : CoreKey} {b : Fin 2} (h : (s.bank k b).st = .bound) (i : Fin 8) :
    s.entry (.bank k b) i.val = (s.bank k b).ctx.offers[i] := by
  obtain ⟨h0, h1⟩ := word_offer (s.bank k b).ctx i
  simp only [State.entry, State.regionWord, inWorkspace_bound h, State.strand, h0, h1]

theorem setEntry_bound {s : State} {k : CoreKey} {b : Fin 2} (h : (s.bank k b).st = .bound) (i : Nat) (e : Offer) :
    s.setEntry (.bank k b) i e = s.setBank k b { s.bank k b with
      ctx := { (s.bank k b).ctx with offers := (s.bank k b).ctx.offers.setIfInBounds i e } } := by
  simp only [State.setEntry, inWorkspace_bound h, State.strand, State.setStrand]

/-- The strand goes on from CHOOSE with the registers that it has. -/
theorem wake_ctx (s : State) (k : CoreKey) (b : Fin 2) : ((s.wake (.bank k b)).bank k b).ctx = (s.bank k b).ctx := by
  unfold State.wake
  extract_lets x
  cases hw : x.wait == some WaitKind.choose <;> simp only [State.setStrand, bank_setBank_same] <;> rfl

theorem wake_mem (s : State) (k : CoreKey) (b : Fin 2) : (s.wake (.bank k b)).mem = s.mem := rfl
theorem wake_deliveries (s : State) (k : CoreKey) (b : Fin 2) : (s.wake (.bank k b)).deliveries = s.deliveries := rfl

/-! The pieces. -/

/-- A piece of a delivery written into its landing buffer, but not into a bound register region. -/
def State.landPiece (d : Delivery) (s : State) (x : Nat × List Byte) : State :=
  if (s.core d.core).meetsBound x.1 x.2.length then s
  else (s.served ⟨d.core, d.spid, 0, .delivery⟩ x.1 (.spad d.core x.1) x.2.length .write).1.store [(spadBase d.core + x.1, x.2.length)] x.2

theorem accessFrame_landPiece (d : Delivery) (s : State) (x : Nat × List Byte) : AccessFrame s (s.landPiece d x) :=
  .ite _ .refl ((accessFrame_served _ _ _ _ _ _).trans (accessFrame_store _ _ _))

theorem landPiece_mem {d : Delivery} {s : State} {x : Nat × List Byte} (h : (s.core d.core).meetsBound x.1 x.2.length = false) :
    (s.landPiece d x).mem = putBytes s.mem (spadBase d.core + x.1) x.2 := by
  simp only [State.landPiece, h, Bool.false_eq_true, if_false, store_one_mem, served_mem]

theorem landPieces_mem {d : Delivery} (l : List (Nat × List Byte)) {s : State}
    (h : ∀ y ∈ l, (s.core d.core).meetsBound y.1 y.2.length = false) :
    (l.foldl (State.landPiece d) s).mem = l.foldl (fun m y => putBytes m (spadBase d.core + y.1) y.2) s.mem := by
  induction l generalizing s with
  | nil => rfl
  | cons x l ih =>
    rw [List.foldl_cons, ih, landPiece_mem (h x List.mem_cons_self)]
    · rfl
    · intro y hy
      rw [(accessFrame_landPiece d s x).core]
      exact h y (List.mem_cons_of_mem _ hy)

theorem landSegs_running {s : State} {d : Delivery} (hfen : (s.core d.core).fen = false) :
    ∃ p, s.landSegs d = { d.segs.foldl (State.landPiece d) s with poison := p } := by
  simp only [State.landSegs, hfen, Bool.false_eq_true, if_false]
  exact ⟨_, rfl⟩

theorem accessFrame_landSegs (s : State) (d : Delivery) : AccessFrame s (s.landSegs d) := by
  cases hfen : (s.core d.core).fen
  · obtain ⟨p, hp⟩ := landSegs_running hfen
    rw [hp]
    exact (AccessFrame.foldl _ (accessFrame_landPiece d) _ _).trans (.of_state rfl)
  · simp only [State.landSegs, hfen, if_true]
    exact .refl

theorem landSegs_mem {s : State} {d : Delivery} (hfen : (s.core d.core).fen = false)
    (h : ∀ y ∈ d.segs, (s.core d.core).meetsBound y.1 y.2.length = false) :
    (s.landSegs d).mem = d.segs.foldl (fun m y => putBytes m (spadBase d.core + y.1) y.2) s.mem := by
  obtain ⟨p, hp⟩ := landSegs_running hfen
  rw [hp]
  exact landPieces_mem _ h

theorem exec_eventDelivery_waits {s : State} {n : Nat} {d : Delivery} (hd : s.deliveries[n]? = some d) (hw : s.deliveryWaits d = true) :
    exec (.eventDelivery n) s = .next s := by
  change execEventDelivery n s = _
  simp only [execEventDelivery, hd, hw, if_true]

/-- The state once the pieces of the n-th delivery stand. -/
def State.afterLanding (s : State) (n : Nat) (d : Delivery) : State := { s.landSegs d with deliveries := s.deliveries.eraseIdx n }

@[simp] theorem afterLanding_bank (s : State) (n : Nat) (d : Delivery) (k : CoreKey) (b : Fin 2) : (s.afterLanding n d).bank k b = s.bank k b :=
  (accessFrame_landSegs s d).bank k b

theorem afterLanding_findStrand (s : State) (n : Nat) (d : Delivery) (w : StrandId) : (s.afterLanding n d).findStrand w = s.findStrand w :=
  findStrand_congr (accessFrame_landSegs s d).cores w

/-- The entry of a delivery that is made: OCCURRED with its flags (R179, R310). -/
def Offer.delivered (o : Offer) (d : Delivery) : Offer := ⟨setBits (setBits o.w0 29 3 3) 18 4 d.flags.toNat, o.w1⟩

/-- A delivery is made: its pieces are written, and the entry that waits for it occurs (R310). -/
theorem exec_eventDelivery_made {s : State} {n : Nat} {d : Delivery} {w : StrandAt} (hd : s.deliveries[n]? = some d)
    (hw : s.deliveryWaits d = false) (hfind : s.findStrand d.who = some w) (hst : ((s.afterLanding n d).entry w d.entry.val).st = 2) :
    exec (.eventDelivery n) s =
      .next (((s.afterLanding n d).setEntry w d.entry.val (((s.afterLanding n d).entry w d.entry.val).delivered d)).wake w) := by
  have hfound := (afterLanding_findStrand s n d d.who).trans hfind
  change execEventDelivery n s = _
  unfold State.afterLanding at hst hfound
  simp only [execEventDelivery, hd, hw, Bool.false_eq_true, if_false, hfound, hst, if_true]
  rfl

/-- The registers of the strand at which a delivery is made. -/
theorem delivered_ctx {s : State} {n : Nat} {d : Delivery} {k : CoreKey} {b : Fin 2} (hb : (s.bank k b).st = .bound) (e : Offer) :
    ((((s.afterLanding n d).setEntry (.bank k b) d.entry.val e).wake (.bank k b)).bank k b).ctx =
      { (s.bank k b).ctx with offers := (s.bank k b).ctx.offers.set d.entry e } := by
  have hu : ((s.afterLanding n d).bank k b).st = .bound := by rw [afterLanding_bank, hb]
  rw [wake_ctx, setEntry_bound hu, bank_setBank_same, afterLanding_bank, setIfInBounds_fin]

end Sys2Proof.Machine

/-! Fused stages, and the fault that ends a fusion (R345, R348). -/

namespace Sys2Proof.Machine

open Sys2Proof

/-! A stage pushes the last value of its tuple (R345). -/

theorem exec_fusedStageStep {s : State} {d pq : Nat} {j : Fin 16} (hf : (s.quad d pq).fused = true)
    (hz : (s.clu (clusterAt d pq (j.val / 4))).verm.frz = false) : exec (.fusedStageStep d pq j) s = .next (s.stageStep d pq j.val) := by
  change execFusedStageStep d pq j s = _
  simp [execFusedStageStep, hf, hz]

/-- The ring to which a stage pushes the last value of its tuple. -/
def Stage.lastRing (x : Stage) : Nat := x.outs.getD (x.outs.length - 1) 0

section

variable {s t : State} {d pq j : Nat} {x : Stage} {v : Word} (hx : (s.quad d pq).stages[j]? = some x) (ht : x.tuple = some [v])
  (hgone : (x.ins ++ x.outs).findSome? s.ringGone = none)
include hx ht hgone

theorem stageStep_pushes {n : Nat} (hpush : s.ringPush (x.lastRing / 16) (x.lastRing % 16) 0 v = (some n, t)) :
    s.stageStep d pq j = t.setStage d pq j { x with tuple := none } true := by
  simp only [Stage.lastRing] at hpush
  simp only [State.stageStep, hx, hgone, ht, List.length_nil, Nat.zero_add, hpush, List.isEmpty_nil, if_true]

/-- While its ring is full a stage waits. -/
theorem stageStep_full (hpush : s.ringPush (x.lastRing / 16) (x.lastRing % 16) 0 v = (none, t)) : s.stageStep d pq j = s := by
  simp only [Stage.lastRing] at hpush
  simp only [State.stageStep, hx, hgone, ht, List.length_nil, Nat.zero_add, hpush]

end

/-! The frame of the traps of a fusion. -/

/-- s and t differ at most in the cores, the clusters and the fabric, where a trap is taken or its report added. -/
def TrapFrame (s t : State) : Prop := t = { s with cores := t.cores, clusters := t.clusters, fab := t.fab }

namespace TrapFrame

variable {s t u : State}

theorem refl : TrapFrame s s := rfl

theorem trans (a : TrapFrame s t) (b : TrapFrame t u) : TrapFrame s u := by
  unfold TrapFrame at *
  rw [b, a]

theorem mem (a : TrapFrame s t) : t.mem = s.mem := by
  unfold TrapFrame at a
  rw [a]

theorem dies (a : TrapFrame s t) : t.dies = s.dies := by
  unfold TrapFrame at a
  rw [a]

theorem quad (a : TrapFrame s t) (d pq : Nat) : t.quad d pq = s.quad d pq := by
  simp only [State.quad, State.die, a.dies]

theorem foldl {α : Type} (f : State → α → State) (hf : ∀ s a, TrapFrame s (f s a)) (l : List α) (s : State) : TrapFrame s (l.foldl f s) :=
  List.foldlRecOn l f (motive := TrapFrame s) refl fun t h a _ => h.trans (hf t a)

end TrapFrame

theorem trapFrame_setBank (s : State) (k : CoreKey) (b : Fin 2) (x : Bank) : TrapFrame s (s.setBank k b x) := rfl

theorem trapFrame_report (s : State) (kind : Nat) (server sid : Word) (who : StrandId) (ptr : Word) (spid : BitVec 20)
    (words : List Word) : TrapFrame s (s.report kind server sid who ptr spid words) := rfl

theorem trapFrame_setCore (s : State) (k : CoreKey) (c : Core) : TrapFrame s (s.setCore k c) := rfl

theorem trapFrame_skidPc (s : State) (k : CoreKey) (b : Fin 2) : TrapFrame s (s.skidPc k b) := by
  unfold State.skidPc
  extract_lets
  split <;> rfl

theorem trapFrame_enterTrap (s : State) (k : CoreKey) (b : Fin 2) (r : TrapRec) : TrapFrame s (s.enterTrap k b r) := by
  unfold State.enterTrap
  extract_lets
  split
  · exact ((trapFrame_report _ _ _ _ _ _ _ _).trans (trapFrame_setBank _ _ _ _)).trans (trapFrame_skidPc _ _ _)
  · split
    · exact (trapFrame_setBank _ _ _ _).trans (trapFrame_skidPc _ _ _)
    · exact ((trapFrame_report _ _ _ _ _ _ _ _).trans (trapFrame_setBank _ _ _ _)).trans (trapFrame_skidPc _ _ _)

theorem trapFrame_raise (s : State) (k : CoreKey) (b : Fin 2) (r : TrapRec) : TrapFrame s (s.raise k b r) := by
  unfold State.raise
  extract_lets
  split
  · exact trapFrame_enterTrap _ _ _ _
  · rfl

theorem trapFrame_fuseTrap (s : State) (j cause : Nat) (o : FuseOffer) : TrapFrame s (s.fuseTrap j cause o) := by
  unfold State.fuseTrap
  split
  · split
    · exact .refl
    · exact (trapFrame_setBank _ _ _ _).trans (trapFrame_raise _ _ _ _)
  · exact .refl

theorem trapFrame_planesBack (s : State) (d pq : Nat) : TrapFrame s (s.planesBack d pq) :=
  .foldl _ (fun _ _ => trapFrame_setCore _ _ _) _ _

/-! The end of a fusion by a fault. -/

theorem setQuad_mem (s : State) (d pq : Nat) (q : Quad) : (s.setQuad d pq q).mem = s.mem := rfl

theorem quad_setQuad_same (s : State) {d : Nat} (pq : Nat) (q : Quad) (hd : d < 4) : (s.setQuad d pq q).quad d pq = q := by
  rw [State.quad, State.setQuad, die_setDie_same _ _ hd, lookupD_insertKey_same]

/-- A quad that runs a fusion is one of the package's. -/
theorem lt_of_fused {s : State} {d pq : Nat} (h : (s.quad d pq).fused = true) : d < 4 :=
  lt_of_die_ne_reset (s := s) fun hr => by
    rw [State.quad, hr] at h
    exact Bool.false_ne_true h

theorem exec_fusionFault_none {s : State} {d pq : Nat} (j : Fin 16) (cause : Nat) (h : (s.quad d pq).fused = false) :
    exec (.fusionFault d pq j cause) s = .next s := by
  change execFusionFault d pq j cause s = _
  simp [execFusionFault, State.fusionFails, h]

/-- The quad of a fusion that a fault has ended. -/
def Quad.failed (q : Quad) (cause : Nat) : Quad :=
  { q with offers := [], fused := false, stages := [], draining := false, unfuser := none
           unheard := q.unheard ++ q.unfuser.toList, endCode := 2, fcause := cause }

theorem exec_fusionFault_ends {s : State} {d pq : Nat} {j : Fin 16} (cause : Nat) (hf : (s.quad d pq).fused = true)
    (hj : j.val < (s.quad d pq).stages.length) :
    exec (.fusionFault d pq j cause) s = .next ((s.quad d pq).offers.foldl (fun y e => y.fuseTrap j.val cause e.2)
      ((s.planesBack d pq).setQuad d pq ((s.quad d pq).failed cause))) := by
  change execFusionFault d pq j cause s = _
  simp only [execFusionFault, State.fusionFails, hf, hj, if_true, Bool.not_true, Bool.false_eq_true, if_false]
  rfl

theorem trapFrame_fuseTraps (s : State) (j cause : Nat) (l : List (Nat × FuseOffer)) :
    TrapFrame s (l.foldl (fun y e => y.fuseTrap j cause e.2) s) :=
  .foldl _ (fun _ _ => trapFrame_fuseTrap _ _ _ _) _ _

/-- The code of a cause in tcause (R91). -/
theorem bits_cause (c : Cause) : bits (BitVec.ofNat 64 (c.cls * 256 + c.code)) 0 8 = c.code := by
  cases c <;> decide

/-- FUSE_FAULT of a fused strand: the trap of its FUSE, with the stage and the cause (R348). -/
def fuseFaultOf (x : Bank) (j cause : Nat) : TrapRec :=
  ⟨x.nIssued, x.pc - 4, ⟨.fuseFault, BitVec.ofNat 64 j, BitVec.ofNat 8 cause⟩, false, false, none⟩

theorem fuseTrap_raises {s : State} {k : CoreKey} {b : Fin 2} {o : FuseOffer} (j cause : Nat) (hfind : s.findStrand o.who = some (.bank k b))
    (hfen : (s.core k).fen = false) :
    s.fuseTrap j cause o = (s.setBank k b { s.bank k b with wait := none, flagged := false, watch := none, endDue := false }).raise k b
      (fuseFaultOf (s.bank k b) j cause) := by
  simp only [State.fuseTrap, hfind, hfen]
  rfl

/-- Settles O47: a resolution is a snapshot and a round of at most one event; a fused strand takes its trap as `trapTaken` says. -/
theorem eventsAndStages : Obligations.EventsAndStages := by
  unfold Obligations.EventsAndStages
  intro s s1 c0 homes c k b n d pq cause dl j x v nothing occurs q r bh
  have hocc : ∀ {i hs}, exec i s = .next (s.resolve hs) → s.snapshot hs = (s1, [c]) → c.sigs = [] →
      (∀ y ∈ c.parts, s1.strandOffers c.handle y = true) → Home.Present c.home → occurs i := by
    intro i hs hi hsnap hsigs hparts hp
    obtain ⟨hcredit, hrot, hframe⟩ := occurred_resolve hsnap hsigs hparts hp
    exact ⟨_, hi, hcredit, hrot, hframe.mem, hframe.deliveries, hframe.cores⟩
  have hnothing : ∀ {i hs}, exec i s = .next (s.resolve hs) → (s.snapshot hs).2 = [] → nothing i := by
    intro i hs hi hsnap
    have hframe := (resolverFrame_snapshot s hs).trans (resolverFrame_probesResolved _ hs)
    rw [← resolve_nothing hsnap] at hframe
    exact ⟨_, hi, hframe.mem, hframe.deliveries⟩
  have hhome : ∀ {hs}, s.snapshot hs = (s1, [c]) → c.home ∈ hs := by
    intro hs hsnap
    exact home_of_snapshot (by rw [hsnap]; exact List.mem_singleton_self c)
  have hrtick : (s.clu c0).verm.frz = true → exec (.rtick c0) s = .next (s.resolve [.cluster c0]) := by
    intro hf
    rw [exec_rtick, if_pos hf]
  refine ⟨mem_boundaryHomes s homes, hnothing rfl, fun hsnap hsigs hparts => ?_, fun hf => hnothing (hrtick hf), fun hf hsnap hsigs hparts => ?_,
    fun hf => ?_, exec_eventDelivery_waits, fun hd hfen hw hregion hfind hb hst => ?_, fun hf hz hx ht hgone => ?_, ?_, ?_,
    exec_fusionFault_none j cause⟩
  · have hp := present_of_mem_homes ((mem_boundaryHomes s homes _).1 (hhome hsnap)).1
    exact hocc rfl hsnap hsigs hparts hp
  · have hc0 : c.home = .cluster c0 := List.mem_singleton.1 (hhome hsnap)
    exact hocc (hrtick hf) hsnap hsigs hparts (by rw [hc0]; trivial)
  · rw [exec_rtick, if_neg (by rw [hf]; exact Bool.false_ne_true)]
  · have hentry : (s.afterLanding n dl).entry (.bank k b) dl.entry.val = (s.bank k b).ctx.offers[dl.entry] := by
      rw [entry_bound (by rw [afterLanding_bank, hb]), afterLanding_bank]
    have hmade := exec_eventDelivery_made hd hw hfind (by rw [hentry, Offer.st]; exact hst)
    rw [hentry] at hmade
    refine ⟨_, hmade, ?_, ?_, ?_⟩
    · rw [wake_deliveries, setEntry_bound (by rw [afterLanding_bank, hb])]
      rfl
    · rw [wake_mem, setEntry_bound (by rw [afterLanding_bank, hb])]
      exact landSegs_mem hfen hregion
    · rw [delivered_ctx hb, Offer.delivered]
  · have hstep := exec_fusedStageStep hf hz
    exact ⟨fun t1 y hpush => hstep.trans (congrArg _ (stageStep_pushes hx ht hgone hpush)),
      fun y hpush => hstep.trans (congrArg _ (stageStep_full hx ht hgone hpush))⟩
  · intro hf hj ended t
    have hframe : TrapFrame ((s.planesBack d pq).setQuad d pq ended) t := trapFrame_fuseTraps _ _ _ _
    refine ⟨exec_fusionFault_ends cause hf hj, ?_, ?_⟩
    · rw [hframe.mem, setQuad_mem, (trapFrame_planesBack s d pq).mem]
    · rw [hframe.quad, quad_setQuad_same _ _ _ (lt_of_fused hf)]
  · intro y o hfind hfen x z hpend hstore hsend htrap hh hp
    have hraise := fuseTrap_raises j.val cause hfind hfen
    have htaken := trapTaken.1 (y.setBank k b { y.bank k b with wait := none, flagged := false, watch := none, endDue := false }) k b
      (fuseFaultOf (y.bank k b) j.val cause)
    simp only [bank_setBank_same] at htaken
    obtain ⟨htpc, htcause, htval, htinfo, -⟩ := htaken hpend hstore hsend htrap hh hp rfl rfl rfl
    simp only [z, hraise]
    refine ⟨htpc, ?_, htval, ?_, ?_⟩
    · rw [htcause]
      exact bits_cause .fuseFault
    · rw [htinfo]
      simp [fuseFaultOf]
    · exact ((trapFrame_setBank _ _ _ _).trans (trapFrame_raise _ _ _ _)).mem

end Sys2Proof.Machine

/-! What a reply does to a parked strand (R94, R95, R116). -/

namespace Sys2Proof.Machine

open Sys2Proof

/-! The words of a register region after an edit (R80). -/

/-- The loop pairs of words 47 to 50, without the reserved bits (R112). -/
def loopsOfWords (a b c d : Word) : Vector LoopPair 2 :=
  #v[⟨a &&& 0xF9FFFFFFFFFFFFFF, b &&& 0xFFFF0FFFFFFFFFFF⟩, ⟨c &&& 0xF9FFFFFFFFFFFFFF, d &&& 0xFFFF0FFFFFFFFFFF⟩]

theorem loops_ofWords (f : Nat → Word) : (Ctx.ofWords f).loops = loopsOfWords (f 47) (f 48) (f 49) (f 50) := rfl
theorem tpc_ofWords (f : Nat → Word) : (Ctx.ofWords f).tb.tpc = f 64 &&& pcMask := rfl
theorem tinfo_ofWords (f : Nat → Word) : (Ctx.ofWords f).tb.tinfo = f 67 &&& tinfoMask := rfl
theorem tstat_ofWords (f : Nat → Word) : (Ctx.ofWords f).tb.tstat = f 74 &&& tstatMask := rfl

theorem word_loops (c : Ctx) : c.word 47 = c.loops[0].w0 ∧ c.word 48 = c.loops[0].w1 ∧ c.word 49 = c.loops[1].w0 ∧ c.word 50 = c.loops[1].w1 := by
  simp [Ctx.word, vget, Vector.getD]
theorem word_tpc (c : Ctx) : c.word 64 = c.tb.tpc := rfl
theorem word_tinfo (c : Ctx) : c.word 67 = c.tb.tinfo := rfl
theorem word_tstat (c : Ctx) : c.word 74 = c.tb.tstat := rfl

theorem loops_setWord (c : Ctx) {i : Nat} (x : Word) (h : i < 47 ∨ 50 < i) : (c.setWord i x).loops = (Ctx.ofWords c.word).loops := by
  rw [Ctx.setWord, loops_ofWords, loops_ofWords, if_neg (by omega), if_neg (by omega), if_neg (by omega), if_neg (by omega)]

/-- Reserved bits that have been read as 0 stay 0. -/
theorem loops_ofWords_word (f : Nat → Word) : (Ctx.ofWords (Ctx.ofWords f).word).loops = (Ctx.ofWords f).loops := by
  obtain ⟨h0, h1, h2, h3⟩ := word_loops (Ctx.ofWords f)
  rw [loops_ofWords, h0, h1, h2, h3, loops_ofWords]
  simp only [loopsOfWords, Vector.getElem_mk, List.getElem_toArray, List.getElem_cons_zero, List.getElem_cons_succ, BitVec.and_assoc, BitVec.and_self]

theorem tpc_setWord (c : Ctx) {i : Nat} (x : Word) (h : i ≠ 64) : (c.setWord i x).tb.tpc = c.tb.tpc &&& pcMask := by
  rw [Ctx.setWord, tpc_ofWords, if_neg h.symm, word_tpc]

theorem tinfo_setWord (c : Ctx) {i : Nat} (x : Word) (h : i ≠ 67) : (c.setWord i x).tb.tinfo = c.tb.tinfo &&& tinfoMask := by
  rw [Ctx.setWord, tinfo_ofWords, if_neg h.symm, word_tinfo]

theorem tinfo_setWord_same (c : Ctx) (x : Word) : (c.setWord 67 x).tb.tinfo = x &&& tinfoMask := by
  rw [Ctx.setWord, tinfo_ofWords, if_pos rfl]

theorem tstat_setWord (c : Ctx) {i : Nat} (x : Word) (h : i ≠ 74) : (c.setWord i x).tb.tstat = c.tb.tstat &&& tstatMask := by
  rw [Ctx.setWord, tstat_ofWords, if_neg h.symm, word_tstat]

theorem tstat_setWord_same (c : Ctx) (x : Word) : (c.setWord 74 x).tb.tstat = x &&& tstatMask := by
  rw [Ctx.setWord, tstat_ofWords, if_pos rfl]

/-! ISSUED in tinfo (R91). -/

theorem bits_eq_extractLsb' (w : Word) (lo len : Nat) : bits w lo len = (w.extractLsb' lo len).toNat := by
  simp [bits, BitVec.extractLsb'_toNat, Nat.shiftRight_eq_div_pow]

theorem issued_and_tinfoMask (w : Word) : bits (w &&& tinfoMask) 8 4 = bits w 8 4 := by
  rw [bits_eq_extractLsb', bits_eq_extractLsb']
  congr 1
  ext i hi
  interval_cases i <;> simp [tinfoMask]

theorem issued_or_sk (w : Word) : bits (w ||| 0x8000000) 8 4 = bits w 8 4 := by
  rw [bits_eq_extractLsb', bits_eq_extractLsb']
  congr 1
  ext i hi
  interval_cases i <;> simp

theorem sk_and_tinfoMask (w : Word) : (w &&& tinfoMask).getLsbD 27 = w.getLsbD 27 := by
  simp [tinfoMask]

theorem sk_or_sk (w : Word) : (w ||| 0x8000000).getLsbD 27 = true := by
  simp

/-! The return of a strand with an empty window (R94, R116). -/

theorem passedEnd_congr {x y : Bank} (ht : y.trapAt = x.trapAt) (hl : y.ctx.loops = x.ctx.loops) (goal : Word) :
    y.passedEnd goal = x.passedEnd goal := by
  simp only [Bank.passedEnd, Ctx.pair, ht, hl]

/-- Where a strand goes on that returns to an address: there, or past the end of the body that it leaves so. -/
def Bank.backTo (x : Bank) (goal : Word) : Word :=
  match x.passedEnd goal with
  | some e => e + 4
  | none => goal

theorem backTo_congr {x y : Bank} (ht : y.trapAt = x.trapAt) (hl : y.ctx.loops = x.ctx.loops) (goal : Word) :
    y.backTo goal = x.backTo goal := by
  simp only [Bank.backTo, passedEnd_congr ht hl]

/-- With no window instruction issued the strand returns to tpc, or after it where SK is set. -/
theorem returns_pc {x : Bank} (h : bits x.ctx.tb.tinfo 8 4 = 0) :
    x.returns.pc = x.backTo (if x.ctx.tb.tinfo.getLsbD 27 then x.ctx.tb.tpc + 4 else x.ctx.tb.tpc) := by
  cases hsk : x.ctx.tb.tinfo.getLsbD 27
  · have howed : x.ctx.tb.owed = [0] := by simp only [TrapBlock.owed, h, hsk]; rfl
    have hstart : x.ctx.tb.tpc + 4 * BitVec.ofNat 64 0 = x.ctx.tb.tpc := by simp
    simp only [Bank.returns, howed, h, hstart, Bank.backTo, Bool.false_eq_true, if_false, if_true]
    cases x.passedEnd x.ctx.tb.tpc <;> rfl
  · have howed : x.ctx.tb.owed = [] := by simp only [TrapBlock.owed, h, hsk]; rfl
    have hstart : x.ctx.tb.tpc + 4 * BitVec.ofNat 64 (0 + 1) = x.ctx.tb.tpc + 4 := by simp
    simp only [Bank.returns, howed, h, hstart, Bank.backTo, if_true]
    cases x.passedEnd (x.ctx.tb.tpc + 4) <;> rfl

/-! RESUME and SKIP of a bound strand (R95). -/

/-- The registers with which a strand goes on from one trap: PRK and H cleared, and SK set by SKIP. -/
def Ctx.resumed (c : Ctx) (skip : Bool) : Ctx :=
  let c1 := c.setWord 74 (c.tb.tstat &&& 0xFFFFFFFFFFFFFFFC)
  if skip then c1.setWord 67 (c1.tb.tinfo ||| 0x8000000) else c1

/-- The registers with which a strand goes on from a double trap: PRK cleared. -/
def Ctx.resumedDouble (c : Ctx) : Ctx := c.setWord 74 (c.tb.tstat &&& 0xFFFFFFFFFFFFFFFD)

section

variable {s : State} {k : CoreKey} {b : Fin 2} (hb : (s.bank k b).st = .bound)
include hb

theorem regionWord_bound (i : Nat) : s.regionWord (.bank k b) i = (s.bank k b).ctx.word i := by
  simp only [State.regionWord, inWorkspace_bound hb, State.strand]

theorem setRegionWord_bound (i : Nat) (x : Word) :
    s.setRegionWord (.bank k b) i x = s.setBank k b { s.bank k b with ctx := (s.bank k b).ctx.setWord i x } := by
  simp only [State.setRegionWord, inWorkspace_bound hb, State.strand, State.setStrand]

theorem ctxOf_bound : s.ctxOf (.bank k b) = (s.bank k b).ctx := by
  simp only [State.ctxOf, inWorkspace_bound hb, State.strand]

theorem resumeStrand_double {d : DoubleTrap} (hd : (s.bank k b).dbl = some d) (skip : Bool) :
    s.resumeStrand (.bank k b) skip = (s.setBank k b { s.bank k b with
      ctx := (s.bank k b).ctx.resumedDouble, dbl := none, replay := none, pc := if skip then d.pc + 4 else d.pc
      endDue := skip && (s.bank k b).ctx.resumedDouble.atEnd d.pc }).skidPc k b := by
  let s1 := s.setBank k b { s.bank k b with ctx := (s.bank k b).ctx.resumedDouble }
  have h1 : s.setRegionWord (.bank k b) 74 (s.regionWord (.bank k b) 74 &&& 0xFFFFFFFFFFFFFFFD) = s1 := by
    rw [setRegionWord_bound hb, regionWord_bound hb, word_tstat]
    rfl
  have hbank : s1.bank k b = { s.bank k b with ctx := (s.bank k b).ctx.resumedDouble } := bank_setBank_same _ _ _ _
  have hb1 : (s1.bank k b).st = .bound := by rw [hbank]; exact hb
  simp only [State.resumeStrand, State.strand, hd, Option.isSome_some, if_true, h1, ctxOf_bound hb1, hbank, State.setStrand]
  simp only [s1, setBank_setBank]
  rfl

theorem resumeStrand_single (hd : (s.bank k b).dbl = none) (skip : Bool) :
    s.resumeStrand (.bank k b) skip = (s.setBank k b { ({ s.bank k b with ctx := (s.bank k b).ctx.resumed skip } : Bank).returns with
      ctx := (s.bank k b).ctx.resumed skip }).skidPc k b := by
  let c1 := (s.bank k b).ctx.setWord 74 ((s.bank k b).ctx.tb.tstat &&& 0xFFFFFFFFFFFFFFFC)
  let s1 := s.setBank k b { s.bank k b with ctx := c1 }
  let s2 := s.setBank k b { s.bank k b with ctx := (s.bank k b).ctx.resumed skip }
  have h1 : s.setRegionWord (.bank k b) 74 (s.regionWord (.bank k b) 74 &&& 0xFFFFFFFFFFFFFFFC) = s1 := by
    rw [setRegionWord_bound hb, regionWord_bound hb, word_tstat]
  have hbank1 : s1.bank k b = { s.bank k b with ctx := c1 } := bank_setBank_same _ _ _ _
  have hb1 : (s1.bank k b).st = .bound := by rw [hbank1]; exact hb
  have h2 : (if skip then s1.setRegionWord (.bank k b) 67 (s1.regionWord (.bank k b) 67 ||| 0x8000000) else s1) = s2 := by
    cases skip
    · rfl
    · rw [setRegionWord_bound hb1, regionWord_bound hb1, word_tinfo, hbank1]
      simp only [s1, setBank_setBank, if_true]
      rfl
  have hbank2 : s2.bank k b = { s.bank k b with ctx := (s.bank k b).ctx.resumed skip } := bank_setBank_same _ _ _ _
  have hb2 : (s2.bank k b).st = .bound := by rw [hbank2]; exact hb
  simp only [State.resumeStrand, State.strand, hd, Option.isSome_none, Bool.false_eq_true, if_false, h1, hbank1, h2, ctxOf_bound hb2, hbank2, State.setStrand]
  simp only [s2, setBank_setBank]
  rfl

end

/-! Of the registers with which a strand goes on: the trap block and the loop pairs. -/

theorem resumed_loops (c : Ctx) (skip : Bool) : (c.resumed skip).loops = (Ctx.ofWords c.word).loops := by
  have h1 : ∀ x, (c.setWord 74 x).loops = (Ctx.ofWords c.word).loops := fun x => loops_setWord c x (.inr (by decide))
  cases skip
  · exact h1 _
  · refine (loops_setWord _ _ (.inr (by decide))).trans ((loops_ofWords_word _).trans (h1 _))

theorem resumed_tpc (c : Ctx) (skip : Bool) : (c.resumed skip).tb.tpc = c.tb.tpc &&& pcMask := by
  cases skip
  · exact tpc_setWord _ _ (by decide)
  · refine (tpc_setWord _ _ (by decide)).trans ?_
    rw [tpc_setWord _ _ (by decide), BitVec.and_assoc, BitVec.and_self]

theorem resumed_issued (c : Ctx) (skip : Bool) : bits (c.resumed skip).tb.tinfo 8 4 = bits c.tb.tinfo 8 4 := by
  cases skip
  · rw [Ctx.resumed, if_neg Bool.false_ne_true, tinfo_setWord _ _ (by decide), issued_and_tinfoMask]
  · rw [Ctx.resumed, if_pos rfl, tinfo_setWord_same, issued_and_tinfoMask, issued_or_sk, tinfo_setWord _ _ (by decide), issued_and_tinfoMask]

theorem resumed_sk (c : Ctx) (skip : Bool) : (c.resumed skip).tb.tinfo.getLsbD 27 = (skip || c.tb.tinfo.getLsbD 27) := by
  cases skip
  · rw [Ctx.resumed, if_neg Bool.false_ne_true, tinfo_setWord _ _ (by decide), sk_and_tinfoMask, Bool.false_or]
  · rw [Ctx.resumed, if_pos rfl, tinfo_setWord_same, sk_and_tinfoMask, sk_or_sk, Bool.true_or]

theorem resumed_tstat (c : Ctx) (skip : Bool) : (c.resumed skip).tb.tstat = c.tb.tstat &&& 4 := by
  have hmask : (0xFFFFFFFFFFFFFFFC : Word) &&& tstatMask = 4 := by decide
  have h1 : (c.setWord 74 (c.tb.tstat &&& 0xFFFFFFFFFFFFFFFC)).tb.tstat = c.tb.tstat &&& 4 := by
    rw [tstat_setWord_same, BitVec.and_assoc, hmask]
  cases skip
  · exact h1
  · rw [Ctx.resumed, if_pos rfl, tstat_setWord _ _ (by decide), h1, BitVec.and_assoc]
    rfl

theorem resumedDouble_tstat (c : Ctx) : c.resumedDouble.tb.tstat = c.tb.tstat &&& 5 := by
  have hmask : (0xFFFFFFFFFFFFFFFD : Word) &&& tstatMask = 5 := by decide
  rw [Ctx.resumedDouble, tstat_setWord_same, BitVec.and_assoc, hmask]

/-- The pc of a strand that goes on from one trap with an empty window. -/
theorem resumed_pc {x : Bank} (skip : Bool) (h : bits x.ctx.tb.tinfo 8 4 = 0) :
    ({ x with ctx := x.ctx.resumed skip } : Bank).returns.pc = ({ x with ctx := Ctx.ofWords x.ctx.word } : Bank).backTo
      (if skip || x.ctx.tb.tinfo.getLsbD 27 then (x.ctx.tb.tpc &&& pcMask) + 4 else x.ctx.tb.tpc &&& pcMask) := by
  have hissued : bits (x.ctx.resumed skip).tb.tinfo 8 4 = 0 := (resumed_issued _ _).trans h
  have hpc := returns_pc (x := { x with ctx := x.ctx.resumed skip }) hissued
  simp only [resumed_sk, resumed_tpc] at hpc
  have hback := backTo_congr (x := { x with ctx := Ctx.ofWords x.ctx.word }) (y := { x with ctx := x.ctx.resumed skip }) rfl (resumed_loops x.ctx skip)
  rw [hpc, hback]

/-- A parked strand that goes on from one trap: neither parked nor in its handler, at the address of its return. -/
theorem resumeStrand_from_trap {s : State} {k : CoreKey} {b : Fin 2} (hb : (s.bank k b).st = .bound) (hd : (s.bank k b).dbl = none)
    (skip : Bool) (h : bits (s.bank k b).ctx.tb.tinfo 8 4 = 0) :
    let t := s.resumeStrand (.bank k b) skip
    t.mem = s.mem ∧ (t.bank k b).prk = false ∧ (t.bank k b).h = false ∧
      (t.bank k b).pc = ({ s.bank k b with ctx := Ctx.ofWords (s.bank k b).ctx.word } : Bank).backTo
        (if skip || (s.bank k b).ctx.tb.tinfo.getLsbD 27 then ((s.bank k b).ctx.tb.tpc &&& pcMask) + 4
          else (s.bank k b).ctx.tb.tpc &&& pcMask) := by
  rw [resumeStrand_single hb hd skip]
  simp only [skidPc_mem, skidPc_bank, bank_setBank_same, state_setBank_mem, Bank.prk, Bank.h, resumed_tstat, true_and]
  exact ⟨by simp, by simp, resumed_pc skip h⟩

/-- A strand parked by a double trap goes on in its handler, at the address of the second trap or after it. -/
theorem resumeStrand_from_double {s : State} {k : CoreKey} {b : Fin 2} (hb : (s.bank k b).st = .bound) {d : DoubleTrap}
    (hd : (s.bank k b).dbl = some d) (skip : Bool) :
    let t := s.resumeStrand (.bank k b) skip
    t.mem = s.mem ∧ (t.bank k b).prk = false ∧ (t.bank k b).h = (s.bank k b).h ∧ (t.bank k b).pc = if skip then d.pc + 4 else d.pc := by
  rw [resumeStrand_double hb hd skip]
  simp only [skidPc_mem, skidPc_bank, bank_setBank_same, state_setBank_mem, Bank.prk, Bank.h, resumedDouble_tstat, true_and, and_true]
  exact ⟨by simp, by simp⟩

end Sys2Proof.Machine

/-! Reports on their way to their rings (R440, R441). -/

namespace Sys2Proof.Machine

open Sys2Proof

/-! A record in the package's own ring. -/

/-- The step that makes a write or an addition that the device owes leaves the ring's next slot. -/
theorem ringNext_of_accessFrame {s t : State} (a : AccessFrame s t) : t.fab.ringNext = s.fab.ringNext := by rw [a.fab]

theorem accessFrame_writeAt {s t : State} {v : View} {p w : Nat} {bs : List Byte} (h : s.writeAt v p w bs = .ok t) : AccessFrame s t := by
  obtain ⟨pl, -, h⟩ := chk_bind_ok h
  obtain ⟨ps, -, h⟩ := chk_bind_ok h
  cases h
  exact (accessFrame_served _ _ _ _ _ _).trans (accessFrame_store _ _ _)

theorem accessFrame_addAt {s t : State} {v : View} {p : Nat} {x : Word} (h : s.addAt v p x = .ok t) : AccessFrame s t := by
  obtain ⟨pl, -, h⟩ := chk_bind_ok h
  obtain ⟨ps, -, h⟩ := chk_bind_ok h
  cases h
  exact (accessFrame_served _ _ _ _ _ _).trans (accessFrame_store _ _ _)

theorem ringNext_farSend {s t : State} {k : CoreKey} {grp : Option (BitVec 16 × Word)} {pl : Place} {op : PacketOp} {bs : List Byte}
    {n : Nat} (h : s.farSend k grp pl op bs = .ok (n, t)) : t.fab.ringNext = s.fab.ringNext := by
  unfold State.farSend at h
  split at h
  · obtain ⟨j, -, h⟩ := chk_bind_ok h
    simp only at h
    split at h
    · cases h
      rfl
    · cases h
  · cases h

theorem ringNext_makeOwed {s t : State} {o : Owed} (h : s.makeOwed o = .ok t) : t.fab.ringNext = s.fab.ringNext := by
  unfold State.makeOwed at h
  extract_lets v far at h
  have hfar : ∀ op bs u, far op bs = .ok (some u) → u.fab.ringNext = s.fab.ringNext := by
    intro op bs u hu
    simp only [far] at hu
    split at hu
    · obtain ⟨-, -, hu⟩ := chk_bind_ok hu
      obtain ⟨r, hr, hu⟩ := chk_bind_ok hu
      cases hu
      exact ringNext_farSend hr
    · cases hu
  split at h
  · obtain ⟨-, -, h⟩ := chk_bind_ok h
    cases h
    rfl
  · obtain ⟨r, hr, h⟩ := chk_bind_ok h
    cases r with
    | some u => cases h; exact hfar _ _ _ hr
    | none => exact ringNext_of_accessFrame (accessFrame_writeAt h)
  · obtain ⟨r, hr, h⟩ := chk_bind_ok h
    cases r with
    | some u => cases h; exact hfar _ _ _ hr
    | none => exact ringNext_of_accessFrame (accessFrame_addAt h)

theorem ringNext_owe (s : State) (o : Owed) : (s.owe o).fab.ringNext = s.fab.ringNext := by
  unfold State.owe
  split
  · rfl
  · split
    · next h => exact ringNext_makeOwed h
    · rfl
    · rfl

theorem ringNext_dispatchSignal (s : State) (spid : BitVec 20) (p : Word) : (s.dispatchSignal spid p).fab.ringNext = s.fab.ringNext := by
  unfold State.dispatchSignal State.dispatchOwe
  split
  · exact ringNext_owe _ _
  · rfl

theorem ringWrite_ringNext {s t : State} {r : Report} (h : s.ringWrite r = some t) : t.fab.ringNext = s.fab.ringNext + 1 := by
  unfold State.ringWrite at h
  extract_lets p at h
  split at h
  · cases h
  · split at h
    · cases h
    · split at h
      · cases h
      · split at h
        · cases h
        · next hw =>
          cases h
          exact congrArg (· + 1) ((ringNext_dispatchSignal _ _ _).trans (ringNext_of_accessFrame (accessFrame_writeAt hw)))

theorem ringOn_of_ringWrite {s t : State} {r : Report} (h : s.ringWrite r = some t) : s.ringOn = true := by
  cases hon : s.ringOn with
  | true => rfl
  | false => simp [State.ringWrite, hon] at h

/-! The report at the head of the list. -/

section

variable {s : State} {r : Report} {rs : List Report} (hrs : s.fab.reports = r :: rs)
include hrs

/-- The oldest report that waits is delivered where it can be. -/
theorem exec_faultReport_head (h : s.deliverReport 0 r ≠ s) : exec .faultReport s = .next (s.deliverReport 0 r) := by
  change execFaultReport s = _
  have hheads : ∃ l, s.reportHeads = (r, 0) :: l := by
    simp only [State.reportHeads, hrs, List.zipIdx_cons]
    rw [List.filter_cons_of_pos (by simp)]
    exact ⟨_, rfl⟩
  obtain ⟨l, hl⟩ := hheads
  simp [execFaultReport, hl, h]

/-- Where the oldest report has to wait, the others for its ring wait behind it. -/
theorem exec_faultReport_waits (h : s.deliverReport 0 r = s) (hring : ∀ y ∈ rs, s.reportRing y = s.reportRing r) :
    exec .faultReport s = .next s := by
  change execFaultReport s = _
  have hheads : s.reportHeads = [(r, 0)] := by
    simp only [State.reportHeads, hrs, List.zipIdx_cons]
    rw [List.filter_cons_of_pos (by simp), List.filter_eq_nil_iff.2]
    rintro ⟨y, n⟩ hy
    obtain ⟨hn, hlen, hmem⟩ := List.mem_zipIdx hy
    obtain ⟨m, rfl⟩ := Nat.exists_eq_add_of_le' hn
    have hsame : s.reportRing r = s.reportRing y := (hring y (hmem ▸ List.getElem_mem _)).symm
    simp [hsame]
  simp [execFaultReport, hheads, h]

end

/-! Where a report goes (R441). -/

section

variable {s : State} {r : Report}

theorem reportRing_here (h : r.src = s.ctl.pkid.toNat → r.server = 0xFFFFFFFFFFFFFFFF ∨ r.target = s.ctl.pkid.toNat) :
    s.reportRing r = s.ctl.pkid.toNat := by
  unfold State.reportRing
  split
  · rfl
  · next hn =>
    obtain ⟨hsrc, hserver⟩ := not_or.1 hn
    exact (h (not_not.1 hsrc)).resolve_left hserver

theorem deliverReport_here (hring : s.reportRing r = s.ctl.pkid.toNat)
    (h : s.ringOn = true ∨ r.src ≠ s.ctl.pkid.toNat ∨ r.server = 0xFFFFFFFFFFFFFFFF) (n : Nat) : s.deliverReport n r = s.reportHere n r := by
  have hor : (s.ringOn || r.src != s.ctl.pkid.toNat || r.server == 0xFFFFFFFFFFFFFFFF) = true := by simpa [or_assoc] using h
  rw [State.deliverReport, if_neg (not_not.2 hring), if_pos hor]

theorem reportHere_placed {t : State} (h : s.ringWrite r = some t) (n : Nat) :
    s.reportHere n r =
      if r.server = 0xFFFFFFFFFFFFFFFF then ((t.dropReport n).await r).raiseMsix 6 else (t.dropReport n).await r := by
  simp only [State.reportHere, h]

theorem reportHere_waits (h : s.ringWrite r = none) (n : Nat) : s.reportHere n r = s := by
  simp only [State.reportHere, h]

/-- The kinds of report that await a reply (R442). -/
theorem await_eq (s : State) (r : Report) :
    s.await r = if (r.kind = 1 ∨ r.kind = 2 ∨ r.kind = 3 ∨ r.kind = 5) ∧ r.src = s.ctl.pkid.toNat then
      { s with fab := { s.fab with awaiting := s.fab.awaiting ++ [r] } } else s := by
  have hkind : kindReplied r.kind = true ↔ r.kind = 1 ∨ r.kind = 2 ∨ r.kind = 3 ∨ r.kind = 5 := by simp [kindReplied, or_assoc]
  simp only [State.await, hkind]

theorem await_ringNext (s : State) (r : Report) : (s.await r).fab.ringNext = s.fab.ringNext := by
  unfold State.await
  split <;> rfl

theorem await_reports (s : State) (r : Report) : (s.await r).fab.reports = s.fab.reports := by
  unfold State.await
  split <;> rfl

theorem reportHere_placed_ne {t : State} (h : s.ringWrite r = some t) (n : Nat) : s.reportHere n r ≠ s := by
  have hnext : (s.reportHere n r).fab.ringNext = s.fab.ringNext + 1 := by
    rw [reportHere_placed h]
    have hwritten := ringWrite_ringNext h
    have hdropped : ((t.dropReport n).await r).fab.ringNext = s.fab.ringNext + 1 := by
      rw [await_ringNext]
      exact hwritten
    split <;> exact hdropped
  intro he
  rw [he] at hnext
  exact absurd hnext (by omega)

/-- A report that the host takes over where the package's ring is off. -/
theorem deliverReport_turned {rs : List Report} (hrs : s.fab.reports = r :: rs) (hring : s.reportRing r = s.ctl.pkid.toNat)
    (hon : s.ringOn = false) (hsrc : r.src = s.ctl.pkid.toNat) (hserver : r.server ≠ 0xFFFFFFFFFFFFFFFF) :
    s.deliverReport 0 r = { s with fab := { s.fab with reports := r.toHost :: rs } } := by
  let t : State := { s with fab := { s.fab with reports := r.toHost :: rs } }
  have hwrite : t.ringWrite r.toHost = none := by
    have hoff : t.ringOn = false := hon
    simp [State.ringWrite, hoff]
  have hor : ¬(s.ringOn || r.src != s.ctl.pkid.toNat || r.server == 0xFFFFFFFFFFFFFFFF) = true := by
    simp only [hon, hsrc, bne_self_eq_false, beq_eq_false_iff_ne.2 hserver, Bool.or_self]
    exact Bool.false_ne_true
  rw [State.deliverReport, if_neg (not_not.2 hring), if_neg hor, State.turnReport, hrs]
  exact reportHere_waits hwrite 0

theorem deliverReport_away {g : BitVec 16 × Word} {j : Nat} (hsrc : r.src = s.ctl.pkid.toNat) (hserver : r.server ≠ 0xFFFFFFFFFFFFFFFF)
    (htarget : r.target ≠ s.ctl.pkid.toNat) (hg : s.groupId r.spid = some g) (hway : s.portWay (r.sid.toNat / 4096 % 4) r.target = .ok j)
    (hroom : s.portRoom j (packetUnder g 0 1 none (.report (r.record.take 12)) 0 []) = true) (n : Nat) :
    s.deliverReport n r = ((s.sendPacket j r.target (packetUnder g 0 1 none (.report (r.record.take 12)) 0 [])).dropReport n).await r := by
  have hring : s.reportRing r = r.target := if_neg (not_or.2 ⟨not_not.2 hsrc, hserver⟩)
  rw [State.deliverReport, if_pos (by rw [hring]; exact htarget), State.reportAway, hg, hway]
  exact if_pos hroom

end

end Sys2Proof.Machine

/-! The fault server: replies, stall flags and probes (R95, R251, R313 to R318, R442). -/

namespace Sys2Proof.Machine

open Sys2Proof

/-! Which report a reply answers (R442). -/

section

variable {s : State} {tag : BitVec 16} {sid : Word} {r : Report}
  (hawaits : s.fab.awaiting.find? (fun y => y.tag == tag && y.sid == sid) = some r)
include hawaits

theorem applyReply_strand (hkind : r.kind ≠ 3) (code : Nat) {pairs : List (Nat × Word)} (hpairs : code = 4 ∨ pairs.isEmpty = true) :
    s.applyReply code tag sid 0 pairs = s.replyStrand r code pairs := by
  simp only [State.applyReply, hawaits, if_neg hkind, hpairs, and_self, if_true]

theorem applyReply_cmd (hkind : r.kind = 3) (code : Nat) : s.applyReply code tag sid 0 [] = s.replyCmd r code 0 := by
  simp [State.applyReply, hawaits, hkind]

end

section

variable {s : State} {r : Report} {k : CoreKey} {b : Fin 2} (hstrand : s.strandOfReport r = some (.bank k b))
include hstrand

theorem replyStrand_resume (hkind : r.kind ≠ 5) : s.replyStrand r 1 [] = (s.answered r).resumeStrand (.bank k b) false := by
  simp [State.replyStrand, hstrand, hkind]

theorem replyStrand_skip (hkind : r.kind ≠ 5) : s.replyStrand r 2 [] = (s.answered r).resumeStrand (.bank k b) true := by
  simp [State.replyStrand, hstrand, hkind]

theorem replyStrand_kill : s.replyStrand r 3 [] = (s.answered r).endStrand (.bank k b) true := by
  simp [State.replyStrand, hstrand]

theorem replyStrand_edit (hkind : r.kind ≠ 5) {off : Nat} {v : Word} (hoff : off % 8 = 0) (hlt : off < regionBytes) :
    s.replyStrand r 4 [(off, v)] = s.editWord (.bank k b) off v := by
  have hok : pairsOk [(off, v)] = true := by simp [pairsOk, hoff, hlt]
  simp [State.replyStrand, hstrand, hkind, hok]

end

/-! KILL and EDIT. -/

theorem emptied_bank (s : State) (k : CoreKey) (b : Fin 2) : (s.emptied k).bank k b = s.bank k b := by
  have hswap : ∀ c : Core, c.b0 = (s.core k).b0 → c.b1 = (s.core k).b1 → (s.setCore k c).bank k b = s.bank k b := by
    intro c h0 h1
    simp only [State.bank, core_setCore_same, Core.bank, h0, h1]
  unfold State.emptied
  extract_lets c
  split
  · unfold State.swap
    extract_lets
    split <;> exact hswap _ rfl rfl
  · rfl

theorem mapLaunch_bank (s : State) (ln : BitVec 16) (f : Launch → Launch) (k : CoreKey) (b : Fin 2) :
    (s.mapLaunch ln f).bank k b = s.bank k b := rfl

theorem endStrand_bank (s : State) (k : CoreKey) (b : Fin 2) (kill : Bool) : (s.endStrand (.bank k b) kill).bank k b = Bank.empty := by
  rw [State.endStrand, mapLaunch_bank, emptied_bank, bank_setBank_same]

theorem word_binds (c : Ctx) {i : Nat} (h : 96 ≤ i ∧ i < 104) (v : Word) : (c.setWord i v).word i = v := by
  obtain ⟨hlo, hhi⟩ := h
  interval_cases i <;> rfl

/-- The registers of a bound strand after an EDIT of one word: of tstat H alone, and a binding word loaded again (R95, R226). -/
def Ctx.edited (c : Ctx) (i : Nat) (v : Word) : Ctx :=
  if i = 74 then c.setWord 74 (c.word 74 &&& 6 ||| v &&& 1)
  else if 96 ≤ i ∧ i < 104 then (c.setWord i v).setWord i (bindLoad v)
  else c.setWord i v

theorem rebind_ctx (x : Bank) (i : Nat) :
    (x.rebind i).ctx = if 96 ≤ i ∧ i < 104 then x.ctx.setWord i (bindLoad (x.ctx.word i)) else x.ctx := by
  unfold Bank.rebind
  split <;> rfl

theorem editWord_bound {s : State} {k : CoreKey} {b : Fin 2} (hb : (s.bank k b).st = .bound) (i : Nat) (v : Word) :
    ((s.editWord (.bank k b) (8 * i) v).bank k b).ctx = (s.bank k b).ctx.edited i v ∧ (s.editWord (.bank k b) (8 * i) v).mem = s.mem := by
  have hi : 8 * i / 8 = i := by omega
  simp only [State.editWord, hi, inWorkspace_bound hb, regionWord_bound hb, setRegionWord_bound hb, State.strand, State.setStrand,
    bank_setBank_same, setBank_setBank, rebind_ctx, state_setBank_mem, and_true]
  unfold Ctx.edited
  by_cases h74 : i = 74
  · subst h74
    simp
  · by_cases hbind : 96 ≤ i ∧ i < 104
    · simp only [h74, hbind, if_false, and_self, if_true, word_binds _ hbind]
    · simp only [h74, hbind, if_false]

/-! DISCARD. -/

theorem discardCmd_single (s : State) (c : ClusterKey) {m : Cmd} (hst : m.st = .stopped) (hgang : m.gang = none) :
    s.discardCmd c m = s.dropOne c m := by
  simp [State.discardCmd, Cluster.discards, hgang, hst]

theorem st_of_stoppedCmd {s : State} {r : Report} {c : ClusterKey} {m : Cmd} (h : s.stoppedCmd r = some (c, m)) : m.st = .stopped := by
  obtain ⟨e, -, he⟩ := List.exists_of_findSome?_eq_some h
  obtain ⟨d, hd, hpair⟩ := Option.map_eq_some_iff.1 he
  cases hpair
  have hmatch := List.find?_some hd
  simp only [Bool.and_eq_true, beq_iff_eq] at hmatch
  obtain ⟨⟨hst, -⟩, -⟩ := hmatch
  exact hst

theorem dropOne_cmds (s : State) (c : ClusterKey) (m : Cmd) :
    ((s.dropOne c m).clu c).cmds = (s.clu c).cmds.filter fun y => y.id != m.id := by
  change ((s.setClu c ((s.clu c).discardOne m)).clu c).cmds = _
  rw [clu_setClu_same]
  simp [Cluster.discardOne, Cluster.dropCmd]

/-! The stall watch (R313 to R317). -/

theorem setProbe_mem (s : State) (h : Home) (p : Probe) : (s.setProbe h p).mem = s.mem := by
  cases h <;> rfl

theorem setProbe_bank (s : State) (h : Home) (p : Probe) (k : CoreKey) (b : Fin 2) : (s.setProbe h p).bank k b = s.bank k b := by
  cases h <;> rfl

/-- A strand whose wait passes WINT is flagged (R313). -/
theorem exec_stallFlag_flags {s : State} {k : CoreKey} {b : Fin 2} (hfind : s.findStrand (s.bank k b).id.who = some (.bank k b))
    (hflag : (s.bank k b).flagged = false) (hwatch : (s.clu (clusterOf k)).evwatch ≠ 0)
    (hwait : (s.waitsIn (.bank k b)).isSome = true ∨ (s.bank k b).completionWait = true) :
    ∃ t, exec (.stallFlag (s.bank k b).id.ln (s.bank k b).id.lid) s = .next t ∧ t.mem = s.mem ∧
      t.bank k b = { s.bank k b with flagged := true, flagSeen := false } := by
  have hstrand : s.strand (.bank k b) = s.bank k b := rfl
  have hguard : ((s.bank k b).flagged || (s.clu (clusterOf k)).evwatch == 0 ||
      ((s.waitsIn (.bank k b)).isNone && !(s.bank k b).completionWait)) = false := by
    rw [hflag, beq_eq_false_iff_ne.2 hwatch]
    rcases hwait with h | h
    · rw [Option.isNone_eq_false_iff.2 h]
      rfl
    · simp [h]
  have hfind' : s.findStrand ⟨(s.bank k b).id.ln, (s.bank k b).id.lid⟩ = some (.bank k b) := hfind
  change ∃ t, execStallFlag _ _ s = .next t ∧ _
  simp only [execStallFlag, hfind', hstrand, StrandAt.core, hguard, Bool.false_eq_true, if_false]
  split
  · exact ⟨_, rfl, rfl, bank_setBank_same _ _ _ _⟩
  · exact ⟨_, rfl, setProbe_mem _ _ _, (setProbe_bank _ _ _ _ _).trans (bank_setBank_same _ _ _ _)⟩

/-- A probe of a strand in a completion wait reports reason 5 (R317). -/
theorem exec_probe_completion {s : State} {h : Home} {k : CoreKey} {b : Fin 2} {w : ProbeView}
    (hpending : (s.probeOf h).pending.find? (fun y => y.flagged == (s.bank k b).id.who && y.set.isEmpty) = some w)
    (hfind : s.findStrand (s.bank k b).id.who = some (.bank k b)) (hin : (s.dropFlag h (s.bank k b).id.who).inProbe (s.bank k b).id.who = false)
    (hwait : (s.bank k b).completionWait = true) :
    exec (.probe h (s.bank k b).id.ln (s.bank k b).id.lid) s =
      .next ((s.dropFlag h (s.bank k b).id.who).probeReport h (.bank k b) 1 1 5 0 0 (s.stallPtr (.bank k b))) := by
  have hwho : (⟨(s.bank k b).id.ln, (s.bank k b).id.lid⟩ : StrandId) = (s.bank k b).id.who := rfl
  have hstrand : s.strand (.bank k b) = s.bank k b := rfl
  change execProbe h _ _ s = _
  simp only [execProbe, hwho, hpending, hfind, hin, hstrand, hwait, Bool.false_eq_true, if_false, if_true]

/-- A probe that finds its set as it was reports the stall (R314). -/
theorem exec_probeRecheck_same {s : State} {h : Home} {a : StrandAt} {w : ProbeView}
    (hpending : (s.probeOf h).pending.find? (fun y => !y.set.isEmpty && y.homes.isEmpty) = some w)
    (hfind : s.findStrand w.flagged = some a) (htrap : (s.probeOf h).trap = false) (hset : s.probeSet a = .ok w.set)
    (hseen : w.set.map s.memberView = w.seen) :
    exec (.probeRecheck h) s = .next ((s.dropFlag h w.flagged).probeReport h a 2 w.set.length 0 0 (s.lowestSid w.set) 0) := by
  change execProbeRecheck h s = _
  simp [execProbeRecheck, hpending, hfind, htrap, hset, hseen]

/-- Settles O48: a report goes as `deliverReport` has it; a reply is found by its TAG and sid and reaches the parked strand. -/
theorem faultServer : Obligations.FaultServer := by
  unfold Obligations.FaultServer
  intro s k b c m r rs tag sid v i h w x pk host awaits parked mine fresh tpc back
  have hback : ∀ goal, back goal = ({ x with ctx := Ctx.ofWords x.ctx.word } : Bank).backTo goal := fun _ => rfl
  have hresume : parked → r.kind ≠ 3 → r.kind ≠ 5 → exec (.resume tag sid 0) s = .next ((s.answered r).resumeStrand (.bank k b) false) :=
    fun ⟨hawaits, hstrand, _⟩ h3 h5 => congrArg _ ((applyReply_strand hawaits h3 1 (.inr rfl)).trans (replyStrand_resume hstrand h5))
  have hskip : parked → r.kind ≠ 3 → r.kind ≠ 5 → exec (.skip tag sid 0) s = .next ((s.answered r).resumeStrand (.bank k b) true) :=
    fun ⟨hawaits, hstrand, _⟩ h3 h5 => congrArg _ ((applyReply_strand hawaits h3 2 (.inr rfl)).trans (replyStrand_skip hstrand h5))
  refine ⟨?_, fun hrs hpk => ⟨fun s1 hput => ?_, fun hfull hor hring => ?_, fun hoff hsrc hserver => ?_⟩,
    fun g j hrs hsrc hserver htarget hg hway => ?_, fun hmine hfresh => ?_, fun hmine hfresh => ?_, fun d hparked hkind hd => ?_,
    fun hmine => ?_, fun hmine hi => ?_, fun hawaits hkind hcmd hgang => ?_, fun hfind hflag hwatch hwait => exec_stallFlag_flags hfind hflag hwatch hwait,
    fun hpending hfind hin hwait => exec_probe_completion hpending hfind hin hwait,
    fun hpending hfind htrap hset hseen => exec_probeRecheck_same hpending hfind htrap hset hseen⟩
  · intro hrs
    change execFaultReport s = _
    simp [execFaultReport, State.reportHeads, hrs]
  · have hdeliver := deliverReport_here (reportRing_here hpk) (.inl (ringOn_of_ringWrite hput)) 0
    rw [exec_faultReport_head hrs (by rw [hdeliver]; exact reportHere_placed_ne hput 0), hdeliver, reportHere_placed hput, await_eq]
    rfl
  · have hhere := reportRing_here hpk
    have hdeliver := deliverReport_here hhere hor 0
    exact exec_faultReport_waits hrs (hdeliver.trans (reportHere_waits hfull 0)) fun y hy => (hring y hy).trans hhere.symm
  · have hdeliver := deliverReport_turned hrs (reportRing_here hpk) hoff hsrc hserver
    rw [exec_faultReport_head hrs, hdeliver]
    · rfl
    · rw [hdeliver]
      intro he
      have hhead : (r.toHost :: rs) = s.fab.reports := congrArg (fun t : State => t.fab.reports) he
      rw [hrs] at hhead
      exact hserver (congrArg Report.server (List.cons.inj hhead).1).symm
  · intro p hroom
    have hdeliver := deliverReport_away hsrc hserver htarget hg hway hroom 0
    rw [exec_faultReport_head hrs, hdeliver]
    rw [hdeliver]
    intro he
    have hlen : ((((s.sendPacket j r.target p).dropReport 0).await r).fab.reports).length = s.fab.reports.length := by rw [he]
    rw [await_reports] at hlen
    change (s.fab.reports.eraseIdx 0).length = _ at hlen
    simp [hrs] at hlen
  · obtain ⟨⟨hawaits, hstrand, hb⟩, hkind, hdbl⟩ := hmine
    refine ⟨_, hresume ⟨hawaits, hstrand, hb⟩ (by omega) (by omega), ?_⟩
    obtain ⟨hmem, hprk, hh, hpc⟩ := resumeStrand_from_trap (s := s.answered r) hb hdbl false hfresh
    exact ⟨hmem, hprk, hh, hpc⟩
  · obtain ⟨⟨hawaits, hstrand, hb⟩, hkind, hdbl⟩ := hmine
    refine ⟨_, hskip ⟨hawaits, hstrand, hb⟩ (by omega) (by omega), ?_⟩
    obtain ⟨hmem, hprk, hh, hpc⟩ := resumeStrand_from_trap (s := s.answered r) hb hdbl true hfresh
    exact ⟨hmem, hprk, hh, hpc⟩
  · have hb := hparked.2.2
    exact ⟨⟨_, hresume hparked (by omega) (by omega), resumeStrand_from_double (s := s.answered r) hb hd false⟩,
      ⟨_, hskip hparked (by omega) (by omega), resumeStrand_from_double (s := s.answered r) hb hd true⟩⟩
  · obtain ⟨⟨hawaits, hstrand, hb⟩, hkind, hdbl⟩ := hmine
    refine ⟨_, rfl, ?_⟩
    rw [applyReply_strand hawaits (by omega) 3 (.inr rfl), replyStrand_kill hstrand, endStrand_bank]
  · obtain ⟨⟨hawaits, hstrand, hb⟩, hkind, hdbl⟩ := hmine
    refine ⟨_, rfl, ?_⟩
    rw [applyReply_strand hawaits (by omega) 4 (.inl rfl), replyStrand_edit hstrand (by omega) (by omega) hi]
    exact (editWord_bound hb i v).symm
  · refine ⟨_, rfl, ?_⟩
    have hreply : s.applyReply 5 tag sid 0 [] = (s.answered r).dropOne c m := by
      rw [applyReply_cmd hawaits hkind, ← discardCmd_single _ _ (st_of_stoppedCmd hcmd) hgang]
      simp [State.replyCmd, hcmd]
    rw [hreply]
    exact ⟨rfl, dropOne_cmds _ _ _⟩

end Sys2Proof.Machine

/-! The slot table's operations, spills, restores and swaps of banks (R211 to R214, R378, R379). -/

namespace Sys2Proof.Machine

open Sys2Proof

theorem byDcc_runs {s : State} (h : s.dccRuns = true) (r : Next) : s.byDcc r = r := if_pos h

theorem byDcc_idle {s : State} (h : s.dccRuns = false) (r : Next) : s.byDcc r = .next s := if_neg (by rw [h]; exact Bool.false_ne_true)

/-! The frame of what follows a creation: events bound, launches, the journal. -/

/-- s and t hold the same cores and slot tables. -/
structure SlotFrame (s t : State) : Prop where
  cores : t.cores = s.cores
  slots : ∀ c, (t.clu c).slots = (s.clu c).slots

namespace SlotFrame

variable {s t u : State}

theorem refl : SlotFrame s s := ⟨rfl, fun _ => rfl⟩

theorem trans (a : SlotFrame s t) (b : SlotFrame t u) : SlotFrame s u :=
  ⟨b.cores.trans a.cores, fun c => (b.slots c).trans (a.slots c)⟩

theorem bank (a : SlotFrame s t) (k : CoreKey) (b : Fin 2) : t.bank k b = s.bank k b := by
  simp only [State.bank, State.core, a.cores]

theorem slotEntry (a : SlotFrame s t) (c : ClusterKey) (n : Fin 16) : t.slotEntry c n = s.slotEntry c n := by
  simp only [State.slotEntry, a.slots]

theorem setClu {c : ClusterKey} {x : Cluster} (h : x.slots = (s.clu c).slots) : SlotFrame s (s.setClu c x) where
  cores := rfl
  slots d := by
    by_cases hd : d = c
    · subst hd
      rw [clu_setClu_same, h]
    · rw [clu_setClu_other _ _ _ _ hd]

theorem foldl {α : Type} (f : State → α → State) (hf : ∀ s a, SlotFrame s (f s a)) (l : List α) (s : State) : SlotFrame s (l.foldl f s) :=
  List.foldlRecOn l f (motive := SlotFrame s) refl fun t h a _ => h.trans (hf t a)

end SlotFrame

theorem slotFrame_setSlot (s : State) (h : Home) (n : Nat) (e : EvSlot) : SlotFrame s (s.setSlot h n e) := by
  cases h with
  | cluster c => exact .setClu rfl
  | die d => exact ⟨rfl, fun _ => rfl⟩
  | package => exact ⟨rfl, fun _ => rfl⟩

theorem slotFrame_bindEvents (s : State) (l : Launch) (k : CoreKey) (who : StrandId) : SlotFrame s (s.bindEvents l k who) := by
  refine .foldl _ (fun s x => ?_) _ _
  simp only
  split
  · exact .refl
  · split
    · exact slotFrame_setSlot _ _ _ _
    · exact .refl

theorem slotFrame_mapLaunch (s : State) (ln : BitVec 16) (f : Launch → Launch) : SlotFrame s (s.mapLaunch ln f) := ⟨rfl, fun _ => rfl⟩

theorem slotFrame_makeRecord {s t : State} {k : CoreKey} {spid : BitVec 20} {p : Word} {bs : List Byte}
    (h : s.makeOwed ⟨k, spid, p, .record bs⟩ = .ok t) : SlotFrame s t := by
  unfold State.makeOwed at h
  obtain ⟨-, -, h⟩ := chk_bind_ok h
  cases h
  exact ⟨rfl, fun _ => rfl⟩

theorem slotFrame_oweRecord (s : State) (k : CoreKey) (spid : BitVec 20) (p : Word) (bs : List Byte) :
    SlotFrame s (s.owe ⟨k, spid, p, .record bs⟩) := by
  unfold State.owe
  split
  · exact ⟨rfl, fun _ => rfl⟩
  · split
    · next h => exact slotFrame_makeRecord h
    · exact ⟨rfl, fun _ => rfl⟩
    · exact .refl

/-- A journal record waits, or is made: neither touches a core or a cluster. -/
theorem slotFrame_journal (s : State) (t : Word) (ln : BitVec 16) (q tr idx : Nat) (w3 : Word) : SlotFrame s (s.journal t ln q tr idx w3) := by
  unfold State.journal
  extract_lets
  split
  · exact .trans (t := { s with jrn := { s.jrn with jseq := s.jrn.jseq + 1 } }) ⟨rfl, fun _ => rfl⟩ (slotFrame_oweRecord _ _ _ _ _)
  · exact .refl

/-! Entries of the slot table. -/

theorem setSlotEntry_same (s : State) (c : ClusterKey) (n : Fin 16) (e : SlotEntry) : (s.setSlotEntry c n e).slotEntry c n = e := by
  simp [State.slotEntry, State.setSlotEntry]

theorem setSlotEntry_bank (s : State) (c : ClusterKey) (n : Fin 16) (e : SlotEntry) (k : CoreKey) (b : Fin 2) :
    (s.setSlotEntry c n e).bank k b = s.bank k b := rfl

theorem hold_setHold (e : SlotEntry) : (e.setHold true).hold = true := by
  have hlt := e.w0.isLt
  simp only [SlotEntry.hold, SlotEntry.setHold, setBits, bits, if_true, BitVec.getLsbD_ofNat, Nat.testBit_eq_decide_div_mod_eq,
    Nat.reduceLT, decide_true, Bool.true_and, decide_eq_true_eq]
  omega

/-! Create (R378). -/

theorem bindInto_active {s : State} {k : CoreKey} (x : Bank) (h : ((s.core k).bank (s.core k).ab).st = .empty) :
    s.bindInto k x = some (s.setBank k (s.core k).ab x) := by
  simp [State.bindInto, h]

section

variable {s : State} (hdcc : s.dccRuns = true) {c : ClusterKey} {slot : Fin 16} {ln : BitVec 16} {lid : BitVec 32} {wsp : BitVec 18}
include hdcc

theorem exec_create_refused (hl : s.launch? ln = none) : exec (.create c slot ln lid wsp) s = .next (s.refuseGo c slot) := by
  change execCreate c slot ln lid wsp s = _
  rw [execCreate, byDcc_runs hdcc]
  simp only [hl]

/-- A strand of its launch is created in the active bank of its core. -/
theorem exec_create_binds {l : Launch} (hl : s.launch? ln = some l) (hpos : s.posSt (s.slotCore c slot) (slotPos slot) = .empty)
    (hplace : l.places[lid.toNat]? = some ⟨s.slotCore c slot, slotPos slot, wsp.toNat⟩) (hnew : lid ∉ l.created)
    (hfen : (s.core (s.slotCore c slot)).fen = false)
    (hempty : ((s.core (s.slotCore c slot)).bank (s.core (s.slotCore c slot)).ab).st = .empty) :
    ∃ t, exec (.create c slot ln lid wsp) s = .next t ∧
      t.bank (s.slotCore c slot) (s.core (s.slotCore c slot)).ab =
        Bank.created (s.identFor l (s.slotCore c slot) lid (slotPos slot)) wsp (recEntry l.words) 0 (BitVec.ofNat 64 (recTok l.words)) ∧
      (t.slotEntry c slot).hold = true := by
  let k := s.slotCore c slot
  let x := Bank.created (s.identFor l k lid (slotPos slot)) wsp (recEntry l.words) 0 (BitVec.ofNat 64 (recTok l.words))
  let s1 := s.setBank k (s.core k).ab x
  let s2 := (s1.bindEvents l k ⟨ln, lid⟩).setSlotEntry c slot ((goEntry 1 ln lid wsp).setHold true)
  let s3 := (s2.mapLaunch ln fun l => { l with created := lid :: l.created }).mapClu c fun x => { x with icache := [] }
  have hguard : (s.posSt k (slotPos slot) != .empty || !true || l.created.contains lid || (s.core k).fen) = false := by
    rw [hpos, hfen]
    simp [hnew]
  have h2 : s2.bank k (s.core k).ab = x ∧ (s2.slotEntry c slot).hold = true := by
    refine ⟨?_, ?_⟩
    · rw [setSlotEntry_bank, (slotFrame_bindEvents s1 l k ⟨ln, lid⟩).bank]
      exact bank_setBank_same _ _ _ _
    · rw [setSlotEntry_same, hold_setHold]
  have h3 : SlotFrame s2 s3 := (slotFrame_mapLaunch _ _ _).trans (.setClu rfl)
  have hexec : exec (.create c slot ln lid wsp) s =
      .next (if l.created.length + 1 == l.places.length then s3.journal s.tick ln l.q.val 2 l.idx 0 else s3) := by
    change execCreate c slot ln lid wsp s = _
    rw [execCreate, byDcc_runs hdcc]
    simp only [hl, hplace, beq_self_eq_true, Bool.and_self, k] at hguard ⊢
    simp only [hguard, Bool.false_eq_true, if_false, bindInto_active _ hempty]
    rfl
  refine ⟨_, hexec, ?_⟩
  split
  · have h4 := h3.trans (slotFrame_journal s3 s.tick ln l.q.val 2 l.idx 0)
    exact ⟨(h4.bank _ _).trans h2.1, by rw [h4.slotEntry]; exact h2.2⟩
  · exact ⟨(h3.bank _ _).trans h2.1, by rw [h3.slotEntry]; exact h2.2⟩

end

end Sys2Proof.Machine

/-! Restores, spills and swaps of the banks of a core (R211 to R214, R378, R379). -/

namespace Sys2Proof.Machine

open Sys2Proof

/-! Restore and its completion. -/

theorem exec_restore_begins {s : State} (hdcc : s.dccRuns = true) {c : ClusterKey} {slot : Fin 16} {ln : BitVec 16} {lid : BitVec 32}
    {wsp : BitVec 18} {k : CoreKey} (hk : s.slotCore c slot = k) {n : Nat} {u : Bank}
    (hfind : (s.core k).unbound.findIdx? (fun z => z.id.who == ⟨ln, lid⟩ && z.wsp == wsp && z.id.pos == slotPos slot) = some n)
    (hu : (s.core k).unbound[n]? = some u) (hfrz : s.frozenAt k = false) (hswp : (s.core k).swp = false) (hput : (s.core k).put = false)
    (hpos : s.posSt k (slotPos slot) = .empty) (hsh : ((s.core k).bank (1 - (s.core k).ab)).st = .empty) (hfen : (s.core k).fen = false)
    (hfirst : ∀ m z, (s.core k).unbound[m]? = some z → s.posSt k z.id.pos = .empty → s.restoreFirst (.saved k m) (.saved k n) = false) :
    exec (.restore c slot ln lid wsp) s = .next ((s.setCore k
      ({ s.core k with unbound := (s.core k).unbound.eraseIdx n }.setBank (1 - (s.core k).ab) { u with st := .restoring })).setSlotEntry c slot
        (goEntry 2 ln lid wsp)) := by
  subst hk
  let k := s.slotCore c slot
  have hothers : ((List.range (s.core k).unbound.length).filter fun m =>
      s.posSt k (((s.core k).unbound[m]?).getD Bank.empty).id.pos == .empty && s.restoreFirst (.saved k m) (.saved k n)) = [] := by
    refine List.filter_eq_nil_iff.2 fun m hm => ?_
    have hz := List.getElem?_eq_getElem (List.mem_range.1 hm)
    rw [hz]
    by_cases hp : s.posSt k ((s.core k).unbound[m]'(List.mem_range.1 hm)).id.pos = .empty
    · simp [hfirst m _ hz hp, k]
    · simp [hp]
  have hmay : (s.frozenAt k || (s.core k).swapping) = false := by rw [Core.swapping, hfrz, hswp, hput]; rfl
  have hfree : (s.posSt k (slotPos slot) != .empty || ((s.core k).bank (1 - (s.core k).ab)).st != .empty || (s.core k).fen) = false := by
    rw [hpos, hsh, hfen]
    rfl
  change execRestore c slot ln lid wsp s = _
  rw [execRestore, byDcc_runs hdcc]
  simp only [hfind, hmay, hfree, hothers, Bool.false_eq_true, if_false, List.isEmpty_nil, Bool.not_true, hu, Option.getD_some, k]

/-- The registers of a DAMAGED strand stand in its workspace. -/
theorem setRegionWord_damaged {s : State} {k : CoreKey} {b : Fin 2} (h : (s.bank k b).st = .damaged) (i : Nat) (x : Word) :
    s.setRegionWord (.bank k b) i x = s.put (spadBase k + (s.bank k b).wsp.toNat + 8 * i) (leBytes 8 x.toNat) := by
  simp [State.setRegionWord, State.inWorkspace, h]

theorem damage_st (s : State) (k : CoreKey) (b : Fin 2) (off : Nat) : ((s.damage k b off).bank k b).st = .damaged := by
  let s1 := s.setBank k b { s.bank k b with st := .damaged, plane := Vector.replicate 8 none }
  have h1 : (s1.bank k b).st = .damaged := by rw [bank_setBank_same]
  change ((s1.setRegionWord (.bank k b) 74 _).bank k b).st = _
  rw [setRegionWord_damaged h1]
  exact h1

section

variable {s : State} {k : CoreKey} {b : Fin 2} (hb : 1 - (s.core k).ab = b) (hst : (s.bank k b).st = .restoring)
  (hfen : (s.core k).fen = false) (hfrz : s.frozenAt k = false)
include hb hst hfen hfrz

theorem exec_restoreComplete_loads (hbad : s.badLine (spadBase k + (s.bank k b).wsp.toNat) = none) :
    exec (.restoreComplete k none) s =
      .next (s.setBank k b { s.bank k b with st := .bound, ctx := Ctx.ofMemory s.mem (spadBase k + (s.bank k b).wsp.toNat) }) := by
  have hbank : (s.core k).bank b = s.bank k b := rfl
  change execRestoreComplete k none s = _
  simp only [execRestoreComplete, hb, hbank, hst, hfen, hfrz, beq_self_eq_true, Bool.not_false, Bool.and_self, if_true, hbad]

/-- A line of the region whose tag is found not to match leaves the strand DAMAGED (R96). -/
theorem exec_restoreComplete_damages (n : Nat) :
    ∃ t, exec (.restoreComplete k (some n)) s = .next t ∧ (t.bank k b).st = .damaged := by
  have hbank : (s.core k).bank b = s.bank k b := rfl
  let loc := spadBase k + (s.bank k b).wsp.toNat
  let s1 : State := { s with badTags := (loc + 64 * (n % 78)) :: s.badTags.erase (loc + 64 * (n % 78)) }
  have hline : ∃ off, s1.badLine loc = some off := by
    have hn : n % 78 ∈ List.range 78 := List.mem_range.2 (Nat.mod_lt _ (by decide))
    have hfails : tagFails s1.badTags (loc + 64 * (n % 78)) = true := by simp [tagFails, s1]
    have hsome : ((List.range 78).find? fun m => poisoned s1.poison (loc + 64 * m) (lineBytes m) || tagFails s1.badTags (loc + 64 * m)).isSome = true :=
      List.find?_isSome.2 ⟨_, hn, by rw [hfails, Bool.or_true]⟩
    obtain ⟨m, hm⟩ := Option.isSome_iff_exists.1 hsome
    exact ⟨64 * m, by rw [State.badLine, hm]; rfl⟩
  obtain ⟨off, hoff⟩ := hline
  refine ⟨s1.damage k b off, ?_, damage_st _ _ _ _⟩
  change execRestoreComplete k (some n) s = _
  simp only [s1, loc] at hoff
  simp only [execRestoreComplete, hb, hbank, hst, hfen, hfrz, beq_self_eq_true, Bool.not_false, Bool.and_self, if_true, hoff, s1, loc]

end

/-! Unbind and spill. -/

theorem exec_unbind_marks {s : State} (hdcc : s.dccRuns = true) {c : ClusterKey} {slot : Fin 16} {k : CoreKey} (hk : s.slotCore c slot = k)
    {b : Fin 2} (hsh : s.shadowAt k (slotPos slot) = some b) (hnext : s.unbindNext k (s.bank k b) = true) :
    exec (.unbind c slot) s =
      .next ((s.setBank k b { s.bank k b with leaving := true }).noteGo c slot 3 (s.bank k b) (s.slotEntry c slot).hold) := by
  subst hk
  have hfen : (s.core (s.slotCore c slot)).fen = false := by
    simp only [State.unbindNext, State.unbindable, Bool.and_eq_true, Bool.not_eq_true'] at hnext
    tauto
  change execUnbind c slot s = _
  rw [execUnbind, byDcc_runs hdcc]
  simp only [hsh, hfen, hnext, Bool.false_eq_true, if_false, if_true]

theorem writeRegion_mem (s : State) (k : CoreKey) (wsp : Nat) (c : Ctx) :
    (s.writeRegion k wsp c).mem = putBytes s.mem (spadBase k + wsp) c.spillBytes := by
  simp only [State.writeRegion, State.put]

theorem writeRegion_core (s : State) (k : CoreKey) (wsp : Nat) (c : Ctx) (j : CoreKey) : (s.writeRegion k wsp c).core j = s.core j :=
  (accessFrame_put s _ _).core j

theorem withdrawFuse_cores (s : State) (k : CoreKey) (who : StrandId) (result : Bool) : (s.withdrawFuse k who result).cores = s.cores := by
  unfold State.withdrawFuse
  simp only
  split <;> rfl

theorem withdrawFuse_mem (s : State) (k : CoreKey) (who : StrandId) (result : Bool) : (s.withdrawFuse k who result).mem = s.mem := by
  unfold State.withdrawFuse
  simp only
  split <;> rfl

section

variable {s : State} {k : CoreKey} {b : Fin 2} (hb : 1 - (s.core k).ab = b) (hfen : (s.core k).fen = false) (hswp : (s.core k).swp = false)
  (hfrz : s.frozenAt k = false)
include hb hfen hswp hfrz

/-- A spill begins: the workspace is unbound. -/
theorem exec_spill_begins (hleave : (s.bank k b).leaving = true) (hdrain : (s.bank k b).drained = true) (htrap : (s.bank k b).trapped = []) :
    ∃ t, exec (.spill k) s = .next t ∧ t.mem = s.mem ∧ t.bank k b = { s.bank k b with st := .spilling, leaving := false } := by
  have hbank : (s.core k).bank b = s.bank k b := rfl
  let u := (s.withdrawGang (clusterOf k) (s.bank k b).id.who false).withdrawFuse k (s.bank k b).id.who false
  have hu : u.bank k b = s.bank k b := by
    simp only [State.bank, State.core, u, withdrawFuse_cores]
    rfl
  have hexec : exec (.spill k) s = .next (u.setBank k b { u.bank k b with st := .spilling, leaving := false }) := by
    change execSpill k s = _
    simp only [execSpill, hb, hbank, hfen, hswp, hfrz, hleave, hdrain, htrap, Bool.or_self, Bool.false_eq_true, if_false, List.isEmpty_nil,
      Bool.and_self, if_true, u]
  refine ⟨_, hexec, ?_, ?_⟩
  · rw [state_setBank_mem, withdrawFuse_mem]
    rfl
  · rw [bank_setBank_same, hu]

/-- A spill ends: the registers stand in the workspace, and the strand among the core's unbound ones. -/
theorem exec_spill_ends (hst : (s.bank k b).st = .spilling) (hleave : (s.bank k b).leaving = false) :
    ∃ t, exec (.spill k) s = .next t ∧
      t.mem = putBytes s.mem (spadBase k + (s.bank k b).wsp.toNat) (s.bank k b).ctx.spillBytes ∧ t.bank k b = Bank.empty ∧
      (t.core k).unbound.length = (s.core k).unbound.length + 1 := by
  have hbank : (s.core k).bank b = s.bank k b := rfl
  let u := s.writeRegion k (s.bank k b).wsp.toNat (s.bank k b).ctx
  have hexec : exec (.spill k) s = .next (u.setCore k { (u.core k).setBank b Bank.empty with
      unbound := (u.core k).unbound ++ [{ s.bank k b with st := .empty, plane := Vector.replicate 8 none, ctx := Ctx.created, word := none }] }) := by
    change execSpill k s = _
    simp only [execSpill, hb, hbank, hfen, hswp, hfrz, hleave, hst, Bool.or_self, Bool.false_eq_true, if_false, Bool.false_and, beq_self_eq_true,
      if_true, u]
  refine ⟨_, hexec, ?_, ?_, ?_⟩
  · rw [state_setCore_mem, writeRegion_mem]
  · rw [State.bank, core_setCore_same]
    exact core_bank_setBank_same _ _ _
  · rw [core_setCore_same, writeRegion_core, List.length_append, List.length_singleton]

end

/-! Swaps. -/

theorem exec_makeActive_swaps {s : State} (hdcc : s.dccRuns = true) {c : ClusterKey} {slot : Fin 16} {k : CoreKey} (hk : s.slotCore c slot = k)
    {b : Fin 2} (hsh : s.shadowAt k (slotPos slot) = some b) (hfen : (s.core k).fen = false) (hallowed : s.swapAllowed k = true)
    (hcase : s.thresholdCase k = true ∨ s.dueCase k = true ∨ s.vacantCase k = true) :
    exec (.makeActive c slot) s = .next ((s.swap k).noteGo c slot 4 (s.bank k b) (s.slotEntry c slot).hold) := by
  subst hk
  have hor : (s.swapAllowed (s.slotCore c slot) &&
      (s.thresholdCase (s.slotCore c slot) || s.dueCase (s.slotCore c slot) || s.vacantCase (s.slotCore c slot))) = true := by
    rw [hallowed]
    simpa [or_assoc] using hcase
  change execMakeActive c slot s = _
  rw [execMakeActive, byDcc_runs hdcc]
  simp only [hsh, hfen, hor, Bool.false_eq_true, if_false, if_true]

theorem exec_swapThreshold_swaps {s : State} {k : CoreKey} (hdcc : s.dccRuns = true) (hallowed : s.swapAllowed k = true)
    (hcase : s.thresholdCase k = true) : exec (.swapThreshold k) s = .next (s.swap k) := by
  change execSwapThreshold k s = _
  rw [execSwapThreshold, byDcc_runs hdcc, hallowed, hcase]
  rfl

theorem exec_timeSlice_swaps {s : State} {k : CoreKey} (hdcc : s.dccRuns = true) (hallowed : s.swapAllowed k = true)
    (hcase : s.dueCase k = true) : exec (.timeSlice k) s = .next (s.swap k) := by
  change execTimeSlice k s = _
  rw [execTimeSlice, byDcc_runs hdcc, hallowed, hcase]
  rfl

theorem reissues_st (s : State) (k : CoreKey) (x : Bank) : (s.reissues k x).st = x.st := by
  unfold State.reissues
  extract_lets q
  split
  · split <;> rfl
  · split <;> rfl
  · rfl

theorem core_setBank_ab (c : Core) (b : Fin 2) (x : Bank) : (c.setBank b x).ab = c.ab := by
  unfold Core.setBank
  split <;> rfl

theorem exchanged_active (c : Core) : c.exchanged.bank c.exchanged.ab = { c.bank (1 - c.ab) with leaving := false } :=
  core_bank_setBank_same _ _ _

theorem activated_core (s : State) (k : CoreKey) :
    (s.activated k).core k = (s.core k).setBank (s.core k).ab (s.reissues k (s.bank k (s.core k).ab)) :=
  core_setCore_same _ _ _

section

variable {s : State} {k : CoreKey} (hfen : (s.core k).fen = false) (hfrz : s.frozenAt k = false)
include hfen hfrz

/-- The banks change places; the strand that becomes active is there, so no further swap begins. -/
theorem swapMove_exchanges (hswp : (s.core k).swp = true) (hst : ((s.core k).bank (1 - (s.core k).ab)).st = .bound) :
    s.swapMove k = (s.setCore k (s.core k).exchanged).activated k := by
  let u := (s.setCore k (s.core k).exchanged).activated k
  have hready : (s.core k).swapReady = true := by simp [Core.swapReady, hst]
  have hactive : ((u.core k).bank (u.core k).ab).st = .bound := by
    rw [activated_core, core_setBank_ab, core_bank_setBank_same, reissues_st, State.bank, core_setCore_same, exchanged_active]
    exact hst
  have hstay : u.emptied k = u := by
    simp [State.emptied, hactive]
  rw [State.swapMove, hfen, hfrz, hswp, hready]
  exact hstay

theorem swapMove_begins (hswp : (s.core k).swp = false) (hput : (s.core k).put = true) (hfused : s.fusedCore k = false)
    (hst : ((s.core k).bank (1 - (s.core k).ab)).st = .bound ∨ ((s.core k).bank (1 - (s.core k).ab)).st = .empty)
    (hbound : s.atBoundary k = true) : s.swapMove k = s.setCore k { s.core k with swp := true, put := false } := by
  have hready : (s.core k).swapReady = true := by simpa [Core.swapReady] using hst
  simp only [State.swapMove, hfen, hfrz, hswp, hready, hput, hfused, hbound, Bool.or_self, Bool.false_and, Bool.not_false, Bool.and_self,
    Bool.false_eq_true, if_false, if_true]

end

end Sys2Proof.Machine

/-! Fences, remaps of a streamer, migrations (R217, R383, R384, R401). -/

namespace Sys2Proof.Machine

open Sys2Proof

/-! FEN and hangs (R216, R217). -/

theorem exec_fen_fenced {s : State} {k : CoreKey} (h : (s.core k).fen = true) : exec (.fen k) s = .next s := by
  change execFen k s = _
  simp [execFen, State.fence, h]

theorem dropRequests_st (x : Bank) : x.dropRequests.st = x.st := rfl

theorem strandsOf_empty {s : State} {k : CoreKey} (h0 : (s.core k).b0.st = .empty) (h1 : (s.core k).b1.st = .empty) :
    s.strandsOf k = (List.range (s.core k).unbound.length).map (StrandAt.saved k) := by
  simp [State.strandsOf, Bank.holds, h0, h1]

theorem filter_saved_nil (k : CoreKey) {p : StrandAt → Bool} (hp : ∀ n, p (.saved k n) = false) (l : List Nat) :
    (l.map (StrandAt.saved k)).filter p = [] := by
  simp [List.filter_eq_nil_iff, hp]

/-- A core without bound strands, in no fusion, stops and drops its requests and remote reads. -/
theorem exec_fen_stops {s : State} {k : CoreKey} (hfen : (s.core k).fen = false) (h0 : (s.core k).b0.st = .empty)
    (h1 : (s.core k).b1.st = .empty) (hfused : s.fusedCore k = false) :
    exec (.fen k) s = .next ((s.setCore k { s.core k with
      fen := true, b0 := (s.core k).b0.dropRequests, b1 := (s.core k).b1.dropRequests }).dropReads k) := by
  let c := { s.core k with fen := true, b0 := (s.core k).b0.dropRequests, b1 := (s.core k).b1.dropRequests }
  have hfused1 : (s.setCore k c).fusedCore k = false := hfused
  have hbound : (s.setCore k c).strandsOf k = (List.range c.unbound.length).map (StrandAt.saved k) := by
    rw [strandsOf_empty (by rw [core_setCore_same, dropRequests_st, h0]) (by rw [core_setCore_same, dropRequests_st, h1]), core_setCore_same]
  change execFen k s = _
  simp only [c] at hfused1 hbound
  simp only [execFen, State.fence, hfen, hfused1, Bool.false_eq_true, if_false, hbound]
  rw [filter_saved_nil k (fun _ => rfl), List.foldl_nil]

theorem exec_hang_fences {s : State} {k : CoreKey} (hdcc : s.dccRuns = true) :
    exec (.hang k true) s = exec (.fen k) (s.setCore k { s.core k with hung := true }) := by
  change execHang k true s = execFen k _
  simp only [execHang, Bool.true_or, if_true, hdcc, execFen]

theorem exec_hang_marks {s : State} {k : CoreKey} (hdcc : s.dccRuns = false) :
    exec (.hang k true) s = .next (s.setCore k { s.core k with hung := true }) := by
  change execHang k true s = _
  simp only [execHang, Bool.true_or, if_true, hdcc, Bool.false_eq_true, if_false]

theorem exec_hang_none {s : State} {k : CoreKey} (h : s.idleRunning k = false) : exec (.hang k false) s = .next s := by
  change execHang k false s = _
  simp only [execHang, h, Bool.or_self, Bool.false_eq_true, if_false]

/-! The remap of a streamer (R384). -/

theorem exec_remap_unfenced {s : State} {k : CoreKey} (h : (s.core k).fen = false) : exec (.remap k) s = .next s := by
  change execRemap k s = _
  simp [execRemap, State.byDcc, State.remap, h]

/-- Nothing is killed on cores without strands. -/
theorem killOn_nil {s : State} {k : CoreKey} (h : s.strandsOf k = []) : s.killOn [k] = s := by
  have hl : s.launchesOn [k] = [] := by simp [State.launchesOn, h]
  have hin : s.strandsIn [] = [] := by simp [State.strandsIn]
  have hsettle : s.settleDets [] = s := by simp [State.settleDets, hin]
  have hkill : s.killLaunches [] = s := by simp [State.killLaunches, hin]
  have hheld : s.detHeldBy [] = false := by simp [State.detHeldBy]
  simp [State.killOn, hl, hsettle, hkill, hheld]

/-- A core without strands that another replaces leaves memory and the clusters as they are. -/
theorem restartCore_empty {s : State} {k t : CoreKey} (h0 : (s.core k).b0.st = .empty) (h1 : (s.core k).b1.st = .empty)
    (hu : (s.core k).unbound = []) : (s.restartCore k t).mem = s.mem ∧ (s.restartCore k t).clusters = s.clusters := by
  have hb0 : ((s.core k).bank 0).holds = false := by
    change (s.core k).b0.holds = false
    simp [Bank.holds, h0]
  have hb1 : ((s.core k).bank 1).holds = false := by
    change (s.core k).b1.holds = false
    simp [Bank.holds, h1]
  simp [State.restartCore, hb0, hb1, hu]

/-- A fenced streamer without strands gives its role to the spare core. -/
theorem exec_remap_streamer {s : State} {k : CoreKey} (hdcc : s.dccRuns = true) (hfen : (s.core k).fen = true) (hlo : 4 ≤ s.cid k)
    (hne : s.cid k ≠ 7) (hmap : cmapAt (s.clu (clusterOf k)).cmap 7 = 7) (hspare : (s.core (s.coreAt (clusterOf k) 7)).fen = false)
    (hnone : s.strandsOf (s.coreAt (clusterOf k) 7) = []) (hops : s.opsOutOn [k] = false) :
    exec (.remap k) s = .next ((s.setClu (clusterOf k) { s.clu (clusterOf k) with
      cmap := cmapSwap (s.clu (clusterOf k)).cmap (s.cid k) }).restartCore k (s.coreAt (clusterOf k) 7)) := by
  change execRemap k s = _
  rw [execRemap, byDcc_runs hdcc]
  simp [State.remap, hfen, hlo, hne, hmap, hspare, killOn_nil hnone, hnone, hops]

/-! Migration (R401). -/

theorem recreate_bank {s : State} {a : StrandAt} {l : Launch} (hl : s.launch? (s.strand a).id.ln = some l) (id : Ident) (wsp : BitVec 18) :
    (s.recreate a id wsp).1 = Bank.created id wsp (l.restartAt (s.strand a).id.lid.toNat).1 (l.restartAt (s.strand a).id.lid.toNat).2
      (BitVec.ofNat 64 (recTok l.words)) := by
  simp only [State.recreate, hl]

/-- When a strand may move to a position to make room for a head (R379, R383, R401). -/
structure State.Moves (s : State) (k : CoreKey) (b : Fin 2) (dest : Position) (l : Launch) : Prop where
  launch : s.launch? (s.bank k b).id.ln = some l
  bound : (s.bank k b).st = .bound
  boundary : (s.bank k b).boundary = true
  drained : (s.bank k b).drained = true
  trapped : (s.bank k b).trapped = []
  superstep : s.superstepEnd k (s.bank k b) = true
  head : s.headAbove (s.bank k b) = true
  ops : s.opsOut (s.bank k b).id.who .dm = false
  swp : (s.core k).swp = false
  put : (s.core k).put = false
  kind : ((s.clid (clusterOf k)).getD 0) % 4 / 2 = ((s.clid (clusterOf dest.core)).getD 0) % 4 / 2
  away : dest.core ≠ k
  free : s.posFree l.lists dest.core dest.pos = true
  workspace : s.workspaceOk l.lists dest.core dest.wsp = true
  rings : s.ringsReach l (clusterOf dest.core) = true

/-- The identity that a strand has where it migrates: its launch's there, its Slate mark kept (log 62). -/
def State.movedIdent (s : State) (k : CoreKey) (b : Fin 2) (dest : Position) (l : Launch) : Ident :=
  { s.identFor l dest.core (s.bank k b).id.lid dest.pos with slate := (s.bank k b).id.slate }

theorem exec_migration_moves {s t : State} {k : CoreKey} {b : Fin 2} {dest : Position} {l : Launch} (hdcc : s.dccRuns = true)
    (h : s.Moves k b dest l)
    (hbind : let z := s.recreate (.bank k b) (s.movedIdent k b dest l) (BitVec.ofNat 18 dest.wsp)
      (z.2.setBank k b Bank.empty).bindInto dest.core z.1 = some t) :
    exec (.migration k b dest) s =
      .next ((((t.emptied k).setRings l (clusterOf dest.core)).mapLaunch l.ln fun l =>
        { l with places := l.places.set (s.bank k b).id.lid.toNat dest }).mapClu (clusterOf dest.core) fun e => { e with icache := [] }) := by
  obtain ⟨hlaunch, hbound, hboundary, hdrained, htrapped, hsuper, hhead, hops, hswp, hput, hkind, haway, hfree, hwork, hrings⟩ := h
  unfold State.movedIdent at hbind
  change execMigration k b dest s = _
  rw [execMigration, byDcc_runs hdcc]
  simp only [hlaunch, hbound, hboundary, hdrained, htrapped, hsuper, hhead, hops, Core.swapping, hswp, hput, hkind, bne_iff_ne.2 haway, hfree, hwork,
    hrings, beq_self_eq_true, List.isEmpty_nil, Bool.or_self, Bool.not_false, Bool.and_self, if_true, hbind]

/-! What the slot table's operations leave of a core. -/

theorem setSlotEntry_core (s : State) (c : ClusterKey) (n : Fin 16) (e : SlotEntry) (k : CoreKey) : (s.setSlotEntry c n e).core k = s.core k := rfl

theorem core_setBank_unbound (c : Core) (b : Fin 2) (x : Bank) : (c.setBank b x).unbound = c.unbound := by
  unfold Core.setBank
  split <;> rfl

theorem swap_unfused {s : State} {k : CoreKey} (h : s.fusedCore k = false) : s.swap k = s.setCore k { s.core k with swp := true } := by
  simp only [State.swap, h, Bool.false_eq_true, if_false]

/-- Settles O49: each operation of the DCC and of a core's engines by the lemma that says what it does where it may. -/
theorem coreManagement : Obligations.CoreManagement := by
  unfold Obligations.CoreManagement
  intro s s3 c k slot ln lid wsp l b n dest kc pos x y sh swapped exchanged dcc
  have hthreshold : y.cswapthr ≠ 0 → (y.bank y.ab).blocked = true → (y.bank sh).blocked = false → s.thresholdCase k = true := by
    intro hthr hact hshadow
    change (y.cswapthr != 0 && (y.bank y.ab).blocked && !(y.bank sh).blocked) = true
    rw [bne_iff_ne.2 hthr, hact, hshadow]
    rfl
  have hdue : s.strandDue (.bank k sh) = true →
      ((y.bank y.ab).blocked = true ∨ (y.bank y.ab).wait = some .waitt ∨ (y.bank y.ab).prk = true ∨ s.disp.slice ≠ 0) → s.dueCase k = true := by
    intro hstrand hcase
    change (s.strandDue (.bank k sh) &&
      ((y.bank y.ab).blocked || (y.bank y.ab).wait == some .waitt || (y.bank y.ab).prk || s.disp.slice != 0)) = true
    rw [hstrand, Bool.true_and]
    simpa [or_assoc] using hcase
  refine ⟨?_, fun hdcc hl => exec_create_refused hdcc hl, fun hdcc hl hpos hplace hnew hfen hempty => exec_create_binds hdcc hl hpos hplace hnew hfen hempty,
    fun u hdcc hfind hu hfrz hswp hput hpos hsh hfen hfirst => ?_, fun hst hfen hfrz => ⟨fun hbad => ?_, fun m => ?_⟩,
    fun hdcc hshadow hnext => ?_, fun hleave hdrain htrap hfen hswp hfrz => ?_, fun hst hleave hfen hswp hfrz => ?_,
    fun hdcc hshadow hfen hallowed hcase hfused => ?_, fun hfen hfrz => ⟨fun hswp hst => ?_, fun hswp hput hfused hst hbound => ?_⟩,
    fun hdcc hallowed => ⟨fun hthr hact hshadow => ?_, fun hstrand hcase => ?_⟩, exec_fen_fenced, exec_fen_stops, exec_hang_fences, exec_hang_marks,
    exec_hang_none, exec_remap_unfenced, fun hdcc hfen hlo hne hmap hspare hnone hops h0 h1 hu => ?_, ?_⟩
  · intro hdcc i hi
    simp only [List.mem_cons, List.not_mem_nil, or_false] at hi
    rcases hi with rfl | rfl | rfl | rfl | rfl | rfl | rfl | rfl <;> exact byDcc_idle hdcc _
  · refine ⟨_, exec_restore_begins (k := kc) hdcc rfl hfind hu hfrz hswp hput hpos hsh hfen hfirst, rfl, ?_, ?_⟩
    · rw [setSlotEntry_bank, State.bank, core_setCore_same, core_bank_setBank_same]
    · rw [setSlotEntry_core, core_setCore_same, core_setBank_unbound]
  · exact exec_restoreComplete_loads rfl hst hfen hfrz hbad
  · exact exec_restoreComplete_damages rfl hst hfen hfrz m
  · exact ⟨_, exec_unbind_marks (k := kc) hdcc rfl hshadow hnext, rfl, bank_setBank_same _ _ _ _⟩
  · exact exec_spill_begins rfl hfen hswp hfrz hleave hdrain htrap
  · exact exec_spill_ends rfl hfen hswp hfrz hst hleave
  · refine ⟨_, exec_makeActive_swaps (k := kc) hdcc rfl hshadow hfen hallowed hcase, ?_⟩
    rw [swap_unfused hfused]
    refine ⟨rfl, ?_⟩
    rw [State.noteGo, setSlotEntry_core, core_setCore_same]
    exact ⟨rfl, rfl⟩
  · rw [swapMove_exchanges hfen hfrz hswp hst, State.activated, core_setCore_same]
    rfl
  · exact swapMove_begins hfen hfrz hswp hput hfused hst hbound
  · exact exec_swapThreshold_swaps hdcc hallowed (hthreshold hthr hact hshadow)
  · exact exec_timeSlice_swaps hdcc hallowed (hdue hstrand hcase)
  · have hempty := restartCore_empty (s := s.setClu (clusterOf k) { s.clu (clusterOf k) with
      cmap := cmapSwap (s.clu (clusterOf k)).cmap (s.cid k) }) (t := s.coreAt (clusterOf k) 7) h0 h1 hu
    obtain ⟨hmem, hclusters⟩ := hempty
    refine ⟨_, exec_remap_streamer hdcc hfen hlo hne hmap hspare hnone hops, hmem, ?_⟩
    rw [State.clu, hclusters]
    exact congrArg Cluster.cmap (clu_setClu_same s _ _)
  · intro hdcc hl hst hboundary hdrain htrap hsuper hhead hops hswp hput hkind haway hfree hwork hrings id z
    exact ⟨recreate_bank hl _ _, exec_migration_moves hdcc
      ⟨hl, hst, hboundary, hdrain, htrap, hsuper, hhead, hops, hswp, hput, hkind, haway, hfree, hwork, hrings⟩⟩

end Sys2Proof.Machine

/-! Scalar instructions from a quiet strand: what their issue functions deliver (R97, R99 to R106). -/

namespace Sys2Proof.Machine

open Sys2Proof

/-! Counts over the bits of a pattern (R99). -/

theorem countP_range_le (b n : Nat) : (List.range n).countP (fun m => decide (b ≤ m)) = n - b := by
  induction n with
  | zero => simp
  | succ n ih =>
    rw [List.range_succ, List.countP_append, ih, List.countP_singleton]
    by_cases h : b ≤ n
    · simp only [h, decide_true, if_true]
      omega
    · simp only [h, decide_false, Bool.false_eq_true, if_false]
      omega

theorem bitSize_le_iff (a m : Nat) : bitSize a ≤ m ↔ a < 2 ^ m := by
  unfold bitSize
  split
  next h => simp [h]
  next h => rw [Nat.succ_le_iff, Nat.log2_lt h]

/-- The leading zeros are the positions from the pattern's size on. -/
theorem opClz_eq (n a : Nat) : opClz n a = (List.range n).countP fun m => decide (a < 2 ^ m) := by
  simp only [opClz, ← countP_range_le, bitSize_le_iff]

/-- Counting over the positions of a pattern: the lowest, then those of the pattern halved. -/
theorem countP_range_succ_eq (q : Nat → Bool) (n : Nat) :
    (List.range (n + 1)).countP q = (if q 0 then 1 else 0) + (List.range n).countP fun m => q (m + 1) := by
  rw [List.range_succ_eq_map, List.countP_cons, List.countP_map, Nat.add_comm]
  rfl

theorem mod_two_pow_succ_eq_zero_iff (a m : Nat) : a % 2 ^ (m + 1) = 0 ↔ a % 2 = 0 ∧ a / 2 % 2 ^ m = 0 := by
  rw [Nat.pow_succ', Nat.mod_mul]
  omega

theorem opCtz_eq (n a : Nat) : opCtz n a = (List.range n).countP fun m => decide (a % 2 ^ (m + 1) = 0) := by
  induction n generalizing a with
  | zero => rfl
  | succ n ih =>
    rw [opCtz, countP_range_succ_eq]
    by_cases h : a % 2 = 1
    · simp [h, mod_two_pow_succ_eq_zero_iff a]
    · have h0 : a % 2 = 0 := by omega
      simp [h0, ih, mod_two_pow_succ_eq_zero_iff a]

theorem opPopc_eq (n a : Nat) : opPopc n a = (List.range n).countP fun m => decide (a / 2 ^ m % 2 = 1) := by
  induction n generalizing a with
  | zero => rfl
  | succ n ih =>
    have hhalf (m : Nat) : a / 2 ^ (m + 1) = a / 2 / 2 ^ m := by rw [Nat.pow_succ', Nat.div_div_eq_div_mul]
    rw [opPopc, countP_range_succ_eq, ih]
    simp only [hhalf, Nat.pow_zero, Nat.div_one, decide_eq_true_eq]
    split <;> omega

theorem intTy_width_pos (t : IntTy) : 0 < IntTy.width t := by cases t <;> decide

/-- What the registers and the target of an instruction of registers alone, or its trap, make of the package. -/
def State.took (s : State) (k : CoreKey) (b : Fin 2) : Except Trap (Ctx × Option Word) → State
  | .error t => s.trapNow k b t
  | .ok (c, goto) => s.ran k b (fun _ => c) goto

/-! An instruction that delivers one scalar value. -/

section Quiet

variable {s : State} {k : CoreKey} {b : Fin 2} (hq : Quiet s k b)
include hq

theorem issueReg_took (f : Foot) (g : Word → Ctx → Except Trap (Ctx × Option Word)) :
    issueReg s f g = .next (s.took k b (g (s.bank k b).curPc (s.bank k b).ctx)) := by
  rw [issueReg_quiet _ _ _ _ _ hq]
  cases g (s.bank k b).curPc (s.bank k b).ctx <;> rfl

theorem issueDeliver_quiet (f : Foot) (d : DReg) (p : Level) (g : Ctx → Word) {y : Word} (hy : g (s.bank k b).ctx = y) :
    issueMap s f (fun c => c.deliver d p (g c)) = .next (s.ran k b (fun r => r.deliver d p y) none) := by
  subst hy
  rw [issueMap_quiet _ _ _ _ _ hq, ran_congr]
  rfl

theorem issueInt_quiet (d : DReg) (a c : SReg) (p : Level) (f : Word → Word → Word) {y : Word}
    (hy : f ((s.bank k b).ctx.s a.val) ((s.bank k b).ctx.s c.val) = y) :
    issueInt s d a c p f = .next (s.ran k b (fun r => r.deliver d p y) none) :=
  issueDeliver_quiet hq _ d p _ hy

theorem issueInt1_quiet (d : DReg) (a : SReg) (p : Level) (f : Word → Word) {y : Word} (hy : f ((s.bank k b).ctx.s a.val) = y) :
    issueInt1 s d a p f = .next (s.ran k b (fun r => r.deliver d p y) none) :=
  issueDeliver_quiet hq _ d p _ hy

/-- SEL reads RD before it is written (R100). -/
theorem execSel_quiet (d : DReg) (a c : SReg) (p : Level) :
    execSel d a c p s = .next (s.ran k b (fun r => r.deliver d p
      (if (s.bank k b).ctx.s d.val ≠ 0 then (s.bank k b).ctx.s a.val else (s.bank k b).ctx.s c.val)) none) :=
  issueDeliver_quiet hq _ d p (fun x => if x.s d.val ≠ 0 then x.s a.val else x.s c.val) rfl

theorem execLi_quiet (d : DReg) (i : BitVec 17) (p : Level) :
    execLi d i p s = .next (s.ran k b (fun r => r.deliver d p (i.signExtend 64)) none) :=
  issueDeliver_quiet hq _ d p (fun _ => i.signExtend 64) rfl

/-- LIH reads RD before it is written (R105). -/
theorem execLih_quiet (d : DReg) (i : BitVec 17) (p : Level) :
    execLih d i p s = .next (s.ran k b (fun r => r.deliver d p ((s.bank k b).ctx.s d.val * 2 ^ 17 + i.setWidth 64)) none) :=
  issueDeliver_quiet hq _ d p (fun x => x.s d.val * 131072 + i.setWidth 64) rfl

/-- CHK traps where the index is not below the bound, and else leaves the registers (R103). -/
theorem execChk_quiet (a c : SReg) :
    execChk a c s = .next (if ((s.bank k b).ctx.s c.val).toNat ≤ ((s.bank k b).ctx.s a.val).toNat then
      s.trapNow k b ⟨.chkBounds, (s.bank k b).ctx.s a.val, 0⟩ else s.ran k b id none) := by
  rw [execChk, issueReg_took hq]
  split <;> rfl

end Quiet

/-- Settles O1: each operation of the table on the patterns, the signed ones by the sign bit, the counts bit by bit. -/
theorem integerResults : Obligations.IntegerResults := by
  unfold Obligations.IntegerResults
  refine ⟨?_, ?_⟩
  · intro s k b d a c t p hq n x y sx sy m gives
    have hsx : signedOf n x = sx := signedOf_eq (intTy_width_pos t) (Nat.mod_lt _ (Nat.two_pow_pos n))
    have hsy : signedOf n y = sy := signedOf_eq (intTy_width_pos t) (Nat.mod_lt _ (Nat.two_pow_pos n))
    have two (op : Nat → Nat → Nat → Nat) {z : Nat} (hz : op n x y = z) : issueInt s d a c p (intBinary t op) =
        .next (s.ran k b (fun r => r.deliver d p (if t.isSigned then sext n z else zext n z)) none) :=
      issueInt_quiet hq d a c p _ (congrArg (IntTy.fit t) hz)
    exact ⟨two opAdd rfl, two opSub rfl, two opMul rfl, two opMulh (by rw [opMulh, hsx, hsy]), two opMulhn rfl, two opAnd rfl,
      two opOr rfl, two opXor rfl, two opShl rfl, two opShr rfl, two opSha (by rw [opSha, hsx]), two opRol rfl,
      two opMin (by rw [opMin, hsx, hsy]), two opMax (by rw [opMax, hsx, hsy]), two opMinn rfl, two opMaxn rfl,
      two opSlt (by rw [opSlt, hsx, hsy]), two opSltn rfl⟩
  · intro s k b d a t p hq n x count gives
    have hcount (q : Nat → Bool) : (List.range n).countP q = count q := List.countP_eq_length_filter
    have one (op : Nat → Nat → Nat) {z : Nat} (hz : op n x = z) : issueInt1 s d a p (intUnary t op) =
        .next (s.ran k b (fun r => r.deliver d p (if t.isSigned then sext n z else zext n z)) none) :=
      issueInt1_quiet hq d a p _ (congrArg (IntTy.fit t) hz)
    exact ⟨one opClz ((opClz_eq n x).trans (hcount _)), one opCtz ((opCtz_eq n x).trans (hcount _)),
      one opPopc ((opPopc_eq n x).trans (hcount _))⟩

/-- Settles O2: the delivered values by definition; CHK by the comparison of the naturals. -/
theorem addressImmediateAndCheck : Obligations.AddressImmediateAndCheck := by
  unfold Obligations.AddressImmediateAndCheck
  refine ⟨?_, ?_⟩
  · intro s k b d a c i j p hq x y z gives
    have two (f : Word → Word → Word) : issueInt s d a c p f = .next (s.ran k b (fun r => r.deliver d p (f x y)) none) :=
      issueInt_quiet hq d a c p f rfl
    have one (f : Word → Word) : issueInt1 s d a p f = .next (s.ran k b (fun r => r.deliver d p (f x)) none) :=
      issueInt1_quiet hq d a p f rfl
    exact ⟨execSel_quiet hq d a c p, two (· + ·), two (· + · * 2), two (· + · * 4), two (· + · * 8), one (· + i.signExtend 64),
      one (· &&& i.signExtend 64), one (· ||| i.signExtend 64), one (· ^^^ i.signExtend 64), execLi_quiet hq d j p, execLih_quiet hq d j p⟩
  · intro s k b a c hq x y
    exact ⟨fun hlt => (execChk_quiet hq a c).trans (congrArg _ (if_neg (Nat.not_le.2 hlt))),
      fun hle => (execChk_quiet hq a c).trans (congrArg _ (if_pos hle))⟩

/-! Division (R106). -/

/-- A quotient of R106: all ones for a zero divisor; the most negative number by −1 gives itself. -/
def quotientOf (n : Nat) (x y : Int) : Int := if y = 0 then 2 ^ n - 1 else if x = -(2 ^ (n - 1)) ∧ y = -1 then x else Int.tdiv x y

/-- A remainder of R106: the dividend for a zero divisor; 0 for the most negative number by −1. -/
def remainderOf (n : Nat) (x y : Int) : Int := if y = 0 then x else if x = -(2 ^ (n - 1)) ∧ y = -1 then 0 else Int.tmod x y

theorem sub_tdiv_mul (x y : Int) : x - Int.tdiv x y * y = Int.tmod x y := by
  rw [Int.tmod_def, Int.mul_comm]

theorem divide_signed (n a c : Nat) :
    divide n true a c = (quotientOf n (signedOf n a) (signedOf n c), remainderOf n (signedOf n a) (signedOf n c)) := by
  simp only [divide, quotientOf, remainderOf, if_true, true_and, sub_tdiv_mul]
  split
  · rfl
  · split <;> rfl

/-- No natural divisor is −1. -/
theorem divide_natural (n a c : Nat) : divide n false a c = (quotientOf n a c, remainderOf n a c) := by
  have hno : ¬((a : Int) = -(2 ^ (n - 1)) ∧ (c : Int) = -1) := by omega
  simp only [divide, quotientOf, remainderOf, if_neg hno, Bool.false_eq_true, if_false, false_and, sub_tdiv_mul]
  split <;> rfl

theorem signedOf_toNat {n : Nat} (hn : 0 < n) (x : BitVec n) : signedOf n x.toNat = x.toInt := by
  have hpow : 2 ^ n = 2 * 2 ^ (n - 1) := by rw [← Nat.pow_succ', Nat.succ_eq_add_one, Nat.sub_add_cancel hn]
  rw [signedOf, BitVec.toInt_eq_toNat_cond]
  by_cases h : x.toNat < 2 ^ (n - 1)
  · rw [if_pos h, if_pos (by omega)]
  · rw [if_neg h, if_neg (by omega)]
    simp

theorem intPat_eq_toNat (n : Nat) (i : Int) : intPat n i = (BitVec.ofInt n i).toNat := by
  rw [intPat, BitVec.toNat_ofInt]
  simp

theorem sext_intPat {n : Nat} (hn : 0 < n) (i : Int) : sext n (intPat n i) = (BitVec.ofInt n i).signExtend 64 := by
  rw [sext, intPat_eq_toNat, Nat.mod_eq_of_lt (BitVec.isLt _), signedOf_toNat hn]
  rfl

theorem zext_intPat (n : Nat) (i : Int) : zext n (intPat n i) = (BitVec.ofInt n i).setWidth 64 := by
  rw [zext, intPat_eq_toNat, Nat.mod_eq_of_lt (BitVec.isLt _), BitVec.ofNat_toNat]

theorem divResult_signed {n : Nat} (hn : 0 < n) (rem : Bool) (a c : Word) :
    divResult n true rem a c =
      (BitVec.ofInt n ((if rem then remainderOf else quotientOf) n (a.setWidth n).toInt (c.setWidth n).toInt)).signExtend 64 := by
  simp only [divResult, if_true, sext_intPat hn, divide_signed, ← BitVec.toNat_setWidth, signedOf_toNat hn]
  cases rem <;> rfl

theorem divResult_natural (n : Nat) (rem : Bool) (a c : Word) :
    divResult n false rem a c =
      (BitVec.ofInt n ((if rem then remainderOf else quotientOf) n (a.setWidth n).toNat (c.setWidth n).toNat)).setWidth 64 := by
  simp only [divResult, Bool.false_eq_true, if_false, zext_intPat, divide_natural, ← BitVec.toNat_setWidth]
  cases rem <;> rfl

/-- A division from a quiet strand issues, with its result pending. -/
theorem issueDiv_quiet {s : State} {k : CoreKey} {b : Fin 2} (hq : Quiet s k b) (d : DReg) (a c : SReg) (h : La) (n : Nat) (sgn rem : Bool)
    {w : Word} (hw : divResult n sgn rem ((s.bank k b).ctx.s a.val) ((s.bank k b).ctx.s c.val) = w) :
    issueDiv s d a c h n sgn rem =
      .next (s.sent k b { (s.bank k b).pendingOf (footL (rS a.val ++ rS c.val) (rS d.val)) h with writes := [.s d w] }) := by
  subst hw
  exact issueLong_quiet _ _ _ _ _ _ _ hq rfl

/-- Settles O3: `divResult` on the 64-bit and 32-bit patterns, signed and natural. -/
theorem divisionResults : Obligations.DivisionResults := by
  unfold Obligations.DivisionResults
  intro s k b d a c h hq x y f gives q r x32 y32
  have hlong (rem : Bool) : divResult 64 true rem x y =
      BitVec.ofInt 64 ((if rem then remainderOf else quotientOf) 64 x.toInt y.toInt) := by
    rw [divResult_signed (by decide), BitVec.setWidth_eq, BitVec.setWidth_eq, BitVec.signExtend_eq]
  have hlongN (rem : Bool) : divResult 64 false rem x y =
      BitVec.ofInt 64 ((if rem then remainderOf else quotientOf) 64 x.toNat y.toNat) := by
    rw [divResult_natural, BitVec.setWidth_eq, BitVec.setWidth_eq, BitVec.setWidth_eq]
  have div (n : Nat) (sgn rem : Bool) {w : Word} (hw : divResult n sgn rem x y = w) := issueDiv_quiet hq d a c h n sgn rem hw
  exact ⟨div 64 true false (hlong false), div 64 false false (hlongN false), div 64 true true (hlong true), div 64 false true (hlongN true),
    div 32 true false (divResult_signed (by decide) false x y), div 32 false false (divResult_natural 32 false x y),
    div 32 true true (divResult_signed (by decide) true x y), div 32 false true (divResult_natural 32 true x y)⟩

end Sys2Proof.Machine

/-! Branches and jumps (R107 to R111, R117, R154). -/

namespace Sys2Proof.Machine

open Sys2Proof

/-- A taken transfer: its target lies in window 0x8, is a multiple of 4 where a register gave it, and becomes the pc (R111). -/
theorem takeTo_eq (c : Ctx) (pc t : Word) (reg leave : Bool) :
    takeTo c pc t reg leave =
      if tagOf t.toNat ≠ 8 then .error ⟨.addrWindow, t, 0⟩
      else if reg = true ∧ t.toNat % 4 ≠ 0 then .error ⟨.align, t, 0⟩
      else .ok (if leave then c.leaveLoops pc t else c, some t) := by
  rw [takeTo, checkTarget]
  by_cases hwin : tagOf t.toNat ≠ 8
  · simp only [if_pos hwin]
  · simp only [if_neg hwin]
    by_cases halign : reg = true ∧ t.toNat % 4 ≠ 0
    · simp only [if_pos halign]
    · simp only [if_neg halign]

section Quiet

variable {s : State} {k : CoreKey} {b : Fin 2} (hq : Quiet s k b)
include hq

/-! Conditional branches. -/

theorem issueReg_branch (f : Foot) (taken : Ctx → Bool) (off : Word) :
    issueReg s f (fun pc c => if taken c then takeTo c pc (pc + 4 * off) false true else .ok (c, none)) =
      .next (if taken (s.bank k b).ctx = false then s.ran k b id none
        else if tagOf ((s.bank k b).curPc + 4 * off).toNat = 8 then
          s.ran k b (fun r => r.leaveLoops (s.bank k b).curPc ((s.bank k b).curPc + 4 * off)) (some ((s.bank k b).curPc + 4 * off))
        else s.trapNow k b ⟨.addrWindow, (s.bank k b).curPc + 4 * off, 0⟩) := by
  rw [issueReg_took hq]
  congr 1
  cases htaken : taken (s.bank k b).ctx
  · rfl
  · simp only [if_true, takeTo_eq, Bool.false_eq_true, false_and, if_false, reduceCtorEq]
    by_cases hwin : tagOf ((s.bank k b).curPc + 4 * off).toNat = 8
    · simp only [hwin, ne_eq, not_true, if_true, if_false]
      rfl
    · simp only [hwin, ne_eq, not_false_eq_true, if_true, if_false]
      rfl

/-! Instructions that are ILLEGAL at the end of an active body. -/

theorem issueEnd_took (i : Instr) (f : Foot) (g : Word → Ctx → Except Trap (Ctx × Option Word)) :
    issueEnd s i f g = .next (if (s.bank k b).ctx.atEnd (s.bank k b).curPc then s.trapNow k b (illegalAt i 6)
      else s.took k b (g (s.bank k b).curPc (s.bank k b).ctx)) := by
  rw [issueEnd, issue_quiet _ _ _ _ _ hq]
  congr 1
  simp only [atLoopEnd]
  cases (s.bank k b).ctx.atEnd (s.bank k b).curPc
  · simp only [Bool.false_eq_true, if_false]
    cases g (s.bank k b).curPc (s.bank k b).ctx with
    | error t => rfl
    | ok r => exact skidStart_same _ _ _ (by simp)
  · rfl

/-- A jump: at the end of a body it is ILLEGAL, else it goes to its target, with the registers that it writes. -/
theorem issueEnd_jump (i : Instr) (f : Foot) (h : Word → Ctx → Ctx) (target : Word → Ctx → Word) (reg leave : Bool) :
    issueEnd s i f (fun pc c => takeTo (h pc c) pc (target pc c) reg leave) =
      let pc := (s.bank k b).curPc
      let t := target pc (s.bank k b).ctx
      .next (if (s.bank k b).ctx.atEnd pc then s.trapNow k b (illegalAt i 6)
        else if tagOf t.toNat ≠ 8 then s.trapNow k b ⟨.addrWindow, t, 0⟩
        else if reg = true ∧ t.toNat % 4 ≠ 0 then s.trapNow k b ⟨.align, t, 0⟩
        else s.ran k b (fun r => if leave then (h pc r).leaveLoops pc t else h pc r) (some t)) := by
  rw [issueEnd_took hq, takeTo_eq]
  simp only [apply_ite (s.took k b)]
  rfl

end Quiet

/-- Settles O4: each branch is `issueReg_branch` at its condition. -/
theorem branches : Obligations.Branches := by
  unfold Obligations.Branches
  intro s k b a c m o w hq x y pc gives
  have two (taken : Word → Word → Bool) :=
    issueReg_branch hq (footT (rS a.val ++ rS c.val) []) (fun r => taken (r.s a.val) (r.s c.val)) (o.signExtend 64)
  have one (taken : Word → Bool) := issueReg_branch hq (footT (rS a.val) []) (fun r => taken (r.s a.val)) (w.signExtend 64)
  have masks (taken : BitVec 16 → Bool) := issueReg_branch hq (footT (rM m.val) []) (fun r => taken (r.mask m.val)) (w.signExtend 64)
  exact ⟨two fun x y => x == y, two fun x y => x != y, two fun x y => decide (x.toInt < y.toInt), two fun x y => decide (y.toInt ≤ x.toInt),
    two fun x y => decide (x.toNat < y.toNat), two fun x y => decide (y.toNat ≤ x.toNat), one fun x => x == 0, one fun x => x != 0,
    masks fun x => x != 0, masks fun x => x == 0xFFFF⟩

/-- Settles O5: each jump is `issueEnd_jump` at its target and its link. -/
theorem jumps : Obligations.Jumps := by
  unfold Obligations.Jumps
  intro s k b a o hq pc gives
  have link (i : Instr) (f : Foot) := issueEnd_jump hq i f (fun pc c => c.setS 31 (pc + 4))
  have plain (i : Instr) (f : Foot) := issueEnd_jump hq i f (fun _ c => c)
  exact ⟨plain (.j o) (footT [] []) (fun pc _ => pc + 4 * o.signExtend 64) false true,
    link (.call o) (footT [] (rS 31)) (fun pc _ => pc + 4 * o.signExtend 64) false false,
    plain (.jr a) (footT (rS a.val) []) (fun _ c => c.s a.val) true true, plain .ret (footT (rS 31) []) (fun _ c => c.s 31) true true,
    link (.callr a) (footT (rS a.val) (rS 31)) (fun _ c => c.s a.val) true false⟩

end Sys2Proof.Machine

/-! Hardware loops (R112 to R116). -/

namespace Sys2Proof.Machine

open Sys2Proof

/-! The start of a loop (R113 to R115). -/

section Start

variable {i : Instr} {c : Ctx} {pc : Word} {count len : Nat} {mk : LoopPair}

theorem startLoop_range (h : 2 ^ 32 ≤ count) :
    startLoop i c pc count len mk = .error ⟨.loopRange, BitVec.ofNat 64 count, BitVec.ofNat 8 (count / 2 ^ 64 % 2)⟩ := by
  rw [startLoop, if_pos (by omega)]

theorem startLoop_zero (h : count = 0) : startLoop i c pc count len mk = .ok (c, some (pc + 4 * BitVec.ofNat 64 (len + 1))) := by
  rw [startLoop, if_neg (by omega), if_pos h]

variable (hpos : 0 < count) (hlt : count < 2 ^ 32)
include hpos hlt

theorem startLoop_outer (h0 : (c.pair 0).act = false) :
    startLoop i c pc count len mk = .ok ({ c with loops := #v[mk, c.pair 1] }, none) := by
  rw [startLoop, if_neg (by omega), if_neg (by omega)]
  simp [h0]

theorem startLoop_inner (h0 : (c.pair 0).act = true) (h1 : (c.pair 1).act = false)
    (hin : (c.pair 0).contains (pc + 4) = true ∧ (c.pair 0).contains (pc + 4 * BitVec.ofNat 64 len) = true) :
    startLoop i c pc count len mk = .ok ({ c with loops := #v[c.pair 0, mk] }, none) := by
  rw [startLoop, if_neg (by omega), if_neg (by omega)]
  simp only [h0, h1, hin.1, hin.2, Bool.false_eq_true, and_false, if_false, Bool.and_self, Bool.not_true, if_true]

theorem startLoop_refused (h0 : (c.pair 0).act = true)
    (h : (c.pair 1).act = true ∨
      ¬((c.pair 0).contains (pc + 4) = true ∧ (c.pair 0).contains (pc + 4 * BitVec.ofNat 64 len) = true)) :
    startLoop i c pc count len mk = .error (illegalAt i 6) := by
  rw [startLoop, if_neg (by omega), if_neg (by omega)]
  by_cases h1 : (c.pair 1).act = true
  · simp [h0, h1]
  · have hout := h.resolve_left h1
    rw [← Bool.and_eq_true, Bool.not_eq_true] at hout
    simp only [h0, hout, Bool.not_false, and_self, if_true, ite_self]

end Start

theorem make_counted (base : Word) (len cnt : Nat) :
    LoopPair.make false base len cnt 0 0 = ⟨(base &&& 0x01FFFFFFFFFFFFFC) ||| 1, BitVec.ofNat 64 (len * 2 ^ 32 + cnt)⟩ := by
  simp [LoopPair.make]

/-- The iterations of LOOPI, as a quotient rounded up (R114). -/
theorem loopCount_eq (i bd st : Int) (h : st ≠ 0) :
    loopCount i bd st = if 0 < st then ((bd - i + st - 1) / st).toNat else ((i - bd + -st - 1) / -st).toNat := by
  have hceil (a d : Int) (hd : 0 < d) : -(-a / d) = (a + d - 1) / d := by
    have hdiv := Int.mul_ediv_add_emod (-a) d
    have hlo := Int.emod_nonneg (-a) hd.ne'
    have hhi := Int.emod_lt_of_pos (-a) hd
    exact ((Int.ediv_emod_unique (r := d - 1 - -a % d) hd).2 ⟨by rw [Int.mul_neg]; omega, by omega, by omega⟩).1.symm
  unfold loopCount
  split
  next hpos => rw [← hceil _ _ hpos, neg_sub]
  next hneg => rw [← hceil _ _ (by omega), neg_sub]

/-- What an instruction r that starts a loop does once its count is known: the cases of R113 and R115. -/
structure StartsLoop (s : State) (k : CoreKey) (b : Fin 2) (i : Instr) (count len : Nat) (pair : LoopPair) (r : Next) : Prop where
  zero : count = 0 → r = .next (s.ran k b id (some ((s.bank k b).curPc + 4 * BitVec.ofNat 64 (len + 1))))
  range : 2 ^ 32 ≤ count → r = .next (s.trapNow k b ⟨.loopRange, BitVec.ofNat 64 count, BitVec.ofNat 8 (count / 2 ^ 64 % 2)⟩)
  outer : 0 < count → count < 2 ^ 32 → ((s.bank k b).ctx.pair 0).act = false →
    r = .next (s.ran k b (fun c => { c with loops := #v[pair, c.pair 1] }) none)
  inner : 0 < count → count < 2 ^ 32 → ((s.bank k b).ctx.pair 0).act = true → ((s.bank k b).ctx.pair 1).act = false →
    (((s.bank k b).ctx.pair 0).contains ((s.bank k b).curPc + 4) = true ∧
      ((s.bank k b).ctx.pair 0).contains ((s.bank k b).curPc + 4 * BitVec.ofNat 64 len) = true) →
    r = .next (s.ran k b (fun c => { c with loops := #v[c.pair 0, pair] }) none)
  refused : 0 < count → count < 2 ^ 32 → ((s.bank k b).ctx.pair 0).act = true →
    (((s.bank k b).ctx.pair 1).act = true ∨ ¬(((s.bank k b).ctx.pair 0).contains ((s.bank k b).curPc + 4) = true ∧
      ((s.bank k b).ctx.pair 0).contains ((s.bank k b).curPc + 4 * BitVec.ofNat 64 len) = true)) →
    r = .next (s.trapNow k b (illegalAt i 6))

theorem startsLoop_took (s : State) (k : CoreKey) (b : Fin 2) (i : Instr) (count len : Nat) (pair : LoopPair) :
    StartsLoop s k b i count len pair (.next (s.took k b (startLoop i (s.bank k b).ctx (s.bank k b).curPc count len pair))) where
  zero h := by
    rw [startLoop_zero h]
    rfl
  range h := by
    rw [startLoop_range h]
    rfl
  outer hpos hlt h0 := by
    rw [startLoop_outer hpos hlt h0]
    rfl
  inner hpos hlt h0 h1 hin := by
    rw [startLoop_inner hpos hlt h0 h1 hin]
    rfl
  refused hpos hlt h0 h := by
    rw [startLoop_refused hpos hlt h0 h]
    rfl

section Quiet

variable {s : State} {k : CoreKey} {b : Fin 2} (hq : Quiet s k b) (hend : (s.bank k b).ctx.atEnd (s.bank k b).curPc = false)
include hq hend

theorem issueEnd_inside (i : Instr) (f : Foot) (g : Word → Ctx → Except Trap (Ctx × Option Word)) :
    issueEnd s i f g = .next (s.took k b (g (s.bank k b).curPc (s.bank k b).ctx)) := by
  rw [issueEnd_took hq, hend]
  rfl

theorem execLoop_starts (a : SReg) (n : BitVec 12) :
    StartsLoop s k b (.loop a n) ((s.bank k b).ctx.s a.val).toNat n.toNat
      ⟨(((s.bank k b).curPc + 4) &&& 0x01FFFFFFFFFFFFFC) ||| 1, BitVec.ofNat 64 (n.toNat * 2 ^ 32 + ((s.bank k b).ctx.s a.val).toNat)⟩
      (execLoop a n s) := by
  rw [execLoop, issueEnd_inside hq hend, ← make_counted]
  exact startsLoop_took ..

theorem execLoopi_zeroStep (a : WReg) (x y : SReg) (n : BitVec 7) (hst : ((s.bank k b).ctx.s y.val).setWidth 16 = 0#16) :
    execLoopi a x y n s = .next (s.trapNow k b ⟨.loopStep, 0, 0⟩) := by
  rw [execLoopi, issueEnd_inside hq hend]
  exact congrArg (fun r => Host.Outcome.next (s.took k b r)) (if_pos hst)

theorem execLoopi_starts (a : WReg) (x y : SReg) (n : BitVec 7) (hst : ((s.bank k b).ctx.s y.val).setWidth 16 ≠ 0#16) {cnt : Nat}
    (hcnt : loopCount ((s.bank k b).ctx.s a.val).toInt ((s.bank k b).ctx.s x.val).toInt (((s.bank k b).ctx.s y.val).setWidth 16).toInt = cnt) :
    StartsLoop s k b (.loopi a x y n) cnt n.toNat
      (LoopPair.make true ((s.bank k b).curPc + 4) n.toNat cnt (((s.bank k b).ctx.s y.val).setWidth 16) a.val) (execLoopi a x y n s) := by
  subst hcnt
  rw [execLoopi, issueEnd_inside hq hend]
  exact (congrArg (fun r => StartsLoop s k b _ _ _ _ (.next (s.took k b r))) (if_neg hst)).mpr (startsLoop_took ..)

end Quiet

/-- Settles O6: the cases of `StartsLoop` at the count of LOOP and at that of LOOPI. -/
theorem loopSetup : Obligations.LoopSetup := by
  unfold Obligations.LoopSetup
  refine ⟨?_, ?_⟩
  · intro s k b a n hq c pc cnt pair within hend
    have hstarts : StartsLoop s k b (.loop a n) cnt n.toNat pair (exec (.loop a n) s) := execLoop_starts hq hend a n
    have hval : BitVec.ofNat 64 cnt = c.s a.val := BitVec.ofNat_toNat _ _
    have hhigh : cnt / 2 ^ 64 = 0 := Nat.div_eq_of_lt (c.s a.val).isLt
    refine ⟨hstarts.zero, fun h => ?_, hstarts.outer, hstarts.inner, hstarts.refused⟩
    have htrap := hstarts.range h
    rw [hval, hhigh] at htrap
    exact htrap
  · intro s k b a x y n hq c pc i bd st cnt pair hend
    have hst : st = 0 ↔ (c.s y.val).setWidth 16 = 0#16 := by
      rw [← BitVec.toInt_inj, BitVec.toInt_zero]
    have hstarts (h : st ≠ 0) : StartsLoop s k b (.loopi a x y n) cnt n.toNat pair (exec (.loopi a x y n) s) :=
      execLoopi_starts hq hend a x y n (mt hst.2 h) (loopCount_eq i bd st h)
    exact ⟨fun h => execLoopi_zeroStep hq hend a x y n (hst.1 h), fun h => (hstarts h).zero, fun h => (hstarts h).range,
      fun h hpos hlt => ⟨(hstarts h).outer hpos hlt, (hstarts h).inner hpos hlt, (hstarts h).refused hpos hlt⟩⟩

/-! The end of a body (R116). -/

/-- The registers after a pass of pair n: its index stepped, its count down by 1, ACT cleared with the last pass. -/
def Ctx.passed (c : Ctx) (n : Nat) : Ctx :=
  let q := c.pair n
  let c1 := if q.isIndexed then c.setS q.idx (c.s q.idx + q.stepBy) else c
  { c1 with loops := c1.loops.setIfInBounds n ⟨if q.count = 1 then q.w0 &&& 0xFFFFFFFFFFFFFFFE else q.w0, setBits q.w1 0 32 (q.count - 1)⟩ }

theorem count_lt (p : LoopPair) : p.count < 2 ^ 32 := Nat.mod_lt _ (Nat.two_pow_pos 32)

theorem endPair_again {c : Ctx} {n : Nat} (h : 2 ≤ (c.pair n).count) : c.endPair n = (c.passed n, some (c.pair n).first) := by
  have hcount : ((c.pair n).count + (2 ^ 32 - 1)) % 2 ^ 32 = (c.pair n).count - 1 := by
    have := count_lt (c.pair n)
    omega
  have hmore : (c.pair n).count - 1 ≠ 0 := by omega
  have hone : (c.pair n).count ≠ 1 := by omega
  simp only [Ctx.endPair, Ctx.passed, hcount, if_pos hmore, if_neg hone]

theorem endPair_last {c : Ctx} {n : Nat} (h : (c.pair n).count = 1) : c.endPair n = (c.passed n, none) := by
  simp only [Ctx.endPair, Ctx.passed, h, if_true]
  rfl

/-- Pair n is active and ends at e. -/
def Ctx.endsAt (c : Ctx) (n : Nat) (e : Word) : Prop := (c.pair n).act = true ∧ (c.pair n).last = e

theorem hit_of_endsAt {c : Ctx} {n : Nat} {e : Word} (h : c.endsAt n e) : ((c.pair n).act && (c.pair n).last == e) = true := by
  simpa [Ctx.endsAt] using h

theorem no_hit_of_not_endsAt {c : Ctx} {n : Nat} {e : Word} (h : ¬c.endsAt n e) : ((c.pair n).act && (c.pair n).last == e) = false := by
  simpa [Ctx.endsAt] using h

section LoopEnd

variable {c : Ctx} {e : Word}

theorem loopEnd_inner (h : c.endsAt 1 e) (hcount : 2 ≤ (c.pair 1).count) : c.loopEnd e = (c.passed 1, (c.pair 1).first) := by
  simp only [Ctx.loopEnd, hit_of_endsAt h, if_true, endPair_again hcount]

theorem loopEnd_inner_last (h : c.endsAt 1 e) (hcount : (c.pair 1).count = 1) (h0 : ¬(c.passed 1).endsAt 0 e) :
    c.loopEnd e = (c.passed 1, e + 4) := by
  simp only [Ctx.loopEnd, hit_of_endsAt h, if_true, endPair_last hcount, no_hit_of_not_endsAt h0, Bool.false_eq_true, if_false]

theorem loopEnd_both (h : c.endsAt 1 e) (hcount : (c.pair 1).count = 1) (h0 : (c.passed 1).endsAt 0 e) :
    c.loopEnd e = (((c.passed 1).endPair 0).1, ((c.passed 1).endPair 0).2.getD (e + 4)) := by
  simp only [Ctx.loopEnd, hit_of_endsAt h, if_true, endPair_last hcount, hit_of_endsAt h0]
  cases ((c.passed 1).endPair 0).2 <;> rfl

theorem loopEnd_outer (h : ¬c.endsAt 1 e) (h0 : c.endsAt 0 e) :
    c.loopEnd e = ((c.endPair 0).1, (c.endPair 0).2.getD (e + 4)) := by
  simp only [Ctx.loopEnd, no_hit_of_not_endsAt h, hit_of_endsAt h0, Bool.false_eq_true, if_false, if_true]
  cases (c.endPair 0).2 <;> rfl

end LoopEnd

theorem execLoopEnd_goes {s : State} {k : CoreKey} {b : Fin 2} (hmay : (s.bank k b).mayEnd = true) (hab : (s.core k).ab = b) {g : Ctx} {p : Word}
    (hend : (s.bank k b).ctx.loopEnd ((s.bank k b).pc - 4) = (g, p)) :
    execLoopEnd k b s = .next ((s.setBank k b { s.bank k b with ctx := g, pc := p, endDue := false }).skidPc k b) := by
  simp only [execLoopEnd, hmay, hab, hend, beq_self_eq_true, Bool.and_self, if_true]

/-- Settles O7: the passes of pair 1 and of pair 0, each with a further pass or the last. -/
theorem loopEndSteps : Obligations.LoopEndSteps := by
  unfold Obligations.LoopEndSteps
  intro s k b x c e ends stepped goes d hmay hab
  have run {g : Ctx} {p : Word} (h : c.loopEnd e = (g, p)) : goes g p := execLoopEnd_goes hmay hab h
  have outer {g : Ctx} (hend : c.loopEnd e = ((g.endPair 0).1, (g.endPair 0).2.getD (e + 4))) :
      (2 ≤ (g.pair 0).count → goes (g.passed 0) (g.pair 0).first) ∧ ((g.pair 0).count = 1 → goes (g.passed 0) (e + 4)) :=
    ⟨fun hc => run (by rw [hend, endPair_again hc]; rfl), fun hc => run (by rw [hend, endPair_last hc]; rfl)⟩
  exact ⟨fun h hcount => run (loopEnd_inner h hcount), fun h hcount h0 => run (loopEnd_inner_last h hcount h0),
    fun h hcount h0 => outer (loopEnd_both h hcount h0), fun h h0 => outer (loopEnd_outer h h0)⟩

end Sys2Proof.Machine

/-! System instructions: their issue from a quiet strand (R119 to R128). -/

namespace Sys2Proof.Machine

open Sys2Proof

/-! What an act leaves of the package. -/

theorem accessFrame_skidBlocks (t s : State) (k : CoreKey) (b : Fin 2) : AccessFrame t (t.skidBlocks s k b) :=
  .ite _ (accessFrame_skidMore _ _ _) .refl

theorem accessFrame_apply_hold (s t : State) (k : CoreKey) (b : Fin 2) : AccessFrame t (s.apply k b (.hold t)) :=
  (accessFrame_skidBlocks t s k b).trans (accessFrame_skidStart _ _ _)

@[simp] theorem apply_hold_bank (s t : State) (k : CoreKey) (b : Fin 2) : (s.apply k b (.hold t)).bank k b = t.bank k b :=
  (accessFrame_apply_hold s t k b).bank k b

@[simp] theorem apply_hold_disp (s t : State) (k : CoreKey) (b : Fin 2) : (s.apply k b (.hold t)).disp = t.disp := by
  rw [(accessFrame_apply_hold s t k b).state]

@[simp] theorem apply_hold_mem (s t : State) (k : CoreKey) (b : Fin 2) : (s.apply k b (.hold t)).mem = t.mem := by
  rw [State.apply, skidStart_mem, State.skidBlocks]
  split
  · exact skidMore_mem _ _ _
  · rfl

/-- An act that completes, where its body starts no stop. -/
theorem apply_done {s t : State} {k : CoreKey} {b : Fin 2} (goto : Option Word)
    (hfrz : (t.clu (clusterOf k)).verm.frz = (s.clu (clusterOf k)).verm.frz) :
    s.apply k b (.done t goto none) = t.complete k b goto none :=
  skidStart_same _ _ _ (by rw [complete_verm, hfrz])

/-- An instruction that maps no register completes. -/
theorem ran_id (s : State) (k : CoreKey) (b : Fin 2) (goto : Option Word) : s.ran k b id goto = s.complete k b goto none := by
  simp only [State.ran, State.complete, bank_setBank_same, setBank_setBank, id]

theorem apply_done_same (s : State) (k : CoreKey) (b : Fin 2) (goto : Option Word) : s.apply k b (.done s goto none) = s.ran k b id goto := by
  rw [apply_done _ rfl, ran_id]

/-- An act that maps registers of its strand alone. -/
theorem apply_done_ctx (s : State) (k : CoreKey) (b : Fin 2) (f : Ctx → Ctx) :
    s.apply k b (.done (s.setBank k b { s.bank k b with ctx := f (s.bank k b).ctx }) none none) = s.ran k b f none :=
  apply_done _ rfl

@[simp] theorem complete_bank (s : State) (k : CoreKey) (b : Fin 2) (goto : Option Word) :
    (s.complete k b goto none).bank k b = (s.bank k b).advance goto := by
  rw [State.complete, State.skidDone, (accessFrame_skidMore _ _ _).bank, bank_setBank_same]

@[simp] theorem complete_mem (s : State) (k : CoreKey) (b : Fin 2) (goto : Option Word) : (s.complete k b goto none).mem = s.mem := by
  rw [State.complete, State.skidDone, skidMore_mem, state_setBank_mem]

@[simp] theorem complete_disp (s : State) (k : CoreKey) (b : Fin 2) (goto : Option Word) : (s.complete k b goto none).disp = s.disp := by
  rw [State.complete, State.skidDone, (accessFrame_skidMore _ _ _).state, state_setBank_disp]

theorem advance_pc {x : Bank} (h : x.replay = none) : (x.advance none).pc = x.pc + 4 := by
  simp only [Bank.advance, h]

theorem curPc_of_noReplay {x : Bank} (h : x.replay = none) : x.curPc = x.pc := by
  simp only [Bank.curPc, h]

section Quiet

variable {s : State} {k : CoreKey} {b : Fin 2} (hq : Quiet s k b)
include hq

theorem quiet_pend : (s.bank k b).pend = [] := by
  obtain ⟨-, hpend, -⟩ := hq
  exact hpend

theorem quiet_replay : (s.bank k b).replay = none := by
  obtain ⟨-, -, hreplay⟩ := hq
  exact hreplay

/-- The strand that issues runs. -/
theorem quiet_runs : (s.bank k b).runs = true := by
  obtain ⟨hissuing, -, -⟩ := hq
  obtain ⟨e, hon, hkb⟩ := Option.map_eq_some_iff.1 hissuing
  obtain ⟨rfl, rfl⟩ := Prod.mk.inj hkb
  unfold State.issuingOn at hon
  extract_lets c at hon
  split at hon
  next hcond =>
    obtain rfl := Option.some.inj hon
    simp only [Bool.and_eq_true] at hcond
    obtain ⟨⟨⟨-, hruns⟩, -⟩, -⟩ := hcond
    exact hruns
  next => cases hon

/-- A strand that issues, with nothing pending, is drained. -/
theorem quiet_drained : (s.bank k b).drained = true := by
  have hruns := quiet_runs hq
  simp only [Bank.runs, Bool.and_eq_true, Option.isNone_iff_eq_none] at hruns
  obtain ⟨⟨⟨-, hstore⟩, hsending⟩, -⟩ := hruns
  exact drained_of_none (quiet_pend hq) hstore hsending

theorem issueSys_quiet (i : Instr) (f : Foot) (body : State → CoreKey → Fin 2 → Act) :
    issueSys s i f body =
      .next (if (s.bank k b).ctx.atEnd (s.bank k b).curPc then s.trapNow k b (illegalAt i 6) else s.apply k b (body s k b)) := by
  rw [issueSys, issue_quiet _ _ _ _ _ hq]
  congr 1
  simp only [atLoopEnd]
  cases (s.bank k b).ctx.atEnd (s.bank k b).curPc <;> rfl

theorem issueSys_inside (i : Instr) (f : Foot) (body : State → CoreKey → Fin 2 → Act)
    (hend : (s.bank k b).ctx.atEnd (s.bank k b).curPc = false) : issueSys s i f body = .next (s.apply k b (body s k b)) := by
  rw [issueSys_quiet hq, hend]
  rfl

theorem issueSys_atEnd (i : Instr) (f : Foot) (body : State → CoreKey → Fin 2 → Act)
    (hend : (s.bank k b).ctx.atEnd (s.bank k b).curPc = true) : issueSys s i f body = .next (s.trapNow k b (illegalAt i 6)) := by
  rw [issueSys_quiet hq, hend]
  rfl

theorem issueEnd_atEnd (i : Instr) (f : Foot) (g : Word → Ctx → Except Trap (Ctx × Option Word))
    (hend : (s.bank k b).ctx.atEnd (s.bank k b).curPc = true) : issueEnd s i f g = .next (s.trapNow k b (illegalAt i 6)) := by
  rw [issueEnd_took hq, hend]
  rfl

end Quiet

/-- Settles O8: NOP completes, and the checks of `issueSys` and `issueEnd` stand before every other. -/
theorem nopChangesNothing : Obligations.NopChangesNothing := by
  unfold Obligations.NopChangesNothing
  intro s k b a c w n l m hq
  refine ⟨fun hend => ?_, fun hend => ?_⟩
  · rw [← apply_done_same]
    exact (issueSys_inside hq .nop _ _ hend : execNop s = _)
  · have sys (i : Instr) (f : Foot) (body : State → CoreKey → Fin 2 → Act) := issueSys_atEnd hq i f body hend
    have ends (i : Instr) (f : Foot) (g : Word → Ctx → Except Trap (Ctx × Option Word)) := issueEnd_atEnd hq i f g hend
    exact ⟨(sys .nop _ _ : execNop s = _), (sys (.trap n) _ _ : execTrap n s = _), (sys .eret _ _ : execEret s = _),
      (sys (.swapw a) _ _ : execSwapw a s = _), (sys .phase _ _ : execPhase s = _), (sys .retire _ _ : execRetire s = _),
      (sys .snap _ _ : execSnap s = _), (sys (.waitt a) _ _ : execWaitt a s = _), (ends (.loop a l) _ _ : execLoop a l s = _),
      (ends (.loopi w a c m) _ _ : execLoopi w a c m s = _)⟩

/-! PHASE, SNAP and WAITT (R123, R125, R126). -/

theorem ivoryFire_clu (s : State) (src : Fin 5) (iss : BitVec 24) (c : ClusterKey) : (s.ivoryFire src iss).clu c = s.clu c := by
  unfold State.ivoryFire
  extract_lets
  split <;> rfl

/-- The package after PHASE, but for the skid record (R123). -/
def State.phased (s : State) (k : CoreKey) (b : Fin 2) : State :=
  let x := s.bank k b
  let t := (s.setBank k b { x with ctx := { x.ctx with phase := x.ctx.phase + 1 } }).complete k b none none
  (t.setBank k b { t.bank k b with boundary := true }).recordPhase x.id (x.curPc + 4) (x.ctx.phase + 1)

section Inside

variable {s : State} {k : CoreKey} {b : Fin 2} (hq : Quiet s k b) (hend : (s.bank k b).ctx.atEnd (s.bank k b).curPc = false)
include hq hend

theorem execSnap_quiet : execSnap s = .next ((s.ivoryFire 0 ((s.sid k b).setWidth 24)).complete k b none none) := by
  rw [execSnap, issueSys_inside hq _ _ _ hend, apply_done _ (by rw [ivoryFire_clu])]

theorem execWaitt_quiet (a : SReg) :
    execWaitt a s = .next (if ((s.bank k b).ctx.s a.val).toNat ≤ s.tick.toNat then s.ran k b id none
      else s.setBank k b { s.bank k b with held := true, wait := some .waitt }) := by
  rw [execWaitt, issueSys_inside hq _ _ _ hend]
  split
  · rw [apply_done_same]
  · rfl

theorem execPhase_quiet (hlive : s.pushedLive (clusterOf k) (s.bank k b).id.who = false) (hocc : (s.bank k b).occupied = false) :
    execPhase s = .next (s.apply k b (.hold (s.phased k b))) := by
  have hpend : (s.bank k b).pend.isEmpty = true := List.isEmpty_iff.2 (quiet_pend hq)
  rw [execPhase, issueSys_inside hq _ _ _ hend]
  simp only [hpend, hlive, hocc, Bool.not_true, Bool.false_eq_true, if_false]
  rfl

end Inside

/-- Settles O9: `apply_done` for SNAP, the comparison for WAITT, the fields of `phased` for PHASE. -/
theorem snapWaitPhase : Obligations.SnapWaitPhase := by
  unfold Obligations.SnapWaitPhase
  intro s k b a hq hend
  refine ⟨execSnap_quiet hq hend, fun h => (execWaitt_quiet hq hend a).trans (congrArg _ (if_pos h)),
    fun h => (execWaitt_quiet hq hend a).trans (congrArg _ (if_neg (Nat.not_le.2 h))), fun hlive hocc => ?_⟩
  refine ⟨_, execPhase_quiet hq hend hlive hocc, ?_⟩
  have hbank : (s.phased k b).bank k b = { ({ s.bank k b with ctx := { (s.bank k b).ctx with phase := (s.bank k b).ctx.phase + 1 } } :
      Bank).advance none with boundary := true } := by
    change (State.setBank _ k b _).bank k b = _
    rw [bank_setBank_same, complete_bank, bank_setBank_same]
  have hmem : (s.phased k b).mem = s.mem := by
    change (State.complete _ _ _ _ _).mem = _
    rw [complete_mem, state_setBank_mem]
  have hdisp : (s.phased k b).disp = (s.recordPhase (s.bank k b).id ((s.bank k b).curPc + 4) ((s.bank k b).ctx.phase + 1)).disp := by
    simp only [State.phased, State.recordPhase, state_setBank_disp, complete_disp]
  rw [apply_hold_bank, apply_hold_mem, apply_hold_disp, hbank, hmem, hdisp]
  exact ⟨advance_ctx _ _, advance_pc (quiet_replay hq), rfl, rfl, rfl⟩

/-! TRAP and ERET (R94, R116, R120, R121). -/

@[simp] theorem returns_ctx (x : Bank) : x.returns.ctx = x.ctx := by
  unfold Bank.returns
  extract_lets
  split
  · rfl
  · rfl
  · split <;> rfl

/-- With an empty window nothing is replayed. -/
theorem returns_replay {x : Bank} (h : bits x.ctx.tb.tinfo 8 4 = 0) : x.returns.replay = none := by
  unfold Bank.returns
  extract_lets t n
  split
  · rfl
  · rfl
  · rw [if_pos h]

/-- The address that a return with an empty window goes to. -/
def Bank.goal (x : Bank) : Word := if x.ctx.tb.tinfo.getLsbD 27 then x.ctx.tb.tpc + 4 else x.ctx.tb.tpc

/-- A return past the end of a body owes its end processing. -/
theorem returns_endDue {x : Bank} (h : bits x.ctx.tb.tinfo 8 4 = 0) {e : Word} (he : x.passedEnd x.goal = some e) :
    x.returns.endDue = true := by
  unfold Bank.goal at he
  cases hsk : x.ctx.tb.tinfo.getLsbD 27
  · have howed : x.ctx.tb.owed = [0] := by simp only [TrapBlock.owed, h, hsk]; rfl
    have hstart : x.ctx.tb.tpc + 4 * BitVec.ofNat 64 0 = x.ctx.tb.tpc := by simp
    rw [hsk] at he
    simp only [Bank.returns, howed, hstart, show x.passedEnd x.ctx.tb.tpc = some e from he]
  · have howed : x.ctx.tb.owed = [] := by simp only [TrapBlock.owed, h, hsk]; rfl
    have hstart : x.ctx.tb.tpc + 4 * BitVec.ofNat 64 (0 + 1) = x.ctx.tb.tpc + 4 := by simp
    rw [hsk] at he
    simp only [Bank.returns, howed, h, hstart, show x.passedEnd (x.ctx.tb.tpc + 4) = some e from he]

/-- The bank of a strand that ERET takes out of its handler, before it returns (R94). -/
def Bank.leftHandler (x : Bank) : Bank :=
  { x with ctx := { x.ctx with l := x.ctx.tb.tl, tb := x.ctx.tb.setH false }
           nIssued := x.nIssued + 1, held := false, boundary := false, wait := none, flagged := false }

section Inside

variable {s : State} {k : CoreKey} {b : Fin 2} (hq : Quiet s k b) (hend : (s.bank k b).ctx.atEnd (s.bank k b).curPc = false)
include hq hend

theorem execEret_outside (hh : (s.bank k b).h = false) : execEret s = .next (s.trapNow k b (illegalAt .eret 5)) := by
  rw [execEret, issueSys_inside hq _ _ _ hend]
  simp only [hh, Bool.not_false, if_true]
  rfl

theorem execEret_returns (hh : (s.bank k b).h = true) :
    execEret s = .next (s.apply k b (.hold ((s.setBank k b (s.bank k b).leftHandler.returns).skidIssue k))) := by
  rw [execEret, issueSys_inside hq _ _ _ hend]
  simp only [hh, Bool.not_true, Bool.false_eq_true, if_false]
  rfl

end Inside

/-- Settles O10: TRAP is its trap; ERET leaves the bank of `leftHandler`, of which `returns` keeps the registers. -/
theorem trapAndReturn : Obligations.TrapAndReturn := by
  unfold Obligations.TrapAndReturn
  intro s k b n hq x hend
  refine ⟨(issueSys_inside hq (.trap n) _ _ hend : execTrap n s = _), fun hh => execEret_outside hq hend hh, fun hh => ?_⟩
  refine ⟨_, execEret_returns hq hend hh, ?_⟩
  rw [apply_hold_bank, State.skidIssue, (accessFrame_skidMore _ _ _).bank, bank_setBank_same, Bank.h, returns_ctx]
  refine ⟨rfl, getLsbD_setH_zero _ _, ?_⟩
  intro hwin goal
  have hpassed : x.leftHandler.passedEnd goal = x.passedEnd goal := passedEnd_congr rfl rfl goal
  have hpc : x.leftHandler.returns.pc = x.leftHandler.backTo goal := returns_pc hwin
  rw [Bank.backTo, hpassed] at hpc
  refine ⟨returns_replay hwin, fun hnone => ?_, fun e he => ⟨?_, returns_endDue hwin (hpassed.trans he)⟩⟩
  · rw [hpc, hnone]
  · rw [hpc, he]

/-! RDS and WRS (R82, R127, R128). -/

section Quiet

variable {s : State} {k : CoreKey} {b : Fin 2} (hq : Quiet s k b)
include hq

theorem noFlagsPending : ((s.bank k b).pend.any fun q => q.setsFlags) = false := by
  rw [quiet_pend hq, List.any_nil]

theorem execRds_quiet (d : DReg) (i : BitVec 11) (p : Level) {y : Word} (hi : i.toNat < 0x80 + (s.bank k b).id.evh.length ∨ 0xC0 ≤ i.toNat)
    (hy : s.sysReg k b i.toNat = some y) : execRds d i p s = .next (s.ran k b (fun r => r.deliver d p y) none) := by
  have hpre : ¬(0x80 + (s.bank k b).id.evh.length ≤ i.toNat ∧ i.toNat < 0xC0) := by omega
  rw [execRds, issueWith_quiet _ _ _ _ _ _ hq (if_neg hpre)]
  simp only [noFlagsPending hq, hy, Bool.false_eq_true, and_false, if_false]
  exact congrArg _ (apply_done_ctx s k b fun r => r.deliver d p y)

theorem execWrs_quiet (a : SReg) (i : BitVec 11) (f : Ctx → Ctx)
    (hf : (s.bank k b).ctx.writeSys i.toNat ((s.bank k b).ctx.s a.val) = some (f (s.bank k b).ctx)) :
    execWrs a i s = .next (s.ran k b f none) := by
  rw [execWrs, issue_quiet _ _ _ _ _ hq]
  simp only [noFlagsPending hq, hf, Bool.false_eq_true, and_false, if_false]
  exact congrArg _ (apply_done_ctx s k b f)

end Quiet

theorem sysReg_launch (s : State) (k : CoreKey) (b : Fin 2) {n : Nat} (j : Fin 16) (hn : n = 0x40 + j.val) :
    s.sysReg k b n = some (s.bank k b).id.lch[j] := by
  subst hn
  have hin : 0x40 ≤ 0x40 + j.val ∧ 0x40 + j.val < 0x50 := by omega
  simp only [State.sysReg, if_pos hin, Nat.add_sub_cancel_left, vget, Vector.getD]
  simp

theorem sysReg_event (s : State) (k : CoreKey) (b : Fin 2) {n : Nat} (hlo : 0x80 ≤ n) (hhi : n < 0xC0) :
    s.sysReg k b n = ((s.bank k b).id.evh[n - 0x80]?).map fun h => h.setWidth 64 := by
  have hno : ¬(0x40 ≤ n ∧ n < 0x50) := by omega
  simp only [State.sysReg, if_neg hno, if_pos (And.intro hlo hhi)]

/-- Settles O12: the numbers of R82 by `sysReg`, the writable bits of R128 by `writeSys`. -/
theorem systemRegisters : Obligations.SystemRegisters := by
  unfold Obligations.SystemRegisters
  intro s k b d a p i hq x w tb clid reads writes
  have rd (n : BitVec 11) {y : Word} (hn : n.toNat < 0x80) (hy : s.sysReg k b n.toNat = some y) : reads n y :=
    execRds_quiet hq d n p (.inl (by omega)) hy
  have wr (n : BitVec 11) (f : Ctx → Ctx) (hf : x.ctx.writeSys n.toNat w = some (f x.ctx)) : writes n f := execWrs_quiet hq a n f hf
  refine ⟨rd 0x00 (by decide) rfl, rd 0x01 (by decide) rfl, rd 0x02 (by decide) rfl, rd 0x03 (by decide) rfl, rd 0x04 (by decide) rfl,
    rd 0x05 (by decide) rfl, rd 0x08 (by decide) rfl, rd 0x06 (by decide) rfl, rd 0x07 (by decide) rfl, rd 0x10 (by decide) rfl,
    rd 0x11 (by decide) rfl, rd 0x20 (by decide) rfl, rd 0x30 (by decide) rfl, rd 0x31 (by decide) rfl, rd 0x32 (by decide) rfl,
    rd 0x33 (by decide) rfl, rd 0x34 (by decide) rfl, rd 0x35 (by decide) rfl, rd 0x36 (by decide) rfl, fun j hj => ?_, fun h hlo hhi hh => ?_,
    wr 0x20 _ rfl, wr 0x30 _ rfl, wr 0x33 _ rfl, wr 0x34 _ rfl, wr 0x35 _ rfl⟩
  · exact rd i (by omega) (sysReg_launch s k b j hj)
  · obtain ⟨hlen, -⟩ := List.getElem?_eq_some_iff.1 hh
    have hcount : i.toNat - 0x80 < (s.bank k b).id.evh.length := hlen
    exact execRds_quiet hq d i p (.inl (by omega)) (by rw [sysReg_event s k b hlo hhi, hh]; rfl)

end Sys2Proof.Machine

/-! SWAPW (R122). -/

namespace Sys2Proof.Machine

open Sys2Proof

/-- The registers that SWAPW loads from a workspace: those of its region, with the words that stay with the strand. -/
def Ctx.carried (c : Ctx) (m : List Host.Cell) (loc : Nat) : Ctx := { Ctx.ofMemory m loc with tok := c.tok, fgp := c.fgp, fgw := c.fgw }

theorem swapWorkspace_loads {s : State} {k : CoreKey} {b : Fin 2} {t : Nat}
    (h : (s.writeRegion k (s.bank k b).wsp.toNat (s.bank k b).ctx).badLine (spadBase k + t) = none) :
    s.swapWorkspace k b t = (s.writeRegion k (s.bank k b).wsp.toNat (s.bank k b).ctx).setBank k b
      { s.bank k b with
        wsp := BitVec.ofNat 18 t, trapAt := none, plane := Vector.replicate 8 none
        ctx := (s.bank k b).ctx.carried (s.writeRegion k (s.bank k b).wsp.toNat (s.bank k b).ctx).mem (spadBase k + t) } := by
  simp only [State.swapWorkspace, h]
  rfl

/-- The package after SWAPW, but for the skid record: the strand past the instruction. -/
def State.swapped (s : State) (k : CoreKey) (b : Fin 2) (t : Nat) : State :=
  let x := s.bank k b
  let s1 := s.swapWorkspace k b t
  s1.setBank k b { s1.bank k b with
    pc := x.curPc + 4, nIssued := x.nIssued + 1, held := false, boundary := false, wait := none, replay := none }

/-- A workspace that SWAPW may take: aligned, in the scratchpad, in neither bank, with no offer occupied there or in the strand. -/
structure State.Swappable (s : State) (k : CoreKey) (b : Fin 2) (t : Nat) : Prop where
  fits : t + 8192 ≤ spadSize k
  aligned : t % 8192 = 0
  fresh : t ≠ (s.bank k b).wsp.toNat
  other : t ≠ ((s.core k).bank (1 - b)).wsp.toNat
  idle : (s.bank k b).occupied = false
  empty : s.occupiedAt k t = false

theorem spadSize_le (k : CoreKey) : spadSize k ≤ 2 ^ 18 := by
  unfold spadSize
  split <;> decide

theorem execSwapw_quiet {s : State} {k : CoreKey} {b : Fin 2} (hq : Quiet s k b)
    (hend : (s.bank k b).ctx.atEnd (s.bank k b).curPc = false) (a : SReg) (h : s.Swappable k b ((s.bank k b).ctx.s a.val).toNat) :
    execSwapw a s = .next (s.apply k b (.hold ((s.swapped k b ((s.bank k b).ctx.s a.val).toNat).skidIssue k))) := by
  obtain ⟨hfits, haligned, hfresh, hother, hidle, hempty⟩ := h
  have hwindow : ¬(tagOf ((s.bank k b).ctx.s a.val).toNat ≠ 0 ∨ spadSize k < ((s.bank k b).ctx.s a.val).toNat + 8192) := by
    have hsize := spadSize_le k
    have htag : tagOf ((s.bank k b).ctx.s a.val).toNat = 0 := by
      unfold tagOf
      omega
    omega
  rw [execSwapw, issueSys_inside hq _ _ _ hend]
  simp only [quiet_drained hq, if_neg hwindow, haligned, hfresh, hother, hother.symm, hidle, hempty, Bool.not_true, Bool.false_eq_true,
    Bool.or_self, ne_eq, not_true, false_and, and_false, or_self, if_false]
  rfl

/-! RETIRE: the end of a strand leaves dispatch's launches but for the strand's own (R87, R124). -/

theorem setStrand_disp (s : State) (w : StrandAt) (x : Bank) : (s.setStrand w x).disp = s.disp := by
  cases w <;> rfl

theorem setRegionWord_disp (s : State) (w : StrandAt) (i : Nat) (x : Word) : (s.setRegionWord w i x).disp = s.disp := by
  unfold State.setRegionWord
  split
  · rfl
  · exact setStrand_disp _ _ _

theorem setEntry_disp (s : State) (w : StrandAt) (i : Nat) (e : Offer) : (s.setEntry w i e).disp = s.disp := by
  unfold State.setEntry
  split
  · exact setStrand_disp _ _ _
  · rw [setRegionWord_disp, setRegionWord_disp]

theorem foldl_disp {α : Type} {f : State → α → State} (hf : ∀ s a, (f s a).disp = s.disp) (l : List α) (s : State) :
    (l.foldl f s).disp = s.disp :=
  List.foldlRecOn l f (motive := fun t => t.disp = s.disp) rfl fun t h a _ => (hf t a).trans h

theorem mapEntries_disp (s : State) (w : StrandAt) (p : Offer → Bool) (f : Offer → Offer) : (s.mapEntries w p f).disp = s.disp := by
  refine foldl_disp (fun s i => ?_) _ _
  split
  · exact setEntry_disp _ _ _ _
  · rfl

theorem setSlot_disp (s : State) (h : Home) (n : Nat) (e : EvSlot) : (s.setSlot h n e).disp = s.disp := by
  cases h <;> rfl

theorem leaveAll_disp (s : State) (w : StrandAt) (who : StrandId) : (s.leaveAll w who).disp = s.disp := by
  refine foldl_disp (fun s x => ?_) _ _
  rw [State.leaveEvent, setSlot_disp, mapEntries_disp]

theorem foldLeavesAt_disp (s : State) (g : FoldGroup) (rank win : Nat) : (s.foldLeavesAt g rank win).disp = s.disp := by
  unfold State.foldLeavesAt
  split <;> rfl

theorem foldGone_disp (s : State) (a : StrandAt) : (s.foldGone a).disp = s.disp := by
  unfold State.foldGone
  extract_lets
  split
  · rfl
  · rw [setRegionWord_disp, setRegionWord_disp, foldLeavesAt_disp]

theorem withdrawFuse_disp (s : State) (k : CoreKey) (who : StrandId) (result : Bool) : (s.withdrawFuse k who result).disp = s.disp := by
  unfold State.withdrawFuse
  simp only
  split <;> rfl

theorem withdrawGang_disp (s : State) (c : ClusterKey) (who : StrandId) (result : Bool) : (s.withdrawGang c who result).disp = s.disp := rfl
theorem dropUnsent_disp (s : State) (who : StrandId) : (s.dropUnsent who).disp = s.disp := rfl
theorem dropAwaited_disp (s : State) (who : StrandId) : (s.dropAwaited who).disp = s.disp := rfl

theorem letGo_disp (s : State) (a : StrandAt) (discard : Bool) : (s.letGo a discard).disp = s.disp := by
  rw [State.letGo, dropAwaited_disp, dropUnsent_disp, withdrawFuse_disp, withdrawGang_disp, foldGone_disp, State.withdraw, mapEntries_disp]

theorem emptied_disp (s : State) (k : CoreKey) : (s.emptied k).disp = s.disp := by
  unfold State.emptied
  extract_lets
  split <;> rfl

theorem mapLaunch_launches (s : State) (ln : BitVec 16) (f : Launch → Launch) :
    (s.mapLaunch ln f).disp.launches = s.disp.launches.map fun l => if l.ln = ln then f l else l := rfl

/-- A strand that ends joins those of its launch that have ended. -/
theorem endStrand_launches (s : State) (k : CoreKey) (b : Fin 2) : (s.endStrand (.bank k b) false).disp.launches =
    s.disp.launches.map fun l => if l.ln = (s.bank k b).id.ln then { l with ended := (s.bank k b).id.lid :: l.ended } else l := by
  simp only [State.endStrand, mapLaunch_launches, emptied_disp, state_setBank_disp, leaveAll_disp, letGo_disp, State.strand,
    Bool.false_eq_true, if_false]

theorem accessFrame_skidEnd (s : State) (k : CoreKey) : AccessFrame s (s.skidEnd k) := .ite _ (.setClu rfl) .refl

theorem execRetire_quiet {s : State} {k : CoreKey} {b : Fin 2} (hq : Quiet s k b)
    (hend : (s.bank k b).ctx.atEnd (s.bank k b).curPc = false) :
    execRetire s = .next (s.apply k b (.hold (((s.skidIssue k).endStrand (.bank k b) false).skidEnd k))) := by
  have hpend : (s.bank k b).pend.isEmpty = true := List.isEmpty_iff.2 (quiet_pend hq)
  rw [execRetire, issueSys_inside hq _ _ _ hend]
  simp only [hpend, Bool.not_true, Bool.false_eq_true, if_false]

/-- Settles O13: SWAPW by the bank that `swapWorkspace` loads; RETIRE by `endStrand`. -/
theorem workspaceAndRetire : Obligations.WorkspaceAndRetire := by
  unfold Obligations.WorkspaceAndRetire
  refine ⟨?_, ?_⟩
  · intro s k b a hq x o w m hend hstore hfits haligned hfresh hother hidle hempty hline
    refine ⟨_, execSwapw_quiet hq hend a ⟨hfits, haligned, hfresh, hother, hidle, hempty⟩, ?_⟩
    have hswap : s.swapped k b w = (s.writeRegion k x.wsp.toNat x.ctx).setBank k b
        { x with
          wsp := BitVec.ofNat 18 w, trapAt := none, plane := Vector.replicate 8 none, ctx := x.ctx.carried m (spadBase k + w)
          pc := x.curPc + 4, nIssued := x.nIssued + 1, held := false, boundary := false, wait := none, replay := none } := by
      simp only [State.swapped, swapWorkspace_loads hline, bank_setBank_same, setBank_setBank, writeRegion_mem]
      rfl
    have hlt : w < 2 ^ 18 := by
      have hsize := spadSize_le k
      omega
    rw [apply_hold_mem, apply_hold_bank, State.skidIssue, skidMore_mem, (accessFrame_skidMore _ _ _).bank, hswap, bank_setBank_same, state_setBank_mem,
      writeRegion_mem]
    refine ⟨rfl, ?_, congrArg (· + 4) (curPc_of_noReplay (quiet_replay hq)), rfl⟩
    rw [BitVec.toNat_ofNat, Nat.mod_eq_of_lt hlt]
  · intro s k b hq hend
    have hbank : (s.skidIssue k).bank k b = s.bank k b := (accessFrame_skidMore s k 1).bank k b
    have hdisp : (s.skidIssue k).disp = s.disp := by rw [State.skidIssue, (accessFrame_skidMore s k 1).state]
    refine ⟨_, execRetire_quiet hq hend, ?_, fun l hl hln => ?_⟩
    · rw [apply_hold_bank, (accessFrame_skidEnd _ _).bank, endStrand_bank]
    · have hlaunches := endStrand_launches (s.skidIssue k) k b
      rw [hbank, hdisp] at hlaunches
      rw [apply_hold_disp, (accessFrame_skidEnd _ _).state, hlaunches]
      exact ⟨_, List.mem_map_of_mem hl, by rw [if_pos hln], by rw [if_pos hln]; exact List.mem_cons_self⟩

end Sys2Proof.Machine

/-! Words of the spec's examples. -/

namespace Sys2Proof

/-- Settles O57: the decoder at each word. -/
theorem decodeWords : Obligations.DecodeWords := by
  unfold Obligations.DecodeWords
  refine ⟨?_, ?_, ?_, ?_, ?_, ?_, ?_, ?_, ?_, ?_, ?_, ?_, ?_, ?_, ?_, ?_, ?_⟩ <;> decide +kernel

end Sys2Proof

/-! Selections, comparisons, classes and signs of floating-point values (R137 to R140). -/

namespace Sys2Proof

/-- Equal values are two that are no NaN and of which neither is below the other. -/
theorem fEq_eq (u v : FVal) : fEq u v = (!(u.isNan || v.isNan) && !fLt u v && !fLt v u) := by
  simp only [fEq, Bool.not_or]

theorem not_fEq_eq (u v : FVal) : (!fEq u v) = (u.isNan || v.isNan || fLt u v || fLt v u) := by
  simp only [fEq_eq, Bool.not_and, Bool.not_not]

/-- FMIN and FMAX: an operand's own pattern, the other one's beside a NaN, the default NaN for two of them. -/
theorem fMinMax_eq (f : Fmt) (wantMax : Bool) (x y : Nat) :
    fMinMax f wantMax x y =
      (if (f.read x).isNan && (f.read y).isNan then f.nanPat
       else if (f.read x).isNan then y
       else if (f.read y).isNan then x
       else if fLt (f.read x) (f.read y) || (fEq (f.read x) (f.read y) && (f.read x).neg? && !(f.read y).neg?) then
         (if wantMax then y else x)
       else (if wantMax then x else y),
       (f.read x).readFlag ||| (f.read y).readFlag) := by
  have hpick (below : Bool) : (if below != wantMax then x else y) =
      if below then (if wantMax then y else x) else (if wantMax then x else y) := by cases below <;> cases wantMax <;> rfl
  simp only [fMinMax, hpick]
  cases (f.read x).isNan <;> cases (f.read y).isNan <;> rfl

/-- The sign bit of a pattern of its format's width. -/
theorem signBit_eq {h x : Nat} (hx : x < 2 * h) : (x / h % 2 == 1) = decide (h ≤ x) := by
  by_cases hle : h ≤ x
  · have hone : x / h = 1 := Nat.div_eq_of_lt_le (by omega) (by omega)
    simp [hone, hle]
  · simp [Nat.div_eq_of_lt (Nat.lt_of_not_le hle), hle]

theorem two_pow_width (f : Fmt) : 2 ^ f.width = 2 * 2 ^ (f.eb + f.mb) := by
  rw [Fmt.width, Nat.add_assoc, Nat.pow_add, Nat.pow_one]

section Sign

variable {f : Fmt} {x y : Nat} (hx : x < 2 ^ f.width) (hy : y < 2 ^ f.width)

include hy in
theorem fSign_copy (x : Nat) : fSign f .copy x y =
    x % 2 ^ (f.eb + f.mb) + if decide (2 ^ (f.eb + f.mb) ≤ y) then 2 ^ (f.eb + f.mb) else 0 := by
  rw [← signBit_eq (two_pow_width f ▸ hy)]
  rfl

include hy in
theorem fSign_invert (x : Nat) : fSign f .invert x y =
    x % 2 ^ (f.eb + f.mb) + if decide (y < 2 ^ (f.eb + f.mb)) then 2 ^ (f.eb + f.mb) else 0 := by
  simp only [← Nat.not_le, decide_not, ← signBit_eq (two_pow_width f ▸ hy)]
  rfl

include hx hy in
theorem fSign_xor : fSign f .xor x y =
    x % 2 ^ (f.eb + f.mb) + if decide (2 ^ (f.eb + f.mb) ≤ x) != decide (2 ^ (f.eb + f.mb) ≤ y) then 2 ^ (f.eb + f.mb) else 0 := by
  rw [← signBit_eq (two_pow_width f ▸ hx), ← signBit_eq (two_pow_width f ▸ hy)]
  rfl

end Sign

section Class

variable {f : Fmt} (hf : f.sp = .ieee) {x : Nat} (hx : x < 2 ^ f.width)
include hf hx

/-- The top exponent encodes the infinities and the NaNs, of which those with the highest bit clear signal (R32, R33). -/
theorem read_top (htop : x / 2 ^ f.mb % 2 ^ f.eb = 2 ^ f.eb - 1) :
    f.read x = if x % 2 ^ f.mb = 0 then .inf (decide (2 ^ (f.eb + f.mb) ≤ x)) else .nan (decide (x % 2 ^ f.mb < 2 ^ (f.mb - 1))) := by
  have hsignals : (x % 2 ^ f.mb / 2 ^ (f.mb - 1) == 0) = decide (x % 2 ^ f.mb < 2 ^ (f.mb - 1)) := by
    simp [Bool.beq_eq_decide_eq, Nat.div_eq_zero_iff]
  simp only [Fmt.read, hf, htop, hsignals, signBit_eq (two_pow_width f ▸ hx), beq_self_eq_true, Bool.and_self, if_true, beq_iff_eq]

/-- Exponent 0 encodes the zeros and the subnormal values. -/
theorem read_subnormal (htop : x / 2 ^ f.mb % 2 ^ f.eb ≠ 2 ^ f.eb - 1) (hsub : x / 2 ^ f.mb % 2 ^ f.eb = 0) :
    f.read x = .fin (decide (2 ^ (f.eb + f.mb) ≤ x)) (x % 2 ^ f.mb) f.qmin := by
  have hlow : (0 == 2 ^ f.eb - 1) = false := beq_eq_false_iff_ne.mpr (hsub ▸ htop)
  simp [Fmt.read, hf, hsub, hlow, signBit_eq (two_pow_width f ▸ hx)]

/-- The other exponents encode the normal values. -/
theorem read_normal (htop : x / 2 ^ f.mb % 2 ^ f.eb ≠ 2 ^ f.eb - 1) (hsub : x / 2 ^ f.mb % 2 ^ f.eb ≠ 0) :
    f.read x = .fin (decide (2 ^ (f.eb + f.mb) ≤ x)) (x % 2 ^ f.mb + 2 ^ f.mb) (f.qmin + (x / 2 ^ f.mb % 2 ^ f.eb : Nat) - 1) := by
  simp [Fmt.read, hf, hsub, htop, signBit_eq (two_pow_width f ▸ hx)]

/-- The class of a pattern, by its three fields (R139). -/
theorem fClassBit_eq : fClassBit f x =
    if x / 2 ^ f.mb % 2 ^ f.eb = 2 ^ f.eb - 1 then
      if x % 2 ^ f.mb = 0 then (if 2 ^ (f.eb + f.mb) ≤ x then 0 else 7) else if x % 2 ^ f.mb < 2 ^ (f.mb - 1) then 8 else 9
    else if x / 2 ^ f.mb % 2 ^ f.eb = 0 then
      if x % 2 ^ f.mb = 0 then (if 2 ^ (f.eb + f.mb) ≤ x then 3 else 4) else if 2 ^ (f.eb + f.mb) ≤ x then 2 else 5
    else if 2 ^ (f.eb + f.mb) ≤ x then 1 else 6 := by
  have hm : x % 2 ^ f.mb < 2 ^ f.mb := Nat.mod_lt _ (Nat.two_pow_pos _)
  rw [fClassBit]
  by_cases htop : x / 2 ^ f.mb % 2 ^ f.eb = 2 ^ f.eb - 1
  · rw [if_pos htop, read_top hf hx htop]
    by_cases hzero : x % 2 ^ f.mb = 0
    · by_cases hneg : 2 ^ (f.eb + f.mb) ≤ x <;> simp only [hzero, hneg] <;> rfl
    · by_cases hlow : x % 2 ^ f.mb < 2 ^ (f.mb - 1) <;> simp only [hzero, hlow] <;> rfl
  rw [if_neg htop]
  by_cases hsub : x / 2 ^ f.mb % 2 ^ f.eb = 0
  · simp only [read_subnormal hf hx htop hsub, if_pos hsub, if_pos hm, decide_eq_true_eq]
  · simp [read_normal hf hx htop hsub, if_neg hsub]

end Class

end Sys2Proof

namespace Sys2Proof.Machine

open Sys2Proof

section Quiet

variable {s : State} {k : CoreKey} {b : Fin 2} (hq : Quiet s k b)
include hq

/-- A selection or a comparison delivers its word and ORs its flags. -/
theorem issueFpSel_quiet (d : DReg) (a c : SReg) (f : FTy) (p : Level) (op : Fmt → Nat → Nat → Word × Flags) {w : Word} {fl : Flags}
    (hop : op f.fmt (low f.fmt ((s.bank k b).ctx.s a.val)) (low f.fmt ((s.bank k b).ctx.s c.val)) = (w, fl)) :
    issueFpSel s d a c f p op = .next (s.ran k b (fun q => (q.deliver d p w).orFlags fl) none) := by
  rw [issueFpSel, issueFp_quiet hq, hop]

/-- FCLASS delivers the one bit of the class, and no flags. -/
theorem execFclass_quiet (d : DReg) (a : SReg) (f : FTy) (p : Level) {n : Nat}
    (hn : fClassBit f.fmt (low f.fmt ((s.bank k b).ctx.s a.val)) = n) :
    execFclass d a f p s = .next (s.ran k b (fun q => (q.deliver d p (BitVec.ofNat 64 (2 ^ n))).orFlags 0) none) := by
  rw [execFclass, issueFp_quiet hq, hn]

end Quiet

theorem low_lt (f : Fmt) (x : Word) : low f x < 2 ^ f.width := Nat.mod_lt _ (Nat.two_pow_pos _)

theorem fTy_ieee (f : FTy) : f.fmt.sp = .ieee := by cases f <;> rfl

/-- Settles O24: each result is that of `fMinMax`, `fCmp`, `fClassBit` or `fSign`, in the form that the rules give it. -/
theorem floatSelections : Obligations.FloatSelections := by
  intro s k b d a c f p hq g x y u v quiet nan below half m top neg gives bit signs
  have hx : x < 2 ^ g.width := low_lt g _
  have hy : y < 2 ^ g.width := low_lt g _
  have hminMax (wantMax : Bool) {z : Nat} (hz : fMinMax g wantMax x y = (z, quiet)) :
      issueFpSel s d a c f p (fun f x y => let r := fMinMax f wantMax x y; (zext f.width r.1, r.2)) =
        .next (s.ran k b (fun q => (q.deliver d p (zext g.width z)).orFlags quiet) none) :=
    issueFpSel_quiet hq d a c f p _ (congrArg (fun r => (zext g.width r.1, r.2)) hz)
  have hcmp (cond : Cond) {z : Bool} {fl : Flags} (hz : fCmp g cond x y = (z, fl)) :
      issueFpSel s d a c f p (cmpWord cond) = .next (s.ran k b (fun q => (q.deliver d p (bit z)).orFlags fl) none) :=
    issueFpSel_quiet hq d a c f p _ (congrArg (fun r => (bit r.1, r.2)) hz)
  have hsign (sel : SignSel) {z : Bool} (hz : fSign g sel x y = x % half + if z then half else 0) :
      issueFpSel s d a c f p (fun f x y => (zext f.width (fSign f sel x y), 0)) =
        .next (s.ran k b (fun q => (q.deliver d p (signs z)).orFlags 0) none) :=
    issueFpSel_quiet hq d a c f p _ (congrArg (fun r => (zext g.width r, 0)) hz)
  refine ⟨hminMax false (fMinMax_eq g false x y), hminMax true (fMinMax_eq g true x y), hcmp .eq ?eq, hcmp .ne ?ne, hcmp .lt rfl,
    hcmp .le rfl, hcmp .un rfl, execFclass_quiet hq d a f p ?fclass, hsign .copy (fSign_copy hy x), hsign .invert (fSign_invert hy x),
    hsign .xor (fSign_xor hx hy)⟩
  case eq => exact congrArg (·, quiet) (fEq_eq u v)
  case ne => exact congrArg (·, quiet) (not_fEq_eq u v)
  case fclass =>
    simp only [top, neg, decide_eq_true_eq]
    exact fClassBit_eq (fTy_ieee f) hx

end Sys2Proof.Machine

/-! Long-latency results (R141, R149, R157, R52): quotients, roots and the reads of an accumulator. -/

namespace Sys2Proof.Machine

open Sys2Proof

/-- The sign of the held value: −1, 0 or 1 (R157). -/
theorem sign_eq (q : ExactAcc) : q.sign = if q.value.toInt < 0 then -1 else if q.value = 0 then 0 else 1 := by
  have hzero : q.int = 0 ↔ q.value = 0 := by
    rw [ExactAcc.int, ← BitVec.toInt_inj, show (0 : BitVec 6400) = 0#6400 from rfl, BitVec.toInt_zero]
  simp only [ExactAcc.sign, hzero]
  rfl

theorem zext_64 (n : Nat) : zext 64 n = BitVec.ofNat 64 n := BitVec.eq_of_toNat_eq (by simp [zext])

/-- The held value rounded to FP64; the default NaN and IV where the status holds IV or OF (R52). -/
theorem round_eq (q : ExactAcc) (m : Mode) :
    q.round m =
      let rounded := fmtF64.deliver m (.fin (decide (q.value.toInt < 0)) q.value.toInt.natAbs (-3232))
      let bad := q.status.getLsbD 0 || q.status.getLsbD 1
      (if bad then 0x7FF8000000000000 else BitVec.ofNat 64 rounded.1, if bad then fIV else rounded.2) := by
  have hnan : zext 64 fmtF64.nanPat = 0x7FF8000000000000 := by decide
  simp only [ExactAcc.round, ExactAcc.int, ← Bool.or_eq_true, hnan, zext_64]
  split <;> rfl

section Quiet

variable {s : State} {k : CoreKey} {b : Fin 2} (hq : Quiet s k b)
include hq

/-- FDIV leaves the quotient pending, in the mode of its position. -/
theorem execFdiv_quiet (d : DReg) (a c : SReg) (f : FTy2) (r : Rnd) (h : La) {m : Mode} (hm : (s.bank k b).ctx.mode r = m)
    {y : Nat × Flags} (hy : fDiv f.fmt m (low f.fmt ((s.bank k b).ctx.s a.val)) (low f.fmt ((s.bank k b).ctx.s c.val)) = y) :
    execFdiv d a c f r h s = .next (s.sent k b { (s.bank k b).pendingOf (footL (rS a.val ++ rS c.val) (rS d.val)) h with
      writes := [.s d (zext f.fmt.width y.1)], flags := y.2, setsFlags := true }) := by
  subst hm hy
  exact issueLong_quiet _ _ _ _ _ _ _ hq rfl

/-- FSQRT leaves the root pending, in the mode of its position. -/
theorem execFsqrt_quiet (d : DReg) (a : SReg) (f : FTy) (r : Rnd) (h : La) {m : Mode} (hm : (s.bank k b).ctx.mode r = m)
    {y : Nat × Flags} (hy : fSqrt f.fmt m (low f.fmt ((s.bank k b).ctx.s a.val)) = y) :
    execFsqrt d a f r h s = .next (s.sent k b { (s.bank k b).pendingOf (footL (rS a.val) (rS d.val)) h with
      writes := [.s d (zext f.fmt.width y.1)], flags := y.2, setsFlags := true }) := by
  subst hm hy
  exact issueLong_quiet _ _ _ _ _ _ _ hq rfl

/-- A long-latency vector instruction leaves its lanes pending: the active ones computed, the others kept, the flags of the active ones. -/
theorem issueVecLong_quiet (ft : Foot) (d : VReg) (n : MReg) (h : La) (f : Ctx → Nat → Word × Flags) (w : Nat) {lane : Nat → Nat × Flags}
    (hl : ∀ j, f (s.bank k b).ctx j = (zext w (lane j).1, (lane j).2)) :
    issueVecLong s ft d n h f = .next (s.sent k b { (s.bank k b).pendingOf ft h with
      writes := [.v d (Vector.ofFn fun j => if ((s.bank k b).ctx.mask n.val).getLsbD j.val then zext w (lane j.val).1
        else ((s.bank k b).ctx.vec d.val)[j])]
      flags := (List.range 16).foldl (fun o j => if ((s.bank k b).ctx.mask n.val).getLsbD j then o ||| (lane j).2 else o) 0
      setsFlags := true }) := by
  rw [issueVecLong, issueLong_quiet _ _ _ _ _ _ _ hq rfl]
  simp only [mapLanes, vget_lane, hl]

/-- VDIV leaves the quotients of its active lanes pending. -/
theorem execVdiv_quiet (e : VReg) (u v : VSrc) (n : MReg) (f : FTy2) (r : Rnd) (h : La) {m : Mode} (hm : (s.bank k b).ctx.mode r = m)
    {lane : Nat → Nat × Flags} (hl : ∀ j, fDiv f.fmt m (low f.fmt (((s.bank k b).ctx.vec u.val).getD j 0))
      (low f.fmt (((s.bank k b).ctx.vec v.val).getD j 0)) = lane j) :
    execVdiv e u v n f r h s = .next (s.sent k b { (s.bank k b).pendingOf (footL (rV u.val ++ rV v.val ++ rM n.val) (rV e.val)) h with
      writes := [.v e (Vector.ofFn fun j => if ((s.bank k b).ctx.mask n.val).getLsbD j.val then zext f.fmt.width (lane j.val).1
        else ((s.bank k b).ctx.vec e.val)[j])]
      flags := (List.range 16).foldl (fun o j => if ((s.bank k b).ctx.mask n.val).getLsbD j then o ||| (lane j).2 else o) 0
      setsFlags := true }) :=
  issueVecLong_quiet hq _ e n h _ f.fmt.width fun j => by rw [← hl, ← hm]; rfl

/-- VSQRT leaves the roots of its active lanes pending. -/
theorem execVsqrt_quiet (e : VReg) (u : VSrc) (n : MReg) (f : FTy2) (r : Rnd) (h : La) {m : Mode} (hm : (s.bank k b).ctx.mode r = m)
    {lane : Nat → Nat × Flags} (hl : ∀ j, fSqrt f.fmt m (low f.fmt (((s.bank k b).ctx.vec u.val).getD j 0)) = lane j) :
    execVsqrt e u n f r h s = .next (s.sent k b { (s.bank k b).pendingOf (footL (rV u.val ++ rM n.val) (rV e.val)) h with
      writes := [.v e (Vector.ofFn fun j => if ((s.bank k b).ctx.mask n.val).getLsbD j.val then zext f.fmt.width (lane j.val).1
        else ((s.bank k b).ctx.vec e.val)[j])]
      flags := (List.range 16).foldl (fun o j => if ((s.bank k b).ctx.mask n.val).getLsbD j then o ||| (lane j).2 else o) 0
      setsFlags := true }) :=
  issueVecLong_quiet hq _ e n h _ f.fmt.width fun j => by rw [← hl, ← hm]; rfl

/-- EASGN leaves the sign of the held value pending, and sets no flags. -/
theorem execEasgn_quiet (d : DReg) (x : XAcc) (h : La) {w : Word} (hw : ((s.bank k b).ctx.acc x).sign = w) :
    execEasgn d x h s = .next (s.sent k b { (s.bank k b).pendingOf (footL [] (rS d.val)) h with
      writes := [.s d w], flags := 0, setsFlags := false }) := by
  subst hw
  exact issueLong_quiet _ _ _ _ _ _ _ hq rfl

/-- EARND leaves the rounded value pending, with its flags. -/
theorem execEarnd_quiet (d : DReg) (x : XAcc) (r : Rnd) (h : La) {m : Mode} (hm : (s.bank k b).ctx.mode r = m)
    {w : Word} {fl : Flags} (hw : ((s.bank k b).ctx.acc x).round m = (w, fl)) :
    execEarnd d x r h s = .next (s.sent k b { (s.bank k b).pendingOf (footL [] (rS d.val)) h with
      writes := [.s d w], flags := fl, setsFlags := true }) := by
  subst hm
  rw [execEarnd, issueLong_quiet _ _ _ _ _ _ _ hq rfl, hw]

/-- EASTS leaves the status word pending, and sets no flags. -/
theorem execEasts_quiet (d : DReg) (x : XAcc) (h : La) :
    execEasts d x h s = .next (s.sent k b { (s.bank k b).pendingOf (footL [] (rS d.val)) h with
      writes := [.s d ((s.bank k b).ctx.acc x).status], flags := 0, setsFlags := false }) :=
  issueLong_quiet _ _ _ _ _ _ _ hq rfl

end Quiet

/-- Settles O26: the results are `fDiv`, `fSqrt`, the sign, the rounded value and the status, each left pending. -/
theorem longResults : Obligations.LongResults := by
  intro s k b d a c e u v n f f3 r x h hq g m pat acc gives lanes quo root rounded bad
  have hmode : g.mode r = m := by cases r <;> rfl
  have hsign : acc.sign = if acc.value.toInt < 0 then -1 else if acc.value = 0 then 0 else 1 := sign_eq acc
  have hround : acc.round m = (if bad then 0x7FF8000000000000 else BitVec.ofNat 64 rounded.1, if bad then fIV else rounded.2) := round_eq acc m
  let quotient (j : Nat) := fDiv f.fmt m (pat f.fmt ((g.vec u.val).getD j 0)) (pat f.fmt ((g.vec v.val).getD j 0))
  let squareRoot (j : Nat) := fSqrt f.fmt m (pat f.fmt ((g.vec u.val).getD j 0))
  exact ⟨execFdiv_quiet hq d a c f r h hmode rfl, execFsqrt_quiet hq d a f3 r h hmode rfl,
    execVdiv_quiet hq e u v n f r h hmode (lane := quotient) fun _ => rfl,
    execVsqrt_quiet hq e u n f r h hmode (lane := squareRoot) fun _ => rfl,
    execEasgn_quiet hq d x h hsign, execEarnd_quiet hq d x r h hmode hround, execEasts_quiet hq d x h⟩

end Sys2Proof.Machine

/-! Mask operations and vector compares (R153, R146). -/

namespace Sys2Proof

/-- Reading raises IV for a signalling NaN alone. -/
theorem readFlag_eq (v : FVal) : v.readFlag = if decide (v = .nan true) then fIV else 0 := by
  cases v with
  | nan signalling => cases signalling <;> rfl
  | inf neg => rfl
  | fin neg m e => rfl

theorem readFlag_or_readFlag (u v : FVal) :
    u.readFlag ||| v.readFlag = if decide (u = .nan true) || decide (v = .nan true) then fIV else 0 := by
  rw [readFlag_eq, readFlag_eq]
  cases decide (u = .nan true) <;> cases decide (v = .nan true) <;> rfl

/-- The conditions of VCMP on integers (R146). -/
def Cond.holds : Cond → Int → Int → Bool
  | .eq, i, j => decide (i = j)
  | .ne, i, j => decide (i ≠ j)
  | .lt, i, j => decide (i < j)
  | .le, i, j => decide (i ≤ j)
  | .un, _, _ => false

/-- A sum of distinct powers of two has the bits of its powers. -/
theorem testBit_foldl_two_pow (p : Nat → Bool) (n : Nat) :
    let x := (List.range n).foldl (fun a i => if p i then a + 2 ^ i else a) 0
    x < 2 ^ n ∧ ∀ j < n, x.testBit j = p j := by
  induction n with
  | zero => simp
  | succ n ih =>
    obtain ⟨hlt, hbit⟩ := ih
    simp only [List.range_succ, List.foldl_append, List.foldl_cons, List.foldl_nil, Nat.pow_succ]
    generalize (List.range n).foldl _ 0 = x at hlt hbit ⊢
    have htop : x.testBit n = false := Nat.testBit_lt_two_pow hlt
    refine ⟨by split <;> omega, fun j hj => ?_⟩
    obtain hjn | rfl : j < n ∨ j = n := by omega
    · split
      · rw [Nat.add_comm, Nat.testBit_two_pow_add_gt hjn, hbit j hjn]
      · exact hbit j hjn
    · split
      next hp => rw [Nat.add_comm, Nat.testBit_two_pow_add_eq, htop, hp]; rfl
      next hp => rw [htop, Bool.not_eq_true _ |>.mp hp]

/-- What VCMP gathers at a lane: its bit where the condition holds, and IV where it raises it, of an active lane (R146). -/
def cmpStep (act cond raises : Nat → Bool) (r : Nat × Flags) (j : Nat) : Nat × Flags :=
  if act j then (if cond j then r.1 + 2 ^ j else r.1, r.2 ||| if raises j then fIV else 0) else r

/-- The bits and the flags are gathered apart. -/
theorem foldl_cmpStep (act cond raises : Nat → Bool) (l : List Nat) :
    l.foldl (cmpStep act cond raises) (0, 0) =
      (l.foldl (fun a j => if act j && cond j then a + 2 ^ j else a) 0,
        l.foldl (fun o j => if act j then o ||| (if raises j then fIV else 0) else o) 0) := by
  refine Prod.ext (List.foldl_hom Prod.fst fun r j => ?_).symm (List.foldl_hom Prod.snd fun r j => ?_).symm
  · rw [cmpStep]
    cases act j <;> cases cond j <;> rfl
  · rw [cmpStep]
    cases act j <;> rfl

/-- One flag that some of the chosen elements raise. -/
theorem foldl_or_flag (m raises : Nat → Bool) (fl : Flags) (l : List Nat) (a : Flags) :
    l.foldl (fun o j => if m j then o ||| (if raises j then fl else 0) else o) a =
      a ||| if l.any (fun j => m j && raises j) then fl else 0 := by
  induction l generalizing a with
  | nil => simp
  | cons j l ih =>
    rw [List.foldl_cons, ih, List.any_cons]
    cases m j <;> cases raises j <;> cases l.any (fun j => m j && raises j) <;> simp [BitVec.or_assoc]

end Sys2Proof

namespace Sys2Proof.Machine

open Sys2Proof

/-- MPOP counts the bits that are set. -/
theorem opPopc_mask (x : BitVec 16) : opPopc 16 x.toNat = ((List.range 16).filter fun j => x.getLsbD j).length := by
  rw [opPopc_eq, List.countP_eq_length_filter]
  simp only [BitVec.getLsbD, Nat.testBit_eq_decide_div_mod_eq]

/-- The condition of integer lanes is that of the integers that the type reads, and raises nothing. -/
theorem laneCond_int {t : VTy} (ht : t.isInt = true) (q : Cond) (a c : Word) :
    let n := vtyWidth t
    let iv (y : Nat) : Int := if vtySigned t then (y : Int) - 2 ^ n * (y / 2 ^ (n - 1) : Nat) else y
    laneCond t q a c = (q.holds (iv (a.toNat % 2 ^ n)) (iv (c.toNat % 2 ^ n)), 0) := by
  have hmod (x : Word) : x.toNat % 2 ^ vtyWidth t < 2 ^ vtyWidth t := Nat.mod_lt _ (Nat.two_pow_pos _)
  cases q <;> simp only [laneCond, ht, if_true, signedOf_eq (vtyWidth_pos t) (hmod _), Cond.holds]

theorem laneCond_float {t : VTy} (ht : t.isInt = false) (q : Cond) (a c : Word) :
    laneCond t q a c = fCmp (vtyFmt t) q (a.toNat % 2 ^ vtyWidth t) (c.toNat % 2 ^ vtyWidth t) := by
  simp [laneCond, ht]

section Quiet

variable {s : State} {k : CoreKey} {b : Fin 2} (hq : Quiet s k b)
include hq

/-- A mask operation writes its mask. -/
theorem issueMask_quiet (d : MReg) (reads : List RegRef) (f : Ctx → BitVec 16) {w : BitVec 16} (hw : f (s.bank k b).ctx = w) :
    issueMask s d reads f = .next (s.ran k b (fun r => r.setM d.val w) none) := by
  subst hw
  rw [issueMask, issueMap_quiet _ _ _ _ _ hq, ran_congr]
  rfl

/-- VCMP sets the bits of the active lanes whose condition holds, and IV where an active lane raises it. -/
theorem issueVcmp_quiet (d : MReg) (a c : VSrc) (m : MReg) (t : VTy) (q : Cond) {cond raises : Nat → Bool}
    (hl : ∀ j, laneCond t q (((s.bank k b).ctx.vec a.val).getD j 0) (((s.bank k b).ctx.vec c.val).getD j 0) =
      (cond j, if raises j then fIV else 0)) :
    ∃ (w : BitVec 16) (fl : Flags),
      issueVcmp s d a c m t q = .next (s.ran k b (fun o => (o.setM d.val w).orFlags fl) none) ∧
      (∀ j, j < 16 → w.getLsbD j = (((s.bank k b).ctx.mask m.val).getLsbD j && cond j)) ∧
      fl = if (List.range 16).any (fun j => ((s.bank k b).ctx.mask m.val).getLsbD j && raises j) then fIV else 0 := by
  let act (j : Nat) : Bool := ((s.bank k b).ctx.mask m.val).getLsbD j
  refine ⟨BitVec.ofNat 16 ((List.range 16).foldl (cmpStep act cond raises) (0, 0)).1, ((List.range 16).foldl (cmpStep act cond raises) (0, 0)).2,
    ?_, fun j hj => ?_, ?_⟩
  · rw [issueVcmp, issueMap_quiet _ _ _ _ _ hq, ran_congr]
    simp only [vget, hl]
    rfl
  · obtain ⟨-, hbit⟩ := testBit_foldl_two_pow (fun j => act j && cond j) 16
    rw [foldl_cmpStep, BitVec.getLsbD_ofNat, hbit j hj, decide_eq_true hj, Bool.true_and]
  · rw [foldl_cmpStep, foldl_or_flag]
    exact BitVec.zero_or

end Quiet

/-- Settles O28: a mask operation writes one mask; a compare is its condition lane by lane, of integers or of `fCmp`. -/
theorem masksAndCompares : Obligations.MasksAndCompares := by
  unfold Obligations.MasksAndCompares
  refine ⟨?_, ?_⟩
  · intro s k b d x y e p hq c gives
    exact ⟨issueMask_quiet hq d _ (fun c => c.mask x.val &&& c.mask y.val) rfl, issueMask_quiet hq d _ (fun c => c.mask x.val ||| c.mask y.val) rfl,
      issueMask_quiet hq d _ (fun c => c.mask x.val ^^^ c.mask y.val) rfl, issueMask_quiet hq d _ (fun c => ~~~(c.mask x.val)) rfl,
      issueDeliver_quiet hq _ e p (fun c => BitVec.ofNat 64 (opPopc 16 (c.mask x.val).toNat)) (congrArg _ (opPopc_mask (c.mask x.val)))⟩
  · intro s k b d m a c t hq x n A C iv U V act nan signal gives
    have compare (q : Cond) {g raises : Nat → Bool}
        (hfloat : ∀ j, fCmp (vtyFmt t) q (A j) (C j) = (g j, if raises j then fIV else 0)) :
        ∃ (w : BitVec 16) (fl : Flags), issueVcmp s d a c m t q = .next (s.ran k b (fun o => (o.setM d.val w).orFlags fl) none) ∧
          (∀ j, j < 16 → w.getLsbD j = (act j && if t.isInt then q.holds (iv (A j)) (iv (C j)) else g j)) ∧
          fl = if !t.isInt && (List.range 16).any (fun j => act j && raises j) then fIV else 0 := by
      cases ht : t.isInt with
      | true =>
        have hint (j : Nat) : laneCond t q ((x.vec a.val).getD j 0) ((x.vec c.val).getD j 0) = (q.holds (iv (A j)) (iv (C j)), 0) :=
          laneCond_int ht q _ _
        simpa using issueVcmp_quiet hq d a c m t q (raises := fun _ => false) hint
      | false => exact issueVcmp_quiet hq d a c m t q fun j => (laneCond_float ht q _ _).trans (hfloat j)
    have hsignal (j : Nat) : (U j).readFlag ||| (V j).readFlag = if signal j then fIV else 0 := readFlag_or_readFlag (U j) (V j)
    refine ⟨compare .eq ?eq, compare .ne ?ne, compare .lt fun _ => rfl, compare .le fun _ => rfl, compare .un ?un⟩
    case eq => exact fun j => Prod.ext (fEq_eq (U j) (V j)) (hsignal j)
    case ne => exact fun j => Prod.ext (not_fEq_eq (U j) (V j)) (hsignal j)
    case un => exact fun j => Prod.ext rfl (hsignal j)

end Sys2Proof.Machine

/-! Lane-wise vector operations (R133, R134, R145, R147, R148, R150). -/

namespace Sys2Proof.Machine

open Sys2Proof

/-- A lane of an integer type: the operation on the patterns, fitted, without flags. -/
theorem laneOp_int {t : VTy} (ht : t.isInt = true) (m : Mode) (fop : Fmt → Mode → Nat → Nat → Nat × Flags) (iop : Nat → Nat → Nat → Nat)
    (a c : Word) : laneOp t m fop iop a c = (vfit t (iop (vtyWidth t) (a.toNat % 2 ^ vtyWidth t) (c.toNat % 2 ^ vtyWidth t)), 0) :=
  if_pos ht

/-- A lane of a floating-point type: the operation of the format, zero-extended, with its flags. -/
theorem laneOp_float {t : VTy} (ht : t.isInt = false) (m : Mode) (fop : Fmt → Mode → Nat → Nat → Nat × Flags)
    (iop : Nat → Nat → Nat → Nat) (a c : Word) : laneOp t m fop iop a c =
      (zext (vtyWidth t) (fop (vtyFmt t) m (a.toNat % 2 ^ vtyWidth t) (c.toNat % 2 ^ vtyWidth t)).1,
        (fop (vtyFmt t) m (a.toNat % 2 ^ vtyWidth t) (c.toNat % 2 ^ vtyWidth t)).2) :=
  if_neg (by rw [ht]; exact Bool.false_ne_true)

theorem opMinn_eq_min (n a c : Nat) : opMinn n a c = min a c := (min_def a c).symm

theorem opMaxn_eq_max (n a c : Nat) : opMaxn n a c = max a c := by rw [opMaxn, max_comm, max_def]

theorem vfit_ite_int {t : VTy} (ht : t.isInt = true) (u v : Nat) : vfit t (if t.isInt then u else v) = vfit t u := by rw [if_pos ht]

theorem vfit_ite_float {t : VTy} (ht : t.isInt = false) (u v : Nat) : vfit t (if t.isInt then u else v) = zext (vtyWidth t) v := by
  cases t with
  | f64 | f32 => rfl
  | s64 | n64 | s32 | n32 => cases ht

/-- A lane number fits every type as it is. -/
theorem vfit_laneNumber (t : VTy) : ∀ j < 16, vfit t j = BitVec.ofNat 64 j := by cases t <;> decide

/-- The pattern of a type in a lane of a source. -/
def Ctx.lanePat (c : Ctx) (v : VSrc) (t : VTy) (j : Nat) : Nat := ((c.vec v.val).getD j 0).toNat % 2 ^ vtyWidth t

/-- The state after a lane-wise operation: the active lanes computed, the others kept, the flags of the active ones ORed (R134, R40). -/
def State.lanesRan (s : State) (k : CoreKey) (b : Fin 2) (d : VReg) (m : MReg) (p : Level) (lane : Nat → Word × Flags) : State :=
  let x := (s.bank k b).ctx
  s.ran k b (fun o =>
    (o.deliverV d p (Vector.ofFn fun j => if (x.mask m.val).getLsbD j.val then (lane j.val).1 else (x.vec d.val)[j])).orFlags
      ((List.range 16).foldl (fun o j => if (x.mask m.val).getLsbD j then o ||| (lane j).2 else o) 0)) none

section Quiet

variable {s : State} {k : CoreKey} {b : Fin 2} (hq : Quiet s k b) (d : VReg) (a c : VSrc) (m : MReg) (t : VTy) (p : Level)
include hq

/-- A vector operation is what it computes for the sixteen lanes. -/
theorem issueVec_lanes (ft : Foot) (f : Ctx → Nat → Word × Flags) {lane : Nat → Word × Flags}
    (hl : ∀ j < 16, f (s.bank k b).ctx j = lane j) : issueVec s ft d m p f = .next (s.lanesRan k b d m p lane) := by
  have hflags : ∀ o : Flags, ∀ j ∈ List.range 16,
      (if ((s.bank k b).ctx.mask m.val).getLsbD j then o ||| (f (s.bank k b).ctx j).2 else o) =
        if ((s.bank k b).ctx.mask m.val).getLsbD j then o ||| (lane j).2 else o := fun o j hj => by rw [hl j (List.mem_range.mp hj)]
  rw [issueVec_quiet hq _ _ _ _ _ rfl, List.foldl_ext _ _ _ hflags]
  simp only [hl _ (Fin.is_lt _), State.lanesRan]

/-- VADD, VSUB, VMUL, VMIN and VMAX of an integer type. -/
theorem issueLaneOp_int (mode : Ctx → Mode) (fop : Fmt → Mode → Nat → Nat → Nat × Flags) (iop : Nat → Nat → Nat → Nat)
    (ht : t.isInt = true) {z : Nat → Nat}
    (hz : ∀ j, iop (vtyWidth t) ((s.bank k b).ctx.lanePat a t j) ((s.bank k b).ctx.lanePat c t j) = z j) :
    issueVec2 s d a c m p (fun o => laneOp t (mode o) fop iop) = .next (s.lanesRan k b d m p fun j => (vfit t (z j), 0)) :=
  issueVec_lanes hq d m p _ _ fun j _ => (laneOp_int ht _ fop iop _ _).trans (congrArg (fun y => (vfit t y, 0)) (hz j))

/-- VADD, VSUB, VMUL, VMIN and VMAX of a floating-point type. -/
theorem issueLaneOp_float (mode : Ctx → Mode) (fop : Fmt → Mode → Nat → Nat → Nat × Flags) (iop : Nat → Nat → Nat → Nat)
    (ht : t.isInt = false) {z : Nat → Nat × Flags}
    (hz : ∀ j, fop (vtyFmt t) (mode (s.bank k b).ctx) ((s.bank k b).ctx.lanePat a t j) ((s.bank k b).ctx.lanePat c t j) = z j) :
    issueVec2 s d a c m p (fun o => laneOp t (mode o) fop iop) =
      .next (s.lanesRan k b d m p fun j => (zext (vtyWidth t) (z j).1, (z j).2)) :=
  issueVec_lanes hq d m p _ _ fun j _ =>
    (laneOp_float ht _ fop iop _ _).trans (congrArg (fun y : Nat × Flags => (zext (vtyWidth t) y.1, y.2)) (hz j))

/-- VAND, VOR, VXOR, VSHL and VSHR. -/
theorem issueLaneInt (iop : Nat → Nat → Nat → Nat) {z : Nat → Nat}
    (hz : ∀ j, iop (vtyWidth t) ((s.bank k b).ctx.lanePat a t j) ((s.bank k b).ctx.lanePat c t j) = z j) :
    issueVec2 s d a c m p (fun _ => laneInt t iop) = .next (s.lanesRan k b d m p fun j => (vfit t (z j), 0)) :=
  issueVec_lanes hq d m p _ _ fun j _ => congrArg (fun y => (vfit t y, 0)) (hz j)

theorem execVabs_int (ht : t.isInt = true) : execVabs d a m t p s =
    .next (s.lanesRan k b d m p fun j => (vfit t (signedOf (vtyWidth t) ((s.bank k b).ctx.lanePat a t j)).natAbs, 0)) :=
  issueVec_lanes hq d m p _ _ fun _ _ => congrArg (·, 0) (vfit_ite_int ht _ _)

theorem execVabs_float (ht : t.isInt = false) : execVabs d a m t p s =
    .next (s.lanesRan k b d m p fun j => (zext (vtyWidth t) ((s.bank k b).ctx.lanePat a t j % 2 ^ (vtyWidth t - 1)), 0)) :=
  issueVec_lanes hq d m p _ _ fun _ _ => congrArg (·, 0) (vfit_ite_float ht _ _)

theorem execVneg_int (ht : t.isInt = true) : execVneg d a m t p s =
    .next (s.lanesRan k b d m p fun j => (vfit t ((2 ^ vtyWidth t - (s.bank k b).ctx.lanePat a t j) % 2 ^ vtyWidth t), 0)) :=
  issueVec_lanes hq d m p _ _ fun _ _ => congrArg (·, 0) ((vfit_ite_int ht _ _).trans (vfit_mod t _).symm)

theorem execVneg_float (ht : t.isInt = false) : execVneg d a m t p s =
    .next (s.lanesRan k b d m p fun j =>
      (zext (vtyWidth t) (((s.bank k b).ctx.lanePat a t j + 2 ^ (vtyWidth t - 1)) % 2 ^ vtyWidth t), 0)) :=
  issueVec_lanes hq d m p _ _ fun _ _ => congrArg (·, 0) (vfit_ite_float ht _ _)

theorem execViota_int (ht : t.isInt = true) : execViota d m t p s = .next (s.lanesRan k b d m p fun j => (vfit t j, 0)) :=
  issueVec_lanes hq d m p _ _ fun j hj => congrArg (·, 0) ((if_pos ht).trans (vfit_laneNumber t j hj).symm)

theorem execViota_float (ht : t.isInt = false) : execViota d m t p s =
    .next (s.lanesRan k b d m p fun j => (zext (vtyWidth t) ((vtyFmt t).deliver .rne (.fin false j 0)).1, 0)) :=
  issueVec_lanes hq d m p _ _ fun _ _ => congrArg (·, 0) (if_neg (Bool.eq_false_iff.mp ht))

/-- VFMA and VFMS. -/
theorem issueVfma_lanes (mode : Mode) (e : VSrc) (f : FTy2) (neg : Bool) : issueVfma s mode d a c e m p f neg =
    .next (s.lanesRan k b d m p fun j =>
      let y := fFma f.fmt mode (low f.fmt (((s.bank k b).ctx.vec a.val).getD j 0)) (low f.fmt (((s.bank k b).ctx.vec c.val).getD j 0))
        (low f.fmt (((s.bank k b).ctx.vec e.val).getD j 0)) neg
      (zext f.fmt.width y.1, y.2)) :=
  issueVec_lanes hq d m p _ _ fun _ _ => rfl

theorem execVbcast_lanes (r : SReg) : execVbcast r d m t p s =
    .next (s.lanesRan k b d m p fun _ => (vfit t ((s.bank k b).ctx.s r.val).toNat, 0)) :=
  issueVec_lanes hq d m p _ _ fun _ _ => rfl

theorem execVshuf_lanes : execVshuf d a c m p s =
    .next (s.lanesRan k b d m p fun j =>
      (let y := (((s.bank k b).ctx.vec c.val).getD j 0).toNat; if y < 16 then ((s.bank k b).ctx.vec a.val).getD y 0 else 0, 0)) :=
  issueVec_lanes hq d m p _ _ fun _ _ => rfl

/-- VSEL chooses in all lanes. -/
theorem execVsel_quiet : execVsel d a c m p s = .next (s.ran k b (fun o => o.deliverV d p (Vector.ofFn fun j =>
      if ((s.bank k b).ctx.mask m.val).getLsbD j.val then ((s.bank k b).ctx.vec a.val)[j] else ((s.bank k b).ctx.vec c.val)[j])) none) := by
  rw [execVsel, issueMap_quiet _ _ _ _ _ hq, ran_congr]
  simp only [vget_lane]

end Quiet

/-- Settles O29: an operation is what it computes for each active lane; the type says whether that is an operation of integers or of the format. -/
theorem vectorResults : Obligations.VectorResults := by
  intro s k b d a c e sr m t f r md p hq x q n act A C fit sg lanes int flt pf
  have hmode : x.mode r = q := by cases r <;> rfl
  have hsg {y : Nat} (hy : y < 2 ^ n) : signedOf n y = sg y := signedOf_eq (vtyWidth_pos t) hy
  have hA (j : Nat) : signedOf n (A j) = sg (A j) := hsg (Nat.mod_lt _ (Nat.two_pow_pos n))
  have hC (j : Nat) : signedOf n (C j) = sg (C j) := hsg (Nat.mod_lt _ (Nat.two_pow_pos n))
  -- The claim on the lanes is read as one on `lanesRan`, whose lanes each lemma gives as a whole.
  have hlanes : lanes = fun i z => exec i s = .next (s.lanesRan k b d m p z) := rfl
  clear_value lanes
  subst hlanes
  have ints (mode : Ctx → Mode) (fop : Fmt → Mode → Nat → Nat → Nat × Flags) (iop : Nat → Nat → Nat → Nat) {z : Nat → Nat}
      (hz : ∀ j, iop n (A j) (C j) = z j) (ht : t.isInt = true) := issueLaneOp_int hq d a c m t p mode fop iop ht hz
  have floats (mode : Ctx → Mode) (fop : Fmt → Mode → Nat → Nat → Nat × Flags) (iop : Nat → Nat → Nat → Nat) {z : Nat → Nat × Flags}
      (hz : ∀ j, fop (vtyFmt t) (mode x) (A j) (C j) = z j) (ht : t.isInt = false) := issueLaneOp_float hq d a c m t p mode fop iop ht hz
  have arith (fop : Fmt → Mode → Nat → Nat → Nat × Flags) (iop : Nat → Nat → Nat → Nat) :=
    And.intro (ints (·.mode r) fop iop fun _ => rfl) (floats (·.mode r) fop iop (z := fun j => fop (vtyFmt t) q (A j) (C j)) fun j => by rw [hmode])
  have patterns (iop : Nat → Nat → Nat → Nat) {z : Nat → Nat} (hz : ∀ j, iop n (A j) (C j) = z j) := issueLaneInt hq d a c m t p iop hz
  refine ⟨(arith fAdd opAdd).1, (arith fAdd opAdd).2, (arith fSub opSub).1, (arith fSub opSub).2, (arith fMul opMul).1, (arith fMul opMul).2,
    ints (fun _ => .rne) _ (if vtySigned t then opMin else opMinn) ?min, ints (fun _ => .rne) _ (if vtySigned t then opMax else opMaxn) ?max,
    floats (fun _ => .rne) (fun f _ => fMinMax f false) _ fun _ => rfl, floats (fun _ => .rne) (fun f _ => fMinMax f true) _ fun _ => rfl,
    patterns opAnd fun _ => rfl, patterns opOr fun _ => rfl, patterns opXor fun _ => rfl, patterns opShl fun _ => rfl,
    patterns (if vtySigned t then opSha else opShr) ?shr, fun ht => (execVabs_int hq d a m t p ht).trans ?abs, execVabs_float hq d a m t p,
    execVneg_int hq d a m t p, execVneg_float hq d a m t p, execViota_int hq d m t p, execViota_float hq d m t p,
    issueVfma_lanes hq d a c m p md e f false, issueVfma_lanes hq d a c m p md e f true, execVbcast_lanes hq d m t p sr,
    execVshuf_lanes hq d a c m p, execVsel_quiet hq d a c m p⟩
  case min =>
    intro j
    rw [← hA, ← hC, ← opMinn_eq_min n]
    cases vtySigned t <;> rfl
  case max =>
    intro j
    rw [← hA, ← hC, ← opMaxn_eq_max n]
    cases vtySigned t <;> rfl
  case shr =>
    intro j
    rw [← hA]
    cases vtySigned t <;> rfl
  case abs =>
    simp only [← hA]
    rfl

end Sys2Proof.Machine

/-! The accesses of a strand: what its checks leave of its loads and stores (R163 to R169). -/

namespace Sys2Proof.Machine

open Sys2Proof

/-! The checks of the issuing core (R163). -/

theorem issueChecks_unplaced {s : State} {v : View} {p n : Nat} (w : Nat) (h : s.place v.core p n = none) :
    s.issueChecks v p n w = .error (.trap .addrWindow 0) := by
  simp only [State.issueChecks, h]

theorem issueChecks_misaligned {s : State} {v : View} {p n w : Nat} (h : (s.place v.core p n).isSome = true) (hw : p % w ≠ 0) :
    s.issueChecks v p n w = .error (.trap .align 0) := by
  obtain ⟨pl, hpl⟩ := Option.isSome_iff_exists.1 h
  have hdemand : demand (p % w == 0) .align 0 = .error (.trap .align 0) := by simp [demand, hw]
  simp only [State.issueChecks, hpl, hdemand]
  rfl

/-! An act that completes: its memory and registers. -/

theorem SameBut.bank {s t : State} (h : SameBut s t) (k : CoreKey) (b : Fin 2) : t.bank k b = s.bank k b := by
  simp only [State.bank, State.core, h.cores]

/-- A trap of the instruction that issues changes no register but the trap block. -/
theorem raise_ctx (s : State) (k : CoreKey) (b : Fin 2) (r : TrapRec) :
    ∃ tb, ((s.raise k b r).bank k b).ctx = { (s.bank k b).ctx with tb := tb } := by
  unfold State.raise State.enterTrap
  extract_lets
  split
  · split
    · exact ⟨_, by rw [skidPc_bank, bank_setBank_same]; rfl⟩
    · split <;> exact ⟨_, by rw [skidPc_bank, bank_setBank_same]; rfl⟩
  · exact ⟨_, by rw [bank_setBank_same]⟩

theorem complete_watch (s : State) (k : CoreKey) (b : Fin 2) (goto : Option Word) (t : Trap) : s.complete k b goto (some t) =
    (s.complete k b goto none).raise k b ((s.bank k b).trapRec ((s.bank k b).nIssued + 1) t) := rfl

theorem apply_done_mem (s t : State) (k : CoreKey) (b : Fin 2) (goto : Option Word) (w : Option Trap) :
    (s.apply k b (.done t goto w)).mem = t.mem := by
  rw [State.apply, skidStart_mem]
  cases w with
  | none => exact complete_mem _ _ _ _
  | some t => rw [complete_watch, (trapFrame_raise _ _ _ _).mem, complete_mem]

/-- An instruction that completes leaves its registers as its body does, but for the trap block, which a WATCH trap writes. -/
theorem apply_done_regs (s t : State) (k : CoreKey) (b : Fin 2) (goto : Option Word) (w : Option Trap) :
    ∃ tb, ((s.apply k b (.done t goto w)).bank k b).ctx = { (t.bank k b).ctx with tb := tb } := by
  rw [State.apply, (accessFrame_skidStart _ _ _).bank]
  cases w with
  | none => exact ⟨_, by rw [complete_bank, advance_ctx]⟩
  | some x =>
    obtain ⟨tb, htb⟩ := raise_ctx (t.complete k b goto none) k b ((t.bank k b).trapRec ((t.bank k b).nIssued + 1) x)
    exact ⟨tb, by rw [complete_watch, htb, complete_bank, advance_ctx]⟩

/-! Scalar loads (R166). -/

section

variable {s : State} {k : CoreKey} {b : Fin 2} (d : DReg) {p : Word} {n : Nat} (signed : Bool)

/-- A load that a check of the issuing core stops. -/
theorem loadAct_stopped {st : Stop} (f : Foot) (h : La) (hc : s.issueChecks (s.view k b) p.toNat n n = .error st) :
    loadAct s k b f h p n d signed = st.act p := by
  simp only [loadAct, State.strandRead, hc]

variable {pl : Place} {ps : List (Nat × Nat)} (hc : s.issueChecks (s.view k b) p.toNat n n = .ok pl) (hfar : pl.isFar = false)
  (ht : s.targetChecks (s.view k b) pl n .read = .ok ps)
include hc hfar ht

theorem strandRead_here : s.strandRead (s.view k b) p.toNat n n .read =
    .made pl ps (s.load ps) (s.served (s.view k b) p.toNat pl n .read).1 (s.served (s.view k b) p.toNat pl n .read).2 := by
  simp only [State.strandRead, hc, ht]
  cases pl with
  | far pkg va => cases hfar
  | spad | sram | virt => rfl

/-- A load whose checks pass here, with nothing that it waits for. -/
theorem loadAct_here (f : Foot) (h : La) (hbusy : s.farBusy k (s.bank k b) pl n = false)
    (hroom : s.landFull (landingFor k pl n ++ (s.crossings (dieOf k) ps p 0 n).map Crossing.landing) = false) :
    loadAct s k b f h p n d signed = .done ((s.served (s.view k b) p.toNat pl n .read).1.setBank k b
      (((s.served (s.view k b) p.toNat pl n .read).1.bank k b).push { (s.bank k b).pendingOf f h with
        safe := false, ptr := p, spans := [(p.toNat, n)], late := (s.served (s.view k b) p.toNat pl n .read).2
        writes := [.s d (if signed then sext (8 * n) (leNat (s.load ps)) else zext (8 * n) (leNat (s.load ps)))]
        land := landingFor k pl n, links := s.crossings (dieOf k) ps p 0 n })) none none := by
  simp only [loadAct, strandRead_here hc hfar ht, hbusy, hroom, Bool.or_self, Bool.false_eq_true, if_false]

end

theorem issueLoad_quiet {s : State} {k : CoreKey} {b : Fin 2} {d : DReg} {w : WReg} {o : BitVec 7} {h : La} {n : Nat} {signed : Bool}
    {a : Act} (hq : Quiet s k b)
    (ha : loadAct s k b (footL (rS w.val) (rS d.val)) h (ldPointer (s.bank k b).ctx w o n) n d signed = a) :
    issueLoad s d w o h n signed = .next (s.apply k b a) := by
  rw [← ha]
  exact issue_quiet _ _ _ _ _ hq

/-- Settles O15: `loadAct_here` at each root's size and sign. -/
theorem loadResults : Obligations.LoadResults := by
  unfold Obligations.LoadResults
  intro s k b d w o h hq v gives
  have hload (i : Instr) (n : Nat) (signed : Bool) (hi : exec i s = issueLoad s d w o h n signed) : gives i n signed := by
    intro pl ps hc hfar ht r x q links hbusy hroom
    exact hi.trans (issueLoad_quiet hq (loadAct_here d signed hc hfar ht _ h hbusy hroom))
  exact ⟨hload _ 1 true rfl, hload _ 1 false rfl, hload _ 2 true rfl, hload _ 2 false rfl, hload _ 4 true rfl, hload _ 4 false rfl,
    hload _ 8 false rfl⟩

/-! Stores (R164, R167, R169). -/

/-- A lane of a store into a scratchpad made, with the WATCH trap of the first lane that hits one (R257). -/
def ownLane (v : View) (a : State × Option Trap) (e : (Word × List Byte) × Place) : State × Option Trap :=
  match e.2 with
  | .spad j off =>
    let t := a.1.served v e.1.1.toNat e.2 e.1.2.length .write
    (t.1.store [(spadBase j + off, e.1.2.length)] e.1.2, match a.2 with | some x => some x | none => t.2)
  | _ => a

theorem storeChecks_ok {s : State} {v : View} {lanes : List (Word × List Byte)} {pl : Word × List Byte → Place}
    (h : ∀ q ∈ lanes, s.issueChecks v q.1.toNat q.2.length q.2.length = .ok (pl q)) :
    storeAct.checks s v lanes = .ok (lanes.map pl) := by
  induction lanes with
  | nil => rfl
  | cons q lanes ih =>
    obtain ⟨p, bs⟩ := q
    have hhead := h (p, bs) List.mem_cons_self
    have htail := ih fun q hq => h q (List.mem_cons_of_mem _ hq)
    simp only at hhead
    simp only [storeAct.checks, hhead, htail, List.map_cons]

section

variable {s : State} {k : CoreKey} {b : Fin 2}

/-- A store of one lane that a check of the issuing core stops. -/
theorem storeAct_stopped {p : Word} {bs : List Byte} {st : Stop}
    (hc : s.issueChecks (s.view k b) p.toNat bs.length bs.length = .error st) : storeAct s k b [(p, bs)] = st.act p := by
  simp only [storeAct, storeAct.checks, hc]

variable {lanes : List (Word × List Byte)} {pl : Word × List Byte → Place}
  (hc : ∀ q ∈ lanes, s.issueChecks (s.view k b) q.1.toNat q.2.length q.2.length = .ok (pl q))
include hc

/-- A store one of whose lanes is ordered after what is out waits (R195). -/
theorem storeAct_busy (hbusy : ∃ q ∈ lanes, s.farBusy k (s.bank k b) (pl q) q.2.length = true) : storeAct s k b lanes = .wait := by
  have hany : ((lanes.map fun q => (q, pl q)).any fun e => s.farBusy k (s.bank k b) e.2 e.1.2.length) = true := by
    simpa using hbusy
  rw [List.map_prod_left_eq_zip] at hany
  simp only [storeAct, storeChecks_ok hc, hany, if_true]

variable (hfree : ∀ q ∈ lanes, s.farBusy k (s.bank k b) (pl q) q.2.length = false)
include hfree

/-- A store into the own scratchpad is made at once. -/
theorem storeAct_own (hown : ∀ q ∈ lanes, (pl q).inCore k = true) : storeAct s k b lanes =
    .done ((lanes.map fun q => (q, pl q)).foldl (ownLane (s.view k b)) (s, none)).1 none
      ((lanes.map fun q => (q, pl q)).foldl (ownLane (s.view k b)) (s, none)).2 := by
  have hany : ((lanes.map fun q => (q, pl q)).any fun e => s.farBusy k (s.bank k b) e.2 e.1.2.length) = false := by
    simpa using hfree
  have hall : ((lanes.map pl).all fun x => x.inCore k) = true := by simpa using hown
  rw [List.map_prod_left_eq_zip] at hany ⊢
  simp only [storeAct, storeChecks_ok hc, hany, hall, if_true, Bool.false_eq_true, if_false]
  rfl

/-- A store with a lane elsewhere holds the strand until it is accepted. -/
theorem storeAct_held (haway : ∃ q ∈ lanes, (pl q).inCore k = false) (hroom : s.landFull (lanes.flatMap fun l => s.storeLanding k l) = false) :
    storeAct s k b lanes = .done (s.setBank k b { s.bank k b with
      store := some ⟨(s.bank k b).nIssued + 1, (s.bank k b).curPc, lanes, none, s.groupId (s.bank k b).id.spid, [], false,
        (s.bank k b).replay.map fun r => (r.todo.headD 0, r)⟩ }) none none := by
  have hany : ((lanes.map fun q => (q, pl q)).any fun e => s.farBusy k (s.bank k b) e.2 e.1.2.length) = false := by
    simpa using hfree
  have hall : ((lanes.map pl).all fun x => x.inCore k) = false := by simpa using haway
  rw [List.map_prod_left_eq_zip] at hany
  simp only [storeAct, storeChecks_ok hc, hany, hall, hroom, Bool.false_eq_true, if_false]

end

theorem issueStore_quiet {s : State} {k : CoreKey} {b : Fin 2} {r : SReg} {w : WReg} {o : BitVec 12} {n : Nat} {a : Act} (hq : Quiet s k b)
    (ha : storeAct s k b [(stPointer (s.bank k b).ctx w o n, leBytes n ((s.bank k b).ctx.s r.val).toNat)] = a) :
    issueStore s r w o n = .next (s.apply k b a) := by
  rw [← ha]
  exact issue_quiet _ _ _ _ _ hq

/-- Settles O16: the first two checks of `issueChecks`, for a load and for the one lane of a store. -/
theorem windowAndAlignment : Obligations.WindowAndAlignment := by
  unfold Obligations.WindowAndAlignment
  intro s k b d r w o x h hq stops lp sp
  have hstops (i : Instr) (n : Nat) (p : Word)
      (hi : ∀ c, s.issueChecks (s.view k b) p.toNat n n = .error (.trap c 0) → exec i s = .next (s.trapNow k b ⟨c, p, 0⟩)) :
      stops i n p :=
    ⟨fun hnone => hi _ (issueChecks_unplaced n hnone), fun hsome hmod => hi _ (issueChecks_misaligned hsome hmod)⟩
  have hload (i : Instr) (n : Nat) (signed : Bool) (hi : exec i s = issueLoad s d w o h n signed) : stops i n (lp n) :=
    hstops i n _ fun c hc => hi.trans (issueLoad_quiet hq (loadAct_stopped d signed _ h hc))
  have hstore (i : Instr) (n : Nat) (hi : exec i s = issueStore s r w x n) : stops i n (sp n) :=
    hstops i n _ fun c hc => hi.trans (issueStore_quiet hq (storeAct_stopped (by rw [length_leBytes]; exact hc)))
  exact ⟨hload _ 1 true rfl, hload _ 1 false rfl, hload _ 2 true rfl, hload _ 2 false rfl, hload _ 4 true rfl, hload _ 4 false rfl,
    hload _ 8 false rfl, hstore _ 1 rfl, hstore _ 2 rfl, hstore _ 4 rfl, hstore _ 8 rfl⟩

section

variable {s : State} {k : CoreKey} {b : Fin 2} {p : Word} {bs : List Byte} {n : Nat} {pl : Place} (hlen : bs.length = n)
  (hc : s.issueChecks (s.view k b) p.toNat n n = .ok pl)
include hlen hc

theorem storeOne_busy (hbusy : s.farBusy k (s.bank k b) pl n = true) : storeAct s k b [(p, bs)] = .wait := by
  subst hlen
  exact storeAct_busy (pl := fun _ => pl) (by simpa using hc) (by simpa using hbusy)

variable (hfree : s.farBusy k (s.bank k b) pl n = false)
include hfree

theorem storeOne_own {off : Nat} (hpl : pl = .spad k off) : storeAct s k b [(p, bs)] =
    .done ((s.served (s.view k b) p.toNat pl n .write).1.store [(spadBase k + off, n)] bs) none (s.served (s.view k b) p.toNat pl n .write).2 := by
  subst hlen hpl
  exact storeAct_own (pl := fun _ => .spad k off) (by simpa using hc) (by simpa using hfree) (by simp [Place.inCore])

theorem storeOne_held (haway : pl.inCore k = false) (hrep : (s.bank k b).replay = none)
    (hroom : s.landFull (s.storeLanding k (p, bs)) = false) : storeAct s k b [(p, bs)] =
      .done (s.setBank k b { s.bank k b with
        store := some ⟨(s.bank k b).nIssued + 1, (s.bank k b).curPc, [(p, bs)], none, s.groupId (s.bank k b).id.spid, [], false, none⟩ }) none none := by
  subst hlen
  have hheld := storeAct_held (lanes := [(p, bs)]) (pl := fun _ => pl) (by simpa using hc) (by simpa using hfree) (by simpa using haway) (by simpa using hroom)
  rw [hrep] at hheld
  exact hheld

end

/-- Settles O17: the three cases of a store of one lane. -/
theorem storeResults : Obligations.StoreResults := by
  unfold Obligations.StoreResults
  intro s k b r w o hq x v gives
  have hstore (i : Instr) (n : Nat) (hi : exec i s = issueStore s r w o n) : gives i n := by
    have hlen : (leBytes n (x.ctx.s r.val).toNat).length = n := length_leBytes _ _
    refine ⟨fun off hc hfree => ?_, fun pl hc hpl hfree hroom => ?_, fun pl hc hbusy => ?_⟩
    · exact hi.trans (issueStore_quiet hq (storeOne_own hlen hc hfree rfl))
    · have haway : pl.inCore k = false := by
        cases pl with
        | spad j off => simpa [Place.inCore] using fun hj => hpl off (by rw [hj])
        | sram | virt | far => rfl
      exact hi.trans ((issueStore_quiet hq (storeOne_held hlen hc hfree haway (quiet_replay hq) hroom)).trans (congrArg _ (apply_done none rfl)))
    · exact hi.trans (issueStore_quiet hq (storeOne_busy hlen hc hbusy))
  exact ⟨hstore _ 1 rfl, hstore _ 2 rfl, hstore _ 4 rfl, hstore _ 8 rfl⟩

/-! The frame of a store into the own scratchpad. -/

theorem ownLane_spad (v : View) (a : State × Option Trap) (q : Word × List Byte) (j : CoreKey) (off : Nat) :
    AccessFrame a.1 (ownLane v a (q, .spad j off)).1 ∧ (ownLane v a (q, .spad j off)).1.mem = putBytes a.1.mem (spadBase j + off) q.2 := by
  refine ⟨(accessFrame_served _ _ _ _ _ _).trans (accessFrame_store _ _ _), ?_⟩
  simp only [ownLane, store_one_mem, served_mem]

/-- Lanes made in a scratchpad leave the banks as they were, and write their bytes in ascending order. -/
theorem ownLanes_frame (v : View) (j : CoreKey) (off : Word → Nat) (lanes : List (Word × List Byte)) (a : State × Option Trap) :
    AccessFrame a.1 ((lanes.map fun q => (q, Place.spad j (off q.1))).foldl (ownLane v) a).1 ∧
    ((lanes.map fun q => (q, Place.spad j (off q.1))).foldl (ownLane v) a).1.mem =
      lanes.foldl (fun m q => putBytes m (spadBase j + off q.1) q.2) a.1.mem := by
  induction lanes generalizing a with
  | nil => exact ⟨.refl, rfl⟩
  | cons q lanes ih =>
    obtain ⟨hframe, hmem⟩ := ownLane_spad v a q j (off q.1)
    obtain ⟨hframes, hmems⟩ := ih (ownLane v a (q, .spad j (off q.1)))
    rw [List.map_cons, List.foldl_cons, List.foldl_cons]
    exact ⟨hframe.trans hframes, by rw [hmems, hmem]⟩

/-- A store into the own scratchpad completes with the banks as they were and its bytes in memory. -/
theorem storeAct_own_frame {s : State} {k : CoreKey} {b : Fin 2} {lanes : List (Word × List Byte)} (off : Word → Nat)
    (h : ∀ q ∈ lanes, s.issueChecks (s.view k b) q.1.toNat q.2.length q.2.length = .ok (.spad k (off q.1)) ∧
      s.farBusy k (s.bank k b) (.spad k (off q.1)) q.2.length = false) :
    ∃ u w, storeAct s k b lanes = .done u none w ∧ AccessFrame s u ∧
      u.mem = lanes.foldl (fun m q => putBytes m (spadBase k + off q.1) q.2) s.mem := by
  have hown : ∀ q ∈ lanes, (Place.spad k (off q.1)).inCore k = true := fun _ _ => by simp [Place.inCore]
  exact ⟨_, _, storeAct_own (fun q hq => (h q hq).1) (fun q hq => (h q hq).2) hown, ownLanes_frame (s.view k b) k off lanes (s, none)⟩

/-- Every byte outside a list of writes reads as before. -/
theorem getByte_foldl_putBytes_outside {α : Type} (loc : α → Nat) (bs : α → List Byte) (l : List α) (m : List Host.Cell) (e : Nat)
    (h : ∀ q ∈ l, e < loc q ∨ loc q + (bs q).length ≤ e) :
    getByte (l.foldl (fun m q => putBytes m (loc q) (bs q)) m) e = getByte m e := by
  induction l generalizing m with
  | nil => rfl
  | cons q l ih =>
    rw [List.foldl_cons, ih _ fun x hx => h x (List.mem_cons_of_mem _ hx)]
    exact getByte_putBytes_outside _ _ _ _ (h q List.mem_cons_self)

/-- Settles O19: each of the six stores issues as `storeAct` of its lanes, all of them in the own scratchpad. -/
theorem storeFrame : Obligations.StoreFrame := by
  unfold Obligations.StoreFrame
  intro s k b i lanes r y z e w o x m off hq c bytes act hi hlanes
  obtain ⟨u, watch, hact, hframe, hmem⟩ := storeAct_own_frame off hlanes
  have hstep : exec i s = .next (s.apply k b (.done u none watch)) := by
    rw [← hact]
    rcases hi with ⟨rfl, rfl⟩ | ⟨rfl, rfl⟩ | ⟨rfl, rfl⟩ | ⟨rfl, rfl⟩ | ⟨rfl, rfl⟩ | ⟨rfl, rfl⟩
    · exact (issueStore_quiet hq rfl : execStB r w o s = _)
    · exact (issueStore_quiet hq rfl : execStH r w o s = _)
    · exact (issueStore_quiet hq rfl : execStW r w o s = _)
    · exact (issueStore_quiet hq rfl : execStD r w o s = _)
    · exact (issue_quiet _ _ _ _ _ hq : execVst y e w x m s = _)
    · exact (issue_quiet _ _ _ _ _ hq : execVstx y e w z m s = _)
  have hmem' := (apply_done_mem s u k b none watch).trans hmem
  obtain ⟨tb, hregs⟩ := apply_done_regs s u k b none watch
  refine ⟨_, hstep, hmem', fun a ha => ?_, ?_⟩
  · rw [hmem']
    exact getByte_foldl_putBytes_outside _ _ _ _ _ fun q hqm => ha _ (List.mem_map_of_mem hqm)
  · rw [hregs, hframe.bank]

end Sys2Proof.Machine

/-! The acceptance of stores, atomics, FENCE and the write-back (R164, R171, R175, R207). -/

namespace Sys2Proof.Machine

open Sys2Proof

/-! The acceptance of a store of one lane in this package (R164). -/

section

variable {s : State} {k : CoreKey} {b : Fin 2} {h : StoreHeld} {p : Word} {bs : List Byte} {pl : Place}
  (hl : h.lanes = [(p, bs)]) (hpl : s.place k p.toNat bs.length = some pl)
include hl hpl

theorem lanesAway_here (hfar : pl.isFar = false) : s.lanesAway k h = [] := by
  cases pl with
  | far pkg va => cases hfar
  | spad | sram | virt => simp only [State.lanesAway, hl, List.zipIdx_cons, List.zipIdx_nil, List.filterMap_cons, hpl, List.filterMap_nil]

theorem acceptLanes_error {st : Stop} (ht : s.targetChecks (s.view k b) pl bs.length .write = .error st) :
    s.acceptLanes (s.view k b) h.lanes none = .error (p, st) := by
  have hplace : s.place (s.view k b).core p.toNat bs.length = some pl := hpl
  simp only [State.acceptLanes, State.acceptLanes.go, hl, hplace, ht]

theorem acceptLanes_ok {ps : List (Nat × Nat)} (ht : s.targetChecks (s.view k b) pl bs.length .write = .ok ps) :
    s.acceptLanes (s.view k b) h.lanes none = .ok [(p, bs, pl, ps)] := by
  have hplace : s.place (s.view k b).core p.toNat bs.length = some pl := hpl
  simp only [State.acceptLanes, State.acceptLanes.go, hl, hplace, ht]

end

/-- The one lane of a store made. -/
theorem storeLanes_one (s : State) (v : View) (p : Word) (bs : List Byte) (pl : Place) (ps : List (Nat × Nat)) :
    storeLanes s v [(p, bs, pl, ps)] =
      ((s.served v p.toNat pl bs.length .write).1.store ps bs, (s.served v p.toNat pl bs.length .write).2) := by
  simp only [storeLanes]
  cases (s.served v p.toNat pl bs.length .write).2 <;> rfl

/-- A held store of which no lane lies in another package is accepted here. -/
theorem exec_storeAcceptance_here {s : State} {k : CoreKey} {b : Fin 2} {h : StoreHeld} (hs : (s.bank k b).store = some h) (hd : h.det = none)
    (haway : s.lanesAway k h = []) : exec (.storeAcceptance k b none) s = .next (s.acceptHere k b h none fun ls =>
      (storeLanes s (s.view k b) ls).1.unhold k b h (storeLanes s (s.view k b) ls).2) := by
  change execStoreAcceptance k b none s = _
  simp only [execStoreAcceptance, hs, State.acceptStep, hd, haway, List.isEmpty_nil, if_true]

/-- Settles O18: the acceptance of one lane is its check away from the core. -/
theorem storeIsAccepted : Obligations.StoreIsAccepted := by
  unfold Obligations.StoreIsAccepted
  intro s k b h p bs pl v hs hd hl hpl hfar
  have hexec := exec_storeAcceptance_here hs hd (lanesAway_here hl hpl hfar)
  refine ⟨fun ps ht => ?_, fun c e ht => ?_⟩
  · rw [hexec, State.acceptHere, acceptLanes_ok hl hpl ht]
    simp only [storeLanes_one]
    rfl
  · rw [hexec, State.acceptHere, acceptLanes_error hl hpl ht]

/-! Atomics (R171). -/

theorem landed_append (l m : List Landing) (d p : Nat) : landed (l ++ m) d p = landed l d p + landed m d p := by
  simp only [landed, List.filter_append, List.map_append, List.sum_append]

/-- Where there is room for some reservations there is room for the first of them. -/
theorem landFull_of_append {s : State} {l m : List Landing} (h : s.landFull (l ++ m) = false) : s.landFull l = false := by
  simp only [State.landFull, List.any_eq_false] at h ⊢
  intro e he
  have hall := h e (List.mem_append_left m he)
  cases hu : portUse e.port with
  | none => simp [hu] at hall
  | some u =>
    simp only [hu, landed_append, decide_eq_true_eq, Nat.not_lt] at hall ⊢
    omega

section

variable {s : State} {k : CoreKey} {b : Fin 2}

/-- With nothing pending, a release waits for the one-sided operations alone. -/
theorem fenceWaits_quiet (hq : Quiet s k b) (sc : Scope) : s.fenceWaits (s.bank k b) sc = s.opsOut (s.bank k b).id.who sc := by
  simp only [State.fenceWaits, quiet_pend hq, List.any_nil, Bool.false_or]

theorem relWaits_quiet (hq : Quiet s k b) {sc : Scope} (hops : s.opsOut (s.bank k b).id.who sc = false) :
    s.relWaits (s.bank k b) sc = false := by
  rw [State.relWaits, fenceWaits_quiet hq, hops, Bool.and_false]

/-- An atomic whose checks pass here, with nothing that it waits for: it is performed, and its old value is pending. -/
theorem atomicAct_here {p : Word} {n : Nat} {sc : Scope} {pl : Place} {ps : List (Nat × Nat)} (f : Foot) (h : La) (d : DReg) (fl : Bool)
    (op : PacketOp) (g : Nat → Nat × Flags) (hrel : s.relWaits (s.bank k b) sc = false)
    (hc : s.issueChecks (s.view k b) p.toNat n n = .ok pl) (hfar : pl.isFar = false)
    (ht : s.targetChecks (s.view k b) pl n .atomic = .ok ps) (hbusy : s.farBusy k (s.bank k b) pl n = false)
    (hroom : s.landFull (landingFor k pl n ++ (s.crossings (dieOf k) ps p n n).map Crossing.landing) = false) :
    let old := leNat (s.load ps)
    let links := s.crossings (dieOf k) ps p n n
    let r := s.served (s.view k b) p.toNat pl n .atomic
    let t := r.1.store ps (leBytes n (g old).1)
    atomicAct s k b f h p n d sc fl op g = .done (t.setBank k b ((t.bank k b).push { (s.bank k b).pendingOf f h with
      safe := false, setsFlags := fl, writes := [.s d (if fl then zext (8 * n) old else sext (8 * n) old)], flags := (g old).2
      late := r.2, acq := sc != .st && !links.isEmpty, ptr := p, spans := [(p.toNat, n)], land := landingFor k pl n, links := links }))
      none none := by
  simp only [atomicAct, hrel, hc, ht, hbusy, hfar, hroom, landFull_of_append hroom, Bool.or_self, Bool.false_eq_true, if_false]

theorem slate22_free (i : Instr) {x : Bank} (k : CoreKey) (h : x.id.slate = false) : slate22 i x k = none := by
  simp [slate22, h]

theorem slate22_slate (i : Instr) {x : Bank} (k : CoreKey) (h : x.id.slate = true) : slate22 i x k = some (illegalAt i 22) := by
  simp [slate22, h]

variable {d : DReg} {c : SReg} {w : WReg} {sc : Scope} {h : La} {a : Act}

/-- The operand of an atomic of n bytes, or the value that it compares with. -/
def Ctx.operand (x : Ctx) (c : Nat) (n : Nat) : Nat := (x.s c).toNat % 2 ^ (8 * n)

theorem issueAtomic_quiet {op : AtomOp} {t : ATy} (hq : Quiet s k b)
    (ha : atomicAct s k b (footL (rS c.val ++ rS w.val ++ (if op = .cas then rS d.val else [])) (rS d.val)) h ((s.bank k b).ctx.s w.val)
      (atyBytes t) d sc false (.atomic op (t == .s64) ((s.bank k b).ctx.s c.val) ((s.bank k b).ctx.s d.val))
      (fun old => (atomEval op (8 * atyBytes t) old ((s.bank k b).ctx.operand c.val (atyBytes t)) ((s.bank k b).ctx.operand d.val (atyBytes t)), 0)) = a) :
    issueAtomic s op d c w t sc h = .next (s.apply k b a) := by
  rw [← ha]
  exact issue_quiet _ _ _ _ _ hq

theorem execAfadd_quiet {t : FTy2} (hq : Quiet s k b) (hslate : (s.bank k b).id.slate = false)
    (ha : atomicAct s k b (footL (rS c.val ++ rS w.val) (rS d.val)) h ((s.bank k b).ctx.s w.val) (fty2Bytes t) d sc true
      (.fadd (t == .f64) ((s.bank k b).ctx.s c.val)) (fun old => fAdd t.fmt .rne old ((s.bank k b).ctx.operand c.val (fty2Bytes t))) = a) :
    execAfadd d c w t sc h s = .next (s.apply k b a) := by
  rw [execAfadd, issueWith_quiet _ _ _ _ _ _ hq (slate22_free _ k hslate)]
  exact congrArg (fun y => Host.Outcome.next (s.apply k b y)) ha

theorem execAfadd_slate (t : FTy2) (hq : Quiet s k b) (hslate : (s.bank k b).id.slate = true) :
    execAfadd d c w t sc h s = .next (s.trapNow k b (illegalAt (.afadd d c w t sc h) 22)) := by
  rw [execAfadd, issueWith_quiet_trap _ _ hq (slate22_slate _ k hslate)]

end

/-- Settles O21: `atomicAct_here` with the new value of each operation. -/
theorem atomicResults : Obligations.AtomicResults := by
  unfold Obligations.AtomicResults
  intro s k b d a w t u sc h hq c v p gives n x cmp sg f
  have hatomic (i : Instr) (op : AtomOp) (hi : exec i s = issueAtomic s op d a w t sc h) :
      gives i n (footL (rS a.val ++ rS w.val ++ (if op = .cas then rS d.val else [])) (rS d.val)) false
        fun old => (atomEval op (8 * n) old x cmp, 0) := by
    intro pl ps hops hc hfar ht links hbusy hroom r old
    exact hi.trans (issueAtomic_quiet hq (atomicAct_here _ h d _ _ _ (relWaits_quiet hq hops) hc hfar ht hbusy hroom))
  have hplain (i : Instr) (op : AtomOp) (hop : op ≠ .cas) (hi : exec i s = issueAtomic s op d a w t sc h) :
      gives i n f false fun old => (atomEval op (8 * n) old x cmp, 0) := by
    have hgives := hatomic i op hi
    rw [if_neg hop, List.append_nil] at hgives
    exact hgives
  have hfadd (hslate : (s.bank k b).id.slate = false) : gives (.afadd d a w u sc h) (fty2Bytes u) f true
      fun old => fAdd u.fmt .rne old ((c.s a.val).toNat % 2 ^ (8 * fty2Bytes u)) := by
    intro pl ps hops hc hfar ht links hbusy hroom r old
    exact execAfadd_quiet hq hslate (atomicAct_here _ h d _ _ _ (relWaits_quiet hq hops) hc hfar ht hbusy hroom)
  exact ⟨hplain (.aadd d a w t sc h) .add nofun rfl, hplain (.amin d a w t sc h) .min nofun rfl, hplain (.amax d a w t sc h) .max nofun rfl,
    hplain (.axchg d a w t sc h) .xchg nofun rfl, hatomic (.acas d a w t sc h) .cas rfl, hfadd, execAfadd_slate u hq⟩

/-! FENCE and the write-back (R175, R207). -/

/-- FENCE waits as its kind says; with nothing pending only an acquire does not wait for the one-sided operations of its scope. -/
theorem execFence_quiet {s : State} {k : CoreKey} {b : Fin 2} (hq : Quiet s k b) (kd : FenceKind) (sc : Scope) : execFence kd sc s =
    .next (if kd ≠ .acq ∧ s.opsOut (s.bank k b).id.who sc = true then s.holdIssue k b else s.ran k b id none) := by
  rw [execFence, issue_quiet _ _ _ _ _ hq]
  simp only [fenceWaits_quiet hq, quiet_pend hq, List.any_nil, Bool.false_or]
  rw [← apply_done_same]
  cases kd <;> cases s.opsOut (s.bank k b).id.who sc <;> rfl

theorem exec_longLatencyWriteback_here {s : State} {k : CoreKey} {b : Fin 2} {n : Nat} {p : Pending} (hp : (s.bank k b).pend[n]? = some p)
    (hfar : p.far = none) : exec (.longLatencyWriteback k b n none) s = .next (s.writesBack k b n p p.writes p.flags p.late) := by
  change execLongLatencyWriteback k b n none s = _
  simp only [execLongLatencyWriteback, hp, hfar]

/-- Settles O22: the fences are the cases of `execFence_quiet`; a write-back with a late trap that is no WATCH writes nothing. -/
theorem fenceAndWriteBack : Obligations.FenceAndWriteBack := by
  unfold Obligations.FenceAndWriteBack
  constructor
  · intro s k b kd sc hq
    rw [show exec (.fence kd sc) s = execFence kd sc s from rfl, execFence_quiet hq]
    refine ⟨fun hgo => congrArg _ (if_neg ?_), fun hkd hops => congrArg _ (if_pos ⟨hkd, hops⟩)⟩
    rintro ⟨hkd, hops⟩
    rcases hgo with hacq | hout
    · exact hkd hacq
    · exact Bool.false_ne_true (hout.symm.trans hops)
  · intro s k b n p hp hfar hslot x
    rw [exec_longLatencyWriteback_here hp hfar]
    refine ⟨fun hlate => ?_, fun t hlate ht => ?_⟩
    · simp [State.writesBack, Bank.writeBack, hslot, hlate, x]
    · have hwatch : (t.cause == .watch) = false := beq_false_of_ne ht
      simp [State.writesBack, Bank.writeBack, hslot, hlate, hwatch, x]

end Sys2Proof.Machine

/-! Vector loads (R165, R169). -/

namespace Sys2Proof.Machine

open Sys2Proof

section

variable {s : State} {v : View} {eb : Nat} {addr : Nat → Word} {pl : Nat → Place} {ps : Nat → List (Nat × Nat)} {act : List Nat}

theorem laneChecks_ok (h : ∀ j ∈ act, s.issueChecks v (addr j).toNat eb eb = .ok (pl j)) :
    laneChecks s v eb (act.map fun j => (j, addr j)) = .ok (act.map fun j => (j, addr j, pl j)) := by
  induction act with
  | nil => rfl
  | cons j act ih =>
    have hhead := h j List.mem_cons_self
    have htail := ih fun i hi => h i (List.mem_cons_of_mem _ hi)
    simp only [List.map_cons, laneChecks, hhead, htail]

theorem laneTargets_ok {a : Acc} (h : ∀ j ∈ act, s.targetChecks v (pl j) eb a = .ok (ps j)) :
    laneTargets s v eb a (act.map fun j => (j, addr j, pl j)) = .ok (act.map fun j => (j, addr j, pl j, ps j)) := by
  induction act with
  | nil => rfl
  | cons j act ih =>
    have hhead := h j List.mem_cons_self
    have htail := ih fun i hi => h i (List.mem_cons_of_mem _ hi)
    simp only [List.map_cons, laneTargets, hhead, htail]

end

theorem load_congr {s t : State} (h : t.mem = s.mem) (ps : List (Nat × Nat)) : t.load ps = s.load ps := by
  simp only [State.load, h]

/-- The bytes of a lane, zero-extended. -/
def State.laneValue (s : State) (eb : Nat) (ps : List (Nat × Nat)) : Word := zext (8 * eb) (leNat (s.load ps))

/-- The lanes read leave memory and the banks as they were, and the vector with their values. -/
theorem readLanes_frame (s : State) (v : View) (eb : Nat) (old : Lanes) (l : List (Nat × Word × Place × List (Nat × Nat))) :
    SameBut s (readLanes s v eb old l).2.1 ∧
      (readLanes s v eb old l).1 = l.foldl (fun y e => y.setIfInBounds e.1 (s.laneValue eb e.2.2.2)) old := by
  induction l generalizing s old with
  | nil => exact ⟨.rfl, rfl⟩
  | cons e l ih =>
    obtain ⟨i, p, pl, ps⟩ := e
    have hserved := sameBut_served s v p.toNat pl eb .read
    obtain ⟨hframe, hlanes⟩ := ih (s.served v p.toNat pl eb .read).1 (old.setIfInBounds i (s.laneValue eb ps))
    refine ⟨hserved.trans hframe, hlanes.trans ?_⟩
    simp only [List.foldl_cons, State.laneValue, load_congr hserved.mem]

/-- Lanes set one after another, each to a value of its own number. -/
theorem getElem_foldl_setIfInBounds (f : Nat → Word) (act : List Nat) (old : Lanes) (j : Fin 16) :
    (act.foldl (fun y i => y.setIfInBounds i (f i)) old)[j] = if j.val ∈ act then f j else old[j] := by
  induction act generalizing old with
  | nil => rfl
  | cons i act ih =>
    have hset : (old.setIfInBounds i (f i))[j] = if j.val = i then f i else old[j] := by
      simp [Vector.getElem_setIfInBounds, eq_comm]
    rw [List.foldl_cons, ih, hset]
    by_cases hj : j.val ∈ act
    · simp [hj]
    · by_cases hi : j.val = i <;> simp [hj, hi]

section

variable {s : State} {k : CoreKey} {b : Fin 2} {d : VReg} {n : Nat} {addr : Nat → Word} {pl : Nat → Place} {ps : Nat → List (Nat × Nat)}
  {act : List Nat}

variable (hc : ∀ j ∈ act, s.issueChecks (s.view k b) (addr j).toNat n n = .ok (pl j)) (hfar : ∀ j ∈ act, (pl j).isFar = false)
  (ht : ∀ j ∈ act, s.targetChecks (s.view k b) (pl j) n .read = .ok (ps j)) (hfree : ∀ j ∈ act, s.farBusy k (s.bank k b) (pl j) n = false)
  (hroom : s.landFull ((act.flatMap fun j => landingFor k (pl j) n) ++
    (act.flatMap fun j => s.crossings (dieOf k) (ps j) (addr j) 0 n).map Crossing.landing) = false)
include hc hfar ht hfree hroom

/-- A vector load whose active lanes all pass their checks here, with nothing that it waits for, leaves what they read pending. -/
theorem vectorLoad_here (f : Foot) (h : La) :
    let r := readLanes s (s.view k b) n ((s.bank k b).ctx.vec d.val) (act.map fun j => (j, addr j, pl j, ps j))
    vectorLoad s k b f h d n (act.map fun j => (j, addr j)) = .done (r.2.1.setBank k b ((r.2.1.bank k b).push
      { (s.bank k b).pendingOf f h with
        safe := false, spans := act.map fun j => ((addr j).toNat, n), land := act.flatMap fun j => landingFor k (pl j) n
        writes := [.v d r.1], late := r.2.2, links := act.flatMap fun j => s.crossings (dieOf k) (ps j) (addr j) 0 n })) none none := by
  have hhere : ((act.map fun j => (j, addr j, pl j, ps j)).filter fun l => !l.2.2.1.isFar) = act.map fun j => (j, addr j, pl j, ps j) := by
    simpa using hfar
  have hnone : ((act.map fun j => (j, addr j, pl j)).filter fun l => l.2.2.isFar) = [] := by simpa using hfar
  have hany : ((act.map fun j => (j, addr j, pl j)).any fun l => s.farBusy k (s.bank k b) l.2.2 n) = false := by simpa using hfree
  simp only [vectorLoad, laneChecks_ok hc, laneTargets_ok ht, hany, hnone, hhere, List.flatMap_map, List.flatMap_nil, List.map_nil,
    List.append_nil, hroom, State.farSends, Bool.false_eq_true, if_false, List.isEmpty_nil, if_true, List.map_map, Option.isSome_none]
  rfl

/-- What is pending writes the lanes' values over those that the vector held. -/
theorem vectorLoad_pends (f : Foot) (h : La) : ∃ u p,
    vectorLoad s k b f h d n (act.map fun j => (j, addr j)) = .done (u.setBank k b ((u.bank k b).push p)) none none ∧ SameBut s u ∧
      p.writes = [.v d (act.foldl (fun y j => y.setIfInBounds j (s.laneValue n (ps j))) ((s.bank k b).ctx.vec d.val))] := by
  obtain ⟨hframe, hlanes⟩ := readLanes_frame s (s.view k b) n ((s.bank k b).ctx.vec d.val) (act.map fun j => (j, addr j, pl j, ps j))
  rw [List.foldl_map] at hlanes
  exact ⟨_, _, vectorLoad_here hc hfar ht hfree hroom f h, hframe, congrArg (fun y => [RegWrite.v d y]) hlanes⟩

end

theorem advance_keeps (x : Bank) (goto : Option Word) : (x.advance goto).pend = x.pend ∧ (x.advance goto).heard = x.heard := by
  unfold Bank.advance
  extract_lets
  split
  · split <;> exact ⟨rfl, rfl⟩
  · split <;> exact ⟨rfl, rfl⟩

theorem apply_done_bank (s t : State) (k : CoreKey) (b : Fin 2) (goto : Option Word) :
    (s.apply k b (.done t goto none)).bank k b = (t.bank k b).advance goto := by
  rw [State.apply, (accessFrame_skidStart _ _ _).bank, complete_bank]

/-- A quiet strand whose instruction is left pending, with the banks and memory as they were. -/
theorem apply_push_quiet {s u : State} {k : CoreKey} {b : Fin 2} (hq : Quiet s k b) (hu : SameBut s u) (p : Pending) :
    let t := s.apply k b (.done (u.setBank k b ((u.bank k b).push p)) none none)
    t.mem = s.mem ∧ (t.bank k b).ctx = (s.bank k b).ctx ∧ (t.bank k b).pend = [p] := by
  refine ⟨(apply_done_mem _ _ _ _ _ _).trans hu.mem, ?_, ?_⟩
  · rw [apply_done_bank, advance_ctx, bank_setBank_same, hu.bank]
    rfl
  · rw [apply_done_bank, (advance_keeps _ _).1, bank_setBank_same, hu.bank, Bank.push, quiet_pend hq]
    rfl

/-- Settles O20: each form is `vectorLoad` at its addresses. -/
theorem vectorLoadResults : Obligations.VectorLoadResults := by
  unfold Obligations.VectorLoadResults
  intro s k b d e w x y z m h hq c n v act gives
  have hload (i : Instr) (addr : Nat → Word) (f : Foot)
      (hi : exec i s = .next (s.apply k b (vectorLoad s k b f h d n (act.map fun j => (j, addr j))))) : gives i addr := by
    intro pl ps hlanes hroom
    obtain ⟨u, p, hact, hframe, hwrites⟩ := vectorLoad_pends (d := d) (fun j hj => (hlanes j hj).1) (fun j hj => (hlanes j hj).2.1)
      (fun j hj => (hlanes j hj).2.2.1) (fun j hj => (hlanes j hj).2.2.2) hroom f h
    rw [hact] at hi
    obtain ⟨hmem, hctx, hpend⟩ := apply_push_quiet hq hframe p
    refine ⟨_, p, _, hi, hmem, hctx, hpend, hwrites, fun j hj => ?_, fun j hj => ?_⟩
    · rw [getElem_foldl_setIfInBounds, if_pos hj]
      rfl
    · rw [getElem_foldl_setIfInBounds, if_neg hj]
  exact ⟨hload (.vld d e w x m h) _ _ (issue_quiet _ _ _ _ _ hq : execVld d e w x m h s = _),
    hload (.vlds d e w y m h) _ _ (issue_quiet _ _ _ _ _ hq : execVlds d e w y m h s = _),
    hload (.vldx d e w z m h) _ _ (issue_quiet _ _ _ _ _ hq : execVldx d e w z m h s = _)⟩

end Sys2Proof.Machine

/-! The offer entries of a strand and the instructions on them (R179, R183, R185, R186). -/

namespace Sys2Proof.Machine

open Sys2Proof

/-! Entries of a strand that stands in its bank. -/

theorem any_toList {α : Type} {n : Nat} (v : Vector α n) (p : α → Bool) : v.toList.any p = true ↔ ∃ i : Fin n, p v[i] = true := by
  simp [Vector.any_eq_true, Fin.exists_iff]

theorem occupied_iff (x : Bank) : x.occupied = true ↔ ∃ y : Fin 8, x.ctx.offers[y].st ≠ 0 := by
  rw [Bank.occupied, any_toList]
  simp

/-- The strand that issues stands in its bank. -/
theorem quiet_bound {s : State} {k : CoreKey} {b : Fin 2} (hq : Quiet s k b) : (s.bank k b).st = .bound := by
  have hruns := quiet_runs hq
  simp only [Bank.runs, Bool.and_eq_true, beq_iff_eq] at hruns
  obtain ⟨⟨⟨⟨⟨⟨hst, -⟩, -⟩, -⟩, -⟩, -⟩, -⟩ := hruns
  exact hst

section

variable {s : State} {k : CoreKey} {b : Fin 2} (hb : (s.bank k b).st = .bound) {p : Offer → Bool}
include hb

/-- The lowest entry for which p holds. -/
theorem findEntry_some {j : Fin 8} (hj : p (s.bank k b).ctx.offers[j] = true) (hlow : ∀ y : Fin 8, y < j → p (s.bank k b).ctx.offers[y] = false) :
    s.findEntry (.bank k b) p = some j.val := by
  rw [State.findEntry, List.find?_range_eq_some]
  refine ⟨by rw [entry_bound hb, hj], List.mem_range.2 j.isLt, fun i hi => ?_⟩
  have hy := hlow ⟨i, by omega⟩ hi
  rw [← entry_bound hb] at hy
  rw [hy]
  rfl

theorem findEntry_none (h : ∀ y : Fin 8, p (s.bank k b).ctx.offers[y] = false) : s.findEntry (.bank k b) p = none := by
  rw [State.findEntry, List.find?_range_eq_none]
  intro i hi
  have hy := h ⟨i, hi⟩
  rw [← entry_bound hb] at hy
  rw [hy]
  rfl

end

/-- The lowest entry in a state (R179). -/
theorem findEntry_st {s : State} {k : CoreKey} {b : Fin 2} (hb : (s.bank k b).st = .bound) {n : Nat} {j : Fin 8}
    (hj : (s.bank k b).ctx.offers[j].st = n) (hlow : ∀ y : Fin 8, y < j → (s.bank k b).ctx.offers[y].st ≠ n) :
    s.findEntry (.bank k b) (fun e => e.st == n) = some j.val :=
  findEntry_some hb (beq_iff_eq.2 hj) fun y hy => by simpa using hlow y hy

theorem findEntry_st_none {s : State} {k : CoreKey} {b : Fin 2} (hb : (s.bank k b).st = .bound) {n : Nat}
    (h : ∀ y : Fin 8, (s.bank k b).ctx.offers[y].st ≠ n) : s.findEntry (.bank k b) (fun e => e.st == n) = none :=
  findEntry_none hb fun y => by simpa using h y

/-- s and t differ at most in their cores. -/
def CoresFrame (s t : State) : Prop := t = { s with cores := t.cores }

theorem CoresFrame.trans {s t u : State} (a : CoresFrame s t) (c : CoresFrame t u) : CoresFrame s u := by
  unfold CoresFrame at *
  rw [c, a]

theorem CoresFrame.mem {s t : State} (a : CoresFrame s t) : t.mem = s.mem := by
  unfold CoresFrame at a
  rw [a]

theorem coresFrame_setBank (s : State) (k : CoreKey) (b : Fin 2) (x : Bank) : CoresFrame s (s.setBank k b x) := rfl

/-- One entry under mapEntries. -/
def State.mapEntry (w : StrandAt) (p : Offer → Bool) (f : Offer → Offer) (s : State) (i : Nat) : State :=
  if p (s.entry w i) then s.setEntry w i (f (s.entry w i)) else s

/-- The entries below n for which p holds mapped by f. -/
def mapOffers (p : Offer → Bool) (f : Offer → Offer) (n : Nat) (v : Vector Offer 8) : Vector Offer 8 :=
  Vector.ofFn fun j => if j.val < n ∧ p v[j] = true then f v[j] else v[j]

theorem mapOffers_zero (p : Offer → Bool) (f : Offer → Offer) (v : Vector Offer 8) : mapOffers p f 0 v = v := by
  apply Vector.ext
  simp [mapOffers]

theorem mapOffers_all (p : Offer → Bool) (f : Offer → Offer) (v : Vector Offer 8) : mapOffers p f 8 v = v.map fun o => if p o then f o else o := by
  apply Vector.ext
  intro i hi
  simp [mapOffers]

theorem mapOffers_same (p : Offer → Bool) (f : Offer → Offer) (v : Vector Offer 8) (n : Fin 8) : (mapOffers p f n.val v)[n] = v[n] := by
  simp [mapOffers]

theorem mapOffers_succ (p : Offer → Bool) (f : Offer → Offer) (v : Vector Offer 8) (n : Fin 8) : mapOffers p f (n.val + 1) v =
    if p v[n] then (mapOffers p f n.val v).setIfInBounds n.val (f v[n]) else mapOffers p f n.val v := by
  apply Vector.ext
  intro i hi
  by_cases hin : i = n.val
  · subst hin
    cases hp : p v[n] <;> simp_all [mapOffers]
  · have hlt : i < n.val + 1 ↔ i < n.val := by omega
    have hget : (mapOffers p f (n.val + 1) v)[i] = (mapOffers p f n.val v)[i] := by simp only [mapOffers, Vector.getElem_ofFn, hlt]
    rw [hget]
    split
    · rw [Vector.getElem_setIfInBounds_ne _ (Ne.symm hin)]
    · rfl

theorem mapEntries_below {s : State} {k : CoreKey} {b : Fin 2} (hb : (s.bank k b).st = .bound) (p : Offer → Bool) (f : Offer → Offer) (n : Nat)
    (hn : n ≤ 8) :
    let t := (List.range n).foldl (State.mapEntry (.bank k b) p f) s
    CoresFrame s t ∧ t.bank k b = { s.bank k b with ctx := { (s.bank k b).ctx with offers := mapOffers p f n (s.bank k b).ctx.offers } } := by
  induction n with
  | zero => exact ⟨rfl, by simp [mapOffers_zero]⟩
  | succ n ih =>
    obtain ⟨hframe, hbank⟩ := ih (by omega)
    rw [List.range_succ, List.foldl_append, List.foldl_cons, List.foldl_nil]
    generalize (List.range n).foldl (State.mapEntry (.bank k b) p f) s = t at hframe hbank ⊢
    have ht : (t.bank k b).st = .bound := by rw [hbank]; exact hb
    have hentry : t.entry (.bank k b) n = (s.bank k b).ctx.offers[n] :=
      (entry_bound ht ⟨n, hn⟩).trans (by rw [hbank]; exact mapOffers_same p f _ ⟨n, hn⟩)
    have hsucc : mapOffers p f (n + 1) (s.bank k b).ctx.offers = _ := mapOffers_succ p f _ ⟨n, hn⟩
    simp only [Fin.getElem_fin] at hsucc
    simp only [State.mapEntry, hentry]
    split
    · next hp =>
      rw [setEntry_bound ht, bank_setBank_same, hbank, hsucc, if_pos hp]
      exact ⟨hframe.trans (coresFrame_setBank _ _ _ _), rfl⟩
    · next hp => exact ⟨hframe, by rw [hbank, hsucc, if_neg hp]⟩

/-- The entries of a bound strand for which p holds become what f says, and nothing else changes. -/
theorem mapEntries_bound {s : State} {k : CoreKey} {b : Fin 2} (hb : (s.bank k b).st = .bound) (p : Offer → Bool) (f : Offer → Offer) :
    CoresFrame s (s.mapEntries (.bank k b) p f) ∧ (s.mapEntries (.bank k b) p f).bank k b =
      { s.bank k b with ctx := { (s.bank k b).ctx with offers := (s.bank k b).ctx.offers.map fun o => if p o then f o else o } } := by
  rw [← mapOffers_all]
  exact mapEntries_below hb p f 8 (Nat.le_refl 8)

/-! What an instruction that ends by writing RD leaves of its strand's bank. -/

theorem apply_finish_bank (s t : State) (k : CoreKey) (b : Fin 2) (d : DReg) (w : Word) :
    (s.apply k b (finish t k b d w none)).bank k b = Bank.advance { t.bank k b with ctx := (t.bank k b).ctx.setS d.val w } none := by
  rw [finish, apply_done_bank, bank_setBank_same]

/-! OFFER (R183). -/

/-- A read made at once leaves memory and the banks as they were. -/
theorem sameBut_readAt {s s1 : State} {v : View} {p n w : Nat} {bs : List Byte} {t : Option Trap} (h : s.readAt v p n w = .ok (bs, s1, t)) :
    SameBut s s1 := by
  obtain ⟨pl, -, h⟩ := chk_bind_ok h
  dsimp only at h
  split at h
  · cases h
  · obtain ⟨ps, -, h⟩ := chk_bind_ok h
    split at h
    · cases h
    · cases h
      exact sameBut_served _ _ _ _ _ _

/-- The read of a descriptor leaves memory and the banks as they were. -/
theorem sameBut_readDescriptor {s s1 : State} {v : View} {p w0 w1 : Word} {w : Option Trap}
    (h : s.readDescriptor v p = .ok (w0, w1, s1, w)) : SameBut s s1 := by
  unfold State.readDescriptor at h
  split at h
  · cases h
  · split at h
    · cases h
    · next hread =>
      cases h
      exact sameBut_readAt hread

/-! CHOOSE and POLL (R185). -/

section

variable {s : State} {k : CoreKey} {b : Fin 2} {d : DReg} (hq : Quiet s k b)
include hq

theorem execChoose_quiet : execChoose d s = .next (s.apply k b (if (s.bank k b).occupied = true
    then chooseEntry s k b d (.hold (s.setBank k b { s.bank k b with wait := some .choose, held := true })) else .trap (illegal0 12))) := by
  rw [execChoose, issue_quiet _ _ _ _ _ hq]
  dsimp only
  cases (s.bank k b).occupied <;> rfl

theorem execPoll_quiet (hslate : (s.bank k b).id.slate = false) : execPoll d s = .next (s.apply k b (if (s.bank k b).occupied = true
    then chooseEntry s k b d (finish s k b d minus1 none) else finish s k b d minus2 none)) := by
  rw [execPoll, issueWith_quiet _ _ _ _ _ _ hq (slate22_free _ k hslate)]
  cases (s.bank k b).occupied <;> rfl

end

section

variable {s : State} {k : CoreKey} {b : Fin 2} (hb : (s.bank k b).st = .bound) (d : DReg) (pending : Act)
include hb

theorem chooseEntry_takes {j : Fin 8} (hj : (s.bank k b).ctx.offers[j].st = 3) (hlow : ∀ y : Fin 8, y < j → (s.bank k b).ctx.offers[y].st ≠ 3) :
    chooseEntry s k b d pending = takeEntry s k b d j.val := by
  simp only [chooseEntry, findEntry_st hb hj hlow]

variable (hnone : ∀ y : Fin 8, (s.bank k b).ctx.offers[y].st ≠ 3)
include hnone

theorem chooseEntry_stale {j : Fin 8} (hj : (s.bank k b).ctx.offers[j].st = 4) (hlow : ∀ y : Fin 8, y < j → (s.bank k b).ctx.offers[y].st ≠ 4) :
    chooseEntry s k b d pending = .trap (evStale (s.bank k b).ctx.offers[j].handle) := by
  simp only [chooseEntry, findEntry_st_none hb hnone, findEntry_st hb hj hlow, entry_bound hb]

theorem chooseEntry_pending (hstale : ∀ y : Fin 8, (s.bank k b).ctx.offers[y].st ≠ 4) : chooseEntry s k b d pending = pending := by
  simp only [chooseEntry, findEntry_st_none hb hnone, findEntry_st_none hb hstale]

end

/-- The bank whose entry j has been taken: its flags joined, the entry empty, and the occurrence noted while deliveries of it are owed. -/
def Bank.taken (x : Bank) (s : State) (j : Fin 8) : Bank :=
  let e := x.ctx.offers[j]
  { x with
    heard := x.heard.filter s.delivers ++ if s.delivers e.handle then [e.handle] else []
    ctx := { x.ctx.orFlags (BitVec.ofNat 6 e.fl) with offers := x.ctx.offers.set j ⟨0, 0⟩ } }

theorem takeEntry_bound {s : State} {k : CoreKey} {b : Fin 2} (hb : (s.bank k b).st = .bound) (d : DReg) (j : Fin 8) :
    takeEntry s k b d j.val = finish (s.setBank k b ((s.bank k b).taken s j)) k b d (BitVec.ofNat 64 j.val) none := by
  simp only [takeEntry, entry_bound hb]
  rw [setEntry_bound (by rw [bank_setBank_same]; exact hb), bank_setBank_same, setBank_setBank, setIfInBounds_fin]
  rfl

theorem mem_heard_taken (x : Bank) (s : State) (j : Fin 8) (y : Nat) : y ∈ (x.taken s j).heard ↔
    (y ∈ x.heard ∨ y = x.ctx.offers[j].handle) ∧ ∃ z ∈ s.deliveries, z.handle = y := by
  have hdel : (∃ z ∈ s.deliveries, z.handle = y) ↔ s.delivers y = true := by simp [State.delivers]
  rw [hdel]
  have hlast : (y ∈ if s.delivers x.ctx.offers[j].handle then [x.ctx.offers[j].handle] else []) ↔
      y = x.ctx.offers[j].handle ∧ s.delivers y = true := by
    split
    · next h => exact List.mem_singleton.trans ⟨fun hy => ⟨hy, hy ▸ h⟩, And.left⟩
    · next h => exact ⟨fun hy => absurd hy List.not_mem_nil, fun ⟨hy, hd⟩ => absurd (hy ▸ hd) h⟩
  simp only [Bank.taken, List.mem_append, List.mem_filter, hlast, ← or_and_right]

/-! OFFER (R183). -/

theorem evPre_known (i : Instr) {e : EvRef} {x : Bank} (k : CoreKey) (h : EvRef.beyond x e = false) : evPre i e x k = none := by
  simp [evPre, h]

/-- The descriptor of an offer: none is read where its register is w0 (R180, R183). -/
def State.offerDescriptor (s : State) (k : CoreKey) (b : Fin 2) (a : SReg) : Except Act (Word × Word × State × Option Trap) :=
  if a.val = 0 then .ok (0, 0, s, none) else s.readDescriptor (s.view k b) ((s.bank k b).ctx.s a.val)

theorem sameBut_offerDescriptor {s s1 : State} {k : CoreKey} {b : Fin 2} {a : SReg} {w0 w1 : Word} {w : Option Trap}
    (h : s.offerDescriptor k b a = .ok (w0, w1, s1, w)) : SameBut s s1 := by
  unfold State.offerDescriptor at h
  split at h
  · cases h
    exact .rfl
  · exact sameBut_readDescriptor h

/-- The lowest empty entry of a vector of offers. -/
theorem findIdx?_empty {v : Vector Offer 8} {j : Fin 8} (hj : v[j].st = 0) (hlow : ∀ y : Fin 8, y < j → v[y].st ≠ 0) :
    v.toList.findIdx? (fun o => o.st == 0) = some j.val := by
  rw [List.findIdx?_eq_some_iff_getElem]
  refine ⟨by simp, by simpa using hj, fun i hi => ?_⟩
  simpa using hlow ⟨i, by omega⟩ hi

section

variable {s : State} {k : CoreKey} {b : Fin 2} {d : DReg} {e : EvRef} {a : SReg} {m : Home} {n : Nat} {w0 w1 : Word} {s1 : State} {j : Fin 8}

/-- OFFER of an event of which the strand is a participant, with a valid payload, fills the lowest empty entry. -/
theorem execOffer_fills (hq : Quiet s k b) (hslate : (s.bank k b).id.slate = false) (hops : s.opsOut (s.bank k b).id.who .dm = false)
    (hknown : EvRef.beyond (s.bank k b) e = false) (hlive : s.live (EvRef.handle (s.bank k b) e) = some (m, n))
    (hmember : (s.bank k b).id.who ∈ (s.slot m n).strands)
    (hj : (s.bank k b).ctx.offers[j].st = 0) (hlow : ∀ y : Fin 8, y < j → (s.bank k b).ctx.offers[y].st ≠ 0)
    (hother : ∀ y : Fin 8, (s.bank k b).ctx.offers[y].st ≠ 2 ∧ (s.bank k b).ctx.offers[y].st ≠ 3 ∧
      ((s.bank k b).ctx.offers[y].st ≠ 0 → (s.bank k b).ctx.offers[y].handle ≠ EvRef.handle (s.bank k b) e))
    (hdesc : s.offerDescriptor k b a = .ok (w0, w1, s1, none)) (hvalid : s1.payloadOk k ⟨w0, w1⟩ = true) :
    execOffer d e a s = .next (s.apply k b (finish (s1.setEntry (.bank k b) j.val
      ⟨BitVec.ofNat 64 (EvRef.handle (s.bank k b) e * 2 ^ 32 + 2 ^ 29) ||| w0, w1⟩) k b d (BitVec.ofNat 64 j.val) none)) := by
  have hall : ((s.bank k b).ctx.offers.toList.all fun o => o.st != 0) = false := by
    rw [List.all_eq_not_any_not, Bool.not_eq_false', any_toList]
    exact ⟨j, by rw [hj]; rfl⟩
  have hany : ((s.bank k b).ctx.offers.toList.any fun o => (o.st != 0 && o.handle == EvRef.handle (s.bank k b) e) || o.st == 2 || o.st == 3) = false := by
    rw [Bool.eq_false_iff, Ne, any_toList]
    rintro ⟨y, hy⟩
    obtain ⟨h2, h3, hhd⟩ := hother y
    simp_all
  have hcontains : (s.slot m n).strands.contains (s.bank k b).id.who = true := List.contains_iff_mem.2 hmember
  unfold State.offerDescriptor at hdesc
  rw [execOffer, issueWith_quiet _ _ _ _ _ _ hq (by simp [evPre_known _ k hknown, hslate])]
  simp only [hlive, relWaits_quiet hq hops, hcontains, hall, hany, hdesc, hvalid, findIdx?_empty hj hlow, Option.getD_some, Bool.not_true,
    Bool.or_self, Bool.false_eq_true, if_false]

end

/-! WITHDRAW (R186). -/

/-- What WITHDRAW gives: the index of the entry that is committed or occurred, or −1. -/
def State.takenIndex (s : State) (k : CoreKey) (b : Fin 2) : Word :=
  (s.findEntry (.bank k b) fun e => e.st == 2 || e.st == 3).elim minus1 (BitVec.ofNat 64)

theorem execWithdraw_quiet {s : State} {k : CoreKey} {b : Fin 2} (hq : Quiet s k b) (d : DReg) :
    execWithdraw d s = .next (s.apply k b (finish (s.withdraw (.bank k b)) k b d (s.takenIndex k b) none)) := by
  rw [execWithdraw, issue_quiet _ _ _ _ _ hq, State.takenIndex]
  dsimp only
  cases s.findEntry (.bank k b) fun e => e.st == 2 || e.st == 3 <;> rfl

section

variable {s : State} {k : CoreKey} {b : Fin 2} (hb : (s.bank k b).st = .bound)
include hb

theorem takenIndex_none (h : ∀ y : Fin 8, (s.bank k b).ctx.offers[y].st ≠ 2 ∧ (s.bank k b).ctx.offers[y].st ≠ 3) : s.takenIndex k b = minus1 := by
  rw [State.takenIndex, findEntry_none hb fun y => by simpa using h y]
  rfl

theorem takenIndex_some {j : Fin 8} (hj : (s.bank k b).ctx.offers[j].st = 2 ∨ (s.bank k b).ctx.offers[j].st = 3)
    (hlow : ∀ y : Fin 8, y < j → (s.bank k b).ctx.offers[y].st ≠ 2 ∧ (s.bank k b).ctx.offers[y].st ≠ 3) :
    s.takenIndex k b = BitVec.ofNat 64 j.val := by
  rw [State.takenIndex, findEntry_some hb (j := j) (by simpa using hj) fun y hy => by simpa using hlow y hy]
  rfl

end

/-! The strand after each of them. -/

/-- CHOOSE that blocks: no skid record but that of the instruction that blocks (R321). -/
theorem apply_choose_blocks (s : State) (k : CoreKey) (b : Fin 2) (x : Bank) :
    s.apply k b (.hold (s.setBank k b x)) = (s.setBank k b x).skidBlocks s k b := by
  refine skidStart_same _ _ _ ?_
  unfold State.skidBlocks
  split
  · rw [skidDone_verm, clu_setBank]
  · rfl

/-- What is left of the package when the entry that has occurred is taken. -/
theorem apply_takeEntry {s : State} {k : CoreKey} {b : Fin 2} (hq : Quiet s k b) (d : DReg) (j : Fin 8) :
    let t := s.apply k b (takeEntry s k b d j.val)
    let x := (s.bank k b).taken s j
    t.mem = s.mem ∧ (t.bank k b).pc = (s.bank k b).pc + 4 ∧ (t.bank k b).heard = x.heard ∧
      (t.bank k b).ctx = x.ctx.setS d.val (BitVec.ofNat 64 j.val) := by
  rw [takeEntry_bound (quiet_bound hq)]
  dsimp only
  rw [apply_finish_bank, bank_setBank_same]
  exact ⟨(apply_finish _ _ _ _ _ _).1, advance_pc (quiet_replay hq), (advance_keeps _ _).2, advance_ctx _ _⟩

/-- Settles O33: the entry that OFFER fills, and the case of CHOOSE, POLL and WITHDRAW, is that of the lowest entry in a state. -/
theorem offersAndChoices : Obligations.OffersAndChoices := by
  unfold Obligations.OffersAndChoices
  intro s k b d e a j hq x c st hd ev takes gives blocks hslate
  have hb := quiet_bound hq
  have hocc (y : Fin 8) (hy : st y ≠ 0) : (s.bank k b).occupied = true := (occupied_iff _).2 ⟨y, hy⟩
  have hchoose (y : Fin 8) (hy : st y ≠ 0) : execChoose d s = .next (s.apply k b (chooseEntry s k b d
      (.hold (s.setBank k b { s.bank k b with wait := some .choose, held := true })))) := by
    rw [execChoose_quiet hq, if_pos (hocc y hy)]
  have hpoll (y : Fin 8) (hy : st y ≠ 0) : execPoll d s = .next (s.apply k b (chooseEntry s k b d (finish s k b d minus1 none))) := by
    rw [execPoll_quiet hq hslate, if_pos (hocc y hy)]
  refine ⟨fun m n w0 w1 s1 hops hknown hlive hmember hj hlow hother hdesc hvalid => ?_, fun hj hlow => ?_, fun hj hnone hlow => ?_,
    fun hj hnone => ?_, fun hempty => ?_, ?_⟩
  · have hsame : SameBut s s1 := sameBut_offerDescriptor (a := a) hdesc
    have hbank : s1.bank k b = s.bank k b := hsame.bank k b
    obtain ⟨hmem, hctx, -⟩ := apply_finish s (s1.setEntry (.bank k b) j.val ⟨BitVec.ofNat 64 (ev * 2 ^ 32 + 2 ^ 29) ||| w0, w1⟩) k b d
      (BitVec.ofNat 64 j.val)
    rw [setEntry_bound (by rw [hbank]; exact hb), hbank, setIfInBounds_fin] at hmem hctx
    rw [bank_setBank_same] at hctx
    have hexec := execOffer_fills (d := d) hq hslate hops hknown hlive hmember hj hlow hother hdesc hvalid
    rw [setEntry_bound (by rw [hbank]; exact hb), hbank, setIfInBounds_fin] at hexec
    exact ⟨_, hexec, hmem.trans hsame.mem, hctx⟩
  · have htake (i : Instr) (pending : Act) (hi : exec i s = .next (s.apply k b (chooseEntry s k b d pending))) : takes i := by
      rw [chooseEntry_takes hb d pending hj hlow] at hi
      obtain ⟨hmem, hpc, hheard, hctx⟩ := apply_takeEntry hq d j
      exact ⟨_, hi, hmem, hpc, fun y => by rw [hheard]; exact mem_heard_taken _ _ _ _, hctx⟩
    have hne : st j ≠ 0 := by rw [hj]; decide
    exact ⟨htake (.choose d) _ (hchoose j hne), htake (.poll d) _ (hpoll j hne)⟩
  · have hne : st j ≠ 0 := by rw [hj]; decide
    have hstale (pending : Act) := chooseEntry_stale hb d pending hnone hj hlow
    exact ⟨(hchoose j hne).trans (by rw [hstale]; rfl), (hpoll j hne).trans (by rw [hstale]; rfl)⟩
  · have hpending (pending : Act) := chooseEntry_pending hb d pending (fun y => (hnone y).1) fun y => (hnone y).2
    refine ⟨(hpoll j hj).trans ?_, (hchoose j hj).trans ?_⟩
    · rw [hpending, apply_finish_same]
      rfl
    · rw [hpending, apply_choose_blocks]
  · have hidle : ¬(s.bank k b).occupied = true := by
      rw [occupied_iff]
      rintro ⟨y, hy⟩
      exact hy (hempty y)
    have hp := execPoll_quiet (d := d) hq hslate
    have hc := execChoose_quiet (d := d) hq
    rw [if_neg hidle] at hp hc
    rw [apply_finish_same] at hp
    exact ⟨hp, hc⟩
  · obtain ⟨hframe, hbank⟩ := mapEntries_bound hb (fun o => o.st == 1 || o.st == 4) fun _ => Offer.empty
    obtain ⟨hmem, hctx, -⟩ := apply_finish s (s.withdraw (.bank k b)) k b d (s.takenIndex k b)
    refine ⟨s.takenIndex k b, _, execWithdraw_quiet hq d, hmem.trans hframe.mem, ?_, takenIndex_none hb, takenIndex_some hb⟩
    rw [hctx, State.withdraw, hbank]
    simp only [Bool.or_eq_true, beq_iff_eq]
    rfl

end Sys2Proof.Machine

/-! The participants of an event (R187, R188). -/

namespace Sys2Proof.Machine

open Sys2Proof

/-! The home of a live event, and its slots under what a step of a strand changes. -/

theorem present_of_homeOf {s : State} {h : Nat} {m : Home} (hm : s.homeOf h = some m) : Home.Present m := by
  cases m with
  | cluster | package => trivial
  | die d =>
    unfold State.homeOf at hm
    extract_lets die clu at hm
    have hdie : die < 4 := Nat.mod_lt _ (by decide)
    split at hm <;> simp_all [Home.Present]

theorem present_of_live {s : State} {h : Nat} {m : Home} {n : Nat} (hl : s.live h = some (m, n)) : Home.Present m := by
  unfold State.live at hl
  split at hl
  · cases hl
  · next hm =>
    dsimp only at hl
    split at hl
    · cases hl
      exact present_of_homeOf hm
    · cases hl

theorem slot_setSlot {m : Home} (hp : Home.Present m) (s : State) (n : Nat) (e : EvSlot) : (s.setSlot m n e).slot m n = e := by
  rw [State.slot, resolver_setSlot hp, lookupD_insertKey_same]

/-- A cluster whose skid records are replaced holds the events that it held. -/
theorem resolver_setSkid (s : State) (c : ClusterKey) (y : Vector Skid 8) (m : Home) :
    (s.setClu c { s.clu c with skid := y }).resolver m = s.resolver m := by
  cases m with
  | die | package => rfl
  | cluster e =>
    by_cases he : e = c
    · subst he
      change ((s.setClu e _).clu e).res = (s.clu e).res
      rw [clu_setClu_same]
    · exact congrArg Cluster.res (clu_setClu_other _ _ _ _ he)

theorem resolver_skidMore (s : State) (k : CoreKey) (n : Nat) (m : Home) : (s.skidMore k n).resolver m = s.resolver m := by
  unfold State.skidMore
  extract_lets
  split
  · exact resolver_setSkid _ _ _ _
  · rfl

theorem resolver_skidStart (t s : State) (k : CoreKey) (m : Home) : (t.skidStart s k).resolver m = t.resolver m := by
  unfold State.skidStart
  extract_lets
  split
  · exact resolver_setSkid _ _ _ _
  · rfl

theorem resolver_setBank (s : State) (k : CoreKey) (b : Fin 2) (x : Bank) (m : Home) : (s.setBank k b x).resolver m = s.resolver m := by
  cases m <;> rfl

theorem apply_done_slot (s t : State) (k : CoreKey) (b : Fin 2) (goto : Option Word) (m : Home) (n : Nat) :
    (s.apply k b (.done t goto none)).slot m n = t.slot m n := by
  simp only [State.slot, State.apply, resolver_skidStart, State.complete, State.skidDone, resolver_skidMore, resolver_setBank]

theorem apply_finish_slot (s t : State) (k : CoreKey) (b : Fin 2) (d : DReg) (w : Word) (m : Home) (n : Nat) :
    (s.apply k b (finish t k b d w none)).slot m n = t.slot m n := by
  rw [finish, apply_done_slot, State.slot, resolver_setBank, State.slot]

theorem setSlot_bank (s : State) (m : Home) (n : Nat) (e : EvSlot) (k : CoreKey) (b : Fin 2) : (s.setSlot m n e).bank k b = s.bank k b := by
  rw [State.bank, State.core, (resolverFrame_setSlot s m n e).cores]
  rfl

/-- An instruction that replaces an event's slot and completes: it leaves memory and the strand's registers as its body found them. -/
theorem apply_setSlot {m : Home} (hp : Home.Present m) (s t : State) (k : CoreKey) (b : Fin 2) (n : Nat) (e : EvSlot) :
    let u := s.apply k b (.done (t.setSlot m n e) none none)
    u.mem = t.mem ∧ u.slot m n = e ∧ (u.bank k b).ctx = (t.bank k b).ctx := by
  refine ⟨(apply_done_mem _ _ _ _ _ _).trans (resolverFrame_setSlot t m n e).mem,
    (apply_done_slot _ _ _ _ _ _ _).trans (slot_setSlot hp _ _ _), ?_⟩
  rw [apply_done_bank, advance_ctx, setSlot_bank]

/-! The instructions. -/

section

variable {s : State} {k : CoreKey} {b : Fin 2} {e : EvRef} {m : Home} {n : Nat} (hq : Quiet s k b)
  (hknown : EvRef.beyond (s.bank k b) e = false) (hlive : s.live (EvRef.handle (s.bank k b) e) = some (m, n)) (hway : s.homeWaits k m = false)
include hq hknown hlive hway

theorem execEvjoin_joins (hroom : joinRefused m (s.slot m n) k = false) (hnew : (s.bank k b).id.who ∉ (s.slot m n).strands) :
    execEvjoin e s = .next (s.apply k b (.done (s.setSlot m n { s.slot m n with
      strands := (s.slot m n).strands ++ [(s.bank k b).id.who] }) none none)) := by
  have hcontains : (s.slot m n).strands.contains (s.bank k b).id.who = false := by simpa using hnew
  rw [execEvjoin, issueWith_quiet _ _ _ _ _ _ hq (evPre_known _ k hknown)]
  simp only [hlive, hroom, hcontains, hway, Bool.false_eq_true, if_false]

theorem execEvleave_leaves (hmember : (s.bank k b).id.who ∈ (s.slot m n).strands) :
    execEvleave e s = .next (s.apply k b (.done (s.leaveEvent (.bank k b) (s.bank k b).id.who m n) none none)) := by
  have hcontains : (s.slot m n).strands.contains (s.bank k b).id.who = true := List.contains_iff_mem.2 hmember
  rw [execEvleave, issueWith_quiet _ _ _ _ _ _ hq (evPre_known _ k hknown)]
  simp only [hlive, hcontains, hway, Bool.not_true, Bool.false_eq_true, if_false]

/-- EVBIND of a valid descriptor adds a signal participant at the lowest free index. -/
theorem execEvbind_binds {d : DReg} {a : SReg} {w0 w1 : Word} {s1 : State} {j : Nat} (hroom : (s.slot m n).sigs.length < 4)
    (hdesc : s.readDescriptor (s.view k b) ((s.bank k b).ctx.s a.val) = .ok (w0, w1, s1, none)) (hvalid : s1.signalOk k w0.toNat = true)
    (hj : (List.range 4).find? (fun j => (s1.slot m n).sigs.all fun y => y.1 != j) = some j) :
    execEvbind d e a s = .next (s.apply k b (finish (s1.setSlot m n { s1.slot m n with
      sigs := insertKey j ⟨w0, w1, 0, k, (s.bank k b).id.spid⟩ (s1.slot m n).sigs }) k b d (BitVec.ofNat 64 j) none)) := by
  rw [execEvbind, issueWith_quiet _ _ _ _ _ _ hq (evPre_known _ k hknown)]
  simp only [hlive, Nat.not_le.2 hroom, hdesc, hvalid, hway, hj, Option.getD_some, Bool.not_true, Bool.false_eq_true, if_false]

theorem execEvbindU_unbinds {a : SReg} (hsig : ∃ z ∈ (s.slot m n).sigs, z.1 = ((s.bank k b).ctx.s a.val).toNat) :
    execEvbindU e a s = .next (s.apply k b (.done (s.setSlot m n { s.slot m n with
      sigs := (s.slot m n).sigs.filter fun z => z.1 != ((s.bank k b).ctx.s a.val).toNat }) none none)) := by
  have hany : ((s.slot m n).sigs.any fun y => y.1 == ((s.bank k b).ctx.s a.val).toNat) = true := by simpa using hsig
  rw [execEvbindU, issueWith_quiet _ _ _ _ _ _ hq (evPre_known _ k hknown)]
  simp only [hlive, hany, hway, Bool.not_true, Bool.false_eq_true, if_false]

end

/-- The lowest index that no signal participant has (log 71). -/
theorem find?_freeIndex {l : List (Nat × Signal)} {j : Nat} (hj : j < 4) (hfree : ∀ z ∈ l, z.1 ≠ j) (hlow : ∀ q, q < j → ∃ z ∈ l, z.1 = q) :
    (List.range 4).find? (fun j => l.all fun y => y.1 != j) = some j := by
  rw [List.find?_range_eq_some]
  refine ⟨by simpa using hfree, List.mem_range.2 hj, fun q hq => by simpa using hlow q hq⟩

/-- Settles O34: each instruction replaces the slot of the event; EVLEAVE also empties the entries that `mapEntries_bound` names. -/
theorem participants : Obligations.Participants := by
  unfold Obligations.Participants
  intro s k b d e a m n hq x ev y hknown hlive hway
  have hp := present_of_live hlive
  refine ⟨fun hroom hnew => ⟨_, execEvjoin_joins hq hknown hlive hway hroom hnew, apply_setSlot hp _ _ _ _ _ _⟩, fun hmember => ?_,
    fun w0 w1 s1 j hroom hdesc hvalid hsame hj hfree hlow => ?_,
    fun hsig => ⟨_, execEvbindU_unbinds hq hknown hlive hway hsig, apply_setSlot hp _ _ _ _ _ _⟩⟩
  · obtain ⟨hframe, hbank⟩ := mapEntries_bound (quiet_bound hq) (fun o => o.st == 1 && o.handle == s.handleOf m n y.gen.toNat) fun _ => Offer.empty
    obtain ⟨hmem, hslot, hctx⟩ := apply_setSlot hp s (s.mapEntries (.bank k b) _ _) k b n { y with strands := y.strands.filter (· != x.id.who) }
    refine ⟨_, execEvleave_leaves hq hknown hlive hway hmember, hmem.trans hframe.mem, hslot, hctx.trans ?_⟩
    rw [hbank]
    simp only [Bool.and_eq_true, beq_iff_eq]
    rfl
  · have hbut := sameBut_readDescriptor hdesc
    have hbank : s1.bank k b = x := hbut.bank k b
    have hindex := find?_freeIndex hj hfree hlow
    rw [← hsame] at hindex ⊢
    obtain ⟨hmem, hctx, -⟩ := apply_finish s (s1.setSlot m n { s1.slot m n with
      sigs := insertKey j ⟨w0, w1, 0, k, x.id.spid⟩ (s1.slot m n).sigs }) k b d (BitVec.ofNat 64 j)
    rw [(resolverFrame_setSlot _ _ _ _).mem, hbut.mem] at hmem
    rw [setSlot_bank, hbank] at hctx
    refine ⟨_, execEvbind_binds hq hknown hlive hway hroom hdesc hvalid hindex, hmem, ?_, hctx⟩
    rw [apply_finish_slot, slot_setSlot hp]

end Sys2Proof.Machine

/-! The frame of the instructions that deliver a short-latency result (R97, R132): what is not the strand's own, and its own registers. -/

namespace Sys2Proof.Machine

open Sys2Proof

/-! What is not the strand's own. -/

/-- From s to t memory stays, and every bank but bank b of core k. -/
structure OthersKept (k : CoreKey) (b : Fin 2) (s t : State) : Prop where
  mem : t.mem = s.mem
  bank : ∀ j y, (j, y) ≠ (k, b) → t.bank j y = s.bank j y

theorem OthersKept.trans {k : CoreKey} {b : Fin 2} {s t u : State} (h : OthersKept k b s t) (h' : OthersKept k b t u) :
    OthersKept k b s u where
  mem := h'.mem.trans h.mem
  bank j y hjy := (h'.bank j y hjy).trans (h.bank j y hjy)

theorem bank_setBank_ne (s : State) {k j : CoreKey} {b y : Fin 2} (x : Bank) (h : (j, y) ≠ (k, b)) :
    (s.setBank k b x).bank j y = s.bank j y := by
  by_cases hj : j = k
  · subst hj
    exact bank_setBank_other _ _ _ _ _ fun hy => h (by rw [hy])
  · exact bank_setBank_core _ _ _ _ _ _ hj

section

variable (s : State) (k : CoreKey) (b : Fin 2)

theorem othersKept_setBank (x : Bank) : OthersKept k b s (s.setBank k b x) := ⟨rfl, fun _ _ => bank_setBank_ne s x⟩

theorem othersKept_skidMore (n : Nat) : OthersKept k b s (s.skidMore k n) :=
  ⟨skidMore_mem _ _ _, fun _ _ _ => (accessFrame_skidMore _ _ _).bank _ _⟩

/-- Taking a trap changes the bank that takes it, a skid record and the reports. -/
theorem othersKept_raise (r : TrapRec) : OthersKept k b s (s.raise k b r) where
  mem := (trapFrame_raise s k b r).mem
  bank j y h := by
    unfold State.raise State.enterTrap
    extract_lets
    split
    · split
      · rw [skidPc_bank, bank_setBank_ne _ _ h]
        rfl
      · split
        · rw [skidPc_bank, bank_setBank_ne _ _ h]
        · rw [skidPc_bank, bank_setBank_ne _ _ h]
          rfl
    · exact bank_setBank_ne _ _ h

theorem othersKept_trapNow (x : Trap) : OthersKept k b s (s.trapNow k b x) :=
  ((othersKept_setBank _ _ _ _).trans (othersKept_skidMore _ _ _ _)).trans (othersKept_raise _ _ _ _)

theorem othersKept_ran (f : Ctx → Ctx) (goto : Option Word) : OthersKept k b s (s.ran k b f goto) :=
  ((othersKept_setBank _ _ _ _).trans (othersKept_setBank _ _ _ _)).trans (othersKept_skidMore _ _ _ _)

/-! The strand's own registers. -/

theorem trapNow_ctx (x : Trap) : ∃ tb, ((s.trapNow k b x).bank k b).ctx = { (s.bank k b).ctx with tb := tb } := by
  refine (raise_ctx _ k b _).imp fun tb h => h.trans ?_
  rw [State.skidDone, (accessFrame_skidMore _ _ _).bank, bank_setBank_same]

theorem ran_ctx (f : Ctx → Ctx) (goto : Option Word) : ((s.ran k b f goto).bank k b).ctx = f (s.bank k b).ctx := by
  rw [State.ran, complete_bank, advance_ctx, bank_setBank_same]

end

/-- From s to t memory and the other banks stay, and the strand's registers change as R allows; in a trap the trap block changes too. -/
structure Frames (R : Ctx → Ctx → Prop) (k : CoreKey) (b : Fin 2) (s t : State) : Prop where
  others : OthersKept k b s t
  ctx : ∃ e tb, R (s.bank k b).ctx e ∧ (t.bank k b).ctx = { e with tb := tb }

section

variable {R : Ctx → Ctx → Prop} {s t : State} {k : CoreKey} {b : Fin 2}

theorem frames_holdIssue (hR : ∀ c, R c c) : Frames R k b s (s.holdIssue k b) :=
  ⟨othersKept_setBank _ _ _ _, _, _, hR _, by rw [State.holdIssue, bank_setBank_same]⟩

theorem frames_trapNow (hR : ∀ c, R c c) (x : Trap) : Frames R k b s (s.trapNow k b x) := by
  obtain ⟨tb, h⟩ := trapNow_ctx s k b x
  exact ⟨othersKept_trapNow _ _ _ _, _, tb, hR _, h⟩

theorem frames_ran {f : Ctx → Ctx} (hf : R (s.bank k b).ctx (f (s.bank k b).ctx)) : Frames R k b s (s.ran k b f none) :=
  ⟨othersKept_ran _ _ _ _ _, _, _, hf, ran_ctx _ _ _ _ _⟩

/-- A wait and a trap before the body keep every frame, so an issue keeps one where its body's act does. -/
theorem frames_issueWith {f : Foot} {pre : Bank → CoreKey → Option Trap} {body : State → CoreKey → Fin 2 → Act} (hR : ∀ c, R c c)
    (hi : s.issuing = some (k, b)) (hbody : Frames R k b s (s.apply k b (body s k b))) (h : issueWith s f pre body = .next t) :
    Frames R k b s t := by
  obtain ⟨hnone, -⟩ | ⟨k', b', hsome, hcase⟩ := issueWith_cases s f pre body
  · cases hi.symm.trans hnone
  · cases hi.symm.trans hsome
    obtain ⟨-, hwait⟩ | ⟨x, -, htrap⟩ | ⟨-, hgo⟩ := hcase
    · cases h.symm.trans hwait
      exact frames_holdIssue hR
    · cases h.symm.trans htrap
      exact frames_trapNow hR x
    · cases h.symm.trans hgo
      exact hbody

theorem frames_issueMap {f : Foot} {g : Ctx → Ctx} (hR : ∀ c, R c c) (hg : ∀ c, R c (g c)) (hi : s.issuing = some (k, b))
    (h : issueMap s f g = .next t) : Frames R k b s t := by
  rw [issueMap, issueReg, issue] at h
  refine frames_issueWith hR hi ?_ h
  rw [apply_done_ctx s k b g]
  exact frames_ran (hg _)

/-- RDS waits for pending flags, traps on a number that names no register, or delivers (R127). -/
theorem frames_execRds {d : DReg} {n : BitVec 11} {p : Level} (hR : ∀ c, R c c) (hd : ∀ c y, R c (c.deliver d p y))
    (hi : s.issuing = some (k, b)) (h : execRds d n p s = .next t) : Frames R k b s t := by
  rw [execRds] at h
  refine frames_issueWith hR hi ?_ h
  simp only
  split
  · exact frames_holdIssue hR
  · split
    · exact frames_trapNow hR _
    · next y _ =>
      rw [apply_done_ctx s k b fun c => c.deliver d p y]
      exact frames_ran (hd _ y)

end

/-! What a delivery changes of the registers. -/

theorem or_flags (x : Word) (f : Flags) : x ||| f.setWidth 64 = x ||| ((x ||| f.setWidth 64) &&& 0x3F) := by
  have hmask : (0x3F : Word) = (BitVec.allOnes 6).setWidth 64 := rfl
  rw [hmask]
  ext j hj
  simp only [BitVec.getElem_or, BitVec.getElem_and, BitVec.getElem_setWidth, BitVec.getLsbD_allOnes]
  by_cases h : j < 6
  · simp [h]
  · simp [h, BitVec.getLsbD_of_ge f j (by omega)]

@[simp] theorem orFlags_zero (c : Ctx) : c.orFlags 0#6 = c := by
  simp [Ctx.orFlags]

theorem vget_setIfInBounds_of_ne {α : Type} {n : Nat} (v : Vector α n) (z x : α) {j r : Nat} (h : r ≠ j) :
    vget (v.setIfInBounds j x) z r = vget v z r := by
  simp [vget, Vector.getD, h.symm]

theorem setS_fields (c : Ctx) (j : Nat) (x : Word) : ∃ w o, c.setS j x = { c with w := w, o := o } := by
  unfold Ctx.setS
  split
  · exact ⟨_, _, rfl⟩
  · split <;> exact ⟨_, _, rfl⟩

theorem s_setS_of_ne (c : Ctx) {j r : Nat} (x : Word) (h : r ≠ j) : (c.setS j x).s r = c.s r := by
  unfold Ctx.setS
  split
  · rfl
  · next h0 =>
    split
    · simp only [Ctx.s, vget_setIfInBounds_of_ne _ _ _ h]
    · next h32 =>
      by_cases hr : r < 32
      · simp only [Ctx.s, hr, if_true]
      · simp only [Ctx.s, hr, if_false, vget_setIfInBounds_of_ne c.o 0 x (show r - 32 ≠ j - 32 by omega)]

theorem s_pushL (c : Ctx) (x : Word) {r : Nat} (h : r < 40) : (c.pushL x).s r = c.s r := by
  simp only [Ctx.s, Ctx.pushL, h, if_true]

/-- A delivery touches the general registers and l0 to l3 alone (R97). -/
theorem deliver_fields (c : Ctx) (d : DReg) (p : Level) (y : Word) : ∃ w o l, c.deliver d p y = { c with w := w, o := o, l := l } := by
  obtain ⟨w, o, h⟩ := setS_fields c d.val y
  cases p <;> exact ⟨_, _, _, by simp only [Ctx.deliver, h, reduceCtorEq, if_true, if_false]; rfl⟩

theorem s_deliver_of_ne (c : Ctx) {d : DReg} (p : Level) (y : Word) {r : Nat} (hr : r < 40) (hd : r ≠ d.val) :
    (c.deliver d p y).s r = c.s r := by
  cases p <;> simp [Ctx.deliver, s_pushL _ _ hr, s_setS_of_ne _ _ hd]

/-- A vector delivery touches the vector registers and their last results alone (R132). -/
theorem deliverV_fields (c : Ctx) (d : VReg) (p : Level) (y : Lanes) : ∃ v vl, c.deliverV d p y = { c with v := v, vl := vl } := by
  cases p <;> exact ⟨_, _, rfl⟩

theorem vec_deliverV_of_ne (c : Ctx) {d : VReg} (p : Level) (y : Lanes) {r : Nat} (hr : r < 16) (hd : r ≠ d.val) :
    (c.deliverV d p y).vec r = c.vec r := by
  cases p <;> simp [Ctx.deliverV, Ctx.pushVL, Ctx.setV, Ctx.vec, hr, vget_setIfInBounds_of_ne _ _ _ hd]

/-- e is c but for the registers that a result or a trap may change, and fcsr has at most gained flags. -/
structure Ctx.ResultFrame (c e : Ctx) : Prop where
  rest : { e with w := c.w, o := c.o, l := c.l, fcsr := c.fcsr, v := c.v, vl := c.vl, tb := c.tb } = c
  flags : e.fcsr = c.fcsr ||| (e.fcsr &&& 0x3F)

/-- Of the scalar registers at most d changes, beside l0 to l3. -/
structure Ctx.ScalarFrame (d : DReg) (c e : Ctx) : Prop extends Ctx.ResultFrame c e where
  v : e.v = c.v
  vl : e.vl = c.vl
  reg : ∀ r, r < 40 → r ≠ d.val → e.s r = c.s r

/-- Of the vector registers at most d changes, beside their last results. -/
structure Ctx.VectorFrame (d : VReg) (c e : Ctx) : Prop extends Ctx.ResultFrame c e where
  w : e.w = c.w
  o : e.o = c.o
  l : e.l = c.l
  reg : ∀ r, r < 16 → r ≠ d.val → e.vec r = c.vec r

/-- Flags ORed into registers that differ from c only where results do (R40). -/
theorem resultFrame_orFlags {c e : Ctx} (f : Flags) (h : e = { c with w := e.w, o := e.o, l := e.l, v := e.v, vl := e.vl }) :
    c.ResultFrame (e.orFlags f) where
  rest := by
    rw [h]
    rfl
  flags := by
    have hfcsr : e.fcsr = c.fcsr := by rw [h]
    rw [Ctx.orFlags, hfcsr]
    exact or_flags _ _

theorem scalarFrame_deliver_orFlags (c : Ctx) (d : DReg) (p : Level) (y : Word) (f : Flags) :
    c.ScalarFrame d ((c.deliver d p y).orFlags f) := by
  obtain ⟨w, o, l, h⟩ := deliver_fields c d p y
  exact ⟨resultFrame_orFlags f (by rw [h]), by rw [h]; rfl, by rw [h]; rfl, fun _ hr hd => s_deliver_of_ne c p y hr hd⟩

theorem scalarFrame_deliver (c : Ctx) (d : DReg) (p : Level) (y : Word) : c.ScalarFrame d (c.deliver d p y) := by
  simpa using scalarFrame_deliver_orFlags c d p y 0

theorem vectorFrame_deliverV_orFlags (c : Ctx) (d : VReg) (p : Level) (y : Lanes) (f : Flags) :
    c.VectorFrame d ((c.deliverV d p y).orFlags f) := by
  obtain ⟨v, vl, h⟩ := deliverV_fields c d p y
  exact ⟨resultFrame_orFlags f (by rw [h]), by rw [h]; rfl, by rw [h]; rfl, by rw [h]; rfl, fun _ hr hd => vec_deliverV_of_ne c p y hr hd⟩

theorem vectorFrame_deliverV (c : Ctx) (d : VReg) (p : Level) (y : Lanes) : c.VectorFrame d (c.deliverV d p y) := by
  simpa using vectorFrame_deliverV_orFlags c d p y 0

theorem resultFrame_refl (c : Ctx) : c.ResultFrame c := by
  simpa using resultFrame_orFlags (c := c) 0 rfl

theorem scalarFrame_refl (d : DReg) (c : Ctx) : c.ScalarFrame d c := ⟨resultFrame_refl c, rfl, rfl, fun _ _ _ => rfl⟩

theorem vectorFrame_refl (d : VReg) (c : Ctx) : c.VectorFrame d c := ⟨resultFrame_refl c, rfl, rfl, rfl, fun _ _ _ => rfl⟩

/-! The instructions. -/

section

variable {s t : State} {k : CoreKey} {b : Fin 2} (hi : s.issuing = some (k, b))
include hi

theorem frames_deliver {f : Foot} {d : DReg} {p : Level} {y : Ctx → Word}
    (h : issueMap s f (fun c => c.deliver d p (y c)) = .next t) : Frames (Ctx.ScalarFrame d) k b s t :=
  frames_issueMap (scalarFrame_refl d) (fun c => scalarFrame_deliver c d p (y c)) hi h

theorem frames_issueFp {f : Foot} {d : DReg} {p : Level} {g : Ctx → Word × Flags} (h : issueFp s f d p g = .next t) :
    Frames (Ctx.ScalarFrame d) k b s t :=
  frames_issueMap (scalarFrame_refl d) (fun c => scalarFrame_deliver_orFlags c d p (g c).1 (g c).2) hi h

theorem frames_deliverV {f : Foot} {d : VReg} {p : Level} {y : Ctx → Lanes}
    (h : issueMap s f (fun c => c.deliverV d p (y c)) = .next t) : Frames (Ctx.VectorFrame d) k b s t :=
  frames_issueMap (vectorFrame_refl d) (fun c => vectorFrame_deliverV c d p (y c)) hi h

theorem frames_issueVec {f : Foot} {d : VReg} {m : MReg} {p : Level} {g : Ctx → Nat → Word × Flags}
    (h : issueVec s f d m p g = .next t) : Frames (Ctx.VectorFrame d) k b s t :=
  frames_issueMap (vectorFrame_refl d) (fun c => vectorFrame_deliverV_orFlags c d p _ _) hi h

variable {i : Instr} (h : exec i s = .next t)
include h

/-- Each group of instructions has one helper that issues it, by which its registers change. -/
theorem frames_scalarResult {d : DReg} (hd : scalarResult i = some d) : Frames (Ctx.ScalarFrame d) k b s t := by
  cases i with
  | add | sub | mul | mulh | mulhn | and | or | xor | shl | shr | sha | rol | min | max | minn | maxn | slt | sltn | lea | leaX2
  | leaX4 | leaX8 =>
    cases hd
    dsimp only [exec, execAdd, execSub, execMul, execMulh, execMulhn, execAnd, execOr, execXor, execShl, execShr, execSha, execRol,
      execMin, execMax, execMinn, execMaxn, execSlt, execSltn, execLea, execLeaX2, execLeaX4, execLeaX8, issueInt] at h
    exact frames_deliver hi h
  | clz | ctz | popc | addi | andi | ori | xori =>
    cases hd
    dsimp only [exec, execClz, execCtz, execPopc, execAddi, execAndi, execOri, execXori, issueInt1] at h
    exact frames_deliver hi h
  | sel | li | lih | mpop | vext =>
    cases hd
    dsimp only [exec, execSel, execLi, execLih, execMpop, execVext] at h
    exact frames_deliver hi h
  | fadd | fsub | fmul | ffma | ffms | fmin | fmax | fcmpEq | fcmpNe | fcmpLt | fcmpLe | fcmpUn | fsgnCp | fsgnNg | fsgnXr | fclass
  | fcvt | vredAdd | vredMin | vredMax =>
    cases hd
    dsimp only [exec, execFadd, execFsub, execFmul, execFfma, execFfms, execFmin, execFmax, execFcmpEq, execFcmpNe, execFcmpLt,
      execFcmpLe, execFcmpUn, execFsgnCp, execFsgnNg, execFsgnXr, execFclass, execFcvt, execVredAdd, execVredMin, execVredMax,
      issueFp2, issueFma, issueFpSel, issueVred] at h
    exact frames_issueFp hi h
  | rds =>
    cases hd
    exact frames_execRds (scalarFrame_refl d) (fun c y => scalarFrame_deliver c d _ y) hi h
  | _ => cases hd

theorem frames_vectorResult {d : VReg} (hd : vectorResult i = some d) : Frames (Ctx.VectorFrame d) k b s t := by
  cases i with
  | vadd | vsub | vmul | vmin | vmax | vand | vor | vxor | vshl | vshr | vfma | vfms | vshuf | vbcast | vabs | vneg | viota | vcvt =>
    cases hd
    dsimp only [exec, execVadd, execVsub, execVmul, execVmin, execVmax, execVand, execVor, execVxor, execVshl, execVshr, execVfma,
      execVfms, execVshuf, execVbcast, execVabs, execVneg, execViota, execVcvt, issueVec2, issueVfma] at h
    exact frames_issueVec hi h
  | vsel | vins =>
    cases hd
    dsimp only [exec, execVsel, execVins] at h
    exact frames_deliverV hi h
  | _ => cases hd

end

/-- Settles O54: an instruction with a result waits, traps or completes, and `Frames` says what each leaves. -/
theorem resultFrame : Obligations.ResultFrame := by
  unfold Obligations.ResultFrame
  intro s t i k b hi h c e rest common
  have hcommon {x : Ctx} {tb : TrapBlock} (hothers : OthersKept k b s t) (hx : c.ResultFrame x) (he : e = { x with tb := tb }) : common := by
    refine ⟨hothers.mem, hothers.bank, ?_, ?_⟩
    · rw [he]
      exact hx.rest
    · rw [he]
      exact hx.flags
  refine ⟨fun d hd => ?_, fun d hd => ?_⟩
  · obtain ⟨hothers, x, tb, hx, he⟩ := frames_scalarResult hi h hd
    refine ⟨hcommon hothers hx.toResultFrame he, ?_⟩
    simp only [e, he]
    exact ⟨hx.v, hx.vl, hx.reg⟩
  · obtain ⟨hothers, x, tb, hx, he⟩ := frames_vectorResult hi h hd
    refine ⟨hcommon hothers hx.toResultFrame he, ?_⟩
    simp only [e, he]
    exact ⟨hx.w, hx.o, hx.l, hx.reg⟩

end Sys2Proof.Machine

/-! The lookahead window of one pending instruction (R207, R208). -/

namespace Sys2Proof.Machine

open Sys2Proof

/-! The registers that two lists share. -/

@[simp] theorem meet_nil (l : List RegRef) : meet l [] = [] := by
  simp [meet]

@[simp] theorem meet_append (l m q : List RegRef) : meet (l ++ m) q = meet l q ++ meet m q := by
  simp [meet]

theorem meet_rS {n r : Nat} (hr : 0 < r) : meet (rS n) [.s r] = if n = r then [.s r] else [] := by
  unfold rS
  by_cases hn : n = r
  · subst hn
    simp [meet, Nat.pos_iff_ne_zero.1 hr]
  · by_cases h0 : n = 0
    · simp [meet, h0, hr.ne]
    · simp [meet, h0, hn]

/-- A footprint of a scalar result writes its destination, unless that is the last results alone; S(0) is never named (R208). -/
theorem footS_writes (reads : List RegRef) (d : DReg) (p : Level) :
    (footS reads d p).writes = rS (if p = .last then 0 else d.val) := by
  by_cases h : p = .last <;> simp [footS, h, rS]

/-! The four cases of R208, for an instruction with a scalar result and two scalar sources. -/

section

variable {p : Pending} {d : DReg} {a c : SReg} {l : Level} {r : Nat} (hr : 0 < r)
include hr

theorem offence_reads_dest (hdest : p.dests = [.s r]) (hac : a.val = r ∨ c.val = r) :
    p.offence (footS (rS a.val ++ rS c.val) d l) = some (1, .s r) := by
  have hmeet : firstReg (meet (footS (rS a.val ++ rS c.val) d l).reads p.dests) = some (.s r) := by
    simp only [footS, hdest, meet_append, meet_rS hr]
    obtain ha | hc := hac
    · by_cases hc : c.val = r <;> simp [ha, hc, firstReg]
    · by_cases ha : a.val = r <;> simp [ha, hc, firstReg]
  simp only [Pending.offence, hmeet]

theorem meet_reads_none (ha : a.val ≠ r) (hc : c.val ≠ r) : meet (footS (rS a.val ++ rS c.val) d l).reads [.s r] = [] := by
  simp [footS, meet_rS hr, ha, hc]

theorem offence_writes_dest (hdest : p.dests = [.s r]) (ha : a.val ≠ r) (hc : c.val ≠ r)
    (hd : (if l = .last then 0 else d.val) = r) : p.offence (footS (rS a.val ++ rS c.val) d l) = some (2, .s r) := by
  simp only [Pending.offence, hdest, meet_reads_none hr ha hc, footS_writes, hd, meet_rS hr, if_true, firstReg]

theorem offence_writes_source (hdest : p.dests = []) (hreads : p.reads = [.s r]) (hd : (if l = .last then 0 else d.val) = r) :
    p.offence (footS (rS a.val ++ rS c.val) d l) = some (3, .s r) := by
  simp only [Pending.offence, hdest, hreads, meet_nil, footS_writes, hd, meet_rS hr, if_true, firstReg]

theorem offence_pushes_source (hdest : p.dests = []) (hreads : p.reads = [.s r]) (hd : (if l = .last then 0 else d.val) ≠ r)
    (h40 : 40 ≤ r) (hl : l ≠ .main) : p.offence (footS (rS a.val ++ rS c.val) d l) = some (4, .s r) := by
  have hpush : (footS (rS a.val ++ rS c.val) d l).pushS = true := by simp [footS, hl]
  simp only [Pending.offence, hdest, hreads, meet_nil, footS_writes, meet_rS hr, hd, if_false, firstReg, hpush]
  simp [h40, firstReg]

theorem offence_none (hdest : p.dests = [.s r]) (hreads : p.reads = []) (ha : a.val ≠ r) (hc : c.val ≠ r)
    (hd : (if l = .last then 0 else d.val) ≠ r) : p.offence (footS (rS a.val ++ rS c.val) d l) = none := by
  simp only [Pending.offence, hdest, hreads, meet_reads_none hr ha hc, meet_nil, footS_writes, meet_rS hr, hd, if_false, firstReg,
    List.filter_nil, Option.map_none]

end

/-! The gate before an instruction, with one pending instruction and no replay. -/

section

variable {x : Bank} {p : Pending} (hp : x.pend = [p]) (hrep : x.replay = none)
include hp

theorem gate_windowOver (f : Foot) (pre : Option Trap) (h : p.la < x.nIssued + 1 - p.seq) : x.gate f pre = .wait := by
  simp [Bank.gate, Bank.windowOver, hp, h]

variable (hwin : x.nIssued + 1 - p.seq ≤ p.la)
include hrep hwin

theorem gate_offends {f : Foot} (hla : f.noLa = false) {n : Nat} {r : RegRef} (h : p.offence f = some (n, r)) :
    x.gate f none = .trap ⟨.laViolation, BitVec.ofNat 64 r.spec, BitVec.ofNat 8 (r.kind * 16 + n)⟩ := by
  simp [Bank.gate, Bank.windowOver, hp, hrep, Nat.not_lt.2 hwin, hla, laViolation, h]

/-- What offends nothing waits behind an acquire alone, if it is short-latency and no transfer. -/
theorem gate_inWindow {f : Foot} (hshort : f.long = false) (hstays : f.transfer = false) (h : p.offence f = none) :
    x.gate f none = if p.acq then .wait else .go := by
  simp [Bank.gate, Bank.windowOver, Bank.acquires, hp, hrep, Nat.not_lt.2 hwin, laViolation, h, hshort, hstays]

end

/-- What the gate's answer makes of the package, for an instruction that maps registers. -/
def State.gated (s : State) (k : CoreKey) (b : Fin 2) (g : Ctx → Ctx) : Gate → State
  | .wait => s.holdIssue k b
  | .trap t => s.trapNow k b t
  | .go => s.ran k b g none

theorem issueMap_gated {s : State} {k : CoreKey} {b : Fin 2} (f : Foot) (g : Ctx → Ctx) (hi : s.issuing = some (k, b)) :
    issueMap s f g = .next (s.gated k b g ((s.bank k b).gate f none)) := by
  simp only [issueMap, issueReg, issue, issueWith, hi]
  cases (s.bank k b).gate f none with
  | wait => rfl
  | trap t => rfl
  | go => exact congrArg _ (apply_done_ctx s k b g)

/-- ADD of n64 adds its sources as they stand (R99). -/
theorem intBinary_n64_opAdd (x y : Word) : intBinary .n64 opAdd x y = x + y := by
  apply BitVec.eq_of_toNat_eq
  change (zext 64 ((x.toNat % 2 ^ 64 + y.toNat % 2 ^ 64) % 2 ^ 64)).toNat = _
  simp [zext_64, BitVec.toNat_add]

theorem exec_add_n64 {s : State} {k : CoreKey} {b : Fin 2} (hi : s.issuing = some (k, b)) (d : DReg) (a c : SReg) (l : Level) :
    exec (.add d a c .n64 l) s = .next (s.gated k b (fun q => q.deliver d l (q.s a.val + q.s c.val))
      ((s.bank k b).gate (footS (rS a.val ++ rS c.val) d l) none)) := by
  change issueInt s d a c l (intBinary .n64 opAdd) = _
  simp only [issueInt, intBinary_n64_opAdd]
  exact issueMap_gated _ _ hi

/-- Settles O55: `gate_windowOver` beyond the window, `gate_offends` at each of the four cases, else `gate_inWindow`. -/
theorem lookaheadContract : Obligations.LookaheadContract := by
  unfold Obligations.LookaheadContract
  intro s k b p d a c l r hi x i dest offends hp hrep
  have hadd := exec_add_n64 hi d a c l
  refine ⟨fun hover => ?_, fun hwin hr => ?_⟩
  · rw [hadd, gate_windowOver hp _ _ hover]
    rfl
  have offend {n : Nat} (h : p.offence (footS (rS a.val ++ rS c.val) d l) = some (n, .s r)) : offends n := by
    have hgate := gate_offends hp hrep hwin rfl h
    rw [RegRef.kind, Nat.zero_mul, Nat.zero_add] at hgate
    exact hadd.trans (by rw [hgate]; rfl)
  refine ⟨fun hdest hac => offend (offence_reads_dest hr hdest hac),
    fun hdest ha hc hd => offend (offence_writes_dest hr hdest ha hc hd),
    fun hdest hreads hd => offend (offence_writes_source hr hdest hreads hd),
    fun hdest hreads hd h40 hl => offend (offence_pushes_source hr hdest hreads hd h40 hl), fun hdest hreads ha hc hd => ?_⟩
  rw [hadd, gate_inWindow hp hrep hwin rfl rfl (offence_none hr hdest hreads ha hc hd)]
  cases p.acq <;> rfl

end Sys2Proof.Machine

/-! The bindings of the graph array (R225, R229 to R231, R236). -/

namespace Sys2Proof.Machine

open Sys2Proof

/-! What the bytes of an image make of a slot. -/

/-- The cluster's cache holds the image's digest, or its signature verifies under the key of the package (R225). -/
def State.imageSigned (s : State) (c : ClusterKey) (bs : List Byte) : Bool :=
  (s.clu c).digests.contains (sha3 (bs.take 0x440)) ||
    match s.boot.imageKey with
    | some key => mlDsaVerify key (sha3 (bs.take 0x440)) ((bs.drop 0x440).take 2420)
    | none => false

/-- The state code of a slot that reads these bytes (R229). -/
def State.imageCode (s : State) (c : ClusterKey) (bs : List Byte) : Nat :=
  if !imageValid bs then 3 else if s.imageSigned c bs then 1 else 4

/-- The segment that they configure: that of a valid image that is signed. -/
def State.imageSegment (s : State) (c : ClusterKey) (bs : List Byte) : Option XImage :=
  if s.imageCode c bs = 1 then some (readImage bs) else none

/-- The look at a signature answers whether the image is signed, and changes the cache of digests alone. -/
theorem verifyImage_made (s : State) (c : ClusterKey) (bs : List Byte) : ∃ u, s.verifyImage c bs = (s.imageSigned c bs, u) ∧ SameBut s u := by
  change ∃ u, (if s.imageSigned c bs then (true, s.setClu c { s.clu c with digests := touchDigest (s.clu c).digests (sha3 (bs.take 0x440)) })
    else (false, s)) = (s.imageSigned c bs, u) ∧ SameBut s u
  cases s.imageSigned c bs with
  | true => exact ⟨_, rfl, sameBut_setClu _ _ _⟩
  | false => exact ⟨_, rfl, .rfl⟩

/-- The bytes of an image give the state code and the segment, with memory and the banks as they were. -/
theorem configure_made (s : State) (c : ClusterKey) (bs : List Byte) :
    ∃ u, s.configure c bs = (s.imageCode c bs, s.imageSegment c bs, u) ∧ SameBut s u := by
  obtain ⟨u, hverify, hframe⟩ := verifyImage_made s c bs
  cases hvalid : imageValid bs with
  | false => exact ⟨s, by simp [State.configure, State.imageSegment, State.imageCode, hvalid], .rfl⟩
  | true =>
    refine ⟨u, ?_, hframe⟩
    cases hsigned : s.imageSigned c bs <;> simp [State.configure, State.imageSegment, State.imageCode, hvalid, hverify, hsigned]

/-- Serving an access changes no digest and no key, so that an image is signed after it as before. -/
theorem AccessFrame.imageSigned {s t : State} (h : AccessFrame s t) (c : ClusterKey) (bs : List Byte) :
    t.imageSigned c bs = s.imageSigned c bs := by
  have hdigests : (t.clu c).digests = (s.clu c).digests := by rw [h.clu c]
  have hboot : t.boot = s.boot := by rw [h.state]
  simp only [State.imageSigned, hdigests, hboot]

theorem AccessFrame.imageCode {s t : State} (h : AccessFrame s t) (c : ClusterKey) (bs : List Byte) : t.imageCode c bs = s.imageCode c bs := by
  rw [State.imageCode, h.imageSigned, State.imageCode]

theorem AccessFrame.imageSegment {s t : State} (h : AccessFrame s t) (c : ClusterKey) (bs : List Byte) :
    t.imageSegment c bs = s.imageSegment c bs := by
  rw [State.imageSegment, h.imageCode, State.imageSegment]

/-- The bytes of an image that a strand or the graph array has just read. -/
theorem configure_served (s : State) (v : View) (p : Nat) (pl : Place) (n : Nat) (c : ClusterKey) (bs : List Byte) :
    ∃ u, (s.served v p pl n .read).1.configure c bs = (s.imageCode c bs, s.imageSegment c bs, u) ∧ SameBut s u := by
  obtain ⟨u, hmade, hframe⟩ := configure_made (s.served v p pl n .read).1 c bs
  rw [(accessFrame_served s v p pl n .read).imageCode, (accessFrame_served s v p pl n .read).imageSegment] at hmade
  exact ⟨u, hmade, (sameBut_served s v p pl n .read).trans hframe⟩

/-- The windows in which an image may stand, by their tags (R230). -/
theorem imageWindow_iff (p : Word) : imageWindow p = true ↔ tagOf p.toNat = 0 ∨ tagOf p.toNat = 1 ∨ tagOf p.toNat = 8 := by
  simp only [imageWindow, Bool.or_eq_true, beq_iff_eq, or_assoc]

theorem slotBusy_of_noPend {x : Bank} (h : x.pend = []) (n : Fin 8) : x.slotBusy n = false := by
  simp only [Bank.slotBusy, h, List.any_nil]

theorem xopPending_of_noPend {x : Bank} (h : x.pend = []) (n : Fin 8) : x.xopPending n = false := by
  simp only [Bank.xopPending, h, List.any_nil]

/-! XDROP and XCFG. -/

section

variable {s : State} {k : CoreKey} {b : Fin 2} (hq : Quiet s k b) (hgraph : hasGraph k = true)
include hq hgraph

theorem execXdrop_quiet (n : Fin 8) (h : La) : execXdrop n h s =
    .next (s.sent k b { (s.bank k b).pendingOf (footL [] []) h with slot := some ⟨n, 0, none⟩ }) := by
  rw [execXdrop, issue_quiet _ _ _ _ _ hq]
  simp only [hgraph, slotBusy_of_noPend (quiet_pend hq), xopPending_of_noPend (quiet_pend hq), Bool.not_true, Bool.or_self,
    Bool.false_eq_true, if_false]
  exact congrArg _ (apply_done _ rfl)

/-- XCFG of a pointer whose checks pass, with nothing that it waits for, leaves pending the binding that the image gives. -/
theorem execXcfg_reads (n : Fin 8) (r : WReg) (h : La) {p : Word} (hp : (s.bank k b).ctx.s r.val = p) (hwindow : imageWindow p = true)
    {pl : Place} {ps : List (Nat × Nat)} (hc : s.issueChecks (s.view k b) p.toNat 3584 256 = .ok pl)
    (hread : s.readFull (s.view k b) pl imageRead = false) (hfree : s.farBusy k (s.bank k b) pl imageRead = false)
    (ht : s.targetChecks (s.view k b) pl imageRead .read = .ok ps)
    (hroom : s.landFull ((s.crossings (dieOf k) ps p 0 imageRead).map Crossing.landing) = false) :
    ∃ u pd, execXcfg n r h s = .next (s.apply k b (.done (u.setBank k b ((u.bank k b).push pd)) none none)) ∧ SameBut s u ∧
      pd.slot = some ⟨n, bindWord p (s.imageCode (clusterOf k) (s.load ps)), s.imageSegment (clusterOf k) (s.load ps)⟩ ∧
      pd.writes = [] ∧ pd.safe = false := by
  subst hp
  obtain ⟨u, hmade, hframe⟩ := configure_served s (s.view k b) ((s.bank k b).ctx.s r.val).toNat pl imageRead (clusterOf k) (s.load ps)
  rw [execXcfg, issue_quiet _ _ _ _ _ hq]
  simp only [hgraph, slotBusy_of_noPend (quiet_pend hq), hwindow, hc, hread, hfree, ht, hroom, hmade, Bool.not_true, Bool.or_self,
    Bool.false_eq_true, if_false]
  exact ⟨u, _, rfl, hframe, rfl, rfl, rfl⟩

end

/-! The reload of a slot. -/

/-- A bank whose slot is bound to a pointer in a state, with a segment or none. -/
def Bank.rebound (x : Bank) (n : Fin 8) (p : Word) (st : Nat) (img : Option XImage) : Bank :=
  { x with ctx := { x.ctx with binds := x.ctx.binds.set n (bindWord p st) }, plane := x.plane.set n img }

/-- A slot in state 2 of a bound strand, with no binding pending, is reloaded (R236). -/
theorem reloadGuard_holds {x : Bank} {c : Core} {n : Fin 8} (hbound : x.st = .bound) (hstate : bits x.ctx.binds[n] 0 4 = 2)
    (hslots : ∀ q ∈ x.pend, q.slot = none) (hfen : c.fen = false) :
    x.st = .bound ∧ bits x.ctx.binds[n] 0 4 = 2 ∧ x.pend.all (fun p => p.slot.isNone) ∧ c.fen = false :=
  ⟨hbound, hstate, by simpa using hslots, hfen⟩

section

variable {s : State} {k : CoreKey} {b : Fin 2} {n : Fin 8} (hbound : (s.bank k b).st = .bound)
  (hstate : bits (s.bank k b).ctx.binds[n] 0 4 = 2) (hslots : ∀ q ∈ (s.bank k b).pend, q.slot = none) (hfen : (s.core k).fen = false)
  {p : Word} (hp : setBits (s.bank k b).ctx.binds[n] 0 8 0 = p)
include hbound hstate hslots hfen hp

/-- A slot in state 2 whose pointer fails a check of its window takes state 5. -/
theorem execReload_fails {c : Cause} {d : Nat}
    (hfails : (if imageWindow p then s.issueChecks (s.view k b) p.toNat 3584 256 else .error (.trap .addrWindow 0)) = .error (.trap c d)) :
    execReload k b n s = .next (s.setBank k b ((s.bank k b).rebound n p 5 none)) := by
  subst hp
  have hready := reloadGuard_holds hbound hstate hslots hfen
  simp only [execReload, if_pos hready, hfails]
  rfl

/-- A slot in state 2 whose pointer passes its checks is bound as the image gives it. -/
theorem execReload_reads (hwindow : imageWindow p = true) {pl : Place} {ps : List (Nat × Nat)}
    (hc : s.issueChecks (s.view k b) p.toNat 3584 256 = .ok pl) (hread : s.readFull (s.view k b) pl imageRead = false)
    (ht : s.targetChecks (s.view k b) pl imageRead .read = .ok ps) :
    ∃ u, SameBut s u ∧ execReload k b n s = .next (u.setBank k b ((u.bank k b).rebound n p (s.imageCode (clusterOf k) (s.load ps))
      (s.imageSegment (clusterOf k) (s.load ps)))) := by
  subst hp
  have hready := reloadGuard_holds hbound hstate hslots hfen
  obtain ⟨u, hmade, hframe⟩ := configure_served s (s.view k b) (setBits (s.bank k b).ctx.binds[n] 0 8 0).toNat pl imageRead
    (clusterOf k) (s.load ps)
  refine ⟨u, hframe, ?_⟩
  simp only [execReload, if_pos hready, hwindow, hc, hread, ht, hmade, if_true, Bool.false_eq_true, if_false]
  rfl

end

/-- Settles O31: XDROP and XCFG leave their binding pending, a reload binds at once; the image's code and segment are those of `configure_served`. -/
theorem graphBindings : Obligations.GraphBindings := by
  unfold Obligations.GraphBindings
  intro s k b n r h hk x v signed code seg word
  have hgraph : hasGraph k = true := decide_eq_true hk
  refine ⟨fun hq => execXdrop_quiet hq hgraph n h, ?_, ?_⟩
  · intro hq p hwindow pl ps hc hread hfree ht hroom
    obtain ⟨u, pd, hexec, hframe, hslot, hwrites, hsafe⟩ :=
      execXcfg_reads hq hgraph n r h rfl ((imageWindow_iff p).2 hwindow) hc hread hfree ht hroom
    obtain ⟨hmem, hctx, hpend⟩ := apply_push_quiet hq hframe pd
    exact ⟨_, pd, hexec, hmem, hctx, hpend, hslot, hwrites, hsafe⟩
  · intro hbound hstate hslots hfen p allowed
    refine ⟨fun pl ps hallowed hc hread ht => ?_, fun hfails => ?_⟩
    · obtain ⟨u, hframe, hexec⟩ := execReload_reads hbound hstate hslots hfen rfl ((imageWindow_iff p).2 hallowed) hc hread ht
      refine ⟨_, hexec, (state_setBank_mem _ _ _ _).trans hframe.mem, ?_⟩
      rw [bank_setBank_same, hframe.bank]
      rfl
    · by_cases hwindow : imageWindow p = true
      · obtain ⟨c, d, hc⟩ := hfails.resolve_left (not_not_intro ((imageWindow_iff p).1 hwindow))
        exact execReload_fails hbound hstate hslots hfen rfl ((if_pos hwindow).trans hc)
      · exact execReload_fails hbound hstate hslots hfen rfl (if_neg hwindow)

end Sys2Proof.Machine

/-! XOP (R223, R232 to R234). -/

namespace Sys2Proof.Machine

open Sys2Proof

/-! The results of a segment. -/

/-- The pass of a segment in one lane of an XOP. -/
def XImage.lane (x : XImage) (c : Ctx) (d a b j : Nat) : List Word × Flags := x.pass c.rm (xopSource x c d a b j)

/-- The lanes of a segment: sixteen of a vector segment, else one. -/
def XImage.laneCount (x : XImage) : Nat := if x.isVector then 16 else 1

/-- A destination's result in its class: element e of every lane, or of lane 0 (R233). -/
def XImage.result (x : XImage) (c : Ctx) (d a b : Nat) (vec : Bool) (e m : Nat) : RegWrite :=
  if vec then .v (Fin.ofNat 16 m) (Vector.ofFn fun j =>
    (if x.isVector then (x.lane c d a b j.val).1 else if j.val = 0 then (x.lane c d a b 0).1 else []).getD e 0)
  else .s (Fin.ofNat 40 m) ((x.lane c d a b 0).1.getD e 0)

/-- Lane j of those that run; a lane beyond them has no elements. -/
theorem getD_lanes (x : XImage) (c : Ctx) (d a b : Nat) (j : Fin 16) :
    (((List.range x.laneCount).map (x.lane c d a b)).getD j.val ([], 0)).1 =
      if x.isVector then (x.lane c d a b j.val).1 else if j.val = 0 then (x.lane c d a b 0).1 else [] := by
  have hj := j.isLt
  cases hvec : x.isVector with
  | true => simp [XImage.laneCount, hvec, hj]
  | false =>
    by_cases hzero : j.val = 0
    · simp [XImage.laneCount, hvec, hzero]
    · simp [XImage.laneCount, hvec, hzero]

theorem getD_lanes_zero (x : XImage) (c : Ctx) (d a b : Nat) :
    (((List.range x.laneCount).map (x.lane c d a b)).getD 0 ([], 0)).1 = (x.lane c d a b 0).1 := by
  cases hvec : x.isVector <;> simp [XImage.laneCount, hvec]

/-- An XOP's run writes the destinations' results and ORs the flags of its lanes. -/
theorem xopRun_eq (x : XImage) (c : Ctx) (d a b : Nat) :
    xopRun x c d a b =
      (x.result c d a b x.d0v x.d0pe d :: (if x.ndst = 2 then [x.result c d a b x.d1v x.d1pe (d + 1)] else []),
       (List.range x.laneCount).foldl (fun o j => o ||| (x.lane c d a b j).2) 0) := by
  have hone (vec : Bool) (e m : Nat) :
      (if vec then RegWrite.v (Fin.ofNat 16 m) (Vector.ofFn fun j : Fin 16 =>
          (((List.range x.laneCount).map (x.lane c d a b)).getD j.val ([], 0)).1.getD e 0)
        else .s (Fin.ofNat 40 m) ((((List.range x.laneCount).map (x.lane c d a b)).getD 0 ([], 0)).1.getD e 0)) =
        x.result c d a b vec e m := by
    simp only [getD_lanes, getD_lanes_zero, XImage.result]
  simp only [xopRun, List.foldl_map, ← hone]
  rfl

/-! XOP of a quiet strand. -/

/-- What an XOP does once it issues: the checks of R234, then the run of its segment. -/
def xopAct (s : State) (k : CoreKey) (b : Fin 2) (n : Fin 8) (d a c : BitVec 6) (h : La) : Act :=
  let x := s.bank k b
  if !hasGraph k then .trap (illegalAt (.xop n d a c h) 15)
  else match x.image n with
    | none => .trap ⟨.xopUnloaded, BitVec.ofNat 64 n.val, BitVec.ofNat 8 (bits x.ctx.binds[n] 0 4)⟩
    | some g => match xopCheck g d.toNat a.toNat c.toNat with
      | some e => .trap (illegalAt (.xop n d a c h) e)
      | none =>
        let r := xopRun g x.ctx d.toNat a.toNat c.toNat
        if g.ll then .done (s.setBank k b (x.push { x.pendingOf (xopFoot (x.image n) d.toNat a.toNat c.toNat) h with
          writes := r.1, flags := r.2, setsFlags := true, xop := some n })) none none
        else .done (s.setBank k b { x with ctx := (r.1.foldl Ctx.writeReg x.ctx).orFlags r.2 }) none none

theorem image_of_loaded {x : Bank} {n : Fin 8} (h : bits x.ctx.binds[n] 0 4 = 1) : x.image n = x.plane[n] := if_pos h

theorem image_of_notLoaded {x : Bank} {n : Fin 8} (h : bits x.ctx.binds[n] 0 4 ≠ 1) : x.image n = none := if_neg h

section

variable {s : State} {k : CoreKey} {b : Fin 2} (n : Fin 8) (d a c : BitVec 6) (h : La)

/-- XOP of a quiet strand waits for a slot in state 2 alone, and on a core without a graph array for none. -/
theorem execXop_quiet (hq : Quiet s k b) (hready : hasGraph k = true → bits (s.bank k b).ctx.binds[n] 0 4 ≠ 2) :
    execXop n d a c h s = .next (s.apply k b (xopAct s k b n d a c h)) := by
  have hgo : (hasGraph k && ((s.bank k b).slotBusy n || bits (s.bank k b).ctx.binds[n] 0 4 == 2)) = false := by
    simpa [slotBusy_of_noPend (quiet_pend hq)] using hready
  have ⟨hissuing, _, _⟩ := hq
  simp only [execXop, hissuing, hgo, Bool.false_eq_true, if_false]
  exact issue_quiet _ _ _ _ _ hq

theorem xopAct_noGraph (hgraph : hasGraph k = false) : xopAct s k b n d a c h = .trap (illegalAt (.xop n d a c h) 15) := by
  simp only [xopAct, hgraph, Bool.not_false, if_true]

variable (hgraph : hasGraph k = true)
include hgraph

theorem xopAct_notLoaded (hstate : bits (s.bank k b).ctx.binds[n] 0 4 ≠ 1) : xopAct s k b n d a c h =
    .trap ⟨.xopUnloaded, BitVec.ofNat 64 n.val, BitVec.ofNat 8 (bits (s.bank k b).ctx.binds[n] 0 4)⟩ := by
  simp only [xopAct, hgraph, image_of_notLoaded hstate, Bool.not_true, Bool.false_eq_true, if_false]

variable {x : XImage} (himage : (s.bank k b).image n = some x) (hcheck : xopCheck x d.toNat a.toNat c.toNat = none)
  {ws : List RegWrite} {fl : Flags} (hrun : xopRun x (s.bank k b).ctx d.toNat a.toNat c.toNat = (ws, fl))
include himage hcheck hrun

theorem xopAct_short (hll : x.ll = false) : xopAct s k b n d a c h =
    .done (s.setBank k b { s.bank k b with ctx := (ws.foldl Ctx.writeReg (s.bank k b).ctx).orFlags fl }) none none := by
  simp only [xopAct, hgraph, himage, hcheck, hrun, hll, Bool.not_true, Bool.false_eq_true, if_false]

theorem xopAct_long (hll : x.ll = true) : xopAct s k b n d a c h =
    .done (s.setBank k b ((s.bank k b).push { (s.bank k b).pendingOf (xopFoot (some x) d.toNat a.toNat c.toNat) h with
      writes := ws, flags := fl, setsFlags := true, xop := some n })) none none := by
  simp only [xopAct, hgraph, himage, hcheck, hrun, hll, Bool.not_true, Bool.false_eq_true, if_false, if_true]

end

/-- Settles O32: the checks of `xopAct` in their order, and for a loaded slot the run that `xopRun_eq` describes. -/
theorem graphOperation : Obligations.GraphOperation := by
  unfold Obligations.GraphOperation
  intro s k b n d a c h x hq bk i st
  refine ⟨fun hk => ?_, fun hk hst1 hst2 => ?_, ?_⟩
  · have hfour : 4 ≤ k % 8 := Nat.le_of_add_le_add_right (b := 4) hk
    have hgraph : hasGraph k = false := decide_eq_false (Nat.not_lt.2 hfour)
    rw [show exec i s = execXop n d a c h s from rfl, execXop_quiet n d a c h hq (by simp [hgraph]), xopAct_noGraph n d a c h hgraph]
    rfl
  · rw [show exec i s = execXop n d a c h s from rfl, execXop_quiet n d a c h hq fun _ => hst2,
      xopAct_notLoaded n d a c h (decide_eq_true hk) hst1]
    rfl
  · intro hk hst hplane hcheck lane lanes res ws fl
    have hgraph : hasGraph k = true := decide_eq_true hk
    have himage : bk.image n = some x := (image_of_loaded hst).trans hplane
    have hrun : xopRun x bk.ctx d.toNat a.toNat c.toNat = (ws, fl) := xopRun_eq x bk.ctx d.toNat a.toNat c.toNat
    have hexec : exec i s = .next (s.apply k b (xopAct s k b n d a c h)) :=
      execXop_quiet n d a c h hq fun _ hreloads => absurd (hst.symm.trans hreloads) (by decide)
    refine ⟨fun hll => ?_, fun hll => ?_⟩
    · rw [hexec, xopAct_short n d a c h hgraph himage hcheck hrun hll]
      exact congrArg _ (apply_done_ctx s k b fun q => (ws.foldl Ctx.writeReg q).orFlags fl)
    · rw [hexec, xopAct_long n d a c h hgraph himage hcheck hrun hll]
      exact congrArg _ (apply_done _ rfl)

end Sys2Proof.Machine

/-! Cluster rings (R239, R242, R243). -/

namespace Sys2Proof.Machine

open Sys2Proof

/-! A word of a cluster's SRAM, and a ring of a cluster. -/

theorem setSramWord_mem (s : State) (c : ClusterKey) (off : Nat) (x : Word) :
    (s.setSramWord c off x).mem = putBytes s.mem (sramBase c + off) (leBytes 8 x.toNat) :=
  store_one_mem s (sramBase c + off) (leBytes 8 x.toNat)

/-- A signal word after n has been added to it modulo 2^64. -/
theorem addSramWord_mem (s : State) (c : ClusterKey) (off n : Nat) :
    (s.setSramWord c off (s.sramWord c off + BitVec.ofNat 64 n)).mem =
      putBytes s.mem (sramBase c + off) (leBytes 8 ((leNat (getBytes s.mem (sramBase c + off) 8) + n) % 2 ^ 64)) := by
  rw [setSramWord_mem, State.sramWord, leWord, ← BitVec.ofNat_add, BitVec.toNat_ofNat]

@[simp] theorem setSramWord_clu (s : State) (c e : ClusterKey) (off : Nat) (x : Word) : (s.setSramWord c off x).clu e = s.clu e := rfl

@[simp] theorem setSramWord_ring (s : State) (c e : ClusterKey) (off i : Nat) (x : Word) : (s.setSramWord c off x).ring e i = s.ring e i := rfl

@[simp] theorem setSramWord_cores (s : State) (c : ClusterKey) (off : Nat) (x : Word) : (s.setSramWord c off x).cores = s.cores := rfl

@[simp] theorem setRing_cores (s : State) (c : ClusterKey) (i : Nat) (r : Ring) : (s.setRing c i r).cores = s.cores := rfl

@[simp] theorem setRing_mem (s : State) (c : ClusterKey) (i : Nat) (r : Ring) : (s.setRing c i r).mem = s.mem := rfl

theorem ring_eq (s : State) (c : ClusterKey) (i : Fin 16) : s.ring c i.val = (s.clu c).rings[i] := by
  simp [State.ring, vget, Vector.getD]

@[simp] theorem ring_setRing_same (s : State) (c : ClusterKey) (i : Fin 16) (r : Ring) : (s.setRing c i.val r).ring c i.val = r := by
  simp [State.ring, State.setRing, vget, Vector.getD]

/-! The frontier (R242). -/

/-- So many consecutive entries are no more than the entries that are written. -/
theorem le_length_of_run {w : List Nat} {f n : Nat} (h : ∀ j < n, f + j ∈ w) : n ≤ w.length := by
  have hsub : List.range' f n ⊆ w := by
    intro m hm
    obtain ⟨hlo, hhi⟩ := List.mem_range'_1.1 hm
    have hj := h (m - f) (by omega)
    rwa [Nat.add_sub_cancel' hlo] at hj
  simpa using (List.subperm_of_subset List.nodup_range' hsub).length_le

theorem frontier_fuel {w : List Nat} {fuel f n : Nat} (hn : n ≤ fuel) (h : ∀ j < n, f + j ∈ w) (hend : f + n ∉ w) :
    frontier fuel f w = (f + n, n) := by
  induction fuel generalizing f n with
  | zero =>
    obtain rfl : n = 0 := Nat.le_zero.1 hn
    rfl
  | succ fuel ih =>
    cases n with
    | zero => simp [frontier, show f ∉ w from hend]
    | succ n =>
      have hnext : frontier fuel (f + 1) w = (f + 1 + n, n) := by
        refine ih (Nat.le_of_succ_le_succ hn) (fun j hj => ?_) ?_
        · have hj := h (j + 1) (Nat.succ_lt_succ hj)
          rwa [Nat.add_comm j, ← Nat.add_assoc] at hj
        · rwa [Nat.add_assoc, Nat.add_comm 1]
      simp [frontier, show f ∈ w from h 0 (Nat.succ_pos n), hnext, Nat.add_assoc, Nat.add_comm 1]

/-- The frontier passes every consecutive written entry. -/
theorem frontier_run {w : List Nat} {f n : Nat} (h : ∀ j < n, f + j ∈ w) (hend : f + n ∉ w) :
    frontier w.length f w = (f + n, n) := frontier_fuel (le_length_of_run h) h hend

/-! The push and the pop at a ring (R242, R243). -/

section

variable {s : State} {c : ClusterKey} {i : Fin 16}

theorem ringPush_full (v : Word) (hmode : (s.ring c i).mode ≠ 1)
    (hfull : (s.ring c i).head.toNat + 2 ^ (s.ring c i).logcap ≤ (s.ring c i).arrival.toNat) :
    s.ringPush c i 0 v = (none, s) := by
  simp only [State.ringPush, hmode, hfull, if_false, if_true]

/-- A push with room takes the ticket of the arrival counter: its entry is written, and frontier and data signal pass the written entries. -/
theorem ringPush_ticket (v : Word) {n : Nat} (hmode : (s.ring c i).mode ≠ 1)
    (hroom : (s.ring c i).arrival.toNat < (s.ring c i).head.toNat + 2 ^ (s.ring c i).logcap)
    (hrun : ∀ j < n, (s.ring c i).front.toNat + j ∈ (s.ring c i).arrival.toNat :: (s.ring c i).written)
    (hend : (s.ring c i).front.toNat + n ∉ (s.ring c i).arrival.toNat :: (s.ring c i).written) :
    let g := s.ring c i
    let t := s.setSramWord c (g.slotOf g.arrival.toNat) v
    let dsig := sramBase c + g.dsig
    ∃ u, s.ringPush c i 0 v = (some g.arrival.toNat, u) ∧ u.cores = s.cores ∧
      u.mem = putBytes t.mem dsig (leBytes 8 ((leNat (getBytes t.mem dsig 8) + n) % 2 ^ 64)) ∧
      (u.ring c i).arrival = g.arrival + 1 ∧ (u.ring c i).front = BitVec.ofNat 64 (g.front.toNat + n) := by
  simp only [State.ringPush, hmode, Nat.not_le.2 hroom, if_false, frontier_run hrun hend]
  exact ⟨_, rfl, by simp, by rw [addSramWord_mem, setRing_mem], by simp, by simp⟩

theorem ringPop_none (h : (s.ring c i).front.toNat ≤ (s.ring c i).head.toNat) : s.ringPop c i = (none, s) := by
  simp only [State.ringPop, Nat.not_lt.2 h, if_false]

/-- A pop takes the value and the ticket of the head, and adds 1 to the space signal. -/
theorem ringPop_some (h : (s.ring c i).head.toNat < (s.ring c i).front.toNat) :
    let g := s.ring c i
    let ssig := sramBase c + g.ssig
    ∃ u, s.ringPop c i = (some (s.sramWord c (g.slotOf g.head.toNat), g.head.toNat), u) ∧ u.cores = s.cores ∧
      u.mem = putBytes s.mem ssig (leBytes 8 ((leNat (getBytes s.mem ssig 8) + 1) % 2 ^ 64)) ∧
      (u.ring c i).head = g.head + 1 := by
  simp only [State.ringPop, h, if_true]
  exact ⟨_, rfl, by simp, addSramWord_mem _ _ _ 1, by simp⟩

end

/-! RQPUSH and RQPOP of a quiet strand. -/

/-- The selector of a ring of the own cluster (R240). -/
theorem selector_local (i : Fin 16) : bits (BitVec.ofNat 64 i.val) 0 4 = i.val ∧ selectorBad (BitVec.ofNat 64 i.val) = false ∧
    (BitVec.ofNat 64 i.val).getLsbD 15 = false := by
  revert i
  decide

section

variable {s : State} {k : CoreKey} {b : Fin 2} {a : SReg} {i : Fin 16}

theorem execRqpush_local (d : DReg) (v : SReg) (hq : Quiet s k b) (howed : s.owedTo k = false)
    (hphase : s.slatePhase k (s.bank k b) = false) (hslate : (s.bank k b).id.slate = false)
    (hsel : (s.bank k b).ctx.s a.val = BitVec.ofNat 64 i.val)
    (hen : (s.ring (clusterOf k) i).en = true) (hmode : (s.ring (clusterOf k) i).mode ≠ 1) {t : Option Nat} {u : State}
    (hpush : s.ringPush (clusterOf k) i 0 ((s.bank k b).ctx.s v.val) = (t, u)) :
    execRqpush d v a s = .next (s.apply k b (t.elim (finish s k b d minus1 none) fun n => finish u k b d (BitVec.ofNat 64 n) none)) := by
  obtain ⟨hring, hgood, hrem⟩ := selector_local i
  have hpre : slatePush d v a s (s.bank k b) k = none := by simp [slatePush, hslate]
  rw [execRqpush, issueWith_quiet _ _ _ _ _ _ hq hpre]
  simp only [hsel, hring, hgood, hrem, howed, hphase, hen, hmode, relWaits_quiet hq (sc := .cl) rfl, hpush, Bool.or_self,
    Bool.false_eq_true, Bool.not_true, if_false]
  cases t <;> rfl

/-- The value and the ticket that a pop delivers: 0 and −1 where it takes none. -/
def poppedWords (t : Option (Word × Nat)) : Word × Word := t.elim (0, minus1) fun p => (p.1, BitVec.ofNat 64 p.2)

theorem execRqpop_local (d e : DReg) (hq : Quiet s k b) (howed : s.owedTo k = false)
    (hphase : s.slatePhase k (s.bank k b) = false) (hsel : (s.bank k b).ctx.s a.val = BitVec.ofNat 64 i.val)
    (hen : (s.ring (clusterOf k) i).en = true)
    (hclean : (s.ring (clusterOf k) i).head.toNat < (s.ring (clusterOf k) i).front.toNat →
      poisoned s.poison (sramBase (clusterOf k) + (s.ring (clusterOf k) i).slotOf (s.ring (clusterOf k) i).head.toNat) 8 = false)
    {t : Option (Word × Nat)} {u : State} (hpop : s.ringPop (clusterOf k) i = (t, u)) :
    execRqpop d e a s = .next (s.apply k b (.done (u.setBank k b { u.bank k b with
      ctx := ((u.bank k b).ctx.setS d.val (poppedWords t).1).setS e.val (poppedWords t).2 }) none none)) := by
  obtain ⟨hring, hgood, hrem⟩ := selector_local i
  have hreadable : ¬((s.ring (clusterOf k) i).head.toNat < (s.ring (clusterOf k) i).front.toNat ∧
      poisoned s.poison (sramBase (clusterOf k) + (s.ring (clusterOf k) i).slotOf (s.ring (clusterOf k) i).head.toNat) 8 = true) :=
    fun ⟨hlt, hbad⟩ => Bool.false_ne_true ((hclean hlt).symm.trans hbad)
  rw [execRqpop, issue_quiet _ _ _ _ _ hq]
  simp only [hsel, hring, hgood, hrem, hphase, hen, hreadable, hpop, howed, quiet_pend hq, List.any_nil, Bool.and_false, Bool.or_self,
    Bool.false_eq_true, Bool.not_true, if_false]
  cases t <;> rfl

end

/-- A step of a strand that completes leaves the rings as its body does. -/
theorem apply_done_ring (s t : State) (k : CoreKey) (b : Fin 2) (goto : Option Word) (c : ClusterKey) (i : Nat) :
    (s.apply k b (.done t goto none)).ring c i = t.ring c i := by
  simp only [State.ring, State.apply, State.complete, State.skidDone]
  rw [(accessFrame_skidStart _ _ _).clu, (accessFrame_skidMore _ _ _).clu, clu_setBank]

/-! The end of a fusion leaves every ring. -/

/-- s and t hold the same rings. -/
def RingsKept (s t : State) : Prop := ∀ c, (t.clu c).rings = (s.clu c).rings

namespace RingsKept

variable {s t u : State}

theorem refl : RingsKept s s := fun _ => rfl

theorem trans (h : RingsKept s t) (h' : RingsKept t u) : RingsKept s u := fun c => (h' c).trans (h c)

theorem foldl {α : Type} (f : State → α → State) (hf : ∀ s a, RingsKept s (f s a)) (l : List α) (s : State) : RingsKept s (l.foldl f s) :=
  List.foldlRecOn l f (motive := RingsKept s) refl fun t h a _ => h.trans (hf t a)

theorem ring (h : RingsKept s t) (c : ClusterKey) (i : Nat) : t.ring c i = s.ring c i := by
  rw [State.ring, State.ring, h c]

end RingsKept

theorem ringsKept_setCore (s : State) (k : CoreKey) (c : Core) : RingsKept s (s.setCore k c) := fun _ => rfl

theorem ringsKept_setBank (s : State) (k : CoreKey) (b : Fin 2) (x : Bank) : RingsKept s (s.setBank k b x) := fun _ => rfl

theorem ringsKept_setQuad (s : State) (d pq : Nat) (q : Quad) : RingsKept s (s.setQuad d pq q) := fun _ => rfl

theorem ringsKept_report (s : State) (kind : Nat) (server sid : Word) (who : StrandId) (ptr : Word) (spid : BitVec 20)
    (words : List Word) : RingsKept s (s.report kind server sid who ptr spid words) := fun _ => rfl

theorem ringsKept_skidPc (s : State) (k : CoreKey) (b : Fin 2) : RingsKept s (s.skidPc k b) := by
  intro c
  unfold State.skidPc
  extract_lets e
  split
  · by_cases hc : c = e
    · rw [hc, clu_setClu_same]
    · rw [clu_setClu_other _ _ _ _ hc]
  · rfl

theorem ringsKept_enterTrap (s : State) (k : CoreKey) (b : Fin 2) (r : TrapRec) : RingsKept s (s.enterTrap k b r) := by
  unfold State.enterTrap
  extract_lets
  split
  · exact ((ringsKept_report _ _ _ _ _ _ _ _).trans (ringsKept_setBank _ _ _ _)).trans (ringsKept_skidPc _ _ _)
  · split
    · exact (ringsKept_setBank _ _ _ _).trans (ringsKept_skidPc _ _ _)
    · exact ((ringsKept_report _ _ _ _ _ _ _ _).trans (ringsKept_setBank _ _ _ _)).trans (ringsKept_skidPc _ _ _)

theorem ringsKept_raise (s : State) (k : CoreKey) (b : Fin 2) (r : TrapRec) : RingsKept s (s.raise k b r) := by
  unfold State.raise
  extract_lets
  split
  · exact ringsKept_enterTrap _ _ _ _
  · exact ringsKept_setBank _ _ _ _

theorem ringsKept_fuseTrap (s : State) (j cause : Nat) (o : FuseOffer) : RingsKept s (s.fuseTrap j cause o) := by
  unfold State.fuseTrap
  split
  · split
    · exact .refl
    · exact (ringsKept_setBank _ _ _ _).trans (ringsKept_raise _ _ _ _)
  · exact .refl

theorem ringsKept_planesBack (s : State) (d pq : Nat) : RingsKept s (s.planesBack d pq) := .foldl _ (fun _ _ => ringsKept_setCore _ _ _) _ _

theorem fusionFails_keeps (s : State) (d pq j cause : Nat) :
    (s.fusionFails d pq j cause).mem = s.mem ∧ RingsKept s (s.fusionFails d pq j cause) := by
  unfold State.fusionFails
  dsimp only
  split
  · exact ⟨rfl, .refl⟩
  · exact ⟨by rw [(trapFrame_fuseTraps _ _ _ _).mem, setQuad_mem, (trapFrame_planesBack s d pq).mem],
      ((ringsKept_planesBack s d pq).trans (ringsKept_setQuad _ _ _ _)).trans (.foldl _ (fun _ _ => ringsKept_fuseTrap _ _ _ _) _ _)⟩

theorem endGone_keeps (s : State) (d pq : Nat) : (s.endGone d pq).mem = s.mem ∧ RingsKept s (s.endGone d pq) := by
  unfold State.endGone
  extract_lets
  split
  · exact fusionFails_keeps _ _ _ _ _
  · exact ⟨rfl, .refl⟩

/-! A write of RCFG (R239). -/

/-- A ring that is enabled in arrival order starts afresh, its data signal at 0 and its space signal at its capacity. -/
theorem writeRcfg_enables (s : State) (c : ClusterKey) (i : Fin 16) {w : Word} (hen : w.getLsbD 63 = true) (hmode : bits w 61 2 ≠ 1)
    (hlo : 3 ≤ bits w 57 4) (hhi : bits w 57 4 ≤ 15) (hfits : bits w 41 16 * 8 + 8 * 2 ^ bits w 57 4 ≤ sramSize) :
    (s.writeRcfg c i.val w).ring c i.val = { s.ring c i.val with
      rcfg := w, head := 0, front := 0, arrival := 0, ranks := Vector.replicate 16 0, written := [] } ∧
    (s.writeRcfg c i.val w).mem = putBytes (putBytes s.mem (sramBase c + bits w 22 16 * 8) (leBytes 8 0))
      (sramBase c + bits w 3 16 * 8) (leBytes 8 (2 ^ bits w 57 4)) := by
  have hcap : (BitVec.ofNat 64 (2 ^ bits w 57 4)).toNat = 2 ^ bits w 57 4 := by
    rw [BitVec.toNat_ofNat, Nat.mod_eq_of_lt (Nat.pow_lt_pow_right (by decide) (by omega))]
  simp only [State.writeRcfg, Ring.en, Ring.mode, Ring.logcap, Ring.base, Ring.dsig, Ring.ssig, hen, hmode, hlo, hhi, hfits, false_implies,
    and_self, if_true, setSramWord_ring, ring_setRing_same, setSramWord_mem, setRing_mem, hcap]
  exact ⟨trivial, rfl⟩

/-- Settles O35: a push and a pop by what `ringPush` and `ringPop` leave; the end of a fusion, which a write of RCFG can bring about, keeps memory and rings. -/
theorem rings : Obligations.Rings := by
  unfold Obligations.Rings
  intro s k b d u v a i w x cl g cap place dsig ssig bump
  have hg : s.ring cl i.val = g := ring_eq s cl i
  refine ⟨fun hq howed hphase hslate hen hsel => ?issues, ?enables⟩
  case issues =>
    have hen' : (s.ring cl i.val).en = true := by rw [hg]; exact hen
    refine ⟨fun hmode => ⟨?full, ?ticket⟩, ?pop, ?nothing⟩
    case full =>
      intro hfull
      have hmode' : (s.ring cl i.val).mode ≠ 1 := by rw [hg]; exact hmode
      have hpush := ringPush_full (s := s) (c := cl) (x.ctx.s v.val) hmode' (by rw [hg]; exact hfull)
      have hexec := execRqpush_local d v hq howed hphase hslate hsel hen' hmode' hpush
      rw [Option.elim_none, apply_finish_same] at hexec
      exact hexec
    case ticket =>
      intro n hroom hrun hend
      have hmode' : (s.ring cl i.val).mode ≠ 1 := by rw [hg]; exact hmode
      have hticket := ringPush_ticket (s := s) (c := cl) (i := i) (n := n) (x.ctx.s v.val) hmode'
      rw [hg] at hticket
      obtain ⟨s1, hpush, hcores, hmem, harrival, hfront⟩ := hticket hroom hrun hend
      have hbank : s1.bank k b = x := by simp only [State.bank, State.core, hcores, x]
      obtain ⟨hmem', hctx, -⟩ := apply_finish s s1 k b d (BitVec.ofNat 64 g.arrival.toNat)
      refine ⟨_, execRqpush_local d v hq howed hphase hslate hsel hen' hmode' hpush, ?_, ?_, ?_, ?_⟩
      · rw [Option.elim_some, hctx, hbank]
      · rw [Option.elim_some, hmem', hmem, setSramWord_mem]
        rfl
      · rw [← ring_eq, Option.elim_some, finish, apply_done_ring]
        exact harrival
      · rw [← ring_eq, Option.elim_some, finish, apply_done_ring]
        exact hfront
    case pop =>
      intro hpoppable hclean
      have htaken := ringPop_some (s := s) (c := cl) (i := i)
      rw [hg] at htaken
      obtain ⟨s1, hpop, hcores, hmem, hhead⟩ := htaken hpoppable
      have hbank : s1.bank k b = x := by simp only [State.bank, State.core, hcores, x]
      have hexec := execRqpop_local d u hq howed hphase hsel hen' (fun _ => by rw [hg]; exact hclean) hpop
      refine ⟨_, hexec, ?_, ?_, ?_⟩
      · rw [apply_done_mem]
        exact hmem
      · rw [← ring_eq, apply_done_ring]
        exact hhead
      · rw [apply_done_bank, advance_ctx, bank_setBank_same, hbank, poppedWords, Option.elim_some, BitVec.ofNat_toNat, BitVec.setWidth_eq]
        rfl
    case nothing =>
      intro hempty
      have hpop : s.ringPop cl i = (none, s) := ringPop_none (by rw [hg]; exact hempty)
      have hexec := execRqpop_local d u hq howed hphase hsel hen' (fun hlt => absurd hlt (by rw [hg]; exact Nat.not_lt.2 hempty)) hpop
      rw [apply_done_ctx s k b fun r => (r.setS d.val (poppedWords none).1).setS u.val (poppedWords none).2] at hexec
      exact hexec
  case enables =>
    intro hen hlo hhi hmode hfits
    obtain ⟨hring, hmem⟩ := writeRcfg_enables s cl i hen hmode hlo hhi hfits
    obtain ⟨hmem', hkept⟩ := endGone_keeps (s.writeRcfg cl i.val w) (quadOf cl).1 (quadOf cl).2
    refine ⟨_, rfl, ?_, hmem'.trans hmem⟩
    rw [← ring_eq]
    exact (hkept.ring cl i.val).trans (by rw [hring, hg])

end Sys2Proof.Machine

/-! Debug control: stops, RUN, single steps (R258 to R260, R321 to R323) and the Ivory trigger (R410 to R412). -/

namespace Sys2Proof.Machine

open Sys2Proof

/-! SCOPE and SCORE (R259). -/

theorem setClu_setClu (s : State) (c : ClusterKey) (x y : Cluster) : (s.setClu c x).setClu c y = s.setClu c y := by
  simp only [State.setClu, insertKey_insertKey]

theorem fields_vctlWord (v : Vermilion) (scope : BitVec 2) (score : Fin 8) {act : Nat} (h : act < 16) :
    v.fields (vctlWord scope score act) = { v with scope := scope, score := score } := by
  obtain ⟨-, hscope, hscore⟩ := bits_vctlWord scope score h
  simp [Vermilion.fields, hscope, hscore]

theorem sameBut_writeFields (s : State) (c : ClusterKey) (w : Word) : SameBut s (s.writeFields c w) :=
  sameBut_ite _ .rfl (sameBut_setClu _ _ _)

theorem writeFields_clu (s : State) (c : ClusterKey) (w : Word) :
    (s.writeFields c w).clu c = { s.clu c with verm := (s.clu c).verm.fields w } := by
  unfold State.writeFields
  extract_lets x v
  split
  · next h => rw [show (s.clu c).verm.fields w = (s.clu c).verm from h]
  · exact clu_setClu_same _ _ _

theorem setClu_writeFields (s : State) (c : ClusterKey) (w : Word) (y : Cluster) : (s.writeFields c w).setClu c y = s.setClu c y := by
  unfold State.writeFields
  extract_lets
  split
  · rfl
  · exact setClu_setClu _ _ _ _

/-! Stops (R258). -/

/-- A cluster is frozen after a freeze if it was, or if it is the one that freezes. -/
theorem freeze_frz (s : State) (c o d : ClusterKey) (reach : BitVec 2) (src : StopSrc) (h : d = c ∨ (s.clu d).verm.frz = true) :
    ((s.freeze c o reach src).clu d).verm.frz = true := by
  unfold State.freeze
  extract_lets x
  by_cases hd : d = c
  · subst hd
    split
    · assumption
    · rw [clu_setClu_same]
  · split
    · exact h.resolve_left hd
    · rw [clu_setClu_other _ _ _ _ hd]
      exact h.resolve_left hd

/-- A stop freezes every cluster of its scope. -/
theorem vermilionStop_frz (s : State) {c d : ClusterKey} {scope : Nat} (src : StopSrc) (hd : d ∈ scopeClusters c scope) :
    ((s.vermilionStop c scope src).clu d).verm.frz = true := by
  have hfold : ∀ (l : List ClusterKey) (t : State), d ∈ l ∨ (t.clu d).verm.frz = true →
      ((l.foldl (fun u e => u.freeze e c (BitVec.ofNat 2 scope) (if e = c then src else .broadcast)) t).clu d).verm.frz = true := by
    intro l
    induction l with
    | nil => exact fun t h => h.resolve_left List.not_mem_nil
    | cons e l ih =>
      intro t h
      obtain hmem | hfrz := h
      · obtain rfl | hmem := List.mem_cons.1 hmem
        · exact ih _ (.inr (freeze_frz _ _ _ _ _ _ (.inl rfl)))
        · exact ih _ (.inl hmem)
      · exact ih _ (.inr (freeze_frz _ _ _ _ _ _ (.inr hfrz)))
  exact hfold _ s (.inl hd)

theorem exec_stop (s : State) (c : ClusterKey) (scope : BitVec 2) : exec (.stop c scope) s =
    .next ((s.writeFields c (vctlWord scope (s.clu c).verm.score 8)).vermilionStop c scope.toNat .debugger) := by
  obtain ⟨hact, hscope, -⟩ := bits_vctlWord scope (s.clu c).verm.score (show 8 < 16 by decide)
  change execStop c scope s = _
  simp only [execStop, State.writeVctl, hact, hscope]

/-! RUN (R259, R323). -/

theorem lookupD_map {α : Type} (f : α → α) {d : α} (hd : f d = d) (l : List (Nat × α)) (n : Nat) :
    lookupD d (l.map fun e => (e.1, f e.2)) n = f (lookupD d l n) := by
  induction l with
  | nil => exact hd.symm
  | cons e l ih =>
    simp only [List.map_cons, lookupD, ih]
    split <;> rfl

theorem coresFrame_emptied (s : State) (k : CoreKey) : CoresFrame s (s.emptied k) := by
  unfold State.emptied
  extract_lets
  split <;> rfl

theorem CoresFrame.clu {s t : State} (h : CoresFrame s t) (c : ClusterKey) : t.clu c = s.clu c := by
  unfold CoresFrame at h
  rw [h]
  rfl

theorem CoresFrame.foldl {α : Type} (f : State → α → State) (hf : ∀ s a, CoresFrame s (f s a)) (l : List α) (s : State) :
    CoresFrame s (l.foldl f s) :=
  List.foldlRecOn l f (motive := CoresFrame s) rfl fun t h a _ => h.trans (hf t a)

theorem coresFrame_emptiedCores (s : State) (c : ClusterKey) : CoresFrame s (s.emptiedCores c) :=
  .foldl _ (fun _ _ => coresFrame_emptied _ _) _ _

/-- The stop that froze a cluster is the one that the end of a stop ends: the cluster is no longer frozen. -/
theorem endStop_ends (s : State) {c : ClusterKey} (hf : (s.clu c).verm.frz = true) :
    (s.endStop c).mem = s.mem ∧ ((s.endStop c).clu c).verm.frz = false := by
  unfold State.endStop
  extract_lets v mine cs s1
  rw [if_neg (by rw [show v.frz = true from hf]; decide)]
  have hframe : CoresFrame s1 (cs.foldl State.emptiedCores s1) := .foldl _ coresFrame_emptiedCores _ _
  have hmap : s1.clusters = s.clusters.map fun e => (e.1, if mine e.2 then { e.2 with verm := e.2.verm.run } else e.2) :=
    List.map_congr_left fun e _ => by split <;> rfl
  have hclu : s1.clu c = if mine (s.clu c) then { s.clu c with verm := (s.clu c).verm.run } else s.clu c := by
    rw [State.clu, hmap]
    exact lookupD_map (fun x => if mine x then { x with verm := x.verm.run } else x) rfl _ _
  have hmine : mine (s.clu c) = true := by simp [mine, v, hf]
  refine ⟨hframe.mem, ?_⟩
  rw [hframe.clu, hclu, if_pos hmine]
  rfl

theorem exec_run (s : State) (c : ClusterKey) : exec (.run c) s = .next (s.endStop c) := by
  have hact := (bits_vctlWord (s.clu c).verm.scope (s.clu c).verm.score (show 4 < 16 by decide)).1
  change execRun c s = _
  simp only [execRun, State.writeVctl, hact, writeFields_same s c (show 4 < 16 by decide)]

theorem endStop_running {s : State} {c : ClusterKey} (hf : (s.clu c).verm.frz = false) : s.endStop c = s := by
  simp [State.endStop, hf]

/-! Single steps (R260, R323). -/

/-- The core's skid record is valid. -/
def State.skidValid (s : State) (c : ClusterKey) (r : Nat) : Bool := (vget (s.clu c).skid ⟨0, 0⟩ r).w1.getLsbD 2

theorem writeVctl_step (s : State) (c : ClusterKey) (scope : BitVec 2) (score : Fin 8) :
    s.writeVctl c (vctlWord scope score 1) = if (s.clu c).verm.frz && s.skidValid c score.val
      then (s.writeFields c (vctlWord scope score 1)).stepBegins c else s := by
  obtain ⟨hact, -, hscore⟩ := bits_vctlWord scope score (show 1 < 16 by decide)
  simp only [State.writeVctl, hact, hscore]
  rfl

theorem writeVctl_step_ignored {s : State} {c : ClusterKey} (scope : BitVec 2) {score : Fin 8}
    (h : (s.clu c).verm.frz = false ∨ s.skidValid c score.val = false) : s.writeVctl c (vctlWord scope score 1) = s := by
  rw [writeVctl_step, if_neg]
  obtain h | h := h <;> simp [h]

theorem writeVctl_rtick_ignored {s : State} {c : ClusterKey} (scope : BitVec 2) (score : Fin 8) (h : (s.clu c).verm.frz = false) :
    s.writeVctl c (vctlWord scope score 2) = s := by
  have hact := (bits_vctlWord scope score (show 2 < 16 by decide)).1
  simp [State.writeVctl, hact, h]

/-- The cluster after a write of VCTL that keeps SCOPE. -/
theorem writeFields_score (s : State) (c : ClusterKey) (score : Fin 8) {act : Nat} (h : act < 16) :
    (s.writeFields c (vctlWord (s.clu c).verm.scope score act)).clu c = { s.clu c with verm := { (s.clu c).verm with score := score } } := by
  rw [writeFields_clu, fields_vctlWord _ _ _ h]

section

variable {s : State} {c : ClusterKey} {score : Fin 8} (hfrz : (s.clu c).verm.frz = true) (hvalid : s.skidValid c score.val = true)
include hfrz hvalid

theorem exec_step_begins : exec (.step c score) s =
    .next ((s.writeFields c (vctlWord (s.clu c).verm.scope score 1)).stepBegins c) := by
  change Host.Outcome.next (s.writeVctl c (vctlWord (s.clu c).verm.scope score 1)) = _
  rw [writeVctl_step, hfrz, hvalid, Bool.and_self, if_pos rfl]

/-- A step written during another writes SCORE alone. -/
theorem exec_step_during (hstep : (s.clu c).verm.stepping ≠ none) : ∃ t, exec (.step c score) s = .next t ∧ t.mem = s.mem ∧
    t.cores = s.cores ∧ t.clu c = { s.clu c with verm := { (s.clu c).verm with score := score } } := by
  have hclu := writeFields_score s c score (show 1 < 16 by decide)
  have hsame := sameBut_writeFields s c (vctlWord (s.clu c).verm.scope score 1)
  have hstay : (s.writeFields c (vctlWord (s.clu c).verm.scope score 1)).stepBegins c =
      s.writeFields c (vctlWord (s.clu c).verm.scope score 1) := by
    simp only [State.stepBegins, hclu, Option.isSome_iff_ne_none.2 hstep, if_true]
  exact ⟨_, (exec_step_begins hfrz hvalid).trans (by rw [hstay]), hsame.mem, hsame.cores, hclu⟩

/-- A step written while none is under way: it ends at once where the strand is blocked, and else is under way. -/
theorem exec_step_idle (hstep : (s.clu c).verm.stepping = none) :
    let k := s.coreAt c score.val
    let y := (s.core k).bank (s.core k).ab
    exec (.step c score) s = .next (s.setClu c { s.clu c with verm := if y.wait.elim false WaitKind.blocks
      then { (s.clu c).verm with score := score, stepst := .blocked, stepping := none }
      else { (s.clu c).verm with score := score, stepst := .none, grace := false, stepping := some (k, y.nIssued, y.ctx.tb.tstat) } }) := by
  intro k y
  have hclu := writeFields_score s c score (show 1 < 16 by decide)
  have hcore : ∀ j, (s.writeFields c (vctlWord (s.clu c).verm.scope score 1)).core j = s.core j := fun j => by
    simp only [State.core, (sameBut_writeFields s c _).cores]
  have hat : (s.writeFields c (vctlWord (s.clu c).verm.scope score 1)).coreAt c score.val = k := by
    simp only [State.coreAt, hclu, k]
  rw [exec_step_begins hfrz hvalid]
  simp only [State.stepBegins, State.stepOver, hclu, hat, hcore, hstep, Option.isSome_none, Bool.false_eq_true, if_false, setClu_writeFields]
  split <;> rfl

end

/-- The time of a step is over: it ends STALLED where its instruction is held, has not issued and does not block. -/
theorem exec_stepTimeout_stepping {s : State} {c : ClusterKey} {j : CoreKey} {n : Nat} {w : Word}
    (hstep : (s.clu c).verm.stepping = some (j, n, w)) :
    let z := (s.core j).bank (s.core j).ab
    exec (.stepTimeout c) s = .next (if z.nIssued ≤ n ∧ z.held = true ∧ z.wait.elim false WaitKind.blocks = false
      then s.stepOver c .stalled else s) := by
  intro z
  change execStepTimeout c s = _
  simp only [execStepTimeout, hstep]
  split <;> rfl

theorem exec_stepTimeout_idle {s : State} {c : ClusterKey} (hstep : (s.clu c).verm.stepping = none) :
    exec (.stepTimeout c) s = .next s := by
  change execStepTimeout c s = _
  simp only [execStepTimeout, hstep]

/-! The Ivory trigger (R410 to R412). -/

theorem ivoryFire_busy {s : State} (src : Fin 5) (iss : BitVec 24) (h : s.ivory.st ≠ 0) : s.ivoryFire src iss = s :=
  if_neg fun hfire => h hfire.2

theorem sameBut_linkSnap (s : State) (l : Fin 4) : SameBut s (s.linkSnap l) := ⟨rfl, rfl, rfl, rfl, rfl, rfl, rfl⟩

/-- The latch that is due: the trigger latches, and MSI-X vector 4 is raised. -/
theorem ivoryLatch_due {s : State} (hst : s.ivory.st = 1) (htick : s.ivory.armedAt.toNat + 2 ≤ s.tick.toNat) :
    s.ivoryLatch.mem = s.mem ∧ s.ivoryLatch.ivory.st = 2 ∧ s.ivoryLatch.ivory.tick = s.ivory.armedAt + 2 ∧
      s.ivoryLatch.msix.getLsbD 4 = true := by
  unfold State.ivoryLatch
  rw [if_pos ⟨hst, htick⟩]
  extract_lets pk s1 s2 s3
  have h1 : SameBut s s1 := sameBut_foldl _ (fun t c => sameBut_setClu _ _ _) _ _
  have h2 : SameBut s1 s2 := sameBut_foldl _ sameBut_linkSnap _ _
  exact ⟨h2.mem.trans h1.mem, rfl, rfl, by simp [State.raiseMsix]⟩

theorem ivoryLatch_notDue {s : State} (h : s.ivory.st ≠ 1) : s.ivoryLatch = s := if_neg fun hdue => h hdue.1

/-- Settles O51: a stop by its freezes, RUN by the end of the stop that froze the cluster, and a step by what a write of SCORE leaves. -/
theorem debugControl : Obligations.DebugControl := by
  unfold Obligations.DebugControl
  intro s c scope score v k y valid blocked fired
  refine ⟨fun d hd => ⟨?stop, ?pin⟩, ?runIdle, ?run, ?stepIgnored, ?stepDuring, ?ignored, ?stepIdle, exec_stepTimeout_idle, ?timeout,
    ?idle, ?latched, ?armed⟩
  case stop =>
    have hstop : SameBut s _ := (sameBut_writeFields s c (vctlWord scope v.score 8)).trans (sameBut_vermilionStop _ c scope.toNat .debugger)
    exact ⟨_, exec_stop s c scope, hstop.mem, vermilionStop_frz _ _ hd⟩
  case pin => exact ⟨_, rfl, (sameBut_vermilionStop _ _ _ _).mem, vermilionStop_frz _ _ hd⟩
  case runIdle =>
    intro hf
    rw [exec_run, endStop_running hf]
  case run =>
    intro hf
    obtain ⟨hmem, hfrz⟩ := endStop_ends s hf
    exact ⟨_, exec_run s c, hmem, hfrz⟩
  case stepIgnored => exact fun h => congrArg _ (writeVctl_step_ignored _ h)
  case stepDuring => exact exec_step_during
  case ignored => exact fun hf => ⟨writeVctl_step_ignored scope (.inl hf), writeVctl_rtick_ignored scope score hf⟩
  case stepIdle =>
    intro hf hvalid hstep
    have hexec := exec_step_idle hf hvalid hstep
    exact ⟨fun hb => hexec.trans (by rw [if_pos hb]), fun hb => hexec.trans (by rw [if_neg (Bool.eq_false_iff.1 hb)])⟩
  case timeout =>
    intro j n w hstep z
    have hexec := exec_stepTimeout_stepping hstep
    refine ⟨fun hends => hexec.trans (congrArg _ (if_neg fun ⟨hn, hheld, hb⟩ => ?_)),
      fun hn hheld hb => hexec.trans (congrArg _ (if_pos ⟨hn, hheld, hb⟩))⟩
    obtain h | h | h := hends
    · exact absurd hn (Nat.not_le.2 h)
    · exact Bool.false_ne_true (h.symm.trans hheld)
    · exact Bool.false_ne_true (hb.symm.trans h)
  case idle =>
    intro hst
    have hne1 : s.ivory.st ≠ 1 := by rw [hst]; decide
    have hne2 : s.ivory.st ≠ 2 := by rw [hst]; decide
    exact ⟨congrArg _ (if_pos ⟨rfl, hst⟩), fun hon => congrArg _ (if_pos ⟨hon, hst⟩),
      fun hoff => congrArg _ (if_neg fun hfire => Bool.false_ne_true (hoff.symm.trans hfire.1)),
      congrArg _ (if_neg hne2), congrArg _ (ivoryLatch_notDue hne1)⟩
  case latched =>
    intro hst
    exact ⟨congrArg _ (if_pos hst), congrArg _ (ivoryFire_busy 4 0 (by rw [hst]; decide))⟩
  case armed =>
    intro hst
    exact ⟨congrArg _ (ivoryFire_busy 4 0 (by rw [hst]; decide)), fun htick => ⟨_, rfl, ivoryLatch_due hst htick⟩⟩

end Sys2Proof.Machine

/-! The tile, status and scale commands (R273 to R277). -/

namespace Sys2Proof.Machine

open Sys2Proof

/-! Tiles and scale columns. -/

theorem tileAt_setTile_same (x : Cluster) (slice n : Nat) (t : Tile) : (x.setTile slice n t).tileAt slice n = t :=
  lookupD_insertKey_same _ _ _ _

theorem tileAt_setTile_other (x : Cluster) {slice n slice' n' : Nat} (t : Tile) (h : slice' * 16 + n' ≠ slice * 16 + n) :
    (x.setTile slice n t).tileAt slice' n' = x.tileAt slice' n' := lookupD_insertKey_other _ _ _ _ h _

@[simp] theorem tileAt_setCmd (x : Cluster) (m : Cmd) (slice n : Nat) : (x.setCmd m).tileAt slice n = x.tileAt slice n := rfl

/-- The tiles n and n' of a slice exchanged (R275). -/
def Cluster.swapTiles (x : Cluster) (slice n n' : Nat) : Cluster :=
  (x.setTile slice n (x.tileAt slice n')).setTile slice n' (x.tileAt slice n)

theorem tileAt_swapTiles (x : Cluster) (slice n n' : Nat) :
    (x.swapTiles slice n n').tileAt slice n = x.tileAt slice n' ∧ (x.swapTiles slice n n').tileAt slice n' = x.tileAt slice n := by
  refine ⟨?_, tileAt_setTile_same _ _ _ _⟩
  by_cases h : n = n'
  · rw [h]
    exact tileAt_setTile_same _ _ _ _
  · rw [Cluster.swapTiles, tileAt_setTile_other _ _ (by omega), tileAt_setTile_same]

/-- Values written at places from base on. -/
def putAll (base : Nat) (bs : List (Byte × Nat)) (l : List (Nat × Byte)) : List (Nat × Byte) :=
  bs.foldl (fun l e => insertKey (base + e.2) e.1 l) l

theorem lookupD_putAll_other {d : Byte} {base k : Nat} {bs : List (Byte × Nat)} (l : List (Nat × Byte)) (h : ∀ e ∈ bs, k ≠ base + e.2) :
    lookupD d (putAll base bs l) k = lookupD d l k := by
  induction bs generalizing l with
  | nil => rfl
  | cons e bs ih =>
    rw [putAll, List.foldl_cons, ← putAll, ih _ fun e' he => h e' (List.mem_cons_of_mem _ he),
      lookupD_insertKey_other _ _ _ _ (h e List.mem_cons_self)]

theorem lookupD_putAll_mem {d : Byte} {base : Nat} {bs : List (Byte × Nat)} (l : List (Nat × Byte)) (hnd : (bs.map Prod.snd).Nodup)
    {e : Byte × Nat} (he : e ∈ bs) : lookupD d (putAll base bs l) (base + e.2) = e.1 := by
  induction bs generalizing l with
  | nil => cases he
  | cons e' bs ih =>
    obtain ⟨hnew, hnd⟩ := List.nodup_cons.1 hnd
    rw [putAll, List.foldl_cons, ← putAll]
    rcases List.mem_cons.1 he with rfl | he
    · rw [lookupD_putAll_other, lookupD_insertKey_same]
      intro e' he' heq
      exact hnew (List.mem_map.2 ⟨e', he', by omega⟩)
    · exact ih _ hnd he

/-- Column col of scale memory replaced by 64 bytes (R277). -/
def Cluster.setScales (x : Cluster) (col : Nat) (bs : List Byte) : Cluster :=
  { x with scale := putAll (col * 64) (bs.zip (List.range 64)) x.scale }

theorem scaleAt_setScales_same (x : Cluster) (col : Nat) {bs : List Byte} {j : Nat} (hlen : bs.length = 64) (hj : j < 64) :
    (x.setScales col bs).scaleAt col j = bs.getD j 0 := by
  have hnd : ((bs.zip (List.range 64)).map Prod.snd).Nodup := by
    rw [List.map_snd_zip (by simp [hlen])]
    exact List.nodup_range
  have hmem : (bs.getD j 0, j) ∈ bs.zip (List.range 64) := by
    refine List.mem_iff_getElem.2 ⟨j, by simp [hlen, hj], ?_⟩
    simp [List.getD_eq_getElem?_getD, hlen, hj]
  exact lookupD_putAll_mem x.scale hnd hmem

theorem scaleAt_setScales_other (x : Cluster) {col col' : Nat} (bs : List Byte) {j : Nat} (hj : j < 64) (hcol : col' ≠ col) :
    (x.setScales col bs).scaleAt col' j = x.scaleAt col' j := by
  refine lookupD_putAll_other x.scale fun e he heq => ?_
  have hlt : e.2 < 64 := List.mem_range.1 (List.of_mem_zip he).2
  omega

/-! Accesses of an engine. -/

theorem accessFrame_engineRead {s s1 : State} {v : View} {p n w : Nat} {bs : List Byte} (h : s.engineRead v p n w = .ok (bs, s1)) :
    AccessFrame s s1 := by
  obtain ⟨⟨bs', s1', t⟩, hread, h⟩ := chk_bind_ok h
  cases h
  obtain ⟨pl, -, h⟩ := chk_bind_ok hread
  dsimp only at h
  split at h
  · cases h
  · obtain ⟨ps, -, h⟩ := chk_bind_ok h
    split at h
    · cases h
    · cases h
      exact accessFrame_served _ _ _ _ _ _

/-! A step that makes no access to another package. -/

/-- The command after a step that leaves it otherwise as it is. -/
def Cmd.counted (m : Cmd) : Cmd := { m with pch := m.pch + 1, st := if m.steps ≤ m.pch + 1 then .finished else .running }

/-- The step goes on with the memory of t, it counts, and its cluster is what g makes of t's. -/
def StepMaps (r : Next) (c : ClusterKey) (i : Nat) (m : Cmd) (t : State) (g : Cluster → Cluster) : Prop :=
  ∃ u, r = .next u ∧ u.mem = t.mem ∧ (u.clu c).cmd i = some m.counted ∧ u.clu c = (g (t.clu c)).setCmd m.counted

section

variable {s t : State} {c : ClusterKey} {i : Nat} {m : Cmd} {o : Op} {f : State → Cmd → StepR}

theorem engineStep_done (hr : s.RunsStep c i m o) (hf : f s m = .ok (t, m)) : engineStep s c i o f = .next (t.stepDone c m m) :=
  stepWith_done hr (by rw [hf]; rfl)

theorem stepDone_clu : (t.stepDone c m m).clu c = (t.clu c).setCmd m.counted := clu_setClu_same _ _ _

theorem mapClu_clu (f : Cluster → Cluster) : (t.mapClu c f).clu c = f (t.clu c) := clu_setClu_same _ _ _

/-- A step that changes its cluster by g, and no command in it. -/
theorem engineStep_mapClu {g : Cluster → Cluster} (hr : s.RunsStep c i m o) (hf : f s m = .ok (t.mapClu c g, m))
    (hcmds : (g (t.clu c)).cmds = (s.clu c).cmds) : StepMaps (engineStep s c i o f) c i m t g := by
  obtain ⟨hm, -⟩ := id hr
  have hclu : ((t.mapClu c g).stepDone c m m).clu c = (g (t.clu c)).setCmd m.counted := by rw [stepDone_clu, mapClu_clu]
  refine ⟨_, engineStep_done hr hf, rfl, ?_, hclu⟩
  rw [hclu]
  exact cmd_setCmd (m := m) (by simpa only [Cluster.cmd, hcmds] using hm) rfl

end

/-! Status words (R276). -/

theorem replaceFlags_leWord (w : Word) (bs : List Byte) : replaceFlags w (leWord bs) = setBits w 0 5 (leNat bs % 32) := by
  rw [replaceFlags, leWord, bits, BitVec.toNat_ofNat, pow_zero, Nat.div_one, Nat.mod_mod_of_dvd _ (by decide)]
  rfl

/-- The flags of a tile's status word replaced by those of another word. -/
def Cluster.replaceTileFlags (x : Cluster) (slice n : Nat) (new : Word) : Cluster :=
  let t := x.tileAt slice n
  x.setTile slice n { t with status := replaceFlags t.status new }

/-- The flags of an accumulator's status word replaced by those of another word. -/
def Cluster.replaceOqFlags (x : Cluster) (n : Nat) (new : Word) : Cluster :=
  let q := vget x.oq Oq.reset n
  { x with oq := x.oq.setIfInBounds n { q with status := replaceFlags q.status new } }

theorem tileAt_replaceTileFlags (x : Cluster) (slice n : Nat) (bs : List Byte) :
    (x.replaceTileFlags slice n (leWord bs)).tileAt slice n =
      { x.tileAt slice n with status := setBits (x.tileAt slice n).status 0 5 (leNat bs % 32) } := by
  rw [Cluster.replaceTileFlags, tileAt_setTile_same, replaceFlags_leWord]

/-- Flags as they join a status word (R53). -/
theorem flagsWord_eq (fl : Flags) : (fl.setWidth 5 : BitVec 5).setWidth 64 = BitVec.ofNat 64 (fl.toNat % 32) := by
  apply BitVec.eq_of_toNat_eq
  simp

theorem orStatus_eq (t : Tile) (fl : Flags) : t.orStatus fl = t.status ||| BitVec.ofNat 64 (fl.toNat % 32) := by
  rw [Tile.orStatus, flagsWord_eq]

theorem oq_getD (x : Cluster) (n : Nat) : x.oq[n]?.getD Oq.reset = vget x.oq Oq.reset n := by
  simp [vget, Vector.getD]

theorem oq_replaceOqFlags (x : Cluster) {n : Nat} (h : n < 2) (bs : List Byte) :
    (x.replaceOqFlags n (leWord bs)).oq[n]? =
      some { x.oq[n]?.getD Oq.reset with status := setBits (x.oq[n]?.getD Oq.reset).status 0 5 (leNat bs % 32) } := by
  rw [oq_getD, ← replaceFlags_leWord]
  exact Vector.getElem?_setIfInBounds_self_of_lt h

/-! The commands. -/

section

variable {s s1 s2 : State} {c : ClusterKey} {i : Nat} {m : Cmd} {bs : List Byte}

theorem execMzero_step (hr : s.RunsStep c i m .mzero) :
    StepMaps (execMzero c i s) c i m s fun x => x.setTile m.q.val (CmdWords.tile m.words) Tile.reset :=
  engineStep_mapClu hr rfl rfl

theorem execMswap_step (hr : s.RunsStep c i m .mswap) :
    StepMaps (execMswap c i s) c i m s fun x => x.swapTiles m.q.val (CmdWords.tile m.words) (CmdWords.tile2 m.words) :=
  engineStep_mapClu hr rfl rfl

section

variable (hr : s.RunsStep c i m .mdrain)
include hr

theorem execMdrain_row (hpch : m.pch < 31)
    (hw : s.engineWrite m.view (CmdWords.p2 m.words + 16 * CmdWords.ldd m.words * m.pch) 1
      (drainRow ((s.clu c).tileAt m.q.val (CmdWords.tile m.words)) (CmdWords.dfmt m.words) m.pch).1 = .ok s1) :
    execMdrain c i s = .next (s1.stepDone c m m) := by
  refine engineStep_done hr ?_
  simp only [hw, hpch, bind, Except.bind, pure, Except.pure, if_true]

theorem execMdrain_last (hpch : m.pch = 31)
    (hw : s.engineWrite m.view (CmdWords.p2 m.words + 16 * CmdWords.ldd m.words * 31) 1
      (drainRow ((s.clu c).tileAt m.q.val (CmdWords.tile m.words)) (CmdWords.dfmt m.words) m.pch).1 = .ok s1)
    (hw2 : s1.engineWrite m.view (CmdWords.p2 m.words + 512 * CmdWords.ldd m.words) 8
      (leBytes 8 (((s.clu c).tileAt m.q.val (CmdWords.tile m.words)).orStatus
        (drainFlags ((s.clu c).tileAt m.q.val (CmdWords.tile m.words)) (CmdWords.dfmt m.words))).toNat) = .ok s2) :
    execMdrain c i s = .next (s2.stepDone c m m) := by
  refine engineStep_done hr ?_
  simp only [hpch] at hw
  simp only [hpch, hw, hw2, bind, Except.bind, pure, Except.pure, Nat.lt_irrefl, if_false]

end

theorem execMscale_step (hr : s.RunsStep c i m .mscale) (hread : s.engineRead m.view (CmdWords.p1 m.words + 64 * m.pch) 64 16 = .ok (bs, s1)) :
    StepMaps (execMscale c i s) c i m s1 fun x => x.setScales (CmdWords.firstCol m.words + m.pch) bs := by
  refine engineStep_mapClu hr ?_ ((accessFrame_engineRead hread).cmds c)
  simp only [hread, bind, Except.bind]
  rfl

section

variable (hr : s.RunsStep c i m .msts)
include hr

theorem execMsts_writes (hwr : CmdWords.wr m.words = false)
    (hw : s.engineWrite m.view (CmdWords.p1 m.words) 8 (leBytes 8 (if CmdWords.oqs m.words
      then (vget (s.clu c).oq Oq.reset (CmdWords.tile m.words % 2)).status
      else ((s.clu c).tileAt m.q.val (CmdWords.tile m.words)).status).toNat) = .ok s1) :
    execMsts c i s = .next (s1.stepDone c m m) := by
  refine engineStep_done hr ?_
  simp only [hwr, hw, bind, Except.bind]
  rfl

variable (hwr : CmdWords.wr m.words = true)
include hwr

theorem execMsts_tile (hoqs : CmdWords.oqs m.words = false) (hread : s.engineRead m.view (CmdWords.p1 m.words) 8 8 = .ok (bs, s1)) :
    StepMaps (execMsts c i s) c i m s1 fun x => x.replaceTileFlags m.q.val (CmdWords.tile m.words) (leWord bs) := by
  refine engineStep_mapClu hr ?_ ((accessFrame_engineRead hread).cmds c)
  simp only [hwr, hoqs, hread, bind, Except.bind]
  rfl

theorem execMsts_accumulator (hoqs : CmdWords.oqs m.words = true) (hread : s.engineRead m.view (CmdWords.p1 m.words) 8 8 = .ok (bs, s1)) :
    StepMaps (execMsts c i s) c i m s1 fun x => x.replaceOqFlags (CmdWords.tile m.words % 2) (leWord bs) := by
  refine engineStep_mapClu hr ?_ ((accessFrame_engineRead hread).cmds c)
  simp only [hwr, hoqs, hread, bind, Except.bind]
  rfl

end

end

/-- Settles O40: each command is an engine's step; MZERO, MSWAP, MSCALE and a written status change their cluster alone, the others write memory. -/
theorem tileCommands : Obligations.TileCommands := by
  unfold Obligations.TileCommands
  intro s s1 s2 c i m bs w v q tile runs after old row fl counted
  refine ⟨fun hr => ?_, fun hr => ?_, fun hr hpch hw => ?_, fun hr hpch hw hw2 => ?_, fun hr hcol hlen hread => ?_, fun hr hwr hw => ?_,
    fun hr hwr hoqs hread => ?_, fun hr hwr hoqs hread => ?_⟩
  · obtain ⟨t, hexec, hmem, hcount, hclu⟩ := execMzero_step hr
    exact ⟨t, hexec, hmem, hcount, by rw [hclu]; exact tileAt_setTile_same _ _ _ _⟩
  · obtain ⟨t, hexec, hmem, hcount, hclu⟩ := execMswap_step hr
    obtain ⟨hnew, hold⟩ := tileAt_swapTiles (s.clu c) q tile (bits w[3] 56 4)
    exact ⟨t, hexec, hmem, hcount, by rw [hclu]; exact hnew, by rw [hclu]; exact hold⟩
  · exact execMdrain_row hr hpch hw
  · rw [← orStatus_eq] at hw2
    exact execMdrain_last hr hpch hw hw2
  · obtain ⟨t, hexec, hmem, hcount, hclu⟩ := execMscale_step hr hread
    refine ⟨t, hexec, hmem, hcount, fun j hj => ?_, fun col j hj hne => ?_⟩
    · rw [hclu]
      exact scaleAt_setScales_same _ _ hlen hj
    · rw [hclu]
      exact scaleAt_setScales_other _ _ hj hne
  · exact execMsts_writes hr hwr (by rwa [← oq_getD])
  · obtain ⟨t, hexec, hmem, hcount, hclu⟩ := execMsts_tile hr hwr hoqs hread
    exact ⟨t, hexec, hmem, hcount, by rw [hclu]; exact tileAt_replaceTileFlags _ _ _ _⟩
  · obtain ⟨t, hexec, hmem, hcount, hclu⟩ := execMsts_accumulator hr hwr hoqs hread
    exact ⟨t, hexec, hmem, hcount, by rw [hclu]; exact oq_replaceOqFlags _ (Nat.mod_lt _ (by decide)) _⟩

end Sys2Proof.Machine

/-! The chunks of a matrix gang (R265, R272). -/

namespace Sys2Proof.Machine

open Sys2Proof

theorem bits_lt (w : Word) (lo len : Nat) : bits w lo len < 2 ^ len := Nat.mod_lt _ (by positivity)

/-! What a chunk makes of a tile. -/

/-- Element p of a member's tile after a chunk, with its flags: the row of A and the column of B that the place p names, multiplied with their scales, summed and added (R46). -/
def Cluster.chunkEl (x : Cluster) (o : Op) (wm w0 : CmdWords) (k0 k1 : Nat) (as bs : List (List Nat)) (t : Tile) (p : Nat) : Nat × Flags :=
  let (ta, tb, f) := o.mmaTypes
  let cols := o.pair.2.2.1
  chunkElement f (productsOf ((as.getD (p / cols) []).map ta.read) ((bs.getD (p % cols) []).map tb.read)
    (x.scalesOf o wm w0 (p / cols) (p % cols) k0 k1)) (t.el p)

/-- The row n of a table whose rows are mapped. -/
theorem getD_map_map {α β : Type} (l : List (List α)) (g : α → β) (n : Nat) : (l.map fun r => r.map g).getD n [] = (l.getD n []).map g :=
  List.getD_map l [] fun r : List α => r.map g

theorem chunkTile_data (x : Cluster) (o : Op) (wm w0 : CmdWords) (k0 k1 : Nat) (as bs : List (List Nat)) (t : Tile) :
    (x.chunkTile o wm w0 k0 k1 as bs t).data =
      (List.range (32 * o.pair.2.2.1)).map fun p => BitVec.ofNat 64 (x.chunkEl o wm w0 k0 k1 as bs t p).1 := by
  simp only [Cluster.chunkTile, Cluster.chunkEl, List.map_map, getD_map_map]
  rfl

theorem chunkTile_status (x : Cluster) (o : Op) (wm w0 : CmdWords) (k0 k1 : Nat) (as bs : List (List Nat)) (t : Tile) :
    (x.chunkTile o wm w0 k0 k1 as bs t).status = (List.range (32 * o.pair.2.2.1)).foldl
      (fun a p => a ||| BitVec.ofNat 64 ((x.chunkEl o wm w0 k0 k1 as bs t p).2.toNat % 32)) t.status := by
  simp only [Cluster.chunkTile, Cluster.chunkEl, List.foldl_map, getD_map_map, flagsWord_eq]

/-- A chunk reads of its cluster the scale memory alone. -/
theorem chunkTile_congr {x y : Cluster} (h : y.scale = x.scale) (o : Op) (wm w0 : CmdWords) (k0 k1 : Nat) (as bs : List (List Nat)) (t : Tile) :
    y.chunkTile o wm w0 k0 k1 as bs t = x.chunkTile o wm w0 k0 k1 as bs t := by
  simp only [Cluster.chunkTile, Cluster.scalesOf, Cluster.scaleAt, h]

/-! The members of a gang, one after the other. -/

/-- What a chunk makes of its cluster at one member: its tile, and its step counted. -/
def Cluster.chunkMember (o : Op) (w0 : CmdWords) (k0 k1 : Nat) (b : List (List Nat)) (x : Cluster) (e : Cmd × List (List Nat)) : Cluster :=
  let wm : CmdWords := e.1.words
  (x.setTile e.1.q.val wm.tile (x.chunkTile o wm w0 k0 k1 e.2 b (x.tileAt e.1.q.val wm.tile))).setCmd e.1.counted

section

variable (o : Op) (w0 : CmdWords) (k0 k1 : Nat) (b : List (List Nat))

theorem tileAt_chunkMembers_other {as : List (Cmd × List (List Nat))} {slice n : Nat} (hn : n < 16)
    (h : slice ∉ as.map fun e => e.1.q.val) (x : Cluster) :
    (as.foldl (Cluster.chunkMember o w0 k0 k1 b) x).tileAt slice n = x.tileAt slice n := by
  induction as generalizing x with
  | nil => rfl
  | cons e as ih =>
    obtain ⟨hne, hrest⟩ : slice ≠ e.1.q.val ∧ slice ∉ as.map fun e => e.1.q.val :=
      not_or.1 fun h' => h (List.mem_cons.2 h')
    have htile : CmdWords.tile e.1.words < 16 := bits_lt _ _ 4
    rw [List.foldl_cons, ih hrest, Cluster.chunkMember, tileAt_setCmd, tileAt_setTile_other _ _ (by omega)]

/-- Members of different slices leave each other's tiles. -/
theorem tileAt_chunkMembers {as : List (Cmd × List (List Nat))} (hnd : (as.map fun e => e.1.q.val).Nodup) (x : Cluster)
    {e : Cmd × List (List Nat)} (he : e ∈ as) :
    (as.foldl (Cluster.chunkMember o w0 k0 k1 b) x).tileAt e.1.q.val (CmdWords.tile e.1.words) =
      x.chunkTile o e.1.words w0 k0 k1 e.2 b (x.tileAt e.1.q.val (CmdWords.tile e.1.words)) := by
  induction as generalizing x with
  | nil => cases he
  | cons e' as ih =>
    obtain ⟨hnew, hnd⟩ := List.nodup_cons.1 hnd
    have htile : CmdWords.tile e.1.words < 16 := bits_lt _ _ 4
    rw [List.foldl_cons]
    rcases List.mem_cons.1 he with rfl | he
    · rw [tileAt_chunkMembers_other o w0 k0 k1 b htile hnew, Cluster.chunkMember, tileAt_setCmd, tileAt_setTile_same]
    · have hne : e.1.q.val ≠ e'.1.q.val := fun heq => hnew (List.mem_map.2 ⟨e, he, heq⟩)
      have htile' : CmdWords.tile e'.1.words < 16 := bits_lt _ _ 4
      have hother : (x.chunkMember o w0 k0 k1 b e').tileAt e.1.q.val (CmdWords.tile e.1.words) =
          x.tileAt e.1.q.val (CmdWords.tile e.1.words) := by
        rw [Cluster.chunkMember, tileAt_setCmd, tileAt_setTile_other _ _ (by omega)]
      rw [ih hnd _ he, hother]
      exact chunkTile_congr rfl _ _ _ _ _ _ _ _

/-- Each member's command takes its own place. -/
theorem cmds_chunkMembers {as : List (Cmd × List (List Nat))} (hnd : (as.map fun e => e.1.id).Nodup) (x : Cluster) :
    (as.foldl (Cluster.chunkMember o w0 k0 k1 b) x).cmds =
      x.cmds.map fun y => ((as.find? fun e => e.1.id == y.id).map fun e => e.1.counted).getD y := by
  induction as generalizing x with
  | nil => simp
  | cons e as ih =>
    obtain ⟨hnew, hnd⟩ := List.nodup_cons.1 hnd
    have hmember : (x.chunkMember o w0 k0 k1 b e).cmds = x.cmds.map fun y => if y.id = e.1.id then e.1.counted else y := rfl
    rw [List.foldl_cons, ih hnd, hmember, List.map_map]
    refine List.map_congr_left fun y _ => ?_
    by_cases hy : y.id = e.1.id
    · have hnone : (as.find? fun e' => e'.1.id == e.1.counted.id) = none := by
        rw [List.find?_eq_none]
        intro e' he' heq
        exact hnew (List.mem_map.2 ⟨e', he', by simpa [Cmd.counted] using heq⟩)
      simp [hy, hnone]
    · simp [hy, Ne.symm hy]

end

/-! The chunk. -/

/-- The A operands are read for the members in their order. -/
theorem readAs_members {c : ClusterKey} {ea k0 k1 : Nat} {ms : List Cmd} {s s1 : State} {as : List (Cmd × List (List Nat))}
    (h : readAs c ea k0 k1 ms s = .ok (as, s1)) : as.map Prod.fst = ms := by
  induction ms generalizing s as with
  | nil => cases h; rfl
  | cons m ms ih =>
    obtain ⟨⟨a, t⟩, -, h⟩ := chk_bind_ok h
    obtain ⟨⟨l, u⟩, hl, h⟩ := chk_bind_ok h
    cases h
    rw [List.map_cons, ih hl]

/-- A chunk whose operands can be read. -/
theorem gangStep_chunk {s s1 s2 : State} {c : ClusterKey} {i : Nat} {m : Cmd} {o : Op} {ea eb cols ch : Nat}
    {as : List (Cmd × List (List Nat))} {b : List (List Nat)} (hpair : o.pair = (ea, eb, cols, ch)) (hm : (s.clu c).cmd i = some m)
    (hst : m.st = .running) (hop : m.op = some o) (hgang : m.gang.isSome = true) (hq : m.q = 0) (hfrz : (s.clu c).verm.frz = false)
    (hlen : ((s.clu c).members m).length = 4)
    (ha : readAs c ea (m.pch * ch) (min (m.pch * ch + ch) (CmdWords.k m.words)) ((s.clu c).members m) s = .ok (as, s1))
    (hb : readB s1 m eb cols (m.pch * ch) (min (m.pch * ch + ch) (CmdWords.k m.words)) = .ok (b, s2)) :
    gangStep s c i o = .next (s2.setClu c (as.foldl
      (Cluster.chunkMember o m.words (m.pch * ch) (min (m.pch * ch + ch) (CmdWords.k m.words)) b) (s2.clu c))) := by
  have hgone : m.gang.isNone = false := by simpa using hgang
  have hgo : ((s.clu c).verm.frz || m.st != .running || m.op != some o || m.gang.isNone || m.q != 0 ||
      ((s.clu c).members m).length != 4) = false := by simp [hfrz, hst, hop, hgone, hq, hlen]
  simp only [gangStep, hm, hgo, hpair, ha, hb, bind, Except.bind, pure, Except.pure]
  rfl

/-- Settles O39: the members stand in different slices, so that each one's tile is `chunkTile` of what the cluster held before the chunk. -/
theorem matrixChunks : Obligations.MatrixChunks := by
  unfold Obligations.MatrixChunks
  intro s s1 s2 c i m as b x w0 ms chunk
  have hchunk : ∀ op o ea eb cols ch ta tb f tag, exec op s = gangStep s c i o → o.pair = (ea, eb, cols, ch) → o.mmaTypes = (ta, tb, f) →
      tag = (if o = .mmaDd then .f64 else .f32) → chunk op o ea eb cols ch ta tb f tag := by
    intro op o ea eb cols ch ta tb f tag hexec hpair htypes htag hm hst hop hgang hq hfrz hslices ha hb
    have hlen : ms.length = 4 := by simpa using congrArg List.length hslices
    have hmembers : as.map Prod.fst = ms := readAs_members ha
    have hnd : (as.map fun e => e.1.q.val).Nodup := by
      have : (as.map fun e => e.1.q.val) = [0, 1, 2, 3] := by rw [← hslices, ← hmembers, List.map_map]; rfl
      rw [this]
      decide
    refine ⟨_, hexec.trans (gangStep_chunk hpair hm hst hop hgang hq hfrz hlen ha hb), rfl, fun e he => ?_, fun hids => ?_⟩
    · have htile := tileAt_chunkMembers o w0 (m.pch * ch) (min (m.pch * ch + ch) (CmdWords.k w0)) b hnd (s2.clu c) he
      have hdata := chunkTile_data (s2.clu c) o e.1.words w0 (m.pch * ch) (min (m.pch * ch + ch) (CmdWords.k w0)) e.2 b
        ((s2.clu c).tileAt e.1.q.val (CmdWords.tile e.1.words))
      have hstatus := chunkTile_status (s2.clu c) o e.1.words w0 (m.pch * ch) (min (m.pch * ch + ch) (CmdWords.k w0)) e.2 b
        ((s2.clu c).tileAt e.1.q.val (CmdWords.tile e.1.words))
      simp only [Cluster.chunkEl, hpair, htypes] at hdata hstatus
      rw [clu_setClu_same]
      rw [← htile] at hdata hstatus
      exact ⟨(congrArg Tile.tag htile).trans htag.symm, hdata, hstatus⟩
    · rw [clu_setClu_same]
      have hids' : (as.map fun e => e.1.id).Nodup := by rw [← hmembers, List.map_map] at hids; exact hids
      refine (cmds_chunkMembers o _ _ _ b hids' _).trans (List.map_congr_left fun y _ => ?_)
      cases as.find? fun e => e.1.id == y.id <;> rfl
  exact ⟨hchunk _ _ _ _ _ _ _ _ _ _ rfl rfl rfl rfl, hchunk _ _ _ _ _ _ _ _ _ _ rfl rfl rfl rfl, hchunk _ _ _ _ _ _ _ _ _ _ rfl rfl rfl rfl,
    hchunk _ _ _ _ _ _ _ _ _ _ rfl rfl rfl rfl, hchunk _ _ _ _ _ _ _ _ _ _ rfl rfl rfl rfl, hchunk _ _ _ _ _ _ _ _ _ _ rfl rfl rfl rfl,
    hchunk _ _ _ _ _ _ _ _ _ _ rfl rfl rfl rfl⟩

end Sys2Proof.Machine

/-! FUSE of a strand on a core past the package's dies (R343). -/

namespace Sys2Proof.Machine

open Sys2Proof

/-- Past the four dies of the package every quad reads as at reset, whatever the state (R324). -/
theorem quad_beyond (s : State) {d : Nat} (pq : Nat) (h : 4 ≤ d) : s.quad d pq = Quad.reset := by
  have hdie : s.die d = Die.reset := by
    by_contra hne
    exact absurd (lt_of_die_ne_reset hne) (Nat.not_lt.2 h)
  rw [State.quad, hdie]
  rfl

/-- The package at reset, but that a strand is bound in bank 0 of core 7937 and issues next. By the numbers of the cores, 1984 to a die, that core would be core 1 of quad 0 of a fifth die. -/
def strandBeyond : State :=
  { State.reset with cores := [(7937, { Core.reset with b0 := { Bank.empty with st := .bound } })], cur := 7937 }

theorem quiet_strandBeyond : Quiet strandBeyond 7937 0 := by unfold Quiet; decide +kernel

/-- Refutes O37: the strand of `strandBeyond` meets every hypothesis of the clause of FUSE's offer, and no state holds an offer in a quad of die 4. The statement nowhere asks that the core's die be one of the package's four. -/
theorem not_gangAndFusion : ¬ Obligations.GangAndFusion := by
  intro h
  obtain ⟨-, -, -, -, -, hoffer, -⟩ := h strandBeyond 7937 0 0 0 quiet_strandBeyond
  have hnone : (strandBeyond.quad (quadOf (clusterOf 7937)).1 (quadOf (clusterOf 7937)).2).offers = [] :=
    congrArg Quad.offers (quad_beyond _ _ (by decide))
  obtain ⟨hheld, -⟩ := hoffer (by decide +kernel) (by rw [hnone]; simp) (by decide +kernel) (by decide +kernel)
    (fun hj => absurd hj (by decide +kernel))
  obtain ⟨t, -, -, -, -, hoffers, -⟩ := hheld (by rw [hnone]; simp [insertKey])
  rw [hnone, quad_beyond t _ (by decide)] at hoffers
  cases hoffers

end Sys2Proof.Machine

namespace Sys2Proof.Machine

open Sys2Proof

/-! These proofs are elaborated one after another: as tasks that wait for each other they would hold a stack each, more than the check has memory for. -/
set_option Elab.async false

/-! The invariant of O59. Memory is written by `putByte` alone, and PENV, PTOK, FRTO and FSHARE by the entries of BAR0, which hold them between
their limits; every other operation keeps what the invariant reads (`State.limited`), or is built of operations that do. Each lemma `inv_f` says that
what `f` leaves meets the invariant where the state before does, `keeps_f` the same of a result that holds a state. -/

/-- What the invariant speaks of: memory, and the registers that the spec limits. -/
def State.limited (s : State) : List Host.Cell × BitVec 12 × BitVec 10 × BitVec 4 × BitVec 16 × BitVec 4 :=
  (s.mem, s.ctl.env, s.disp.budget, s.fab.nsend, s.fab.tmo, s.fab.w2)

/-- What the invariant asks of them. -/
def Limits (x : List Host.Cell × BitVec 12 × BitVec 10 × BitVec 4 × BitVec 16 × BitVec 4) : Prop :=
  Memory.wf x.1 = true ∧ (2200 ≤ x.2.1.toNat ∧ x.2.1.toNat ≤ 3200) ∧ x.2.2.1.toNat ≤ 960 ∧
    (x.2.2.2.1 ≠ 0 ∧ x.2.2.2.2.1 ≠ 0) ∧ x.2.2.2.2.2 ≠ 0

theorem inv_iff_limits {s : State} : s.Inv ↔ Limits s.limited :=
  ⟨fun ⟨a, b, c, d, e⟩ => ⟨a, b, c, d, e⟩, fun ⟨a, b, c, d, e⟩ => ⟨a, b, c, d, e⟩⟩

theorem inv_def {s : State} : s.Inv ↔ Limits (s.mem, s.ctl.env, s.disp.budget, s.fab.nsend, s.fab.tmo, s.fab.w2) :=
  inv_iff_limits

theorem State.Inv.same {s t : State} (h : s.Inv) (e : t.limited = s.limited) : t.Inv := by
  rw [inv_iff_limits] at *
  rwa [e]

/-- What an instruction does keeps the invariant. -/
def Act.Keeps : Act → Prop
  | .trapAt s _ | .hold s | .done s _ _ => s.Inv
  | .wait | .stall _ | .trap _ => True

theorem ok_bind_iff {ε α β : Type} {x : Except ε α} {f : α → Except ε β} {r : β} : (x >>= f) = .ok r ↔ ∃ a, x = .ok a ∧ f a = .ok r := by
  cases x <;> simp [bind, Except.bind]
theorem error_bind_iff {ε α β : Type} {x : Except ε α} {f : α → Except ε β} {e : ε} :
    (x >>= f) = .error e ↔ x = .error e ∨ ∃ a, x = .ok a ∧ f a = .error e := by
  cases x <;> simp [bind, Except.bind]
theorem except_pure {ε α : Type} {a : α} : (pure a : Except ε α) = .ok a := rfl
theorem except_throw {ε α : Type} {e : ε} : (throw e : Except ε α) = .error e := rfl

/-- What an access leaves meets the invariant. -/
def Access.Keeps : Access → Prop
  | .made _ _ _ s _ => s.Inv
  | .stop _ | .late _ _ | .far _ => True

/-! Invariant: the state, its accesses, requests and the fabric send path. -/

section
variable {s t : State} {k : CoreKey} {b : Fin 2} {c : ClusterKey} {v : View} {m : Cmd} {f : Foot} {bs : List Byte} {w : StrandAt}

theorem inv_setCore {x : Core} (h : s.Inv) : (s.setCore k x).Inv := h.same rfl
theorem inv_setClu {x : Cluster} (h : s.Inv) : (s.setClu c x).Inv := h.same rfl
theorem inv_setDie {d : Nat} {x : Die} (h : s.Inv) : (s.setDie d x).Inv := h.same rfl
theorem inv_setBank {x : Bank} (h : s.Inv) : (s.setBank k b x).Inv := h.same rfl
theorem inv_draw (h : s.Inv) : s.draw.2.Inv := h.same rfl
theorem inv_mem (h : s.Inv) {m : List Host.Cell} (hm : Memory.wf m = true) : ({ s with mem := m } : State).Inv := ⟨hm, h.env, h.budget, h.sends, h.share⟩

/-- Bytes written keep the canonical form. -/
theorem inv_put {loc : Nat} (h : s.Inv) : (s.put loc bs).Inv :=
  (inv_mem h (putBytes_wf bs s.mem loc h.mem)).same rfl

theorem inv_foldl {α : Type} {g : State → α → State} {l : List α} (h : s.Inv) (hg : ∀ t a, t.Inv → (g t a).Inv) : (l.foldl g s).Inv := by
  induction l generalizing s with
  | nil => exact h
  | cons a l ih => exact ih (hg s a h)

theorem inv_foldlFst {α β : Type} {g : State × β → α → State × β} {l : List α} {a : State × β} (h : a.1.Inv)
    (hg : ∀ y x, y.1.Inv → (g y x).1.Inv) : (l.foldl g a).1.Inv := by
  induction l generalizing a with
  | nil => exact h
  | cons x l ih => exact ih (hg a x h)

theorem inv_store {ps : List (Nat × Nat)} (h : s.Inv) : (s.store ps bs).Inv := by
  induction ps generalizing s bs with
  | nil => exact h
  | cons q l ih => exact ih (inv_put h)

theorem inv_setStrand {x : Bank} (h : s.Inv) : (s.setStrand w x).Inv := by
  unfold State.setStrand
  grind [inv_setCore, inv_setBank]

theorem inv_writeRegion {wsp : Nat} {c : Ctx} (h : s.Inv) : (s.writeRegion k wsp c).Inv := by
  unfold State.writeRegion
  grind [inv_put]

theorem inv_spilled (h : s.Inv) : (s.spilled k).Inv := by
  unfold State.spilled
  grind [inv_writeRegion]

theorem inv_setRegionWord {i : Nat} {x : Word} (h : s.Inv) : (s.setRegionWord w i x).Inv := by
  unfold State.setRegionWord
  grind [inv_setStrand, inv_put]

theorem inv_keepLeaf {d : Nat} {spid : BitVec 20} {va : Nat} (h : s.Inv) : (s.keepLeaf d spid va).Inv := by
  unfold State.keepLeaf
  grind [inv_setDie]

theorem inv_sendPacket {j target : Nat} {p : Packet} (h : s.Inv) : (s.sendPacket j target p).Inv := by
  unfold State.sendPacket
  grind [inv_def]

theorem inv_farSend {grp : Option (BitVec 16 × Word)} {pl : Place} {op : PacketOp} (h : s.Inv) {i : Nat} (e : s.farSend k grp pl op bs = .ok (i, t)) : t.Inv := by
  unfold State.farSend at e
  split at e
  · obtain ⟨j, -, e⟩ := ok_bind_iff.1 e
    grind [except_pure, inv_def, inv_sendPacket]
  · cases e

theorem inv_farSends {grp : Option (BitVec 16 × Word)} {l : List (Place × PacketOp × List Byte)} (h : s.Inv) {is : List Nat} (e : s.farSends k grp l = .ok (is, t)) : t.Inv := by
  induction l generalizing s is with
  | nil => cases e; exact h
  | cons x l ih =>
    obtain ⟨⟨i, s1⟩, hx, e⟩ := ok_bind_iff.1 e
    obtain ⟨⟨is, s2⟩, hl, e⟩ := ok_bind_iff.1 e
    cases e
    exact ih (inv_farSend h hx) hl

theorem inv_ivoryFire {src : Fin 5} {iss : BitVec 24} (h : s.Inv) : (s.ivoryFire src iss).Inv := by
  unfold State.ivoryFire
  grind [inv_def]

theorem inv_freeze {origin : ClusterKey} {reach : BitVec 2} {src : StopSrc} (h : s.Inv) : (s.freeze c origin reach src).Inv := by
  unfold State.freeze
  grind [inv_setClu]

theorem inv_sameBut (h : s.Inv) (e : SameBut s t) : t.Inv :=
  h.same (by simp only [State.limited, e.mem, e.ctl, e.disp, e.fab])

theorem inv_vermilionStop {scope : Nat} {src : StopSrc} (h : s.Inv) : (s.vermilionStop c scope src).Inv :=
  inv_sameBut h (sameBut_vermilionStop _ _ _ _)

theorem inv_served {p : Nat} {pl : Place} {m : Nat} {a : Acc} (h : s.Inv) : (s.served v p pl m a).1.Inv :=
  inv_sameBut h (sameBut_served _ _ _ _ _ _)

theorem inv_readAt {p n w : Nat} (h : s.Inv) {y0 : List Byte} {y2 : Option Trap} (e : s.readAt v p n w = .ok (y0, t, y2)) : t.Inv := by
  grind [State.readAt, ok_bind_iff, except_pure, except_throw, inv_served]

theorem inv_writeAt {p w : Nat} (h : s.Inv) (e : s.writeAt v p w bs = .ok t) : t.Inv := by
  grind [State.writeAt, ok_bind_iff, except_pure, inv_store, inv_served]

theorem inv_addAt {p : Nat} {x : Word} (h : s.Inv) (e : s.addAt v p x = .ok t) : t.Inv := by
  grind [State.addAt, ok_bind_iff, except_pure, inv_store, inv_served]

theorem inv_raiseMsix {n : Nat} (h : s.Inv) : (s.raiseMsix n).Inv := by
  unfold State.raiseMsix
  grind [inv_def]

theorem inv_makeOwed {o : Owed} (h : s.Inv) (e : s.makeOwed o = .ok t) : t.Inv := by
  cases ha : o.act <;> simp only [State.makeOwed, ha] at e
  case record => grind [ok_bind_iff, except_pure, inv_put, inv_raiseMsix]
  all_goals
    rw [ok_bind_iff] at e
    obtain ⟨u, hu, e⟩ := e
    split at hu
    · rw [ok_bind_iff] at hu
      obtain ⟨-, -, hu⟩ := hu
      rw [ok_bind_iff] at hu
      obtain ⟨x, hx, hu⟩ := hu
      cases hu
      cases e
      exact inv_farSend h hx
    · cases hu
      grind [inv_writeAt, inv_addAt]

theorem inv_owe {o : Owed} (h : s.Inv) : (s.owe o).Inv := by
  unfold State.owe
  grind [inv_def, inv_makeOwed]

theorem inv_flushFrom {l : List Owed} (h : s.Inv) : (s.flushFrom l).Inv := by
  induction l generalizing s with
  | nil => exact h.same rfl
  | cons o l ih => grind [State.flushFrom, inv_def, inv_makeOwed]

theorem inv_flushOwed (h : s.Inv) : s.flushOwed.Inv := by
  unfold State.flushOwed
  grind [inv_flushFrom]

theorem inv_report {kind : Nat} {server sid : Word} {who : StrandId} {ptr : Word} {spid : BitVec 20} {words : List Word} (h : s.Inv) : (s.report kind server sid who ptr spid words).Inv := by
  unfold State.report
  grind [inv_def]

theorem inv_skidPc (h : s.Inv) : (s.skidPc k b).Inv := by
  unfold State.skidPc
  grind [inv_setClu]

theorem inv_enterTrap {r0 : TrapRec} (h : s.Inv) : (s.enterTrap k b r0).Inv := by
  unfold State.enterTrap
  grind [inv_setBank, inv_report, inv_skidPc]

theorem inv_raise {r0 : TrapRec} (h : s.Inv) : (s.raise k b r0).Inv := by
  unfold State.raise
  grind [inv_setBank, inv_enterTrap]

theorem inv_setOp {o : FabricOp} (h : s.Inv) : (s.setOp o).Inv := by
  unfold State.setOp
  grind [inv_def]

theorem inv_copyCuts {o : FabricOp} {l : List (Nat × Nat)} (h : s.Inv) : (s.copyCuts o l).1.Inv := by
  induction l generalizing s o with
  | nil => exact h
  | cons x l ih => grind [State.copyCuts, inv_sendPacket]

theorem inv_copyPayload {o : FabricOp} (h : s.Inv) : (s.copyPayload o).Inv := by
  unfold State.copyPayload
  grind [inv_setOp, inv_copyCuts]

theorem inv_pump (h : s.Inv) : s.pump.Inv :=
  (inv_foldl h fun _ _ => inv_copyPayload : State.Inv _).same rfl

theorem inv_farAnswered {ids : List Nat} (h : s.Inv) : (s.farAnswered ids).Inv := by
  unfold State.farAnswered
  grind [inv_def, inv_pump]

theorem inv_addOp {o : FabricOp} (h : s.Inv) : (s.addOp o).Inv := by
  unfold State.addOp
  grind [inv_def]

theorem inv_ask {a : AskBy} {who : StrandId} {fsrv : Word} {opc p n : Nat} (h : s.Inv) (e : s.ask a v who fsrv opc p n bs = .ok t) : t.Inv := by
  grind [State.ask, ok_bind_iff, except_pure, inv_sendPacket, inv_copyPayload, inv_addOp]

theorem inv_dropAsks {a : AskBy} (h : s.Inv) : (s.dropAsks a).Inv := by
  unfold State.dropAsks
  grind [inv_def, inv_ask]

theorem inv_sendEgress (h : s.Inv) : s.sendEgress.Inv := by
  unfold State.sendEgress
  grind [inv_def]

theorem inv_skidMore {m : Nat} (h : s.Inv) : (s.skidMore k m).Inv := by
  unfold State.skidMore
  grind [inv_setClu]

theorem inv_skidIssue (h : s.Inv) : (s.skidIssue k).Inv := by
  unfold State.skidIssue
  grind [inv_skidMore]

theorem inv_skidDone {bk : Bank} (h : s.Inv) : (s.skidDone k bk).Inv := by
  unfold State.skidDone
  grind [inv_skidMore]

theorem inv_skidBlocks (h : t.Inv) : (t.skidBlocks s k b).Inv := by
  unfold State.skidBlocks
  grind [inv_skidDone]

theorem inv_skidStart (h : t.Inv) : (t.skidStart s k).Inv := by
  unfold State.skidStart
  grind [inv_setClu]

theorem inv_complete {goto : Option Word} {watch : Option Trap} (h : s.Inv) : (s.complete k b goto watch).Inv := by
  unfold State.complete
  grind [inv_setBank, inv_raise, inv_skidDone]

theorem inv_trapNow {ty : Trap} (h : s.Inv) : (s.trapNow k b ty).Inv := by
  unfold State.trapNow
  grind [inv_setBank, inv_raise, inv_skidDone]

theorem inv_holdIssue (h : s.Inv) : (s.holdIssue k b).Inv := by
  unfold State.holdIssue
  grind [Act.Keeps, inv_setBank]

theorem inv_apply {a : Act} (h : s.Inv) (ha : a.Keeps) : (s.apply k b a).Inv := by
  cases a <;> grind [State.apply, Act.Keeps, inv_holdIssue, inv_setBank, inv_skidBlocks, inv_skidStart, inv_complete, inv_trapNow]

theorem inv_issueWith {pre : Bank → CoreKey → Option Trap} {body : State → CoreKey → Fin 2 → Act} (h : s.Inv)
    (hb : ∀ k b, (body s k b).Keeps) (e : issueWith s f pre body = .next t) : t.Inv := by
  grind [issueWith, inv_trapNow, inv_holdIssue, inv_apply]

theorem inv_issue {body : State → CoreKey → Fin 2 → Act} (h : s.Inv) (hb : ∀ k b, (body s k b).Keeps)
    (e : issue s f body = .next t) : t.Inv := inv_issueWith h hb e

theorem inv_issueReg {g : Word → Ctx → Except Trap (Ctx × Option Word)} (h : s.Inv) (e : issueReg s f g = .next t) : t.Inv := by
  refine inv_issue h (fun k b => ?_) e
  dsimp only
  split
  · trivial
  · exact inv_setBank h

theorem inv_issueMap {g : Ctx → Ctx} (h : s.Inv) (e : issueMap s f g = .next t) : t.Inv := inv_issueReg h e

theorem inv_issueLong {l : La} {fl : Bool} {g : Ctx → Ctx × List RegWrite × Flags} (h : s.Inv) (e : issueLong s f l fl g = .next t) : t.Inv :=
  inv_issue h (fun _ _ => by exact inv_setBank h) e

theorem keeps_stop {st : Stop} {p : Word} : (st.act p).Keeps := by cases st <;> trivial

theorem keeps_strandRead {p n w : Nat} {a : Acc} (h : s.Inv) : (s.strandRead v p n w a).Keeps := by
  grind [State.strandRead, Access.Keeps, inv_served]

theorem keeps_loadAct {l : La} {p : Word} {n : Nat} {d : DReg} {sg : Bool} (h : s.Inv) : (loadAct s k b f l p n d sg).Keeps := by
  have hr := keeps_strandRead (v := s.view k b) (p := p.toNat) (n := n) (w := n) (a := .read) h
  unfold loadAct
  dsimp only
  split
  · exact keeps_stop
  · exact inv_setBank h
  · split
    · trivial
    split
    · exact keeps_stop
    next hs => exact inv_setBank (inv_farSend h hs)
  next hm =>
    rw [hm] at hr
    split
    · trivial
    · exact inv_setBank hr

theorem keeps_storeAct {lanes : List (Word × List Byte)} (h : s.Inv) : (storeAct s k b lanes).Keeps := by
  unfold storeAct
  dsimp only
  split
  · exact keeps_stop
  · split
    · trivial
    split
    · refine inv_foldlFst (a := (s, none)) h fun a x ha => ?_
      split
      · exact inv_store (inv_served ha)
      · exact ha
    split
    · trivial
    · exact inv_setBank h


end

/-! Invariant: the issue of an instruction and the register instructions. -/

section
variable {s t : State} {k : CoreKey} {b : Fin 2} {c : ClusterKey} {v : View} {m : Cmd} {f : Foot} {bs : List Byte} {w : StrandAt}

theorem inv_issueEnd {i : Instr} {g : Word → Ctx → Except Trap (Ctx × Option Word)} (h : s.Inv) (e : issueEnd s i f g = .next t) : t.Inv := by
  unfold issueEnd at e
  refine inv_issue h (fun k b => ?_) e
  clear e
  grind [Act.Keeps, inv_setBank]

theorem inv_execLoopEnd (h : s.Inv) (e : execLoopEnd k b s = .next t) : t.Inv := by
  grind [execLoopEnd, inv_setBank, inv_skidPc]

theorem inv_issueLoad {d : DReg} {b : WReg} {o : BitVec 7} {l : La} {n : Nat} {signed : Bool} (h : s.Inv) (e : issueLoad s d b o l n signed = .next t) : t.Inv := by
  unfold issueLoad at e
  refine inv_issue h (fun k b => ?_) e
  clear e
  grind [Act.Keeps, keeps_loadAct]

theorem inv_issueStore {r0 : SReg} {b : WReg} {o : BitVec 12} {n : Nat} (h : s.Inv) (e : issueStore s r0 b o n = .next t) : t.Inv := by
  unfold issueStore at e
  refine inv_issue h (fun k b => ?_) e
  clear e
  grind [Act.Keeps, keeps_storeAct]

theorem inv_readLanes {eb : Nat} {old : Lanes} {l : List (Nat × Word × Place × List (Nat × Nat))} (h : s.Inv) : (readLanes s v eb old l).2.1.Inv := by
  induction l generalizing s old with
  | nil => exact h
  | cons x l ih => exact ih (inv_served h)

theorem keeps_vectorLoad {l : La} {d : VReg} {eb : Nat} {lanes : List (Nat × Word)} (h : s.Inv) : (vectorLoad s k b f l d eb lanes).Keeps := by
  unfold vectorLoad
  dsimp only
  split
  · exact keeps_stop
  split
  · trivial
  split
  · trivial
  next hmade =>
    split
    · trivial
    split
    · trivial
    next hsend =>
      refine inv_setBank (inv_farSends ?_ hsend)
      split at hmade <;> cases hmade
      · exact h
      · exact inv_readLanes h

theorem inv_execVld {d : VReg} {e0 : EWid} {b : WReg} {x : BitVec 6} {m : MReg} {l : La} (h : s.Inv) (e : execVld d e0 b x m l s = .next t) : t.Inv := by
  unfold execVld at e
  refine inv_issue h (fun k b => ?_) e
  clear e
  grind [Act.Keeps, keeps_vectorLoad]

theorem inv_execVlds {d : VReg} {e0 : EWid} {b : WReg} {x : SReg} {m : MReg} {l : La} (h : s.Inv) (e : execVlds d e0 b x m l s = .next t) : t.Inv := by
  unfold execVlds at e
  refine inv_issue h (fun k b => ?_) e
  clear e
  grind [Act.Keeps, keeps_vectorLoad]

theorem inv_execVldx {d : VReg} {e0 : EWid} {b : WReg} {x : VSrc} {m : MReg} {l : La} (h : s.Inv) (e : execVldx d e0 b x m l s = .next t) : t.Inv := by
  unfold execVldx at e
  refine inv_issue h (fun k b => ?_) e
  clear e
  grind [Act.Keeps, keeps_vectorLoad]

theorem inv_execVst {r0 : VSrc} {e0 : EWid} {b : WReg} {x : BitVec 6} {m : MReg} (h : s.Inv) (e : execVst r0 e0 b x m s = .next t) : t.Inv := by
  unfold execVst at e
  refine inv_issue h (fun k b => ?_) e
  clear e
  grind [Act.Keeps, keeps_storeAct]

theorem inv_execVstx {r0 : VSrc} {e0 : EWid} {b : WReg} {x : VSrc} {m : MReg} (h : s.Inv) (e : execVstx r0 e0 b x m s = .next t) : t.Inv := by
  unfold execVstx at e
  refine inv_issue h (fun k b => ?_) e
  clear e
  grind [Act.Keeps, keeps_storeAct]

theorem keeps_atomicAct {ft : Foot} {l : La} {p : Word} {n : Nat} {d : DReg} {scope : Scope} {fl : Bool} {op : PacketOp} {g : Nat → Nat × Flags} (h : s.Inv) :
    (atomicAct s k b ft l p n d scope fl op g).Keeps := by
  unfold atomicAct
  repeat' split
  all_goals grind [Act.Keeps, inv_setBank, inv_store, inv_farSend, inv_served, keeps_stop]

theorem inv_issueAtomic {op : AtomOp} {d : DReg} {c : SReg} {b : WReg} {ty : ATy} {sc : Scope} {l : La} (h : s.Inv) (e : issueAtomic s op d c b ty sc l = .next t) : t.Inv := by
  unfold issueAtomic at e
  refine inv_issue h (fun k b => ?_) e
  clear e
  grind [Act.Keeps, keeps_atomicAct]

theorem inv_execAfadd {d : DReg} {c : SReg} {b : WReg} {ty : FTy2} {sc : Scope} {l : La} (h : s.Inv) (e : execAfadd d c b ty sc l s = .next t) : t.Inv := by
  unfold execAfadd at e
  exact inv_issueWith h (fun k b => keeps_atomicAct h) e

theorem inv_execFence {kd : FenceKind} {sc : Scope} (h : s.Inv) (e : execFence kd sc s = .next t) : t.Inv := by
  unfold execFence at e
  refine inv_issue h (fun k b => ?_) e
  clear e
  grind [Act.Keeps]

theorem inv_storeLanes {l : List (Word × List Byte × Place × List (Nat × Nat))} (h : s.Inv) : (storeLanes s v l).1.Inv := by
  induction l generalizing s with
  | nil => exact h
  | cons x l ih => exact ih (inv_store (inv_served h))

theorem inv_verifyImage (h : s.Inv) : (s.verifyImage c bs).2.Inv := by
  unfold State.verifyImage
  grind [inv_setClu]

theorem inv_configure (h : s.Inv) : (s.configure c bs).2.2.Inv := by
  unfold State.configure
  grind [inv_verifyImage]

theorem inv_execXcfg {n : Fin 8} {b : WReg} {l : La} (h : s.Inv) (e : execXcfg n b l s = .next t) : t.Inv := by
  unfold execXcfg at e
  refine inv_issue h (fun k b => ?_) e
  clear e
  grind [Act.Keeps, inv_setBank, inv_served, keeps_stop, inv_configure]

theorem inv_execXdrop {n : Fin 8} {l : La} (h : s.Inv) (e : execXdrop n l s = .next t) : t.Inv := by
  unfold execXdrop at e
  refine inv_issue h (fun k b => ?_) e
  clear e
  grind [Act.Keeps, inv_setBank]

theorem inv_execReload {n : Fin 8} (h : s.Inv) (e : execReload k b n s = .next t) : t.Inv := by
  grind [execReload, inv_setBank, inv_put, inv_served, inv_configure]

theorem inv_execXop {n : Fin 8} {d a b : BitVec 6} {l : La} (h : s.Inv) (e : execXop n d a b l s = .next t) : t.Inv := by
  unfold execXop at e
  split at e
  · cases e; exact h
  dsimp only at e
  split at e
  · cases e; exact inv_holdIssue h
  · refine inv_issue h (fun k b => ?_) e
    grind [Act.Keeps, inv_setBank]


end

/-! Invariant: events, rings and signals. -/

section
variable {s t : State} {k : CoreKey} {b : Fin 2} {c : ClusterKey} {v : View} {m : Cmd} {f : Foot} {bs : List Byte} {w : StrandAt}

theorem inv_setResolver {l : Home} {r0 : Resolver} (h : s.Inv) : (s.setResolver l r0).Inv := by
  unfold State.setResolver
  grind [inv_def, inv_setClu, inv_setDie]

theorem inv_setSlot {l : Home} {n : Nat} {e0 : EvSlot} (h : s.Inv) : (s.setSlot l n e0).Inv := by
  unfold State.setSlot
  grind [inv_setResolver]

theorem inv_setEntry {i : Nat} {e0 : Offer} (h : s.Inv) : (s.setEntry w i e0).Inv := by
  unfold State.setEntry
  grind [inv_setStrand, inv_setRegionWord]

theorem inv_wake (h : s.Inv) : (s.wake w).Inv := by
  unfold State.wake
  grind [inv_setStrand]

theorem inv_mapEntries {p : Offer → Bool} {g : Offer → Offer} (h : s.Inv) : (s.mapEntries w p g).Inv :=
  inv_foldl h fun t i ht => by grind [inv_setEntry]

theorem inv_withdraw (h : s.Inv) : (s.withdraw w).Inv := by
  unfold State.withdraw
  grind [inv_mapEntries]

theorem inv_leaveEvent {who : StrandId} {l : Home} {n : Nat} (h : s.Inv) : (s.leaveEvent w who l n).Inv := by
  unfold State.leaveEvent
  grind [inv_setSlot, inv_mapEntries]

theorem inv_leaveAll {who : StrandId} (h : s.Inv) : (s.leaveAll w who).Inv :=
  inv_foldl h fun _ _ => inv_leaveEvent

theorem inv_completionOffer {l : Nat} (h : s.Inv) : (s.completionOffer l).Inv := by
  unfold State.completionOffer
  grind [inv_setSlot]

theorem inv_unflag (h : s.Inv) : (s.unflag w).Inv := by
  unfold State.unflag
  grind [inv_setStrand]

theorem inv_freeSlot {l : Home} {n : Nat} (h : s.Inv) : (s.freeSlot l n).Inv := by
  unfold State.freeSlot
  refine inv_setSlot ((inv_foldl h fun t who ht => ?_ : State.Inv _).same rfl)
  grind [inv_mapEntries, inv_unflag, inv_wake]

theorem inv_allocSlot {l : Home} {n : Nat} {kind : EvKind} {strands : List StrandId} (h : s.Inv) : (s.allocSlot l n kind strands).Inv := by
  unfold State.allocSlot
  grind [inv_setSlot]

theorem inv_readDescriptor {p : Word} (h : s.Inv) {y0 : Word} {y1 : Word} {y3 : Option Trap} (e : s.readDescriptor v p = .ok (y0, y1, t, y3)) : t.Inv := by
  grind [State.readDescriptor, inv_readAt, keeps_stop]

theorem keeps_finish {d : DReg} {x : Word} {w : Option Trap} (h : s.Inv) : (finish s k b d x w).Keeps := by
  unfold finish
  grind [Act.Keeps, inv_setBank]

theorem keeps_readDescriptor {p : Word} {a : Act} (e : s.readDescriptor v p = .error a) : a.Keeps := by
  grind [State.readDescriptor, Act.Keeps, keeps_stop]

theorem inv_execOffer {d : DReg} {e0 : EvRef} {a : SReg} (h : s.Inv) (e : execOffer d e0 a s = .next t) : t.Inv := by
  unfold execOffer at e
  refine inv_issueWith h (fun k b => ?_) e
  clear e
  dsimp only
  repeat' split
  all_goals try trivial
  next hd =>
    split at hd
    · cases hd
    · exact keeps_readDescriptor hd
  next hd _ =>
    split at hd
    · cases hd; exact h
    · exact inv_readDescriptor h hd
  next hd _ =>
    refine keeps_finish (inv_setEntry ?_)
    split at hd
    · cases hd; exact h
    · exact inv_readDescriptor h hd

theorem keeps_takeEntry {d : DReg} {i : Nat} (h : s.Inv) : (takeEntry s k b d i).Keeps := by
  unfold takeEntry
  grind [inv_setBank, inv_setEntry, keeps_finish]

theorem keeps_chooseEntry {d : DReg} {pending : Act} (h : s.Inv) (hp : pending.Keeps) : (chooseEntry s k b d pending).Keeps := by
  grind [chooseEntry, Act.Keeps, keeps_takeEntry]

theorem inv_execChoose {d : DReg} (h : s.Inv) (e : execChoose d s = .next t) : t.Inv := by
  unfold execChoose at e
  refine inv_issue h (fun k b => ?_) e
  clear e
  grind [Act.Keeps, inv_setBank, keeps_chooseEntry]

theorem inv_execPoll {d : DReg} (h : s.Inv) (e : execPoll d s = .next t) : t.Inv := by
  unfold execPoll at e
  refine inv_issueWith h (fun k b => ?_) e
  clear e
  grind [Act.Keeps, keeps_finish, keeps_chooseEntry]

theorem inv_execWithdraw {d : DReg} (h : s.Inv) (e : execWithdraw d s = .next t) : t.Inv := by
  unfold execWithdraw at e
  refine inv_issue h (fun k b => ?_) e
  clear e
  grind [Act.Keeps, inv_withdraw, keeps_finish]

theorem inv_execEvjoin {e0 : EvRef} (h : s.Inv) (e : execEvjoin e0 s = .next t) : t.Inv := by
  unfold execEvjoin at e
  refine inv_issueWith h (fun k b => ?_) e
  clear e
  grind [Act.Keeps, inv_setSlot]

theorem inv_execEvleave {e0 : EvRef} (h : s.Inv) (e : execEvleave e0 s = .next t) : t.Inv := by
  unfold execEvleave at e
  refine inv_issueWith h (fun k b => ?_) e
  clear e
  grind [Act.Keeps, inv_leaveEvent]

theorem inv_execEvbind {d : DReg} {e0 : EvRef} {a : SReg} (h : s.Inv) (e : execEvbind d e0 a s = .next t) : t.Inv := by
  unfold execEvbind at e
  refine inv_issueWith h (fun k b => ?_) e
  clear e
  dsimp only
  repeat' split
  all_goals grind [Act.Keeps, inv_setSlot, inv_readDescriptor, keeps_readDescriptor, keeps_finish]

theorem inv_execEvbindU {e0 : EvRef} {a : SReg} (h : s.Inv) (e : execEvbindU e0 a s = .next t) : t.Inv := by
  unfold execEvbindU at e
  refine inv_issueWith h (fun k b => ?_) e
  clear e
  grind [Act.Keeps, inv_setSlot]

theorem inv_settled (h : s.Inv) : s.settled.Inv := by
  unfold State.settled
  grind [inv_def]

theorem inv_snapSlot {l : Home} {n : Nat} (h : s.Inv) : (s.snapSlot l n).1.Inv := by
  unfold State.snapSlot
  grind [inv_setSlot]

theorem inv_snapshot {homes : List Home} (h : s.Inv) : (s.snapshot homes).1.Inv :=
  inv_foldlFst (a := (s, [])) h fun _ _ => inv_snapSlot

theorem inv_signalAdd {p : Nat} {ps : List (Nat × Nat)} {pl : Place} {d : Nat} (h : s.Inv) : (s.signalAdd v p ps pl d).Inv := by
  unfold State.signalAdd
  grind [inv_store, inv_served]

theorem inv_setCount {c : Claim} {j : Nat} {f : Nat → Nat} (h : s.Inv) : (s.setCount c j f).Inv := by
  unfold State.setCount
  grind [inv_setSlot]

theorem inv_reverseSignal {c : Claim} {j : Nat} {x : Signal} (h : s.Inv) : (s.reverseSignal c j x).Inv := by
  unfold State.reverseSignal
  grind [inv_signalAdd, inv_setCount]

/-- The state after a signal is committed meets the invariant. -/
def SigCommit.Keeps : SigCommit → Prop
  | .done s _ | .failed s _ => s.Inv

theorem keeps_commitSignal {c : Claim} {j : Nat} {x : Signal} (h : s.Inv) : (s.commitSignal c j x).Keeps := by
  unfold State.commitSignal
  repeat' split
  all_goals grind [SigCommit.Keeps, inv_setCount, inv_signalAdd, inv_served]

theorem inv_commitSignals {c : Claim} {l made : List (Nat × Signal)} {locs : List Nat} (h : s.Inv) : (s.commitSignals c l made locs).1.Inv := by
  induction l generalizing s made locs with
  | nil => exact h
  | cons x l ih =>
    have hk := keeps_commitSignal (c := c) (j := x.1) (x := x.2) h
    unfold State.commitSignals
    split
    next hc => rw [hc] at hk; exact ih hk
    next hc => rw [hc] at hk; exact inv_foldl hk fun _ _ => inv_reverseSignal

theorem inv_sourceBytes {p : Party} {n : Nat} (h : s.Inv) : (s.sourceBytes v p n).2.Inv := by
  unfold State.sourceBytes
  grind [inv_served]

theorem inv_capture {kind : EvKind} {ps : List Party} {r : Nat} {p : Party} {red : List Byte} (h : s.Inv) : (s.capture kind ps r p red).1.Inv := by
  unfold State.capture
  dsimp only
  split
  · exact inv_foldl h fun _ _ => inv_sourceBytes
  · refine inv_foldlFst (a := (s, ([], []))) h fun y x hy => ?_
    split
    · exact hy
    · exact inv_sourceBytes hy

theorem inv_commitAt {p : Party} {landing : Bool} {fl : Nat} (h : s.Inv) : (s.commitAt p landing fl).Inv := by
  unfold State.commitAt
  grind [inv_setStrand, inv_setEntry, inv_wake, inv_mapEntries]

theorem inv_markAfter {l : Nat} (h : s.Inv) : (s.markAfter l).Inv := by
  unfold State.markAfter
  grind [inv_def]

theorem inv_occur {c : Claim} (h : s.Inv) : (s.occur c).Inv := by
  unfold State.occur
  dsimp only
  refine inv_markAfter (inv_foldl ?_ fun t x ht => ?_)
  · exact inv_foldlFst (a := (s, [])) h fun _ _ => inv_capture
  · grind [inv_def, inv_commitAt]

theorem inv_decide {r : Round} {c : Claim} (h : r.st.Inv) : (r.decide c).st.Inv := by
  have hc := inv_commitSignals (c := c) (l := c.sigs) (made := []) (locs := []) h
  unfold Round.decide
  dsimp only
  split <;> grind [inv_occur]

theorem inv_run {n : Nat} {r : Round} (h : r.st.Inv) : (Round.run n r).st.Inv := by
  induction n generalizing r with
  | zero => exact h
  | succ n ih =>
    have hfold (l : List Claim) (q : Round) (hq : q.st.Inv) : (l.foldl Round.decide q).st.Inv := by
      induction l generalizing q with
      | nil => exact hq
      | cons c l ihl => exact ihl _ (inv_decide hq)
    unfold Round.run
    split
    · exact h
    · exact ih (hfold _ _ h)

theorem inv_Round_finish {r : Round} (h : r.st.Inv) : (Round.finish r).Inv := by
  unfold Round.finish
  exact inv_foldl (inv_foldl (inv_foldl h fun _ _ => inv_setSlot) fun _ _ => inv_setSlot) fun _ _ => inv_setResolver

theorem inv_resolve {homes : List Home} (h : s.Inv) : (s.resolve homes).Inv :=
  (inv_Round_finish (inv_run (r := ⟨_, _, [], [], [], []⟩) (inv_snapshot h)) : State.Inv _).same rfl

theorem inv_execResolution {homes : List Home} (h : s.Inv) (e : execResolution homes s = .next t) : t.Inv := by
  grind [execResolution, inv_resolve]

theorem inv_landSegs {d : Delivery} (h : s.Inv) : (s.landSegs d).Inv := by
  unfold State.landSegs
  split
  · exact h
  · refine (inv_foldl h fun t x ht => ?_ : State.Inv _).same rfl
    grind [inv_store, inv_served]

theorem inv_execEventDelivery {n : Nat} (h : s.Inv) (e : execEventDelivery n s = .next t) : t.Inv := by
  grind [execEventDelivery, inv_def, inv_setEntry, inv_wake, inv_landSegs]

theorem inv_issueSys {i : Instr} {body : State → CoreKey → Fin 2 → Act} (h : s.Inv) (hb : ∀ k b, (body s k b).Keeps)
    (e : issueSys s i f body = .next t) : t.Inv := by
  refine inv_issue h (fun k b => ?_) e
  clear e
  grind [Act.Keeps]

theorem inv_execEret (h : s.Inv) (e : execEret s = .next t) : t.Inv := by
  refine inv_issueSys h (fun k b => ?_) e
  clear e
  grind [Act.Keeps, inv_setBank, inv_skidIssue]

theorem inv_damage {off : Nat} (h : s.Inv) : (s.damage k b off).Inv := by
  unfold State.damage
  grind [inv_setBank, inv_setRegionWord, inv_report]

theorem inv_carryWords {loc : Nat} {c : Ctx} (h : s.Inv) : (s.carryWords loc c).Inv := by
  unfold State.carryWords
  grind [inv_put]

theorem inv_swapWorkspace {ty : Nat} (h : s.Inv) : (s.swapWorkspace k b ty).Inv := by
  unfold State.swapWorkspace
  grind [inv_setBank, inv_writeRegion, inv_damage, inv_carryWords]

theorem inv_execSwapw {a : SReg} (h : s.Inv) (e : execSwapw a s = .next t) : t.Inv := by
  refine inv_issueSys h (fun k b => ?_) e
  clear e
  dsimp only
  repeat' split
  all_goals grind -ring [Act.Keeps, inv_setBank, inv_skidIssue, inv_swapWorkspace]

theorem inv_recordPhase {i : Ident} {pc idx : Word} (h : s.Inv) : (s.recordPhase i pc idx).Inv := by
  unfold State.recordPhase
  grind [inv_def]

theorem inv_execPhase (h : s.Inv) (e : execPhase s = .next t) : t.Inv := by
  refine inv_issueSys h (fun k b => ?_) e
  clear e
  grind [Act.Keeps, inv_setBank, inv_complete, inv_recordPhase]

theorem inv_execSnap (h : s.Inv) (e : execSnap s = .next t) : t.Inv :=
  inv_issueSys h (fun _ _ => by exact inv_ivoryFire h) e

theorem inv_execRds {d : DReg} {i : BitVec 11} {p : Level} (h : s.Inv) (e : execRds d i p s = .next t) : t.Inv := by
  unfold execRds at e
  refine inv_issueWith h (fun k b => ?_) e
  clear e
  grind [Act.Keeps, inv_setBank]

theorem inv_execWrs {a : SReg} {i : BitVec 11} (h : s.Inv) (e : execWrs a i s = .next t) : t.Inv := by
  unfold execWrs at e
  refine inv_issue h (fun k b => ?_) e
  clear e
  grind [Act.Keeps, inv_setBank]

theorem inv_execIllegal {w : BitVec 32} (h : s.Inv) (e : execIllegal w s = .next t) : t.Inv := by
  unfold execIllegal at e
  refine inv_issueWith h (fun k b => ?_) e
  clear e
  grind [Act.Keeps]

theorem inv_execTrapEntry (h : s.Inv) (e : execTrapEntry k b s = .next t) : t.Inv := by
  grind [execTrapEntry, inv_enterTrap]

theorem inv_setRing {i : Nat} {r0 : Ring} (h : s.Inv) : (s.setRing c i r0).Inv := by
  unfold State.setRing
  grind [inv_setClu]

theorem inv_setSramWord {off : Nat} {x : Word} (h : s.Inv) : (s.setSramWord c off x).Inv := by
  unfold State.setSramWord
  grind [inv_store]

theorem inv_ringPush {i rank : Nat} {v : Word} (h : s.Inv) : (s.ringPush c i rank v).2.Inv := by
  unfold State.ringPush
  grind [inv_setRing, inv_setSramWord]

theorem inv_ringPop {i : Nat} (h : s.Inv) : (s.ringPop c i).2.Inv := by
  unfold State.ringPop
  grind [inv_setRing, inv_setSramWord]

theorem inv_execRqpush {d : DReg} {v a : SReg} (h : s.Inv) (e : execRqpush d v a s = .next t) : t.Inv := by
  have hpush (c : ClusterKey) (i r : Nat) (x : Word) {n : Nat} {u : State} (hp : s.ringPush c i r x = (some n, u)) : u.Inv := by
    have := inv_ringPush (c := c) (i := i) (rank := r) (v := x) h
    rwa [hp] at this
  unfold execRqpush at e
  refine inv_issueWith h (fun k b => ?_) e
  clear e
  dsimp only
  repeat' split
  all_goals grind [Act.Keeps, keeps_finish]

theorem inv_execRqpop {d ty : DReg} {a : SReg} (h : s.Inv) (e : execRqpop d ty a s = .next t) : t.Inv := by
  refine inv_issue h (fun k b => ?_) e
  clear e
  dsimp only
  split
  · trivial
  split
  · trivial
  split
  · trivial
  split
  · trivial
  · exact inv_setBank (inv_ringPop h)

theorem inv_writeRcfg {i : Nat} {v : Word} (h : s.Inv) : (s.writeRcfg c i v).Inv := by
  unfold State.writeRcfg
  grind [inv_setRing, inv_setSramWord]


end

/-! Invariant: commands, queues and copies. -/

section
variable {s t : State} {k : CoreKey} {b : Fin 2} {c : ClusterKey} {v : View} {m : Cmd} {f : Foot} {bs : List Byte} {w : StrandAt}

theorem inv_acceptCmd {u : Pusher} {q : Fin 6} {p : Word} {loc : Nat} {w : CmdWords} {gang : Option Nat} (h : s.Inv) : (s.acceptCmd u q p loc w gang).Inv := by
  unfold State.acceptCmd
  grind [inv_def, inv_setClu]

theorem keeps_commandPlace {p : Word} {n : Nat} {a : Act} (e : s.commandPlace v p n = .error a) : a.Keeps := by
  grind [State.commandPlace, Act.Keeps, keeps_stop]

theorem inv_readCommand {p : Word} {n : Nat} {loc : Nat} {wt : Option Trap} (h : s.Inv) (e : s.readCommand v p n = .ok (loc, bs, t, wt)) : t.Inv := by
  unfold State.readCommand at e
  split at e
  · cases e
  split at e
  · cases e
  · cases e
    exact inv_served h

theorem keeps_readCommand {p : Word} {n : Nat} {a : Act} (e : s.readCommand v p n = .error a) : a.Keeps := by
  unfold State.readCommand at e
  split at e
  · cases e
    exact keeps_commandPlace ‹_›
  split at e
  · cases e
    exact keeps_stop
  · cases e

theorem inv_issuePush {d : DReg} {a : WReg} {q : Fin 6} (h : s.Inv) (e : issuePush s d a q = .next t) : t.Inv := by
  refine inv_issue h (fun k b => ?_) e
  clear e
  dsimp only
  repeat' split
  all_goals grind [Act.Keeps, keeps_finish, inv_acceptCmd, inv_readCommand, keeps_readCommand]

theorem inv_execQstat {d : DReg} {a : WReg} (h : s.Inv) (e : execQstat d a s = .next t) : t.Inv := by
  refine inv_issue h (fun k b => ?_) e
  clear e
  dsimp only
  repeat' split
  all_goals grind [Act.Keeps, keeps_finish, keeps_commandPlace, inv_readCommand, keeps_readCommand]

theorem inv_execCommandLaunch {q : Fin 6} (h : s.Inv) (e : execCommandLaunch c q s = .next t) : t.Inv := by
  grind [execCommandLaunch, inv_setClu]

theorem inv_sendAsk {opc p n : Nat} (h : s.Inv) (e : s.sendAsk c m opc p n bs = .ok t) : t.Inv := by
  grind [State.sendAsk, ok_bind_iff, except_pure, inv_setClu, inv_ask]

theorem inv_stepFails {cause : Cause} (h : s.Inv) : (s.stepFails c m cause).Inv := by
  unfold State.stepFails
  grind [inv_setClu, inv_dropAsks]

/-- What a step of an engine finds keeps P, and the invariant where an access is to be sent. -/
def Eng.Holds {α : Type} (P : α → Prop) : Eng α → Prop
  | .ok a => P a
  | .error (.ask s _ _ _ _ _) => s.Inv
  | .error (.stop _) => True

theorem holds_bind {α β : Type} {P : α → Prop} {Q : β → Prop} {x : Eng α} {g : α → Eng β} (hx : Eng.Holds P x) (hg : ∀ a, P a → Eng.Holds Q (g a)) :
    Eng.Holds Q (x >>= g) := by
  cases x with
  | ok a => exact hg a hx
  | error e => cases e with
    | stop st => trivial
    | ask s m opc p n bs => exact hx

theorem holds_ite {α : Type} {P : α → Prop} {d : Prop} [Decidable d] {x y : Eng α} (hx : Eng.Holds P x) (hy : Eng.Holds P y) :
    Eng.Holds P (if d then x else y) := by
  split <;> assumption

theorem holds_eng {α : Type} {P : α → Prop} {x : Chk α} (hx : ∀ a, x = .ok a → P a) : Eng.Holds P (eng x) := by
  cases x with
  | ok a => exact hx a rfl
  | error e => trivial

theorem holds_checks {α : Type} {x : Chk α} : Eng.Holds (fun _ => True) (eng x) := holds_eng fun _ _ => trivial

theorem inv_stepWith {i : Nat} {o : Op} {g : State → Cmd → Eng (State × Cmd)} (h : s.Inv) (hg : ∀ m, Eng.Holds (fun r => r.1.Inv) (g s m))
    (e : stepWith s c i o g = .next t) : t.Inv := by
  unfold stepWith at e
  dsimp only at e
  split at e
  · cases e; exact h
  next m _ =>
    have hm := hg m
    split at e
    · cases e; exact h
    split at e
    · cases e; exact h
    · cases e; exact inv_stepFails h
    next hs =>
      rw [hs] at hm
      split at e
      · cases e; exact h
      · cases e; exact inv_stepFails h
      next ha => cases e; exact inv_sendAsk hm ha
    next hs =>
      rw [hs] at hm
      cases e
      exact inv_dropAsks (inv_setClu hm)

theorem inv_writeBack {pst : Nat} (h : s.Inv) : (s.writeBack m pst).Inv := by
  unfold State.writeBack
  grind [inv_store, inv_served]

theorem inv_cmdReport {cause : Cause} {pst : Nat} (h : s.Inv) : (s.cmdReport m cause pst).Inv := by
  unfold State.cmdReport
  grind [inv_report]

theorem inv_resumeCmd (h : s.Inv) : (s.resumeCmd c m).Inv := by
  unfold State.resumeCmd
  grind [inv_setClu, inv_readAt, inv_acceptCmd, inv_cmdReport]

theorem inv_retryResumes {q : Fin 6} (h : s.Inv) : (s.retryResumes c q).Inv := inv_foldl h fun _ _ => inv_resumeCmd

theorem inv_completeCmd (h : s.Inv) : (s.completeCmd c m).Inv := by
  unfold State.completeCmd
  grind [inv_setClu, inv_completionOffer, inv_writeBack, inv_retryResumes]

theorem inv_execCommandCompletion {i : Nat} (h : s.Inv) (e : execCommandCompletion c i s = .next t) : t.Inv := by
  grind [execCommandCompletion, inv_completeCmd]

theorem inv_lagHere (h : s.Inv) : (s.lagHere m).Inv := by
  unfold State.lagHere
  refine inv_store (inv_foldl h fun t x ht => ?_)
  grind [inv_served]

theorem inv_stopCmd {cause : Cause} (h : s.Inv) : (s.stopCmd c m cause).Inv := by
  unfold State.stopCmd
  grind [inv_setClu, inv_writeBack, inv_cmdReport]

theorem inv_countStop {ln : BitVec 16} (h : s.Inv) : (s.countStop ln).Inv := by
  unfold State.countStop
  grind [inv_def]

theorem inv_dropOne (h : s.Inv) : (s.dropOne c m).Inv := by
  unfold State.dropOne
  grind [inv_setClu, inv_countStop]

theorem inv_discardCmd (h : s.Inv) : (s.discardCmd c m).Inv := by
  refine inv_foldl h fun t x ht => ?_
  grind [inv_setClu, inv_dropOne]

/-- The state after what lagged is sent meets the invariant. -/
def Flushed.Keeps : Flushed → Prop
  | .wait => True
  | .sent s | .done s _ => s.Inv

theorem keeps_lagAway {l : List (Nat × Nat × List Byte)} (h : s.Inv) : (s.lagAway c m l).Keeps := by
  induction l with
  | nil => exact inv_dropAsks h
  | cons x l ih =>
    unfold State.lagAway
    repeat' split
    all_goals grind [Flushed.Keeps, inv_dropAsks, inv_sendAsk]

theorem keeps_flushLag (h : s.Inv) : (s.flushLag c m).Keeps := by
  grind [State.flushLag, Flushed.Keeps, keeps_lagAway, inv_lagHere]

theorem inv_stopNow {cause : Cause} (h : s.Inv) : (s.stopNow c m cause).Inv := by
  have hf := keeps_flushLag (c := c) (m := m) h
  unfold State.stopNow
  grind [Flushed.Keeps, inv_stopCmd, inv_dropOne]

theorem inv_execCommandStop {i : Nat} (h : s.Inv) (e : execCommandStop c i s = .next t) : t.Inv := by
  grind [execCommandStop, inv_stopNow]

theorem inv_engineRead {p n w : Nat} (h : s.Inv) {y0 : List Byte} (e : s.engineRead v p n w = .ok (y0, t)) : t.Inv := by
  grind [State.engineRead, ok_bind_iff, except_pure, inv_readAt]

theorem inv_engineWrite {p w : Nat} (h : s.Inv) (e : s.engineWrite v p w bs = .ok t) : t.Inv := by
  grind [State.engineWrite, inv_writeAt]

theorem holds_copyGet {p n : Nat} (h : s.Inv) : Eng.Holds (fun r => r.2.Inv) (s.copyGet m p n) := by
  refine holds_bind holds_checks fun pl _ => ?_
  split
  · split
    · exact h
    · trivial
    · trivial
    · exact h
  · exact holds_eng fun r hr => inv_engineRead h hr

theorem holds_copyMay {p n : Nat} (h : s.Inv) : Eng.Holds (fun _ => True) (s.copyMay m p n) := by
  refine holds_bind holds_checks fun pl _ => ?_
  split
  · split
    · exact h
    all_goals trivial
  · trivial

theorem holds_copyFar {opc p : Nat} (h : s.Inv) : Eng.Holds (fun _ => True) (s.copyFar m opc p bs) := by
  unfold State.copyFar
  split
  · exact h
  all_goals trivial

theorem holds_copyPut {p : Nat} (h : s.Inv) : Eng.Holds State.Inv (s.copyPut m p bs) := by
  refine holds_bind holds_checks fun pl _ => ?_
  split
  · exact holds_bind (holds_copyFar h) fun _ _ => h
  · exact holds_eng fun r hr => inv_engineWrite h hr

theorem holds_copyRead {hi p n : Nat} (h : s.Inv) : Eng.Holds (fun r => r.2.1.Inv) (s.copyRead m hi p n) :=
  holds_ite h (holds_bind (holds_copyGet h) fun _ hr => hr)

theorem holds_writeHere {l : List (Nat × List Byte)} (h : s.Inv) : Eng.Holds State.Inv (s.writeHere m l) := by
  induction l generalizing s with
  | nil => exact h
  | cons x l ih => exact holds_bind (holds_eng fun r hr => inv_engineWrite h hr) fun _ hr => ih hr

theorem holds_writeFar {l : List (Nat × Nat × List Byte)} (h : s.Inv) : Eng.Holds (fun _ => True) (s.writeFar m l) := by
  induction l with
  | nil => trivial
  | cons x l ih => exact holds_bind (holds_copyFar h) fun _ _ => ih

theorem holds_writeRuns {rs : List (Nat × List Byte)} (h : s.Inv) : Eng.Holds State.Inv (s.writeRuns m rs) := by
  cases rs with
  | nil => exact h
  | cons x l =>
    refine holds_bind holds_checks fun pl _ => ?_
    split
    · exact holds_bind (holds_writeFar h) fun _ _ => h
    · exact holds_writeHere h

theorem holds_mayRuns {l : List (Nat × List Byte)} (h : s.Inv) : Eng.Holds (fun _ => True) (s.mayRuns m l) := by
  induction l with
  | nil => trivial
  | cons x l ih => exact holds_bind (holds_copyMay h) fun _ _ => ih

theorem holds_copyWrite {next : Option Nat} {rs : List (Nat × List Byte)} (h : s.Inv) : Eng.Holds (fun r => r.1.Inv) (s.copyWrite m next rs) := by
  unfold State.copyWrite
  dsimp only
  refine holds_bind (holds_mayRuns h) fun _ _ => ?_
  refine holds_bind (holds_writeRuns h) fun t ht => ?_
  exact holds_bind holds_checks fun _ _ => ht

theorem holds_stepRuns {read : State → Cmd → Eng (List (Nat × List Byte) × State × Cmd)} (h : s.Inv)
    (hr : Eng.Holds (fun r => r.2.1.Inv) (read s m)) : Eng.Holds (fun r => r.2.1.Inv) (stepRuns s m read) := by
  unfold stepRuns
  split
  · split
    · exact h
    next he => rwa [he] at hr
    next he => rwa [he] at hr
  · exact h

theorem holds_cpyStep (h : s.Inv) : Eng.Holds (fun r => r.1.Inv) (cpyStep s m) := by
  refine holds_bind (holds_stepRuns h ?_) fun r hr => holds_copyWrite hr
  exact holds_bind (holds_copyRead h) fun r hr => hr

theorem holds_readRows {n i : Nat} (h : s.Inv) : Eng.Holds (fun r => r.2.1.Inv) (readRows m n i s) := by
  induction n generalizing m i s with
  | zero => exact h
  | succ n ih => exact holds_bind (holds_copyRead h) fun r hr => holds_bind (ih hr) fun q hq => hq

theorem holds_cpy2dStep (h : s.Inv) : Eng.Holds (fun r => r.1.Inv) (cpy2dStep s m) :=
  holds_bind (holds_stepRuns h (holds_readRows h)) fun _ hr => holds_copyWrite hr

theorem holds_fillStep (h : s.Inv) : Eng.Holds (fun r => r.1.Inv) (fillStep s m) :=
  holds_bind (holds_copyMay h) fun _ _ => holds_bind (holds_copyPut h) fun _ ht => ht

theorem holds_gthrStep (h : s.Inv) : Eng.Holds (fun r => r.1.Inv) (gthrStep s m) :=
  holds_bind (holds_copyRead h) fun _ hr => holds_bind (P := fun r => r.2.Inv) (holds_eng fun _ hq => inv_engineRead hr hq) fun _ hq => hq

theorem inv_execCpy {i : Nat} (h : s.Inv) (e : execCpy c i s = .next t) : t.Inv := inv_stepWith h (fun _ => holds_cpyStep h) e

theorem inv_execCpy2d {i : Nat} (h : s.Inv) (e : execCpy2d c i s = .next t) : t.Inv := inv_stepWith h (fun _ => holds_cpy2dStep h) e

theorem inv_execFill {i : Nat} (h : s.Inv) (e : execFill c i s = .next t) : t.Inv := inv_stepWith h (fun _ => holds_fillStep h) e

theorem inv_execGthr {i : Nat} (h : s.Inv) (e : execGthr c i s = .next t) : t.Inv := inv_stepWith h (fun _ => holds_gthrStep h) e

/-- What checks find keeps P. -/
def Chk.Holds {α : Type} (P : α → Prop) (x : Chk α) : Prop := ∀ a, x = .ok a → P a

theorem chk_bind {α β : Type} {P : α → Prop} {Q : β → Prop} {x : Chk α} {g : α → Chk β} (hx : Chk.Holds P x) (hg : ∀ a, P a → Chk.Holds Q (g a)) :
    Chk.Holds Q (x >>= g) := by
  intro r hr
  obtain ⟨a, ha, hr⟩ := ok_bind_iff.1 hr
  exact hg a (hx a ha) r hr

theorem chk_ok {α : Type} {P : α → Prop} {a : α} (h : P a) : Chk.Holds P (.ok a) := by
  rintro _ ⟨⟩
  exact h

theorem chk_error {α : Type} {P : α → Prop} {e : Stop} : Chk.Holds P (.error e) := by
  rintro _ ⟨⟩

theorem chk_ite {α : Type} {P : α → Prop} {d : Prop} [Decidable d] {x y : Chk α} (hx : Chk.Holds P x) (hy : Chk.Holds P y) :
    Chk.Holds P (if d then x else y) := by
  split <;> assumption

theorem chk_engineRead {p n w : Nat} (h : s.Inv) : Chk.Holds (fun r => r.2.Inv) (s.engineRead v p n w) := fun _ => inv_engineRead h

theorem chk_engineWrite {p w : Nat} (h : s.Inv) : Chk.Holds State.Inv (s.engineWrite v p w bs) := fun _ => inv_engineWrite h

theorem inv_engineStep {i : Nat} {o : Op} {g : State → Cmd → StepR} (h : s.Inv) (hg : ∀ m, Chk.Holds (fun r => r.1.Inv) (g s m))
    (e : engineStep s c i o g = .next t) : t.Inv :=
  inv_stepWith h (fun m => holds_eng (hg m)) e


end

/-! Invariant: arrays and the orthogonal accumulator. -/

section
variable {s t : State} {k : CoreKey} {b : Fin 2} {c : ClusterKey} {v : View} {m : Cmd} {f : Foot} {bs : List Byte} {w : StrandAt}

theorem inv_release {who : StrandId} {w : WaitKind} (h : s.Inv) : (s.release who w).Inv := by
  unfold State.release
  grind [inv_setStrand]

theorem chk_step {u : State} (h : u.Inv) : Chk.Holds (fun r => r.1.Inv) (.ok (u, m)) := chk_ok h

theorem inv_acceptMembers {g q : Nat} {l : List GangOffer} (h : s.Inv) : (State.acceptMembers s g q l).Inv := by
  induction l generalizing s q with
  | nil => exact h
  | cons o l ih => exact ih (inv_acceptCmd h)

theorem inv_gangOccurs (h : s.Inv) : (s.gangOccurs c).Inv := by
  unfold State.gangOccurs
  dsimp only
  split
  · exact h
  refine inv_foldl (inv_setClu ?_) fun _ _ => inv_release
  split
  · exact h
  split
  · exact h
  split
  · exact h
  · exact inv_acceptMembers (h.same rfl)

theorem keeps_takeGang {d : DReg} {n : Nat} {o : GangOffer} {r0 : GangResult} (h : s.Inv) : (takeGang s k b d n o r0).Keeps := by
  unfold takeGang
  grind [Act.Keeps, inv_setClu, inv_setBank, inv_trapNow, keeps_finish, inv_Round_finish]

theorem inv_execMgang {d : DReg} {a : WReg} (h : s.Inv) (e : execMgang d a s = .next t) : t.Inv := by
  refine inv_issue h (fun k b => ?_) e
  clear e
  dsimp only
  repeat' split
  all_goals grind [Act.Keeps, inv_setClu, inv_setBank, inv_gangOccurs, keeps_takeGang, inv_readCommand, keeps_readCommand]

theorem chk_readOperand {p pitch n w i j : Nat} (h : s.Inv) : Chk.Holds (fun r => r.2.Inv) (readOperand v p pitch n w i j s) := by
  induction i generalizing s j with
  | zero => exact chk_ok h
  | succ i ih => exact chk_bind (chk_engineRead h) fun _ hr => chk_bind (ih hr) fun _ hq => chk_ok hq

theorem chk_readA {ea k0 k1 : Nat} (h : s.Inv) : Chk.Holds (fun r => r.2.Inv) (readA s c m ea k0 k1) :=
  chk_ite (chk_ok h) (chk_bind (chk_readOperand h) fun _ hr => chk_ok hr)

theorem chk_readB {eb cols k0 k1 : Nat} (h : s.Inv) : Chk.Holds (fun r => r.2.Inv) (readB s m eb cols k0 k1) :=
  chk_ite (chk_bind (chk_readOperand h) fun _ hr => chk_ok hr) (chk_bind (chk_readOperand h) fun _ hr => chk_ok hr)

theorem chk_readAs {ea k0 k1 : Nat} {l : List Cmd} (h : s.Inv) : Chk.Holds (fun r => r.2.Inv) (readAs c ea k0 k1 l s) := by
  induction l generalizing s with
  | nil => exact chk_ok h
  | cons m l ih => exact chk_bind (chk_readA h) fun _ hr => chk_bind (ih hr) fun _ hq => chk_ok hq

theorem inv_gangStep {i : Nat} {o : Op} (h : s.Inv) (e : gangStep s c i o = .next t) : t.Inv := by
  unfold gangStep at e
  dsimp only at e
  split at e
  · cases e; exact h
  split at e
  · cases e; exact h
  split at e
  · cases e; exact h
  · cases e; exact inv_setClu h
  next hr =>
    cases e
    obtain ⟨⟨as, u⟩, ha, hr⟩ := ok_bind_iff.1 hr
    obtain ⟨⟨b, x⟩, hb, hr⟩ := ok_bind_iff.1 hr
    cases hr
    exact inv_setClu (chk_readB (chk_readAs h _ ha) _ hb)

theorem inv_mapClu {f : Cluster → Cluster} (h : s.Inv) : (s.mapClu c f).Inv := by
  unfold State.mapClu
  grind [inv_setClu]

theorem inv_execMzero {i : Nat} (h : s.Inv) (e : execMzero c i s = .next t) : t.Inv :=
  inv_engineStep h (fun _ => by exact chk_step (inv_mapClu h)) e

theorem inv_execMdrain {i : Nat} (h : s.Inv) (e : execMdrain c i s = .next t) : t.Inv :=
  inv_engineStep h (fun _ => by
    exact chk_bind (chk_engineWrite h) fun _ ht => chk_ite (chk_step ht) (chk_bind (chk_engineWrite ht) fun _ hu => chk_step hu)) e

theorem inv_execMswap {i : Nat} (h : s.Inv) (e : execMswap c i s = .next t) : t.Inv :=
  inv_engineStep h (fun _ => by exact chk_step (inv_mapClu h)) e

theorem inv_execMscale {i : Nat} (h : s.Inv) (e : execMscale c i s = .next t) : t.Inv :=
  inv_engineStep h (fun _ => by exact chk_bind (chk_engineRead h) fun _ ht => chk_step (inv_mapClu ht)) e

theorem inv_execMsts {i : Nat} (h : s.Inv) (e : execMsts c i s = .next t) : t.Inv :=
  inv_engineStep h (fun _ => by
    exact chk_ite (chk_bind (chk_engineRead h) fun _ ht => chk_step (inv_mapClu ht)) (chk_bind (chk_engineWrite h) fun _ ht => chk_step ht)) e

theorem inv_withdrawGang {who : StrandId} {result : Bool} (h : s.Inv) : (s.withdrawGang c who result).Inv := by
  unfold State.withdrawGang
  grind [inv_mapClu]

theorem chk_writeBlock {applied : Bool} (h : s.Inv) : Chk.Holds State.Inv (writeBlock s c m applied) :=
  chk_bind (chk_engineWrite h) fun _ ht => chk_ok (inv_mapClu ht)

theorem chk_foldTarget {q : Oq} (h : s.Inv) : Chk.Holds State.Inv (foldTarget s c q) :=
  chk_ite chk_error (chk_ok (inv_mapClu h))

theorem inv_execQinit {i : Nat} (h : s.Inv) (e : execQinit c i s = .next t) : t.Inv :=
  inv_engineStep h (fun _ => by exact chk_step (inv_mapClu h)) e

theorem inv_execQacc {i : Nat} (h : s.Inv) (e : execQacc c i s = .next t) : t.Inv := by
  refine inv_engineStep h (fun m => ?_) e
  dsimp only
  split
  · exact chk_ite (chk_step h) (chk_ite chk_error (chk_bind (chk_writeBlock h) fun _ ht => chk_step ht))
  · exact chk_ite (chk_step h) (chk_ite (chk_bind (chk_foldTarget h) fun _ ht => chk_step (inv_mapClu ht)) (chk_step (inv_mapClu h)))
  · exact chk_bind (chk_engineRead h) fun _ ht => chk_step (inv_mapClu ht)

theorem inv_execQrcp {i : Nat} (h : s.Inv) (e : execQrcp c i s = .next t) : t.Inv :=
  inv_engineStep h (fun _ => by
    exact chk_ite (chk_step h) (chk_ite (chk_bind (chk_writeBlock h) fun _ ht => chk_step ht)
      (chk_ite (chk_bind (chk_foldTarget h) fun _ ht => chk_step (inv_mapClu ht)) (chk_step (inv_mapClu h))))) e

theorem chk_readPieces {w : Nat} {l : List (Nat × Nat)} (h : s.Inv) : Chk.Holds (fun r => r.2.Inv) (readPieces v w l s) := by
  induction l generalizing s with
  | nil => exact chk_ok h
  | cons x l ih => exact chk_bind (chk_engineRead h) fun _ hr => chk_bind (ih hr) fun _ hq => chk_ok hq

theorem chk_writePieces {w : Nat} {l : List (Nat × Nat)} (h : s.Inv) : Chk.Holds State.Inv (writePieces v w l bs s) := by
  induction l generalizing s bs with
  | nil => exact chk_ok h
  | cons x l ih => exact chk_bind (chk_engineWrite h) fun _ hr => ih hr

theorem chk_readVectors {w : CmdWords} {q : Oq} {right : Bool} {l : List Nat} (h : s.Inv) : Chk.Holds (fun r => r.2.Inv) (readVectors v w q right l s) := by
  induction l generalizing s with
  | nil => exact chk_ok h
  | cons x l ih => exact chk_bind (chk_readPieces h) fun _ hr => chk_bind (ih hr) fun _ hq => chk_ok hq

theorem chk_writeVectors {w : CmdWords} {q : Oq} {right : Bool} {l : List (Nat × List Word)} (h : s.Inv) :
    Chk.Holds State.Inv (writeVectors v w q right l s) := by
  induction l generalizing s with
  | nil => exact chk_ok h
  | cons x l ih => exact chk_bind (chk_writePieces h) fun _ hr => ih hr

theorem chk_writeLag {w : Nat} {l : List (Nat × List Byte)} (h : s.Inv) : Chk.Holds State.Inv (writeLag v w l s) := by
  induction l generalizing s with
  | nil => exact chk_ok h
  | cons x l ih => exact chk_bind (chk_engineWrite h) fun _ hr => ih hr

theorem chk_applyStep {right tr : Bool} (h : s.Inv) : Chk.Holds (fun r => r.1.Inv) (applyStep c right tr s m) :=
  chk_ite (chk_ok h) (chk_bind (chk_readVectors h) fun _ hr => chk_bind (chk_writeLag hr) fun _ hq =>
    chk_bind (chk_writeVectors hq) fun _ hu => chk_bind (P := fun _ => True) (fun _ _ => trivial) fun _ _ => chk_step (inv_mapClu hu))

theorem inv_execQapl {i : Nat} (h : s.Inv) (e : execQapl c i s = .next t) : t.Inv := inv_engineStep h (fun _ => by exact chk_applyStep h) e

theorem inv_execQaplt {i : Nat} (h : s.Inv) (e : execQaplt c i s = .next t) : t.Inv := inv_engineStep h (fun _ => by exact chk_applyStep h) e

theorem inv_execQapr {i : Nat} (h : s.Inv) (e : execQapr c i s = .next t) : t.Inv := inv_engineStep h (fun _ => by exact chk_applyStep h) e

theorem inv_execQaprt {i : Nat} (h : s.Inv) (e : execQaprt c i s = .next t) : t.Inv := inv_engineStep h (fun _ => by exact chk_applyStep h) e

theorem inv_execQsave {i : Nat} (h : s.Inv) (e : execQsave c i s = .next t) : t.Inv :=
  inv_engineStep h (fun _ => by exact chk_bind (chk_engineWrite h) fun _ ht => chk_bind (chk_writePieces ht) fun _ hu => chk_ok hu) e

theorem inv_execQload {i : Nat} (h : s.Inv) (e : execQload c i s = .next t) : t.Inv :=
  inv_engineStep h (fun _ => by
    exact chk_bind (chk_engineRead h) fun _ ht => chk_ite (chk_step (inv_mapClu ht))
      (chk_ite chk_error (chk_bind (chk_readPieces ht) fun _ hu => chk_step (inv_mapClu hu)))) e


end

/-! Invariant: gangs, fold windows and the heap. -/

section
variable {s t : State} {k : CoreKey} {b : Fin 2} {c : ClusterKey} {v : View} {m : Cmd} {f : Foot} {bs : List Byte} {w : StrandAt}

theorem inv_setMemWord {loc : Nat} {x : Word} (h : s.Inv) : (s.setMemWord loc x).Inv := by
  unfold State.setMemWord
  grind [inv_put]

theorem inv_setFold {g : FoldGroup} (h : s.Inv) : (s.setFold g).Inv := by
  unfold State.setFold
  grind [inv_def]

theorem inv_foldJoin {desc : Nat} {core : CoreKey} {id : Ident} (h : s.Inv) {y1 : Nat} {y2 : Nat} (e : s.foldJoin desc core id = .ok (t, y1, y2)) : t.Inv := by
  grind [State.foldJoin, inv_setMemWord, inv_setFold]

theorem inv_foldMark {g : FoldGroup} {rank win : Nat} (h : s.Inv) : (s.foldMark g rank win).Inv := by
  unfold State.foldMark
  grind [inv_setFold]

theorem inv_foldLeaves {g : FoldGroup} {rank win : Nat} (h : s.Inv) : (s.foldLeaves g rank win).Inv := by
  unfold State.foldLeaves
  grind [inv_setMemWord, inv_setFold, inv_foldMark]

theorem inv_foldLeavesAt {g : FoldGroup} {rank win : Nat} (h : s.Inv) : (s.foldLeavesAt g rank win).Inv := by
  unfold State.foldLeavesAt
  grind [inv_setFold, inv_foldLeaves]

theorem inv_foldGone {a : StrandAt} (h : s.Inv) : (s.foldGone a).Inv := by
  unfold State.foldGone
  grind [inv_setRegionWord, inv_foldLeavesAt]

theorem inv_execFoldmark {a : SReg} {l : La} (h : s.Inv) (e : execFoldmark a l s = .next t) : t.Inv := by
  unfold execFoldmark at e
  refine inv_issue h (fun k b => ?_) e
  clear e
  grind [Act.Keeps, inv_setBank, keeps_stop, inv_foldMark, inv_foldLeaves]

theorem inv_foldEnter {g : FoldGroup} {win : Nat} {u : FoldUpd} (h : s.Inv) : (s.foldEnter g win u).Inv := by
  unfold State.foldEnter
  grind [inv_def, inv_setFold]

theorem inv_execAfaddDet {d : DReg} {c : SReg} {w : WReg} {ty : FTy2} {l : La} (h : s.Inv) (e : execAfaddDet d c w ty l s = .next t) : t.Inv := by
  unfold execAfaddDet at e
  refine inv_issue h (fun k b => ?_) e
  clear e
  grind [Act.Keeps, inv_setBank, keeps_stop]

theorem inv_issueRaddDet {i : Instr} {d : WReg} {n : SReg} {wide : Bool} (h : s.Inv) (e : issueRaddDet s i d n wide = .next t) : t.Inv := by
  unfold issueRaddDet at e
  refine inv_issue h (fun k b => ?_) e
  clear e
  grind [Act.Keeps, inv_setBank, inv_store, keeps_stop]

theorem inv_writesBack {n : Nat} {p : Pending} {ws : List RegWrite} {fl : Flags} {late : Option Trap} (h : s.Inv) : (s.writesBack k b n p ws fl late).Inv := by
  unfold State.writesBack
  grind [inv_setBank, inv_writeBack]

theorem inv_writeBackJoin {n : Nat} {p : Pending} (h : s.Inv) : (writeBackJoin s k b n p).Inv := by
  unfold writeBackJoin
  grind [inv_setBank, inv_foldJoin, inv_writesBack]

/-- The state of an update that is accepted meets the invariant. -/
def FoldAnswer.Keeps : FoldAnswer → Prop
  | .refused | .overlap => True
  | .accepted s => s.Inv

theorem keeps_foldAccept {g : FoldGroup} {win : Nat} {u : FoldUpd} (h : s.Inv) : (s.foldAccept g win u).Keeps := by
  grind [State.foldAccept, FoldAnswer.Keeps, inv_foldEnter]

theorem keeps_strandUpdate {pa : Nat} {wide : Bool} {x : Word} (h : s.Inv) : (s.strandUpdate k b pa wide x).Keeps := by
  unfold State.strandUpdate
  split
  · trivial
  next g win rank seq _ =>
    have ha := keeps_foldAccept (g := g) (win := win) (u := ⟨pa, wide, rank, seq, x⟩) h
    split
    next hu => rw [hu] at ha; exact inv_setBank ha
    · exact ha

theorem inv_strandUpdate {pa : Nat} {wide : Bool} {x : Word} (h : s.Inv) (e : s.strandUpdate k b pa wide x = .accepted t) : t.Inv := by
  have ha := keeps_strandUpdate (k := k) (b := b) (pa := pa) (wide := wide) (x := x) h
  rwa [e] at ha

theorem inv_writeBackDet {n : Nat} {p : Pending} {d : DReg} {wide : Bool} {x : Word} (h : s.Inv) : (writeBackDet s k b n p d wide x).Inv := by
  unfold writeBackDet
  repeat' split
  all_goals grind [inv_writesBack, inv_strandUpdate]

theorem inv_execLongLatencyWriteback {n : Nat} {far : Option FarReply} (h : s.Inv) (e : execLongLatencyWriteback k b n far s = .next t) : t.Inv := by
  grind [execLongLatencyWriteback, inv_farAnswered, inv_writesBack, inv_writeBackJoin, inv_writeBackDet]

theorem inv_unhold {l : StoreHeld} {ty : Option Trap} (h : s.Inv) : (s.unhold k b l ty).Inv := by
  unfold State.unhold
  grind [inv_setBank, inv_store, inv_farAnswered]

theorem inv_holdSent {l : StoreHeld} {ids : List Nat} (h : s.Inv) : (s.holdSent k b l ids).Inv := by
  unfold State.holdSent
  grind [Act.Keeps, inv_setBank, inv_store]

theorem inv_acceptDet {l : StoreHeld} {wide : Bool} {x : Word} {far : Option FarReply} (h : s.Inv) : (acceptDet s k b l wide x far).Inv := by
  unfold acceptDet
  repeat' split
  all_goals grind [inv_setBank, inv_farSend, inv_setFold, inv_unhold, inv_holdSent, inv_strandUpdate]

theorem inv_acceptHere {l : StoreHeld} {far : Option FarReply} {g : List (Word × List Byte × Place × List (Nat × Nat)) → State} (h : s.Inv)
    (hg : ∀ ls, (g ls).Inv) : (s.acceptHere k b l far g).Inv := by
  grind [State.acceptHere, inv_unhold]

theorem inv_storeAway {l : StoreHeld} {away : List (Nat × Word × List Byte × Place)} {ls : List (Word × List Byte × Place × List (Nat × Nat))} (h : s.Inv) : (s.storeAway k b l away ls).Inv := by
  unfold State.storeAway
  grind [Act.Keeps, inv_setBank, inv_store, inv_farSends, inv_farAnswered, inv_storeLanes, inv_holdSent]

theorem inv_acceptAway {l : StoreHeld} {away : List (Nat × Word × List Byte × Place)} {far : Option FarReply} (h : s.Inv) : (s.acceptAway k b l away far).Inv := by
  unfold State.acceptAway
  grind [Act.Keeps, inv_store, inv_farSends, inv_unhold, inv_holdSent, inv_acceptHere, inv_storeAway]

theorem inv_acceptStep {l : StoreHeld} {far : Option FarReply} (h : s.Inv) : (s.acceptStep k b l far).Inv := by
  unfold State.acceptStep
  grind [inv_storeLanes, inv_unhold, inv_acceptDet, inv_acceptHere, inv_acceptAway]

theorem inv_execStoreAcceptance {far : Option FarReply} (h : s.Inv) (e : execStoreAcceptance k b far s = .next t) : t.Inv := by
  grind [execStoreAcceptance, inv_store, inv_acceptStep]

theorem inv_closeAll {w : FoldWin} (h : s.Inv) : (s.closeAll w).1.Inv :=
  inv_foldlFst (a := (s, fNone)) h fun _ _ => inv_store

theorem inv_foldSignal {g : FoldGroup} (h : s.Inv) : (s.foldSignal g).Inv := by
  unfold State.foldSignal
  grind [inv_owe]

theorem inv_foldLeft {desc : Nat} (h : s.Inv) : (s.foldLeft desc).Inv := by
  unfold State.foldLeft
  split
  · exact h
  · exact inv_foldl (inv_setFold h) fun _ _ => inv_foldLeaves

theorem inv_tellClose {g : FoldGroup} {w pkg : Nat} (h : s.Inv) (e : s.tellClose g w pkg = some t) : t.Inv := by
  grind [State.tellClose, inv_sendPacket, inv_addOp, inv_ask]

theorem inv_closeWindow {g : FoldGroup} {w : Nat} (h : s.Inv) : (s.closeWindow g w).Inv := by
  unfold State.closeWindow
  grind [inv_def, inv_dropAsks, inv_setMemWord, inv_setFold, inv_closeAll, inv_foldSignal, inv_foldLeft]

theorem inv_unitsClose {desc w : Nat} (h : s.Inv) : (s.unitsClose desc w).1.Inv := by
  unfold State.unitsClose
  grind [inv_setFold, inv_closeAll]

theorem inv_tellSome {g : FoldGroup} {w : Nat} {l : List Nat} (h : s.Inv) : ((l.findSome? (s.tellClose g w)).getD s).Inv := by
  cases hf : l.findSome? (s.tellClose g w) with
  | none => exact h
  | some u =>
    obtain ⟨pkg, -, hp⟩ := List.exists_of_findSome?_eq_some hf
    exact inv_tellClose h hp

theorem inv_execWindowClose {desc : Nat} (h : s.Inv) (e : execWindowClose desc s = .next t) : t.Inv := by
  unfold execWindowClose at e
  dsimp only at e
  repeat' split at e
  all_goals
    rw [Host.Outcome.next.injEq] at e
    rw [← e]
  · exact h
  · exact h
  · exact h
  · exact inv_closeWindow h
  · exact inv_tellSome h

theorem inv_setBlock {l : Heap} {c i x : Nat} (h : s.Inv) : (s.setBlock l c i x).Inv :=
  inv_mem h (putByte_wf _ _ _ h.mem)

theorem inv_splitTo {l : Heap} {c n i : Nat} (h : s.Inv) : (s.splitTo l c n i).1.Inv := by
  induction n generalizing s i with
  | zero => exact inv_setBlock h
  | succ n ih => exact ih (inv_setBlock h)

theorem inv_mergeFrom {l : Heap} {n c i : Nat} (h : s.Inv) : (s.mergeFrom l n c i).Inv := by
  induction n generalizing s c i with
  | zero => exact inv_setBlock h
  | succ n ih => grind [State.mergeFrom, inv_setBlock]

theorem inv_heapCount {desc lo : Nat} (h : s.Inv) : (s.heapCount desc lo).Inv := by
  unfold State.heapCount
  grind [inv_setMemWord]

theorem inv_halloc {l : Heap} {d : DReg} {size : Word} (h : s.Inv) : (s.halloc l d size).1.Inv := by
  unfold State.halloc
  grind [inv_splitTo, inv_heapCount]

theorem inv_hfree {l : Heap} {p : Word} (h : s.Inv) : (s.hfree l p).1.Inv := by
  unfold State.hfree
  grind [inv_mergeFrom, inv_heapCount]

theorem keeps_heapAct {q : Pending} {d : Word} {serve : State → Heap → State × List RegWrite × Option Trap} (h : s.Inv)
    (hs : ∀ hp, (serve s hp).1.Inv) : (heapAct s k b q d serve).Keeps := by
  unfold heapAct
  dsimp only
  repeat' split
  all_goals grind [Act.Keeps, inv_setBank]

theorem inv_execHalloc {d : DReg} {a c : SReg} {l : La} (h : s.Inv) (e : execHalloc d a c l s = .next t) : t.Inv := by
  unfold execHalloc at e
  refine inv_issue h (fun k b => ?_) e
  clear e
  grind [Act.Keeps, inv_halloc, keeps_heapAct]

theorem inv_execHfree {a c : SReg} {l : La} (h : s.Inv) (e : execHfree a c l s = .next t) : t.Inv := by
  unfold execHfree at e
  refine inv_issue h (fun k b => ?_) e
  clear e
  grind [Act.Keeps, inv_hfree, keeps_heapAct]


end

/-! Invariant: quad fusion and bank swaps. -/

section
variable {s t : State} {k : CoreKey} {b : Fin 2} {c : ClusterKey} {v : View} {m : Cmd} {f : Foot} {bs : List Byte} {w : StrandAt}

theorem inv_setQuad {d pq : Nat} {q : Quad} (h : s.Inv) : (s.setQuad d pq q).Inv := by
  unfold State.setQuad
  grind [inv_setDie]

theorem inv_quadRead {d pq : Nat} {l : FuseOffer} {p n : Nat} (h : s.Inv) {y0 : List Byte} {y2 : Option Trap} (e : s.quadRead d pq v l p n = .ok (y0, t, y2)) : t.Inv := by
  grind [State.quadRead, inv_readAt]

/-- The state in which a read of the fuse event stops meets the invariant. -/
def FuseStop.Keeps : FuseStop → Prop
  | .held s | .fault s _ => s.Inv

theorem holds_quadRead {d pq : Nat} {l : FuseOffer} {p n : Nat} {x : FuseStop} (h : s.Inv) (e : s.quadRead d pq v l p n = .error x) : x.Keeps := by
  unfold State.quadRead at e
  dsimp only at e
  repeat' split at e
  all_goals grind [FuseStop.Keeps, inv_ask]

theorem holds_readStages {d pq : Nat} {o : FuseOffer} {x0 x1 : Nat} {x : FuseStop} (h : s.Inv) (e : s.readStages d pq v o bs x0 x1 = .error x) : x.Keeps := by
  induction x0 generalizing s x1 with
  | zero => cases e
  | succ n ih =>
    unfold State.readStages at e
    grind [holds_quadRead, inv_quadRead]

theorem inv_readStages {d pq : Nat} {o : FuseOffer} {x0 x1 : Nat} (h : s.Inv) {y1 : List (List Byte)} {y2 : Option Trap} (e : s.readStages d pq v o bs x0 x1 = .ok (t, y1, y2)) : t.Inv := by
  induction x0 generalizing s x1 y1 y2 with
  | zero => cases e; exact h
  | succ n ih =>
    unfold State.readStages at e
    grind [inv_quadRead]

theorem inv_verifyStages {d pq x0 : Nat} {x1 : List (List Byte)} (h : s.Inv) : (s.verifyStages d pq x0 x1).2.Inv := by
  induction x1 generalizing s x0 with
  | nil => exact h
  | cons b l ih => exact ih (inv_verifyImage h)

/-- The state that the fuse event finds meets the invariant. -/
def FuseResult.Keeps : FuseResult → Prop
  | .wait s | .fault s _ | .invalid s _ | .unsigned s _ | .start s _ _ => s.Inv

theorem inv_fab (h : s.Inv) (ht : t.Inv) : ({ s with fab := t.fab } : State).Inv := ⟨h.mem, h.env, h.budget, ht.sends, ht.share⟩

theorem keeps_fuseReads {d pq : Nat} {o : FuseOffer} (h : s.Inv) : (s.fuseReads d pq v o).Keeps := by
  unfold State.fuseReads
  dsimp only
  split
  next hq =>
    have hs := holds_quadRead h hq
    split
    · exact inv_fab h hs
    · exact hs
  next hq =>
    have h1 := inv_quadRead h hq
    split
    next hr =>
      have hs := holds_readStages h1 hr
      split
      · exact inv_fab h hs
      · exact hs
    next hr =>
      have h2 := inv_readStages h1 hr
      split
      · exact h2
      · split
        · exact h2
        · split
          · exact inv_verifyStages h2
          · exact inv_verifyStages h2

theorem keeps_of_fuseReads {d pq : Nat} {o : FuseOffer} {r : FuseResult} (h : s.Inv) (e : s.fuseReads d pq v o = r) : r.Keeps :=
  e ▸ keeps_fuseReads h

theorem inv_fuseResult {d pq : Nat} {r : GangResult} (h : s.Inv) : (s.fuseResult d pq r).Inv :=
  inv_foldl (inv_setQuad h) fun _ _ => inv_release

theorem inv_fuseWatch {who : StrandId} {w : Option Trap} (h : s.Inv) : (s.fuseWatch who w).Inv := by
  unfold State.fuseWatch
  grind [inv_setStrand]

theorem inv_fuseHalt {who : StrandId} (h : s.Inv) : (s.fuseHalt who).Inv := by
  unfold State.fuseHalt
  grind [inv_setStrand]

theorem inv_fuseOccurs {d pq : Nat} (h : s.Inv) (e : s.fuseOccurs d pq = .ok t) : t.Inv := by
  unfold State.fuseOccurs at e
  dsimp only at e
  split at e
  · cases e; exact inv_dropAsks h
  split at e
  · cases e; exact h
  split at e
  · cases e
  next hf => cases e; exact inv_fuseResult (inv_fuseWatch (inv_dropAsks (keeps_of_fuseReads h hf)))
  next hf => cases e; exact inv_fuseResult (inv_fuseWatch (inv_dropAsks (keeps_of_fuseReads h hf)))
  next hf => cases e; exact inv_fuseResult (inv_fuseWatch (inv_dropAsks (keeps_of_fuseReads h hf)))
  next hf => cases e; exact inv_foldl (inv_setQuad (inv_fuseWatch (inv_dropAsks (keeps_of_fuseReads h hf)))) fun _ _ => inv_fuseHalt

theorem keeps_fusePointer {p : Word} {y : Act} (e : fusePointer s k b p = some y) : y.Keeps := by
  grind [fusePointer, keeps_stop, Act.Keeps]

theorem inv_fuseWaits {d pq : Nat} {x : Fabric} (h : s.Inv) (ht : t.Inv) (e : t.fuseOccurs d pq = .error x) : ({ s with fab := x } : State).Inv := by
  unfold State.fuseOccurs at e
  dsimp only at e
  split at e
  · cases e
  split at e
  · cases e
  split at e
  next hf => cases e; exact inv_fab h (keeps_of_fuseReads ht hf)
  all_goals cases e

theorem keeps_fuseFirst {P : Prop} [Decidable P] {p : Word} {y : Act} (e : (if P then fusePointer s k b p else none) = some y) : y.Keeps := by
  split at e
  · exact keeps_fusePointer e
  · cases e

theorem inv_execFuse {d : DReg} {a : WReg} (h : s.Inv) (e : execFuse d a s = .next t) : t.Inv := by
  unfold execFuse at e
  refine inv_issue h (fun k b => ?_) e
  clear e
  have ho {q : Quad} {x : Bank} : ((s.setQuad (quadOf (clusterOf k)).1 (quadOf (clusterOf k)).2 q).setBank k b x).Inv :=
    inv_setBank (inv_setQuad h)
  dsimp only
  repeat' split
  any_goals trivial
  next hp => exact keeps_fuseFirst hp
  next hf => exact inv_holdIssue (inv_fuseWaits h ho hf)
  next hf => exact inv_fuseOccurs ho hf
  next hp => exact keeps_fuseFirst hp
  next hf => exact inv_holdIssue (inv_fuseWaits h ho hf)
  next hf => exact inv_fuseOccurs ho hf
  · exact keeps_finish ho
  · exact inv_trapNow ho

theorem inv_swap (h : s.Inv) : (s.swap k).Inv := by
  unfold State.swap
  grind [inv_setCore, inv_put]

theorem inv_emptied (h : s.Inv) : (s.emptied k).Inv := by
  unfold State.emptied
  dsimp only
  split
  · exact inv_swap h
  · exact h

theorem inv_activated (h : s.Inv) : (s.activated k).Inv := by
  unfold State.activated
  grind [inv_setBank]

theorem inv_swapMove (h : s.Inv) : (s.swapMove k).Inv := by
  unfold State.swapMove
  grind [inv_setCore, inv_put, inv_emptied, inv_activated]

theorem inv_planesBack {d pq : Nat} (h : s.Inv) : (s.planesBack d pq).Inv :=
  inv_foldl h fun _ _ => inv_setCore

theorem inv_fuseReturn {q : Quad} {e0 : Nat × FuseOffer} (h : s.Inv) : (s.fuseReturn q e0).Inv := by
  unfold State.fuseReturn
  grind [inv_setStrand, inv_skidPc, inv_raise]

theorem inv_fusionDone {d pq : Nat} (h : s.Inv) : (s.fusionDone d pq).Inv :=
  inv_setQuad (inv_planesBack (inv_foldl h fun _ _ => inv_fuseReturn))

theorem inv_fuseTrap {j cause : Nat} {o : FuseOffer} (h : s.Inv) : (s.fuseTrap j cause o).Inv := by
  unfold State.fuseTrap
  grind [inv_setBank, inv_raise]

theorem inv_fusionFails {d pq j cause : Nat} (h : s.Inv) : (s.fusionFails d pq j cause).Inv := by
  unfold State.fusionFails
  dsimp only
  split
  · exact h
  · exact inv_foldl (inv_setQuad (inv_planesBack h)) fun _ _ => inv_fuseTrap

theorem inv_execFusionFault {d pq : Nat} {j : Fin 16} {cause : Nat} (h : s.Inv) (e : execFusionFault d pq j cause s = .next t) : t.Inv := by
  grind [execFusionFault, inv_fusionFails]

theorem inv_endGone {d pq : Nat} (h : s.Inv) : (s.endGone d pq).Inv := by
  unfold State.endGone
  grind [inv_fusionFails]

theorem inv_setRcfg {i : Nat} {v : Word} (h : s.Inv) : (s.setRcfg c i v).Inv := by
  unfold State.setRcfg
  grind [inv_writeRcfg, inv_endGone]

theorem inv_execRcfgWrite {i : Fin 16} {v : Word} (h : s.Inv) (e : execRcfgWrite c i v s = .next t) : t.Inv := by
  grind [execRcfgWrite, inv_setRcfg]

theorem inv_popAll {x0 : List Nat} (h : s.Inv) {y0 : List Word} (e : s.popAll x0 = some (y0, t)) : t.Inv := by
  induction x0 generalizing s y0 with
  | nil => cases e; exact h
  | cons r l ih => grind [State.popAll, inv_ringPop]

theorem inv_setStage {d pq j : Nat} {x : Stage} {count : Bool} (h : s.Inv) : (s.setStage d pq j x count).Inv := by
  unfold State.setStage
  grind [inv_setQuad]

theorem inv_stageFlags {q : Quad} {j : Nat} {fl : Flags} (h : s.Inv) : (s.stageFlags q j fl).Inv := by
  unfold State.stageFlags
  grind [inv_setStrand]

theorem inv_stageStep {d pq j : Nat} (h : s.Inv) : (s.stageStep d pq j).Inv := by
  unfold State.stageStep
  dsimp only
  repeat' split
  all_goals grind [inv_ringPush, inv_fusionFails, inv_popAll, inv_setStage, inv_stageFlags]

theorem inv_execFusedStageStep {d pq : Nat} {j : Fin 16} (h : s.Inv) (e : execFusedStageStep d pq j s = .next t) : t.Inv := by
  grind [execFusedStageStep, inv_stageStep]

theorem inv_execUnfuse {d : DReg} (h : s.Inv) (e : execUnfuse d s = .next t) : t.Inv := by
  unfold execUnfuse at e
  refine inv_issue h (fun k b => ?_) e
  clear e
  dsimp only
  repeat' split
  all_goals grind [Act.Keeps, inv_setBank, keeps_finish, inv_setQuad, inv_fusionDone]

theorem inv_withdrawFuse {who : StrandId} {result : Bool} (h : t.Inv) : (t.withdrawFuse k who result).Inv := by
  unfold State.withdrawFuse
  grind [inv_dropAsks, inv_setQuad]


end

/-! Invariant: launches, dispatch, migration and remap. -/

section
variable {s t : State} {k : CoreKey} {b : Fin 2} {c : ClusterKey} {v : View} {m : Cmd} {f : Foot} {bs : List Byte} {w : StrandAt}

theorem inv_byDcc {r : Next} (h : s.Inv) (hr : ∀ t, r = .next t → t.Inv) (e : s.byDcc r = .next t) : t.Inv := by
  unfold State.byDcc at e
  split at e
  · exact hr t e
  · cases e; exact h

theorem inv_journal {ty : Word} {ln : BitVec 16} {q tr idx : Nat} {w3 : Word} (h : s.Inv) : (s.journal ty ln q tr idx w3).Inv := by
  unfold State.journal
  grind [inv_def, inv_owe]

theorem inv_mapLaunch {ln : BitVec 16} {g : Launch → Launch} (h : s.Inv) : (s.mapLaunch ln g).Inv := h.same rfl

theorem inv_disp {d : Dispatch} (h : s.Inv) (e : d.budget = s.disp.budget) : ({ s with disp := d } : State).Inv :=
  ⟨h.mem, h.env, e ▸ h.budget, h.sends, h.share⟩

theorem inv_dropUnsent {who : StrandId} (h : s.Inv) : (s.dropUnsent who).Inv := h.same rfl

theorem inv_dropAwaited {who : StrandId} (h : s.Inv) : (s.dropAwaited who).Inv := h.same rfl

theorem inv_letGo {a : StrandAt} {discard : Bool} (h : s.Inv) : (s.letGo a discard).Inv :=
  inv_dropAwaited (inv_dropUnsent (inv_withdrawFuse (inv_withdrawGang (inv_foldGone (inv_withdraw h)))))

theorem inv_endStrand {a : StrandAt} {kill : Bool} (h : s.Inv) : (s.endStrand a kill).Inv := by
  refine inv_mapLaunch ?_
  have hl := inv_leaveAll (w := a) (who := (s.strand a).id.who) (inv_letGo (a := a) (discard := kill) h)
  dsimp only
  cases a with
  | bank k b => exact inv_emptied (inv_setBank hl)
  | saved k n => exact inv_setCore hl

theorem inv_skidEnd (h : s.Inv) : (s.skidEnd k).Inv := by
  unfold State.skidEnd
  grind [inv_setClu]

theorem inv_execRetire (h : s.Inv) (e : execRetire s = .next t) : t.Inv := by
  unfold execRetire at e
  refine inv_issueSys h (fun k b => ?_) e
  split
  · trivial
  · exact inv_skidEnd (inv_endStrand (inv_skidIssue h))

theorem inv_dropReads (h : s.Inv) : (s.dropReads k).Inv := h.same rfl

theorem inv_fence (h : s.Inv) : (s.fence k).Inv := by
  unfold State.fence
  dsimp only
  split
  · exact h
  · refine inv_dropReads (inv_foldl ?_ fun _ _ => inv_letGo)
    split
    · exact inv_fusionFails (inv_setCore h)
    · exact inv_setCore h

theorem inv_execFen (h : s.Inv) (e : execFen k s = .next t) : t.Inv := by
  grind [execFen, inv_fence]

theorem inv_execHang {selfCheck : Bool} (h : s.Inv) (e : execHang k selfCheck s = .next t) : t.Inv := by
  grind [execHang, inv_setCore, inv_fence]

theorem inv_setQueue {q : Fin 16} {x : Queue} (h : s.Inv) : (s.setQueue q x).Inv := h.same rfl

theorem inv_dispatchOwe {spid : BitVec 20} {p : Word} {a : OwedAct} (h : s.Inv) : (s.dispatchOwe spid p a).Inv := by
  unfold State.dispatchOwe
  grind [inv_owe]

theorem inv_dispatchWrite {spid : BitVec 20} {p : Word} {x : Word} (h : s.Inv) : (s.dispatchWrite spid p x).Inv := by
  unfold State.dispatchWrite
  grind [inv_dispatchOwe]

theorem inv_dispatchSignal {spid : BitVec 20} {p : Word} (h : s.Inv) : (s.dispatchSignal spid p).Inv := by
  unfold State.dispatchSignal
  grind [inv_dispatchOwe]

theorem inv_accept {q : Fin 16} {ws : List Word} {lists : RecLists} {why : Option Nat} (h : s.Inv) : (s.accept q ws lists why).Inv := by
  unfold State.accept
  grind [inv_def, inv_journal, inv_setQueue, inv_dispatchWrite]

theorem inv_examine {q : Fin 16} (h : s.Inv) : (s.examine q).Inv := by
  unfold State.examine
  grind [inv_setQueue, inv_dispatchWrite, inv_accept]

theorem inv_execRecordAccept {q : Fin 16} (h : s.Inv) (e : execRecordAccept q s = .next t) : t.Inv := by
  grind [execRecordAccept, inv_examine]

theorem inv_execClaimTimeout {q : Fin 16} (h : s.Inv) (e : execClaimTimeout q s = .next t) : t.Inv := by
  grind [execClaimTimeout, inv_dispatchWrite, inv_accept]

theorem inv_launchRings {l : RecLists} {on : Bool} (h : s.Inv) : (s.launchRings l c on).Inv :=
  inv_foldl h fun _ _ ht => inv_setRcfg (inv_setRing ht)

theorem inv_execAdmission {q : Fin 16} {ln : BitVec 16} {places : List Position} {slots : List SlotChoice} (h : s.Inv)
    (e : execAdmission q ln places slots s = .next t) : t.Inv := by
  refine inv_byDcc h (fun t e => ?_) e
  dsimp only at e
  split at e
  · cases e; exact h
  split at e
  · cases e
    refine inv_foldl (inv_foldl ?_ fun _ _ => inv_allocSlot) fun _ _ => inv_launchRings
    exact inv_disp (inv_setQueue h) rfl
  · cases e; exact h

theorem inv_setSlotEntry {n : Fin 16} {x : SlotEntry} (h : s.Inv) : (s.setSlotEntry c n x).Inv := h.same rfl

theorem inv_refuseGo {n : Fin 16} (h : s.Inv) : (s.refuseGo c n).Inv := by
  unfold State.refuseGo
  grind [inv_setSlotEntry]

theorem inv_bindEvents {l : Launch} {who : StrandId} (h : s.Inv) : (s.bindEvents l k who).Inv := by
  refine inv_foldl h fun s x hs => ?_
  dsimp only
  split
  · exact hs
  split
  · exact inv_setSlot hs
  · exact hs

theorem inv_bindInto {x : Bank} (h : s.Inv) (e : s.bindInto k x = some t) : t.Inv := by
  unfold State.bindInto at e
  obtain ⟨b, -, rfl⟩ := Option.map_eq_some_iff.1 e
  exact inv_setBank h

theorem inv_execCreate {slot : Fin 16} {ln : BitVec 16} {lid : BitVec 32} {wsp : BitVec 18} (h : s.Inv)
    (e : execCreate c slot ln lid wsp s = .next t) : t.Inv := by
  refine inv_byDcc h (fun t e => ?_) e
  dsimp only at e
  split at e
  · cases e; exact inv_refuseGo h
  generalize (_ || _ : Bool) = p at e
  split at e
  · cases e; exact inv_refuseGo h
  split at e
  · cases e; exact inv_refuseGo h
  next s1 hb =>
    have h3 {g : Launch → Launch} {f : Cluster → Cluster} {l : Launch} {x : SlotEntry} :
        (((((s1.bindEvents l (s.slotCore c slot) ⟨ln, lid⟩).setSlotEntry c slot x).mapLaunch ln g).mapClu c f)).Inv :=
      inv_mapClu (inv_mapLaunch (inv_setSlotEntry (inv_bindEvents (inv_bindInto h hb))))
    split at e
    · cases e; exact inv_journal h3
    · cases e; exact h3

theorem inv_execRestore {slot : Fin 16} {ln : BitVec 16} {lid : BitVec 32} {wsp : BitVec 18} (h : s.Inv)
    (e : execRestore c slot ln lid wsp s = .next t) : t.Inv := by
  refine inv_byDcc h (fun t e => ?_) e
  dsimp only at e
  repeat' split at e
  all_goals
    rw [Host.Outcome.next.injEq] at e
    rw [← e]
  · exact inv_refuseGo h
  · exact h
  · exact inv_refuseGo h
  · exact h
  · exact inv_setSlotEntry (inv_setCore h)

theorem inv_noteGo {slot : Fin 16} {op : Nat} {b : Bank} {hold : Bool} (h : s.Inv) : (s.noteGo c slot op b hold).Inv := by
  unfold State.noteGo
  grind [inv_setSlotEntry]

theorem inv_execUnbind {slot : Fin 16} (h : s.Inv) (e : execUnbind c slot s = .next t) : t.Inv := by
  refine inv_byDcc h (fun t e => ?_) e
  grind [inv_refuseGo, inv_noteGo, inv_setBank]

theorem inv_execMakeActive {slot : Fin 16} (h : s.Inv) (e : execMakeActive c slot s = .next t) : t.Inv := by
  refine inv_byDcc h (fun t e => ?_) e
  grind [inv_refuseGo, inv_noteGo, inv_swap]

theorem inv_execSpill (h : s.Inv) (e : execSpill k s = .next t) : t.Inv := by
  unfold execSpill at e
  dsimp only at e
  repeat' split at e
  all_goals
    rw [Host.Outcome.next.injEq] at e
    rw [← e]
  · exact h
  · exact inv_setBank (inv_withdrawFuse (inv_withdrawGang h))
  · exact inv_setCore (inv_writeRegion h)
  · exact h

theorem inv_execRestoreComplete {bad : Option Nat} (h : s.Inv) (e : execRestoreComplete k bad s = .next t) : t.Inv := by
  have hb {x : List Nat} : ({ s with badTags := x } : State).Inv := h.same rfl
  unfold execRestoreComplete at e
  dsimp only at e
  split at e
  · cases bad
    all_goals
      dsimp only at e
      split at e
      all_goals
        rw [Host.Outcome.next.injEq] at e
        rw [← e]
    · exact inv_damage h
    · exact inv_setBank h
    · exact inv_damage hb
    · exact inv_setBank hb
  · cases e; exact h

theorem inv_execSwapThreshold (h : s.Inv) (e : execSwapThreshold k s = .next t) : t.Inv :=
  inv_byDcc h (fun t e => by grind [inv_swap]) e

theorem inv_execTimeSlice (h : s.Inv) (e : execTimeSlice k s = .next t) : t.Inv :=
  inv_byDcc h (fun t e => by grind [inv_swap]) e

theorem inv_loadBlock {spid : BitVec 20} {x : List Word} {pl : Place} (h : s.Inv) (e : s.loadBlock spid x pl = .ok t) : t.Inv := by
  unfold State.loadBlock at e
  obtain ⟨bs, -, e⟩ := ok_bind_iff.1 e
  have hs := inv_served (v := dispatchView spid) (p := s.canon pl) (pl := pl) (m := loadLen x) (a := .write) h
  cases pl
  all_goals cases e
  all_goals grind [inv_put]

theorem inv_foldlM {α : Type} {g : State → α → Chk State} {l : List α} (h : s.Inv) (hg : ∀ s t a, s.Inv → g s a = .ok t → t.Inv)
    (e : l.foldlM g s = .ok t) : t.Inv := by
  induction l generalizing s with
  | nil => cases e; exact h
  | cons a l ih =>
    rw [List.foldlM_cons] at e
    obtain ⟨u, hu, e⟩ := ok_bind_iff.1 e
    exact ih (hg s u a h hu) e

theorem inv_loadAll {l : Launch} (h : s.Inv) (e : s.loadAll l = .ok t) : t.Inv :=
  inv_foldlM h (fun _ _ _ hs => inv_foldlM hs fun _ _ _ => inv_loadBlock) e

theorem inv_lstart {ln : BitVec 16} (h : s.Inv) : ({ s with disp := { s.disp with lstart := ln } } : State).Inv := h.same rfl

theorem inv_execLstart {ln : BitVec 16} (h : s.Inv) (e : execLstart ln s = .next t) : t.Inv := by
  unfold execLstart at e
  split at e
  · cases e; exact inv_lstart h
  split at e
  · split at e
    · cases e; exact h
    next hl => cases e; exact inv_mapLaunch (inv_lstart (inv_loadAll h hl))
  · cases e; exact inv_lstart h

theorem inv_startLaunch {l : Launch} (h : s.Inv) : (s.startLaunch l).Inv :=
  inv_journal (inv_disp (inv_mapLaunch (inv_foldl (inv_foldl h fun _ _ => inv_mapClu) fun _ _ => inv_setCore)) rfl)

theorem inv_startLaunches (h : s.Inv) : s.startLaunches.Inv := by
  unfold State.startLaunches
  split
  · exact h
  · exact inv_foldl h fun _ _ => inv_startLaunch

theorem inv_launchGone {ln : BitVec 16} (h : s.Inv) : (s.launchGone ln c).Inv := by
  unfold State.launchGone
  refine inv_mapClu (inv_foldl h fun s m hs => ?_)
  split
  · exact inv_discardCmd hs
  · exact hs

theorem inv_finishLaunch {l : Launch} (h : s.Inv) : (s.finishLaunch l).Inv := by
  have h3 {cs : List ClusterKey} : (cs.foldl (fun s c => s.launchGone l.ln c)
      (l.ringsAt.foldl (fun s c => s.launchRings l.lists c false) (l.slots.foldl (fun s c => s.freeSlot c.home c.slot) s))).Inv :=
    inv_foldl (inv_foldl (inv_foldl h fun _ _ => inv_freeSlot) fun _ _ => inv_launchRings) fun _ _ => inv_launchGone
  unfold State.finishLaunch
  dsimp only
  split
  · exact inv_raiseMsix (inv_disp (inv_setQueue (inv_disp h3 rfl)) rfl)
  · exact inv_setQueue (inv_disp h3 rfl)

theorem inv_execLaunchCompletion {ln : BitVec 16} (h : s.Inv) (e : execLaunchCompletion ln s = .next t) : t.Inv := by
  grind [execLaunchCompletion, inv_finishLaunch]

theorem inv_execLaunchReport {q : Fin 16} (h : s.Inv) (e : execLaunchReport q s = .next t) : t.Inv := by
  unfold execLaunchReport at e
  dsimp only at e
  repeat' split at e
  all_goals
    rw [Host.Outcome.next.injEq] at e
    rw [← e]
  all_goals grind [inv_setQueue, inv_journal, inv_dispatchSignal, inv_dispatchWrite]

theorem inv_recreate {a : StrandAt} {id : Ident} {wsp : BitVec 18} (h : s.Inv) : (s.recreate a id wsp).2.Inv := by
  unfold State.recreate
  dsimp only
  split
  · exact inv_journal (inv_letGo h)
  · exact inv_letGo h

theorem inv_setRings {l : Launch} (h : s.Inv) : (s.setRings l c).Inv := by
  unfold State.setRings
  grind [inv_mapLaunch, inv_launchRings]

theorem inv_execMigration {dest : Position} (h : s.Inv) (e : execMigration k b dest s = .next t) : t.Inv := by
  refine inv_byDcc h (fun t e => ?_) e
  dsimp only at e
  repeat' split at e
  all_goals
    rw [Host.Outcome.next.injEq] at e
    rw [← e]
  · exact h
  · exact h
  next hb => exact inv_mapClu (inv_mapLaunch (inv_setRings (inv_emptied (inv_bindInto (inv_setBank (inv_recreate h)) hb))))
  · exact h

theorem inv_restartBank {k' : CoreKey} (h : s.Inv) : (if ((s.core k).bank b).holds then
      ((s.recreate (.bank k b) ((s.core k).bank b).id ((s.core k).bank b).wsp).2.setBank k b Bank.empty).setBank k' b
        (s.recreate (.bank k b) ((s.core k).bank b).id ((s.core k).bank b).wsp).1
    else s).Inv := by
  split
  · exact inv_setBank (inv_setBank (inv_recreate h))
  · exact h

theorem inv_restartCore {k' : CoreKey} (h : s.Inv) : (s.restartCore k k').Inv := by
  unfold State.restartCore
  dsimp only
  refine (inv_setCore (inv_foldl (inv_restartBank (inv_restartBank h)) fun s x hs => ?_)).same rfl
  exact inv_setCore (inv_writeRegion (inv_setCore (inv_recreate hs)))

theorem inv_settleDet (h : s.Inv) : (s.settleDet w).Inv := by
  unfold State.settleDet
  repeat' split
  all_goals grind [inv_writeBackDet, inv_acceptDet]

theorem inv_settleDets {lns : List (BitVec 16)} (h : s.Inv) : (s.settleDets lns).Inv := by
  refine inv_foldl h fun s w hs => ?_
  split
  · exact inv_settleDet hs
  · exact hs

theorem inv_killLaunches {lns : List (BitVec 16)} (h : s.Inv) : (s.killLaunches lns).Inv := by
  refine inv_foldl h fun s w hs => ?_
  split
  · exact inv_endStrand hs
  · exact hs

theorem inv_killOn {ks : List CoreKey} (h : s.Inv) : (s.killOn ks).Inv := by
  unfold State.killOn
  grind [inv_settleDets, inv_killLaunches]

theorem inv_countLost {cmds : List Cmd} (h : s.Inv) : (s.countLost cmds).Inv := by
  refine inv_foldl h fun s m hs => ?_
  split
  · exact inv_countStop hs
  · exact inv_countStop hs
  · exact inv_mapLaunch hs

theorem inv_moveCluster {c' : ClusterKey} (h : s.Inv) : (s.moveCluster c c').Inv := by
  unfold State.moveCluster
  dsimp only
  refine (inv_foldl (inv_countLost (inv_setClu (inv_setClu h))) fun _ _ => inv_launchRings).same rfl

theorem inv_remap (h : s.Inv) : (s.remap k).Inv := by
  have hf {l : List CoreKey} : (l.foldl State.fence s).Inv := inv_foldl h fun _ _ => inv_fence
  unfold State.remap
  dsimp only
  repeat' split
  · exact h
  · exact inv_restartCore (inv_setClu (inv_killOn h))
  · exact inv_killOn h
  · exact inv_killOn h
  · exact h
  · exact inv_killOn hf
  · exact hf
  · exact inv_foldl (inv_foldl (inv_setDie hf) fun _ _ => inv_moveCluster) fun _ _ => inv_restartCore

theorem inv_execRemap (h : s.Inv) (e : execRemap k s = .next t) : t.Inv :=
  inv_byDcc h (fun t e => by cases e; exact inv_remap h) e


end

/-! Invariant: the fault server. -/

section
variable {s t : State} {k : CoreKey} {b : Fin 2} {c : ClusterKey} {v : View} {m : Cmd} {f : Foot} {bs : List Byte} {w : StrandAt}

theorem inv_ringWrite {r0 : Report} (h : s.Inv) (e : s.ringWrite r0 = some t) : t.Inv := by
  grind [State.ringWrite, inv_def, inv_writeAt, inv_dispatchSignal]

theorem inv_dropReport {n : Nat} (h : s.Inv) : (s.dropReport n).Inv := by
  unfold State.dropReport
  grind [inv_def]

theorem inv_await {r0 : Report} (h : s.Inv) : (s.await r0).Inv := by
  unfold State.await
  grind [inv_def]

theorem inv_reportHere {n : Nat} {r0 : Report} (h : s.Inv) : (s.reportHere n r0).Inv := by
  unfold State.reportHere
  grind [inv_raiseMsix, inv_ringWrite, inv_dropReport, inv_await]

theorem inv_turnReport {n : Nat} {r0 : Report} (h : s.Inv) : (s.turnReport n r0).Inv := by
  unfold State.turnReport
  grind [inv_def, inv_reportHere]

theorem inv_reportAway {n : Nat} {r0 : Report} (h : s.Inv) : (s.reportAway n r0).Inv := by
  unfold State.reportAway
  grind [inv_sendPacket, inv_report, inv_dropReport, inv_await, inv_turnReport]

theorem inv_deliverReport {n : Nat} {r0 : Report} (h : s.Inv) : (s.deliverReport n r0).Inv := by
  unfold State.deliverReport
  grind [inv_reportHere, inv_turnReport, inv_reportAway]

theorem inv_execFaultReport (h : s.Inv) (e : execFaultReport s = .next t) : t.Inv := by
  unfold execFaultReport at e
  rw [Host.Outcome.next.injEq] at e
  rw [← e]
  generalize hf : List.findSome? _ s.reportHeads = o
  cases o with
  | none => exact h
  | some u =>
    obtain ⟨y, -, hy⟩ := List.exists_of_findSome?_eq_some hf
    dsimp only at hy
    split at hy
    · cases hy
    · cases hy; exact inv_deliverReport h

theorem inv_stopPcFollows {a : StrandAt} (h : s.Inv) : (s.stopPcFollows a).Inv := by
  unfold State.stopPcFollows
  grind [inv_skidPc]

theorem inv_resumeStrand {a : StrandAt} {skip : Bool} (h : s.Inv) : (s.resumeStrand a skip).Inv := by
  unfold State.resumeStrand
  dsimp only
  repeat' split
  all_goals grind [inv_setStrand, inv_setRegionWord, inv_stopPcFollows]

theorem inv_editWord {a : StrandAt} {off : Nat} {x : Word} (h : s.Inv) : (s.editWord a off x).Inv := by
  unfold State.editWord
  grind [inv_setStrand, inv_setRegionWord]

theorem inv_answered {r0 : Report} (h : s.Inv) : (s.answered r0).Inv := by
  unfold State.answered
  grind [inv_def]

theorem inv_replyStrand {r : Report} {code : Nat} {pairs : List (Nat × Word)} (h : s.Inv) : (s.replyStrand r code pairs).Inv := by
  unfold State.replyStrand
  repeat' split
  all_goals grind [inv_endStrand, inv_resumeStrand, inv_editWord, inv_answered, inv_foldl]

theorem inv_replyCmd {r0 : Report} {code : Nat} {ptr : Word} (h : s.Inv) : (s.replyCmd r0 code ptr).Inv := by
  unfold State.replyCmd
  grind [inv_resumeCmd, inv_discardCmd, inv_answered]

theorem inv_applyReply {code : Nat} {tag : BitVec 16} {sid ptr : Word} {pairs : List (Nat × Word)} (h : s.Inv) : (s.applyReply code tag sid ptr pairs).Inv := by
  unfold State.applyReply
  grind [inv_replyStrand, inv_replyCmd]

theorem inv_applyRecord (h : s.Inv) : (s.applyRecord bs).Inv := by
  unfold State.applyRecord
  grind [inv_applyReply]

theorem inv_execResume {tag : BitVec 16} {sid ptr : Word} (h : s.Inv) (e : execResume tag sid ptr s = .next t) : t.Inv := by
  grind [execResume, inv_applyReply]

theorem inv_execSkip {tag : BitVec 16} {sid ptr : Word} (h : s.Inv) (e : execSkip tag sid ptr s = .next t) : t.Inv := by
  grind [execSkip, inv_applyReply]

theorem inv_execKill {tag : BitVec 16} {sid ptr : Word} (h : s.Inv) (e : execKill tag sid ptr s = .next t) : t.Inv := by
  grind [execKill, inv_applyReply]

theorem inv_execEdit {tag : BitVec 16} {sid : Word} {pairs : List (Nat × Word)} (h : s.Inv) (e : execEdit tag sid pairs s = .next t) : t.Inv := by
  grind [execEdit, inv_applyReply]

theorem inv_execDiscard {tag : BitVec 16} {sid ptr : Word} (h : s.Inv) (e : execDiscard tag sid ptr s = .next t) : t.Inv := by
  grind [execDiscard, inv_applyReply]


end

/-! Invariant: one-sided operations and packets. -/

section
variable {s t : State} {k : CoreKey} {b : Fin 2} {c : ClusterKey} {v : View} {m : Cmd} {f : Foot} {bs : List Byte} {w : StrandAt}

theorem inv_failOp {id : Nat} {cause d : Nat} (h : s.Inv) : (s.failOp id cause d).Inv := by
  unfold State.failOp
  grind [inv_report, inv_setOp, inv_ask]

theorem inv_sweepOps (h : s.Inv) : s.sweepOps.Inv := by
  unfold State.sweepOps
  grind [inv_def, inv_ask]

theorem inv_noReplies {id : Nat} (h : s.Inv) : (s.noReplies id).Inv := by
  unfold State.noReplies
  grind [inv_def]

theorem inv_packetDone {id : Nat} (h : s.Inv) : (s.packetDone id).Inv := by
  unfold State.packetDone
  grind [inv_def]

theorem inv_failLocal {op : FabricOp} {c : Cause} {d : Nat} (h : s.Inv) : (s.failLocal op c d).Inv := by
  unfold State.failLocal
  grind [inv_addOp, inv_failOp, inv_sweepOps]

/-- The state after a packet at its target meets the invariant. -/
def Served.Keeps : Served → Prop
  | .held s | .ok s _ _ => s.Inv
  | .wait | .failed _ _ => True

theorem keeps_packetWrite {a : Acc} {va : Nat} (h : s.Inv) : (s.packetWrite v a va bs).Keeps := by
  unfold State.packetWrite
  repeat' split
  · trivial
  · trivial
  · exact inv_store h

theorem keeps_packetMasked {a : Acc} {va : Nat} {m : BitVec 8} (h : s.Inv) : (s.packetMasked v a va m bs).Keeps := by
  unfold State.packetMasked
  repeat' split
  · trivial
  · trivial
  · refine inv_foldl h fun s i hs => ?_
    split
    · exact inv_store hs
    · exact hs

theorem keeps_packetRead {va n : Nat} (h : s.Inv) : (s.packetRead v va n).Keeps := by
  unfold State.packetRead
  repeat' split
  · trivial
  · trivial
  · exact h

theorem keeps_packetUpdate {a : Acc} {va n : Nat} {g : Nat → Nat × Flags} (h : s.Inv) : (s.packetUpdate v a va n g).Keeps := by
  unfold State.packetUpdate
  repeat' split
  · trivial
  · trivial
  · exact inv_store h

theorem inv_foldWaits {l : List (Nat × Nat × FoldUpd)} (h : s.Inv) : ({ s with foldWaits := l } : State).Inv := h.same rfl

theorem inv_foldAccept {g : FoldGroup} {win : Nat} {u : FoldUpd} (h : s.Inv) (e : s.foldAccept g win u = .accepted t) : t.Inv := by
  have ha := keeps_foldAccept (g := g) (win := win) (u := u) h
  rwa [e] at ha

theorem keeps_packetDet {va : Nat} {wide : Bool} {x : Word} {desc rank win seq src : Nat} (h : s.Inv) :
    (s.packetDet v va wide x desc rank win seq src).Keeps := by
  unfold State.packetDet
  dsimp only
  split
  · trivial
  · trivial
  split
  · trivial
  split
  · exact inv_foldWaits h
  · trivial
  next ha => exact inv_foldWaits (inv_foldAccept h ha)

theorem keeps_packetSignal {a : Acc} {va : Nat} (h : s.Inv) : (s.packetSignal v a va).Keeps := by
  unfold State.packetSignal
  repeat' split
  · trivial
  · trivial
  · trivial
  · exact inv_store h

theorem keeps_perform {far : Bool} {src : Nat} {op : PacketOp} {va : Nat} (h : s.Inv) : (s.perform v far src op va bs).Keeps := by
  unfold State.perform
  dsimp only
  cases op
  case write => exact keeps_packetWrite h
  case store => exact keeps_packetWrite h
  case masked => exact keeps_packetMasked h
  case read => exact keeps_packetRead h
  case load => exact keeps_packetRead h
  case radd => exact keeps_packetUpdate h
  case atomic => exact keeps_packetUpdate h
  case fadd =>
    dsimp only
    split
    · exact keeps_packetUpdate h
    · exact keeps_packetUpdate h
  case detAdd => exact keeps_packetDet h
  case sig => exact keeps_packetSignal h
  case foldClose => exact inv_unitsClose h
  case accept =>
    dsimp only
    split
    · trivial
    · trivial
    · exact h
  case report =>
    dsimp only
    split
    · exact h.same rfl
    · trivial

theorem keeps_of_perform {far : Bool} {src : Nat} {op : PacketOp} {va : Nat} {r : Served} (h : s.Inv) (e : s.perform v far src op va bs = r) : r.Keeps :=
  e ▸ keeps_perform h

theorem keeps_of_packetSignal {a : Acc} {va : Nat} {r : Served} (h : s.Inv) (e : s.packetSignal v a va = r) : r.Keeps :=
  e ▸ keeps_packetSignal h

theorem keeps_localPieces {p : Word} {n : Nat} {a : Acc} {y : Act} (e : s.localPieces v p n a = .error y) : y.Keeps := by
  grind [State.localPieces, keeps_stop]

theorem inv_performCuts {va : Nat} {l : List (Nat × Nat)} {x : Option (Cause × Nat)} (h : s.Inv) {y : Option (Cause × Nat)}
    (e : s.performCuts v va bs l x = some (t, y)) : t.Inv := by
  induction l generalizing s x with
  | nil => cases e; exact h
  | cons q l ih =>
    unfold State.performCuts at e
    split at e
    · exact ih h e
    split at e
    · cases e
    · cases e
    · exact ih h e
    next hp => exact ih (keeps_of_perform h hp) e

theorem keeps_serveHere {o : OneSided} {ty : RTy} {land sig : Place × List (Nat × Nat)} (h : s.Inv) : (s.serveHere k b o ty bs land sig).Keeps := by
  have signalled {s1 t : State} {op : FabricOp} (h1 : s1.Inv)
      (e : (match s1.packetSignal (fabricView (dieOf k) (s.bank k b).id.spid s.ctl.pkid.toNat) .write (vaOf o.sg) with
        | .wait | .held _ => none
        | .failed c d => some (s1.failLocal op c d)
        | .ok s2 _ _ => some s2) = some t) : t.Inv := by
    split at e
    · cases e
    · cases e
    · cases e; exact inv_failLocal h1
    next hq => cases e; exact keeps_of_packetSignal h1 hq
  unfold State.serveHere
  dsimp only
  generalize isReply .write _ _ _ 1 = p
  split
  · split
    · trivial
    · trivial
    · exact inv_failLocal h
    · exact inv_signalAdd (inv_store (inv_served h))
  split
  · split
    · trivial
    · trivial
    · exact inv_failLocal h
    next hp =>
      have h1 := keeps_of_perform h hp
      split
      · split
        · trivial
        next e => exact signalled h1 e
      · exact h1
  split
  · exact inv_applyRecord h
  split
  · trivial
  next hp => exact inv_failLocal (inv_performCuts h hp)
  next hp =>
    have h1 := inv_performCuts h hp
    split
    · split
      · trivial
      next e => exact signalled h1 e
    · exact h1

theorem keeps_serveAway {o : OneSided} {ty : RTy} {src : List (Nat × Nat)} {g : BitVec 16 × Word} (h : s.Inv) : (s.serveAway k b o ty src g).Keeps := by
  unfold State.serveAway
  dsimp only
  repeat' split
  all_goals grind [Act.Keeps, inv_setBank, inv_sendPacket, inv_copyPayload, inv_addOp, keeps_stop]

theorem inv_localOperands {o : OneSided} (h : s.Inv) {y1 : (Place × List (Nat × Nat))} {y2 : (Place × List (Nat × Nat))} (e : s.localOperands k b o = .ok (t, y1, y2)) : t.Inv := by
  unfold State.localOperands at e
  dsimp only at e
  split at e
  · cases e; exact h
  · obtain ⟨x, -, e⟩ := ok_bind_iff.1 e
    split at e
    · obtain ⟨y, -, e⟩ := ok_bind_iff.1 e
      cases e; exact h
    · cases e; exact inv_served h

theorem keeps_localOperands {o : OneSided} {y : Act} (e : s.localOperands k b o = .error y) : y.Keeps := by
  unfold State.localOperands at e
  dsimp only at e
  split at e
  · cases e
  · rcases error_bind_iff.1 e with e | ⟨x, -, e⟩
    · exact keeps_localPieces e
    split at e
    · rcases error_bind_iff.1 e with e | ⟨y, -, e⟩
      · exact keeps_localPieces e
      · cases e
    · cases e

theorem inv_issueOneSided {i : Instr} {opc : Nat} {d : WReg} {sr : Option WReg} {n : SReg} {sg : Option WReg} {ty : RTy} (h : s.Inv)
    (e : issueOneSided s i opc d sr n sg ty = .next t) : t.Inv := by
  refine inv_issue h (fun k b => ?_) e
  dsimp only
  repeat' split
  any_goals trivial
  next hl => exact keeps_localOperands hl
  next hl => exact keeps_serveHere (inv_localOperands h hl)
  next hl => exact keeps_localOperands hl
  next hl => exact keeps_serveAway (inv_localOperands h hl)

theorem inv_countRefused {g : Nat} (h : s.Inv) : (s.countRefused g).Inv := by
  unfold State.countRefused
  grind [inv_def]

theorem inv_say {m : OutMsg} (h : s.Inv) : (s.say m).Inv := by
  unfold State.say
  grind [inv_def]

theorem inv_actedOn {p : Packet} (h : s.Inv) : (s.actedOn p).Inv := by
  unfold State.actedOn
  grind [inv_def]

theorem inv_dropIn {src opId : Nat} (h : s.Inv) : (s.dropIn src opId).Inv := by
  unfold State.dropIn
  grind [inv_def]

theorem inv_answer {p : Packet} {r0 : AckReply} (h : s.Inv) : (s.answer p r0).Inv := by
  unfold State.answer
  grind [inv_def, inv_say, inv_actedOn, inv_dropIn]

theorem inv_refuse {p : Packet} {c : Cause} {d : Nat} (h : s.Inv) : (s.refuse p c d).Inv := by
  unfold State.refuse
  grind [inv_answer]

theorem inv_reply {p : Packet} {data : List Byte} {vals : List Word} (h : s.Inv) : (s.reply p data vals).Inv := by
  unfold State.reply
  split
  · exact inv_foldl h fun _ _ => inv_say
  · exact inv_say h
  · exact inv_say h
  · exact inv_say h
  · exact inv_say h
  · exact h

theorem inv_execPacketIngress {p : Packet} (h : s.Inv) (e : execPacketIngress p s = .next t) : t.Inv := by
  unfold execPacketIngress at e
  repeat' split at e
  all_goals
    rw [Host.Outcome.next.injEq] at e
    rw [← e]
  · exact h
  · exact inv_refuse h
  · exact inv_refuse (inv_countRefused h)
  · exact inv_answer (inv_applyRecord h)
  · exact inv_refuse h
  · exact h
  next hp => exact keeps_of_perform h hp
  · exact inv_refuse h
  next hp => exact inv_answer (inv_reply (keeps_of_perform h hp))

theorem inv_execRemoteSignalUpdate {src opId : Nat} (h : s.Inv) (e : execRemoteSignalUpdate src opId s = .next t) : t.Inv := by
  unfold execRemoteSignalUpdate at e
  dsimp only at e
  repeat' split at e
  all_goals
    rw [Host.Outcome.next.injEq] at e
    rw [← e]
  · exact h
  · exact inv_say (inv_dropIn h)
  · exact inv_say (inv_dropIn (inv_countRefused h))
  · exact inv_say (inv_dropIn h)
  · exact h
  · exact h
  · exact inv_say (inv_dropIn h)
  next hp => exact inv_say (inv_dropIn (keeps_of_packetSignal h hp))
  · exact h

theorem inv_reportBack {ws : List Word} (h : s.Inv) : (s.reportBack ws).Inv := by
  unfold State.reportBack
  grind [inv_def]

theorem inv_accessFails {id x d : Nat} (h : s.Inv) : (s.accessFails id x d).Inv := by
  unfold State.accessFails
  dsimp only
  repeat' split
  all_goals grind [inv_farAnswered, inv_writesBack, inv_acceptStep]

theorem inv_settle {q : RetryPkt} {r : AckReply} (h : s.Inv) : (s.settle q r).Inv := by
  have h1 {l : List RetryPkt} : ({ s with fab := { s.fab with retry := l } } : State).Inv := h.same rfl
  unfold State.settle
  dsimp only
  repeat' split
  · exact inv_pump (inv_sweepOps (inv_packetDone h1))
  · exact inv_pump (inv_reportBack h1)
  · exact inv_pump (inv_sweepOps (inv_failOp (inv_noReplies (inv_packetDone h1))))
  · exact inv_pump h1
  · exact inv_accessFails h

theorem inv_execPacketAck {port seq : Nat} {r0 : AckReply} (h : s.Inv) (e : execPacketAck port seq r0 s = .next t) : t.Inv := by
  grind [execPacketAck, inv_settle]

theorem inv_execPacketResend {port seq : Nat} (h : s.Inv) (e : execPacketResend port seq s = .next t) : t.Inv := by
  grind [execPacketResend, inv_def, inv_settle]

theorem inv_execRrdReply {opId off : Nat} (h : s.Inv) (e : execRrdReply opId off bs s = .next t) : t.Inv := by
  unfold execRrdReply at e
  dsimp only at e
  repeat' split at e
  all_goals
    rw [Host.Outcome.next.injEq] at e
    rw [← e]
  all_goals grind [inv_writeAt, inv_setOp, inv_signalAdd, inv_failOp, inv_sweepOps]

theorem inv_execGroupEntryWrite {g : Fin 256} {i : Fin 16} {v : Word} (h : s.Inv) (e : execGroupEntryWrite g i v s = .next t) : t.Inv := by
  grind [execGroupEntryWrite, inv_def]

theorem inv_execFctlWrite {v : Word} (h : s.Inv) (e : execFctlWrite v s = .next t) : t.Inv := by
  grind [execFctlWrite, inv_def]

theorem inv_execGalrilFPortUp {j : Fin 36} (h : s.Inv) (e : execGalrilFPortUp j s = .next t) : t.Inv := by
  grind [execGalrilFPortUp, inv_def]

theorem inv_execGalrilFPortDown {j : Fin 36} (h : s.Inv) (e : execGalrilFPortDown j s = .next t) : t.Inv := by
  grind [execGalrilFPortDown, inv_def]

theorem inv_execSyncMessage {off : BitVec 32} {stayed : Bool} (h : s.Inv) (e : execSyncMessage off stayed s = .next t) : t.Inv := by
  grind [execSyncMessage, inv_def]


end

/-! Invariant: probes, the debugger and snapshots. -/

section
variable {s t : State} {k : CoreKey} {b : Fin 2} {c : ClusterKey} {v : View} {m : Cmd} {f : Foot} {bs : List Byte} {w : StrandAt}

theorem inv_setProbe {l : Home} {p : Probe} (h : s.Inv) : (s.setProbe l p).Inv := by
  unfold State.setProbe
  grind [inv_def, inv_setDie]

theorem inv_probeReport {l : Home} {a : StrandAt} {kind n reason : Nat} {hd : Nat} {sid ptr : Word} (h : s.Inv) : (s.probeReport l a kind n reason hd sid ptr).Inv := by
  unfold State.probeReport
  grind [inv_raiseMsix, inv_report, inv_setProbe]

theorem inv_execStallFlag {ln : BitVec 16} {lid : BitVec 32} (h : s.Inv) (e : execStallFlag ln lid s = .next t) : t.Inv := by
  grind [execStallFlag, inv_setStrand, inv_setProbe]

theorem inv_dropFlag {l : Home} {w : StrandId} (h : s.Inv) : (s.dropFlag l w).Inv := by
  unfold State.dropFlag
  grind [inv_setProbe]

theorem inv_execProbe {l : Home} {ln : BitVec 16} {lid : BitVec 32} (h : s.Inv) (e : execProbe l ln lid s = .next t) : t.Inv := by
  unfold execProbe at e
  dsimp only at e
  repeat' split at e
  all_goals
    rw [Host.Outcome.next.injEq] at e
    rw [← e]
  · exact h
  · exact inv_dropFlag h
  · exact inv_dropFlag h
  · exact inv_probeReport (inv_dropFlag h)
  · exact inv_dropFlag h
  · exact inv_probeReport (inv_dropFlag h)
  · exact inv_setProbe h

theorem inv_deadlock {w : StrandId} (h : s.Inv) : (s.deadlock w).Inv := by
  unfold State.deadlock
  split
  · exact h
  next a _ =>
    split
    · exact h
    · have h1 : ((s.withdrawGang (clusterOf a.core) w false).withdrawFuse a.core w false).Inv := inv_withdrawFuse (inv_withdrawGang h)
      dsimp only
      split
      · split
        · exact inv_trapNow (inv_setBank h1)
        · exact inv_setStrand h1
      · exact inv_setStrand h1

theorem inv_execProbeRecheck {l : Home} (h : s.Inv) (e : execProbeRecheck l s = .next t) : t.Inv := by
  unfold execProbeRecheck at e
  split at e
  · cases e; exact h
  dsimp only at e
  split at e
  · cases e; exact inv_dropFlag h
  generalize (!_ : Bool) = changed at e
  split at e
  · cases e; exact inv_probeReport (inv_dropFlag h)
  rw [Host.Outcome.next.injEq] at e
  rw [← e]
  split
  · exact inv_foldl (inv_probeReport (inv_dropFlag h)) fun _ _ => inv_deadlock
  · exact inv_probeReport (inv_dropFlag h)

theorem inv_writeFields {w : Word} (h : s.Inv) : (s.writeFields c w).Inv := by
  unfold State.writeFields
  grind [inv_setClu]

theorem inv_emptiedCores (h : s.Inv) : (s.emptiedCores c).Inv := inv_foldl h fun _ _ => inv_emptied

theorem inv_endStop (h : s.Inv) : (s.endStop c).Inv := by
  unfold State.endStop
  dsimp only
  split
  · exact h
  · exact inv_foldl (h.same rfl) fun _ _ => inv_emptiedCores

theorem inv_stepOver {st : StepSt} (h : s.Inv) : (s.stepOver c st).Inv := by
  unfold State.stepOver
  grind [inv_setClu]

theorem inv_skidAfter (h : s.Inv) : (s.skidAfter c k).Inv := by
  unfold State.skidAfter
  grind [inv_setClu]

theorem inv_stepBegins (h : s.Inv) : (s.stepBegins c).Inv := by
  unfold State.stepBegins
  grind [inv_setClu, inv_stepOver]

theorem inv_writeVctl {w : Word} (h : s.Inv) : (s.writeVctl c w).Inv := by
  unfold State.writeVctl
  grind [inv_vermilionStop, inv_resolve, inv_writeFields, inv_endStop, inv_stepBegins]

theorem inv_execStop {scope : BitVec 2} (h : s.Inv) (e : execStop c scope s = .next t) : t.Inv := by
  grind [execStop, inv_writeVctl]

theorem inv_execRun (h : s.Inv) (e : execRun c s = .next t) : t.Inv := by
  grind [execRun, inv_writeVctl]

theorem inv_execRtick (h : s.Inv) (e : execRtick c s = .next t) : t.Inv := by
  grind [execRtick, inv_writeVctl]

theorem inv_execStep {score : Fin 8} (h : s.Inv) (e : execStep c score s = .next t) : t.Inv := by
  grind [execStep, inv_writeVctl]

theorem inv_endSteps (h : s.Inv) : s.endSteps.Inv := by
  refine inv_foldl h fun s e hs => ?_
  repeat' split
  · exact hs
  · exact hs
  · exact inv_stepOver hs
  · exact inv_skidAfter (inv_stepOver hs)

theorem inv_execStepTimeout (h : s.Inv) (e : execStepTimeout c s = .next t) : t.Inv := by
  grind [execStepTimeout, Act.Keeps, inv_stepOver]

theorem inv_execExternalDebugPin {scope : BitVec 2} (h : s.Inv) (e : execExternalDebugPin c scope s = .next t) : t.Inv := by
  grind [execExternalDebugPin, inv_vermilionStop]

theorem inv_execArm (h : s.Inv) (e : execArm s = .next t) : t.Inv := by
  grind [execArm, inv_def]

theorem inv_execHost (h : s.Inv) (e : execHost s = .next t) : t.Inv := by
  grind [execHost, inv_ivoryFire]

theorem inv_execIvoryPin (h : s.Inv) (e : execIvoryPin s = .next t) : t.Inv := by
  grind [execIvoryPin, inv_ivoryFire]

theorem inv_linkSnap {l : Fin 4} (h : s.Inv) : (s.linkSnap l).Inv :=
  (inv_draw (inv_draw h)).same rfl

theorem inv_latched {d : Vector Die 4} {i : Ivory} (h : s.Inv) : ({ s with dies := d, ivory := i } : State).Inv := h.same rfl

theorem inv_ivoryLatch (h : s.Inv) : s.ivoryLatch.Inv := by
  unfold State.ivoryLatch
  split
  · exact inv_raiseMsix (inv_latched (inv_foldl (inv_foldl h fun _ _ => inv_setClu) fun _ _ => inv_linkSnap))
  · exact h

theorem inv_execIvoryLatch (h : s.Inv) (e : execIvoryLatch s = .next t) : t.Inv := by
  grind [execIvoryLatch, inv_ivoryLatch]


end

/-! Invariant: time, links, boot, self-test, memory and power. -/

section
variable {s t : State} {k : CoreKey} {b : Fin 2} {c : ClusterKey} {v : View} {m : Cmd} {f : Foot} {bs : List Byte} {w : StrandAt}

theorem inv_tickBoundary (h : s.Inv) : s.tickBoundary.Inv := by
  have h1 : ({ s with tick := s.tick + 1, fab := s.fab.tick } : State).Inv := h.same rfl
  exact (inv_startLaunches (inv_foldl (l := List.finRange 16) (inv_flushOwed (inv_sendEgress (inv_ivoryLatch h1))) fun _ _ => inv_examine)).same rfl

theorem inv_execCeruleanTick (h : s.Inv) (e : execCeruleanTick s = .next t) : t.Inv := by
  grind [execCeruleanTick, inv_tickBoundary]

theorem inv_execLaunchStart (h : s.Inv) (e : execLaunchStart s = .next t) : t.Inv := by
  grind [execLaunchStart, inv_tickBoundary]

theorem inv_execTinv {d : Nat} {v : Word} (h : s.Inv) (e : execTinv d v s = .next t) : t.Inv := by
  grind [execTinv, inv_setDie]

theorem inv_execTstatDone {d : Nat} (h : s.Inv) (e : execTstatDone d s = .next t) : t.Inv := by
  grind [execTstatDone, inv_setDie]

theorem inv_walkEnds {d : Nat} {sp : BitVec 20} {va : Nat} (h : s.Inv) : (s.walkEnds d sp va).Inv := by
  unfold State.walkEnds
  grind [inv_setDie]

theorem inv_execTranslationWalk {d : Nat} {sp : BitVec 20} {va : Nat} (h : s.Inv) (e : execTranslationWalk d sp va s = .next t) : t.Inv := by
  grind [execTranslationWalk, inv_setDie, inv_walkEnds]

theorem inv_execCrossbarMessage {d out : Nat} {reply : Bool} {inputs : List Nat} (h : s.Inv) (e : execCrossbarMessage d out reply inputs s = .next t) : t.Inv := by
  grind [execCrossbarMessage, inv_setDie, inv_reply]

theorem inv_Op_step {i : Nat} {o : Op} (h : s.Inv) (e : Op.step c i o s = .next t) : t.Inv := by
  cases o
  case mmaBb => exact inv_gangStep h e
  case mmaE4 => exact inv_gangStep h e
  case mmaE5 => exact inv_gangStep h e
  case mmaDd => exact inv_gangStep h e
  case mmaF4 => exact inv_gangStep h e
  case mmaP8 => exact inv_gangStep h e
  case mmaPi => exact inv_gangStep h e
  case mzero => exact inv_execMzero h e
  case mdrain => exact inv_execMdrain h e
  case mswap => exact inv_execMswap h e
  case mscale => exact inv_execMscale h e
  case msts => exact inv_execMsts h e
  case qinit => exact inv_execQinit h e
  case qacc => exact inv_execQacc h e
  case qapl => exact inv_execQapl h e
  case qaplt => exact inv_execQaplt h e
  case qapr => exact inv_execQapr h e
  case qaprt => exact inv_execQaprt h e
  case qrcp => exact inv_execQrcp h e
  case qsave => exact inv_execQsave h e
  case qload => exact inv_execQload h e
  case gthr => exact inv_execGthr h e
  case cpy => exact inv_execCpy h e
  case cpy2d => exact inv_execCpy2d h e
  case fill => exact inv_execFill h e

theorem inv_setLink {l : Fin 4} {x : GdLink} (h : s.Inv) : (s.setLink l x).Inv := h.same rfl

theorem inv_execFlitReplay {l : Fin 4} {ok : Bool} (h : s.Inv) (e : execFlitReplay l ok s = .next t) : t.Inv := by
  grind [execFlitReplay, inv_setLink]

theorem inv_execRetrain {l : Fin 4} {spare : Bool} (h : s.Inv) (e : execRetrain l spare s = .next t) : t.Inv := by
  grind [execRetrain, inv_setLink]

theorem inv_setTest {x : SelfTest} (h : s.Inv) : ({ s with test := x } : State).Inv := h.same rfl

theorem inv_takeLane {l : Fin 4} {d : Fin 2} (h : s.Inv) : (s.takeLane l d).Inv := by
  unfold State.takeLane
  dsimp only
  split
  · exact h
  · exact inv_setTest (inv_setLink h)

theorem inv_execRetrainComplete {l : Fin 4} (h : s.Inv) (e : execRetrainComplete l s = .next t) : t.Inv := by
  unfold execRetrainComplete at e
  dsimp only at e
  split at e
  · rw [Host.Outcome.next.injEq] at e
    rw [← e]
    split
    · exact inv_flushOwed (inv_setLink (inv_takeLane h))
    · exact inv_flushOwed (inv_setLink h)
  · cases e; exact h

theorem inv_resign (h : s.Inv) : s.resign.Inv := by
  unfold State.resign
  grind [inv_def]

theorem inv_stopOnDies {ds : List Nat} (h : s.Inv) : (s.stopOnDies ds).Inv := by
  refine inv_foldl h fun s e hs => inv_foldl hs fun s m hs => ?_
  split
  · exact inv_setClu hs
  · exact inv_setClu hs
  · exact inv_dropOne hs
  · exact hs

theorem inv_killLost (h : s.Inv) : s.killLost.Inv := by
  unfold State.killLost
  grind [inv_settleDets, inv_killLaunches, inv_stopOnDies]

theorem inv_dropDies (h : s.Inv) : s.dropDies.Inv := by
  have h1 {d : BitVec 4} : ({ s with ctl := { s.ctl with dup := d } } : State).Inv := h.same rfl
  unfold State.dropDies
  dsimp only
  split
  · exact h
  · exact inv_resign (inv_killLost h1)

theorem inv_bankLinkDown {l : Nat} (h : s.Inv) : (s.bankLinkDown l k b).Inv := by
  unfold State.bankLinkDown
  dsimp only
  split
  · exact inv_unhold (inv_setBank h)
  · exact inv_setBank h

theorem inv_asksDown {l : Nat} (h : s.Inv) : (s.asksDown l).Inv := h.same rfl

theorem inv_linkDown {l : Fin 4} (h : s.Inv) : (s.linkDown l).Inv := by
  unfold State.linkDown
  refine inv_dropDies (inv_flushOwed (inv_raiseMsix (inv_setLink ?_)))
  exact inv_foldl (inv_foldl (inv_asksDown h) fun _ _ hs => inv_bankLinkDown (inv_bankLinkDown hs)) fun _ _ => inv_setClu

theorem inv_execRetrainAttemptFail {l : Fin 4} (h : s.Inv) (e : execRetrainAttemptFail l s = .next t) : t.Inv := by
  grind [execRetrainAttemptFail, inv_setLink, inv_linkDown]

theorem inv_execUp {l : Fin 4} (h : s.Inv) (e : execUp l s = .next t) : t.Inv := by
  grind [execUp, inv_setLink]

theorem inv_execRt {l : Fin 4} (h : s.Inv) (e : execRt l s = .next t) : t.Inv := by
  grind [execRt, inv_setLink]

theorem inv_hostAtomic {pa : Nat} {wide : Bool} {f : Nat → Nat} (h : s.Inv) : (s.hostAtomic pa wide f).Inv := by
  unfold State.hostAtomic
  grind [inv_def, inv_store]

theorem inv_execLqdb {q : Fin 16} {v : Word} (h : s.Inv) (e : execLqdb q v s = .next t) : t.Inv := by
  grind [execLqdb, inv_examine]

theorem inv_execHcompWrite {v : Word} (h : s.Inv) (e : execHcompWrite v s = .next t) : t.Inv := by
  grind [execHcompWrite, inv_def]

theorem inv_tearDown {l : Launch} (h : s.Inv) : (s.tearDown l).Inv := by
  refine inv_disp (inv_foldl (inv_foldl (inv_foldl h fun s w hs => ?_) fun _ _ => inv_freeSlot) fun _ _ hs =>
    inv_mapClu (inv_launchRings hs)) rfl
  split
  · exact inv_endStrand hs
  · exact hs

theorem inv_execLqcfgWrite {q : Fin 16} {v : Word} (h : s.Inv) (e : execLqcfgWrite q v s = .next t) : t.Inv := by
  unfold execLqcfgWrite at e
  dsimp only at e
  split at e
  all_goals
    rw [Host.Outcome.next.injEq] at e
    rw [← e]
  · exact inv_setQueue h
  · exact inv_setQueue (inv_foldl h fun _ _ => inv_tearDown)

theorem inv_execJcfgWrite {v : Word} (h : s.Inv) (e : execJcfgWrite v s = .next t) : t.Inv := by
  grind [execJcfgWrite, inv_def]

theorem inv_execPctlWrite {v : Word} (h : s.Inv) (e : execPctlWrite v s = .next t) : t.Inv := by
  grind [execPctlWrite, inv_def, inv_resign]

theorem inv_bootQuad {d q : Nat} (h : s.Inv) : (s.bootQuad d q).Inv := by
  unfold State.bootQuad
  grind [inv_setDie]

theorem inv_setBoot {x : Boot} (h : s.Inv) : ({ s with boot := x } : State).Inv := h.same rfl

theorem inv_runRom {f : Firmware} (h : s.Inv) : (s.runRom f).Inv := by
  unfold State.runRom
  dsimp only
  split
  · exact inv_setBoot h
  · exact inv_setBoot (inv_draw h)

theorem inv_runFirmware {fit : List Nat} (h : s.Inv) : (s.runFirmware fit).Inv :=
  inv_resign (inv_foldl (h.same rfl) fun _ _ => inv_bootQuad)

theorem inv_execBoot {f : Firmware} {fit : List Nat} (h : s.Inv) (e : execBoot f fit s = .next t) : t.Inv := by
  grind [execBoot, inv_runRom, inv_runFirmware]

theorem inv_execLoadFirmware {f : Firmware} {fit : List Nat} (h : s.Inv) (e : execLoadFirmware f fit s = .next t) : t.Inv := by
  unfold execLoadFirmware at e
  dsimp only at e
  repeat' split at e
  all_goals
    rw [Host.Outcome.next.injEq] at e
    rw [← e]
  · exact h
  · exact inv_setBoot (inv_runRom h)
  · exact inv_setBoot h

theorem inv_execInstallImageKey {key sig owner : List Byte} (h : s.Inv) (e : execInstallImageKey key sig owner s = .next t) : t.Inv := by
  unfold execInstallImageKey at e
  dsimp only at e
  repeat' split at e
  all_goals
    rw [Host.Outcome.next.injEq] at e
    rw [← e]
  · exact h
  · exact h.same rfl
  · exact inv_setBoot h

theorem inv_execAttest {nonce : List Byte} (h : s.Inv) (e : execAttest nonce s = .next t) : t.Inv := by
  unfold execAttest at e
  dsimp only at e
  repeat' split at e
  all_goals
    rw [Host.Outcome.next.injEq] at e
    rw [← e]
  · exact h
  · exact inv_setBoot h
  · exact inv_setBoot h

theorem inv_execSetOwnerKeyDigest {digest : List Byte} (h : s.Inv) (e : execSetOwnerKeyDigest digest s = .next t) : t.Inv := by
  unfold execSetOwnerKeyDigest at e
  repeat' split at e
  all_goals
    rw [Host.Outcome.next.injEq] at e
    rw [← e]
  · exact h
  · exact inv_setBoot h
  · exact inv_setBoot h

theorem inv_execSelfTest {x : Block} {y : ErrKind} (h : s.Inv) (e : execSelfTest x y s = .next t) : t.Inv := by
  unfold execSelfTest at e
  dsimp only at e
  repeat' split at e
  all_goals
    rw [Host.Outcome.next.injEq] at e
    rw [← e]
  · exact h
  · exact inv_setLink (inv_ivoryFire (inv_setTest h))
  · exact inv_ivoryFire (inv_setTest h)
  · exact inv_ivoryFire (inv_setTest h)

theorem inv_remapQuad (h : s.Inv) : (s.remapQuad c).Inv := inv_remap (inv_foldl h fun _ _ => inv_fence)

theorem inv_afterTest {x : Block} {spare : Bool} {r : TestResult} (h : s.Inv) : (s.afterTest x spare r).Inv := by
  unfold State.afterTest
  repeat' split
  · exact inv_setTest h
  · exact h
  · exact inv_setTest h
  · exact h
  · exact inv_fence h
  · exact inv_remapQuad h
  · dsimp only
    split
    · exact inv_setLink h
    · exact h
  · exact inv_remapQuad (inv_fence h)
  · exact inv_remapQuad (inv_fence h)
  · exact inv_setCore h
  · exact h

theorem inv_execSelfTestResult {x : Block} {r : TestResult} (h : s.Inv) (e : execSelfTestResult x r s = .next t) : t.Inv := by
  unfold execSelfTestResult at e
  dsimp only at e
  repeat' split at e
  all_goals
    rw [Host.Outcome.next.injEq] at e
    rw [← e]
  · exact h
  · exact h
  · exact inv_afterTest (inv_raiseMsix (inv_setTest h))

theorem inv_execPatrolScrub {pa : Nat} {y : ErrKind} (h : s.Inv) (e : execPatrolScrub pa y s = .next t) : t.Inv := by
  unfold execPatrolScrub at e
  dsimp only at e
  repeat' split at e
  all_goals
    rw [Host.Outcome.next.injEq] at e
    rw [← e]
  · exact h.same rfl
  · exact h.same rfl
  · exact h
  · exact h.same rfl
  · exact h
  · exact h

theorem inv_execPowerWindow {avg : BitVec 12} {tj tin : BitVec 8} (h : s.Inv) (e : execPowerWindow avg tj tin s = .next t) : t.Inv := by
  cases e
  exact h.same rfl

theorem inv_execThermalTrip (h : s.Inv) (e : execThermalTrip s = .next t) : t.Inv := by
  grind [execThermalTrip, inv_def]

theorem inv_execCxlLinkUp {p : Fin 16} {fitg : Nat} {ide : Bool} (h : s.Inv) (e : execCxlLinkUp p fitg ide s = .next t) : t.Inv := by
  cases e
  exact inv_resign (h.same rfl)

theorem inv_execCxlLinkDown {p : Fin 16} (h : s.Inv) (e : execCxlLinkDown p s = .next t) : t.Inv := by
  cases e
  exact inv_resign (h.same rfl)


end

/-! Invariant: the host and its register writes. -/

section
variable {s t : State} {k : CoreKey} {b : Fin 2} {c : ClusterKey} {v : View} {m : Cmd} {f : Foot} {bs : List Byte} {w : StrandAt}

theorem inv_freeBytes {n : Nat} (h : s.Inv) : (State.freeBytes n s).2.Inv := by
  induction n generalizing s with
  | zero => exact h
  | succ n ih => exact ih (inv_draw h)

theorem inv_hostData {x : List Byte} (h : s.Inv) : ({ s with hostData := x } : State).Inv := h.same rfl

theorem inv_execHostAccess {a : HostAccess} (h : s.Inv) (e : execHostAccess a s = .next t) : t.Inv := by
  unfold execHostAccess at e
  cases a
  case read =>
    dsimp only at e
    repeat' split at e
    all_goals
      rw [Host.Outcome.next.injEq] at e
      rw [← e]
    · exact h
    · exact inv_hostData (inv_freeBytes h)
    · exact inv_hostData h
  all_goals
    rw [Host.Outcome.next.injEq] at e
    rw [← e]
  case register => exact inv_hostData h
  case write =>
    split
    · exact h
    · exact inv_store h
  all_goals exact inv_hostAtomic h

theorem clamp_mem (lo hi x : Nat) (h : lo ≤ hi) : lo ≤ clamp lo hi x ∧ clamp lo hi x ≤ hi := by
  unfold clamp
  omega

theorem ofNat_clamp_ne_zero {n hi x : Nat} (h : 1 ≤ hi) (hn : hi < 2 ^ n) : BitVec.ofNat n (clamp 1 hi x) ≠ 0 := by
  have hc := clamp_mem 1 hi x h
  intro e
  have := congrArg BitVec.toNat e
  rw [BitVec.toNat_ofNat, Nat.mod_eq_of_lt (by omega)] at this
  simp at this
  omega

/-- R387: PENV keeps to its limits. -/
theorem inv_writeControl {off : Nat} {v : Word} (h : s.Inv) : (s.writeControl off v).Inv := by
  unfold State.writeControl
  split
  · split
    · exact h.same rfl
    · exact h
  · exact h.same rfl
  · refine ⟨h.mem, ?_, h.budget, h.sends, h.share⟩
    have hc := clamp_mem 2200 3200 (bits v 0 12) (by decide)
    simp only [BitVec.toNat_ofNat]
    omega
  · exact h

/-- R364: PTOK keeps to its limit. -/
theorem inv_writeDispatch {off : Nat} {v : Word} (h : s.Inv) : (s.writeDispatch off v).Inv := by
  unfold State.writeDispatch
  split
  · refine ⟨h.mem, h.env, ?_, h.sends, h.share⟩
    have hc := clamp_mem 0 960 (bits v 0 10) (by decide)
    simp only [BitVec.toNat_ofNat]
    omega
  · exact h.same rfl
  · exact h.same rfl
  · split
    · exact inv_setQueue h
    · exact h

/-- R424, R438: FSHARE and FRTO keep to theirs. -/
theorem inv_writeFabric {off : Nat} {v : Word} (h : s.Inv) : (s.writeFabric off v).Inv := by
  unfold State.writeFabric
  dsimp only
  split
  · exact ⟨h.mem, h.env, h.budget, h.sends, ofNat_clamp_ne_zero (by decide) (by decide)⟩
  · exact ⟨h.mem, h.env, h.budget, ⟨ofNat_clamp_ne_zero (by decide) (by decide), ofNat_clamp_ne_zero (by decide) (by decide)⟩, h.share⟩
  · exact h.same rfl
  · exact h.same rfl
  · exact h.same rfl
  · exact h

theorem inv_writeQmap {d q : Nat} {v : Word} (h : s.Inv) : (s.writeQmap d q v).Inv := by
  unfold State.writeQmap
  grind [inv_setDie, inv_resign]

theorem inv_writeCmap {v : Word} (h : s.Inv) : (s.writeCmap c v).Inv := by
  unfold State.writeCmap
  grind [inv_setClu]

theorem inv_clearFlags {v : Word} (h : s.Inv) : (s.clearFlags c v).Inv := by
  refine inv_foldl h fun s i hs => ?_
  dsimp only
  split
  · exact inv_setBank hs
  · exact hs

theorem inv_writeCluster {off : Nat} {v : Word} (h : s.Inv) : (s.writeCluster c off v).Inv := by
  unfold State.writeCluster
  dsimp only
  repeat' split
  all_goals grind [inv_writeVctl, inv_setClu, inv_writeCmap, inv_clearFlags, inv_refuseGo, inv_setCore]

theorem inv_writeDie {d off : Nat} {v : Word} (h : s.Inv) : (s.writeDie d off v).Inv := by
  unfold State.writeDie
  grind [inv_def, inv_setDie, inv_writeQmap, inv_writeCluster]

theorem inv_writeMsix {i : Nat} {v : Word} (h : s.Inv) : (s.writeMsix i v).Inv := by
  unfold State.writeMsix
  grind [inv_def]

theorem inv_writeRegister {off : Nat} {v : Word} (h : s.Inv) : (s.writeRegister off v).Inv := by
  unfold State.writeRegister
  repeat' split
  · exact h
  · exact inv_writeMsix h
  · exact inv_writeDie h
  · exact h
  · exact inv_writeControl h
  · exact inv_writeDispatch h
  · exact h.same rfl
  · exact h.same rfl
  · exact h
  · exact h.same rfl
  · exact h
  · exact h.same rfl
  · exact h.same rfl
  · exact inv_writeFabric h
  · exact h

theorem inv_execRegisterWrite {off : Nat} {v : Word} (h : s.Inv) (e : execRegisterWrite off v s = .next t) : t.Inv := by
  grind [execRegisterWrite, inv_writeRegister]


end

/-! Invariant: the agenda and the step. -/

section
variable {s t : State} {k : CoreKey} {b : Fin 2} {c : ClusterKey} {v : View} {m : Cmd} {f : Foot} {bs : List Byte} {w : StrandAt}


/-- A step of the package that keeps the invariant. -/
def KeepsInv (g : State → Next) : Prop := ∀ ⦃s t : State⦄, s.Inv → g s = .next t → t.Inv

theorem keepsInv_bankMoves {g : State → Next} (hg : g ∈ s.bankMoves k b) : KeepsInv g := by
  unfold State.bankMoves at hg
  simp only [List.mem_append, List.mem_map] at hg
  rcases hg with (((hg | ⟨n, -, rfl⟩) | hg) | hg) | hg
  · split at hg
    · cases hg
    · cases List.mem_singleton.1 hg; exact fun _ _ => inv_execTrapEntry
  · exact fun _ _ => inv_execLongLatencyWriteback
  · split at hg
    · cases hg
    · cases List.mem_singleton.1 hg; exact fun _ _ => inv_execStoreAcceptance
  · split at hg
    · cases List.mem_singleton.1 hg; exact fun _ _ => inv_execLoopEnd
    · cases hg
  · split at hg
    · cases List.mem_singleton.1 hg; exact fun _ _ => inv_execSpill
    · cases List.mem_singleton.1 hg; exact fun _ _ => inv_execRestoreComplete
    · rcases List.mem_append.1 hg with hg | hg
      · split at hg
        · cases List.mem_singleton.1 hg; exact fun _ _ => inv_execSpill
        · cases hg
      · obtain ⟨n, -, rfl⟩ := List.mem_map.1 hg
        exact fun _ _ => inv_execReload
    · cases hg

theorem keepsInv_swapMoves {x : Core} {g : State → Next} (hg : g ∈ x.swapMoves k) : KeepsInv g := by
  unfold Core.swapMoves at hg
  split at hg
  · cases List.mem_singleton.1 hg
    intro s t h e
    cases e
    exact inv_swapMove h
  · cases hg

theorem keepsInv_clusterMoves {x : Cluster} {g : State → Next} (hg : g ∈ clusterMoves c x) : KeepsInv g := by
  obtain ⟨m, -, hm⟩ := List.mem_flatMap.1 hg
  split at hm
  · cases List.mem_singleton.1 hm; exact fun _ _ => inv_execCommandLaunch
  · cases ho : m.op with
    | none => rw [ho] at hm; cases hm
    | some o => rw [ho] at hm; cases List.mem_singleton.1 hm; exact fun _ _ => inv_Op_step
  · cases List.mem_singleton.1 hm; exact fun _ _ => inv_execCommandCompletion
  · cases List.mem_singleton.1 hm; exact fun _ _ => inv_execCommandStop
  · cases hm

theorem keepsInv_resolveMoves {g : State → Next} (hg : g ∈ s.resolveMoves) : KeepsInv g := by
  unfold State.resolveMoves at hg
  split at hg
  · simp only [List.mem_cons, List.not_mem_nil, or_false] at hg
    rcases hg with rfl | rfl | rfl
    all_goals exact fun _ _ => inv_execResolution
  · cases hg

theorem keepsInv_dieMoves {d : Nat} {x : Die} {g : State → Next} (hg : g ∈ dieMoves d x) : KeepsInv g := by
  unfold dieMoves at hg
  simp only [List.mem_append, List.mem_map] at hg
  rcases hg with (((⟨v, -, rfl⟩ | hg) | hg) | ⟨w, -, rfl⟩) | hg
  · exact fun _ _ => inv_execProbe
  · split at hg
    · cases hg
    · cases List.mem_singleton.1 hg; exact fun _ _ => inv_execProbeRecheck
  · obtain ⟨q, -, hq⟩ := List.mem_flatMap.1 hg
    split at hq
    · obtain ⟨n, -, rfl⟩ := List.mem_map.1 hq
      exact fun _ _ => inv_execFusedStageStep
    · cases hq
  · exact fun _ _ => inv_execTranslationWalk
  · split at hg
    · cases hg
    · cases List.mem_singleton.1 hg; exact fun _ _ => inv_execTstatDone

theorem keepsInv_packageMoves {g : State → Next} (hg : g ∈ s.packageMoves) : KeepsInv g := by
  unfold State.packageMoves at hg
  simp only [List.mem_append, List.mem_map] at hg
  rcases hg with (((((⟨v, -, rfl⟩ | hg) | ⟨x, -, rfl⟩) | hg) | hg) | ⟨l, -, rfl⟩) | ⟨q, -, rfl⟩
  · exact fun _ _ => inv_execProbe
  · split at hg
    · cases hg
    · cases List.mem_singleton.1 hg; exact fun _ _ => inv_execProbeRecheck
  · exact fun _ _ => inv_execWindowClose
  · split at hg
    · cases hg
    · cases List.mem_singleton.1 hg; exact fun _ _ => inv_execFaultReport
  · split at hg
    · cases List.mem_singleton.1 hg
      intro s t h e
      cases e
      exact inv_killLost h
    · cases hg
  · exact fun _ _ => inv_execLaunchCompletion
  · exact fun _ _ => inv_execLaunchReport

theorem keepsInv_moves {g : State → Next} (hg : g ∈ s.moves) : KeepsInv g := by
  unfold State.moves at hg
  simp only [List.mem_append, List.mem_map, List.mem_flatMap] at hg
  rcases hg with ((((⟨n, -, rfl⟩ | ⟨x, -, (hg | hg) | hg⟩) | ⟨x, -, hg⟩) | hg) | ⟨d, -, hg⟩) | hg
  · exact fun _ _ => inv_execEventDelivery
  · exact keepsInv_bankMoves hg
  · exact keepsInv_bankMoves hg
  · exact keepsInv_swapMoves hg
  · exact keepsInv_clusterMoves hg
  · exact keepsInv_resolveMoves hg
  · exact keepsInv_dieMoves hg
  · exact keepsInv_packageMoves hg

theorem inv_firstMove {l : List (State → Next)} (h : s.Inv) (hl : ∀ g ∈ l, KeepsInv g) (e : firstMove s l = some t) : t.Inv := by
  induction l with
  | nil => cases e
  | cons g l ih =>
    have hr := ih fun g hg => hl g (List.mem_cons_of_mem _ hg)
    unfold firstMove at e
    split at e
    next u hu =>
      split at e
      · exact hr e
      · cases e; exact hl g List.mem_cons_self h hu
    · exact hr e

theorem inv_due (h : s.Inv) (e : s.due = some t) : t.Inv := inv_firstMove h (fun _ => keepsInv_moves) e

theorem inv_turn (h : s.Inv) (e : s.turn = .next t) : t.Inv := by
  unfold State.turn at e
  split at e
  · cases e
    exact (inv_tickBoundary h).same rfl
  · cases e; exact h

theorem inv_endGrace (h : s.Inv) : s.endGrace.Inv := by
  unfold State.endGrace
  split
  · exact h.same rfl
  · exact h

theorem inv_closeSteps (h : s.Inv) : s.closeSteps.Inv := by
  unfold State.closeSteps
  split
  · exact inv_endSteps h
  · exact h

theorem inv_cacheFetch {loc : Nat} {x : BitVec 32} (h : s.Inv) : (s.cacheFetch c loc x).2.Inv := by
  unfold State.cacheFetch
  dsimp only
  split
  · dsimp only
    exact inv_mapClu h
  · dsimp only
    exact inv_mapClu (inv_draw h)

theorem inv_fetchWord {x : BitVec 32} (h : s.Inv) (e : s.fetchWord k b = .ok (x, t)) : t.Inv := by
  unfold State.fetchWord at e
  split at e
  · cases e
  split at e
  next loc _ _ y _ _ =>
    have hc := inv_cacheFetch (c := clusterOf k) (loc := loc) (x := y) h
    rw [Except.ok.inj e] at hc
    exact hc
  · cases e

theorem inv_noteWord {p : Word} {x : BitVec 32} (h : s.Inv) : (s.noteWord k b p x).Inv := by
  unfold State.noteWord
  dsimp only
  split
  · exact inv_setBank h
  · exact h

theorem inv_fetchStop {x : Stop} (h : s.Inv) (e : fetchStop s k b x = .next t) : t.Inv := by
  cases x with
  | wait => cases e; exact inv_holdIssue h
  | trap y d =>
    dsimp only [fetchStop] at e
    exact inv_issueWith h (fun _ _ => by exact trivial) e

/-- Each instruction and each step of the package keeps the invariant. -/
theorem inv_exec {i : Instr} (h : s.Inv) (e : exec i s = .next t) : t.Inv := by
  cases i
  case add | sub | mul | mulh | mulhn | and | or | xor | shl | shr | sha | rol | clz | ctz | popc | min | max | minn | maxn | slt | sltn |
      sel | addi | andi | ori | xori | li | lih | lea | leaX2 | leaX4 | leaX8 | fadd | fsub | fmul | ffma | ffms | fmin | fmax | fcmpEq |
      fcmpNe | fcmpLt | fcmpLe | fcmpUn | fclass | fsgnCp | fsgnNg | fsgnXr | fcvt | mand | mor | mxor | mnot | mpop | vadd | vsub | vmul
      | vmin | vmax | vand | vor | vxor | vshl | vshr | vcmpEq | vcmpNe | vcmpLt | vcmpLe | vcmpUn | vsel | vbcast | vext | vins | vshuf |
      vredAdd | vredMin | vredMax | vcvt | vabs | vneg | viota | vfma | vfms =>
    dsimp only [exec, execAdd, issueInt, execSub, execMul, execMulh, execMulhn, execAnd, execOr, execXor, execShl, execShr, execSha,
      execRol, execClz, issueInt1, execCtz, execPopc, execMin, execMax, execMinn, execMaxn, execSlt, execSltn, execSel, execAddi,
      execAndi, execOri, execXori, execLi, execLih, execLea, execLeaX2, execLeaX4, execLeaX8, execFadd, issueFp2, issueFp, execFsub,
      execFmul, execFfma, issueFma, execFfms, execFmin, issueFpSel, execFmax, execFcmpEq, execFcmpNe, execFcmpLt, execFcmpLe, execFcmpUn,
      execFclass, execFsgnCp, execFsgnNg, execFsgnXr, execFcvt, execMand, issueMask, execMor, execMxor, execMnot, execMpop, execVadd,
      issueVec2, issueVec, execVsub, execVmul, execVmin, execVmax, execVand, execVor, execVxor, execVshl, execVshr, execVcmpEq, issueVcmp,
      execVcmpNe, execVcmpLt, execVcmpLe, execVcmpUn, execVsel, execVbcast, execVext, execVins, execVshuf, execVredAdd, issueVred,
      execVredMin, execVredMax, execVcvt, execVabs, execVneg, execViota, execVfma, issueVfma, execVfms] at e
    exact inv_issueMap h e
  case chk | beq | bne | blt | bge | bltn | bgen | bz | bnz | bmany | bmall =>
    dsimp only [exec, execChk, execBeq, issueBranch, execBne, execBlt, execBge, execBltn, execBgen, execBz, issueBz, execBnz, execBmany,
      issueMaskBranch, execBmall] at e
    exact inv_issueReg h e
  case div | divn | rem | remn | divS32 | divnN32 | remS32 | remnN32 | fsqrt | fdiv | easgn | earnd | easts | vdiv | vsqrt | eamac |
      eamacNg | eamac3 | eamac3Ng | eaclr | eaadd | eaaddNg =>
    dsimp only [exec, execDiv, issueDiv, execDivn, execRem, execRemn, execDivS32, execDivnN32, execRemS32, execRemnN32, execFsqrt,
      execFdiv, execEasgn, execEarnd, execEasts, execVdiv, issueVecLong, execVsqrt, execEamac, issueEa, execEamacNg, execEamac3,
      execEamac3Ng, execEaclr, execEaadd, issueEaadd, execEaaddNg] at e
    exact inv_issueLong h e
  case halloc => exact inv_execHalloc h e
  case hfree => exact inv_execHfree h e
  case foldmark => exact inv_execFoldmark h e
  case j | call | jr | ret | callr | loop | loopi =>
    dsimp only [exec, execJ, execCall, execJr, execRet, execCallr, execLoop, execLoopi] at e
    exact inv_issueEnd h e
  case loopEnd => exact inv_execLoopEnd h e
  case nop =>
    dsimp only [exec, execNop] at e
    exact inv_issueSys h (fun _ _ => by exact h) e
  case trap =>
    dsimp only [exec, execTrap] at e
    exact inv_issueSys h (fun _ _ => by exact True.intro) e
  case waitt =>
    dsimp only [exec, execWaitt] at e
    refine inv_issueSys h (fun _ _ => ?_) e
    split
    · exact h
    · trivial
  case eret => exact inv_execEret h e
  case swapw => exact inv_execSwapw h e
  case phase => exact inv_execPhase h e
  case retire => exact inv_execRetire h e
  case snap => exact inv_execSnap h e
  case rds => exact inv_execRds h e
  case wrs => exact inv_execWrs h e
  case ldS8 | ldN8 | ldS16 | ldN16 | ldS32 | ldN32 | ldD =>
    dsimp only [exec, execLdS8, execLdN8, execLdS16, execLdN16, execLdS32, execLdN32, execLdD] at e
    exact inv_issueLoad h e
  case stB | stH | stW | stD =>
    dsimp only [exec, execStB, execStH, execStW, execStD] at e
    exact inv_issueStore h e
  case vld => exact inv_execVld h e
  case vlds => exact inv_execVlds h e
  case vldx => exact inv_execVldx h e
  case vst => exact inv_execVst h e
  case vstx => exact inv_execVstx h e
  case aadd | amin | amax | axchg | acas =>
    dsimp only [exec, execAadd, execAmin, execAmax, execAxchg, execAcas] at e
    exact inv_issueAtomic h e
  case afadd => exact inv_execAfadd h e
  case afaddDet => exact inv_execAfaddDet h e
  case fence => exact inv_execFence h e
  case xop => exact inv_execXop h e
  case xcfg => exact inv_execXcfg h e
  case xdrop => exact inv_execXdrop h e
  case offer => exact inv_execOffer h e
  case choose => exact inv_execChoose h e
  case poll => exact inv_execPoll h e
  case withdraw => exact inv_execWithdraw h e
  case evjoin => exact inv_execEvjoin h e
  case evleave => exact inv_execEvleave h e
  case evbind => exact inv_execEvbind h e
  case evbindU => exact inv_execEvbindU h e
  case rqpush => exact inv_execRqpush h e
  case rqpop => exact inv_execRqpop h e
  case qpushSl | qpushGth | qpushCpy =>
    dsimp only [exec, execQpushSl, execQpushGth, execQpushCpy] at e
    exact inv_issuePush h e
  case qstat => exact inv_execQstat h e
  case mgang => exact inv_execMgang h e
  case fuse => exact inv_execFuse h e
  case unfuse => exact inv_execUnfuse h e
  case rwr | rwrs | rrd | radd | radds =>
    dsimp only [exec, execRwr, execRwrs, execRrd, execRadd, execRadds] at e
    exact inv_issueOneSided h e
  case raddDetF64 | raddDetF32 =>
    dsimp only [exec, execRaddDetF64, execRaddDetF32] at e
    exact inv_issueRaddDet h e
  case illegal => exact inv_execIllegal h e
  case mmaBb | mmaE4 | mmaE5 | mmaDd | mmaF4 | mmaP8 | mmaPi =>
    dsimp only [exec, execMmaBb, execMmaE4, execMmaE5, execMmaDd, execMmaF4, execMmaP8, execMmaPi] at e
    exact inv_gangStep h e
  case mzero => exact inv_execMzero h e
  case mdrain => exact inv_execMdrain h e
  case mswap => exact inv_execMswap h e
  case mscale => exact inv_execMscale h e
  case msts => exact inv_execMsts h e
  case qinit => exact inv_execQinit h e
  case qacc => exact inv_execQacc h e
  case qapl => exact inv_execQapl h e
  case qaplt => exact inv_execQaplt h e
  case qapr => exact inv_execQapr h e
  case qaprt => exact inv_execQaprt h e
  case qrcp => exact inv_execQrcp h e
  case qsave => exact inv_execQsave h e
  case qload => exact inv_execQload h e
  case gthr => exact inv_execGthr h e
  case cpy => exact inv_execCpy h e
  case cpy2d => exact inv_execCpy2d h e
  case fill => exact inv_execFill h e
  case commandLaunch => exact inv_execCommandLaunch h e
  case commandCompletion => exact inv_execCommandCompletion h e
  case commandStop => exact inv_execCommandStop h e
  case fusedStageStep => exact inv_execFusedStageStep h e
  case fusionFault => exact inv_execFusionFault h e
  case longLatencyWriteback => exact inv_execLongLatencyWriteback h e
  case storeAcceptance => exact inv_execStoreAcceptance h e
  case trapEntry => exact inv_execTrapEntry h e
  case resolution => exact inv_execResolution h e
  case eventDelivery => exact inv_execEventDelivery h e
  case ceruleanTick => exact inv_execCeruleanTick h e
  case faultReport => exact inv_execFaultReport h e
  case resume => exact inv_execResume h e
  case skip => exact inv_execSkip h e
  case kill => exact inv_execKill h e
  case edit => exact inv_execEdit h e
  case discard => exact inv_execDiscard h e
  case stallFlag => exact inv_execStallFlag h e
  case probe => exact inv_execProbe h e
  case probeRecheck => exact inv_execProbeRecheck h e
  case hang => exact inv_execHang h e
  case remap => exact inv_execRemap h e
  case migration => exact inv_execMigration h e
  case swapThreshold => exact inv_execSwapThreshold h e
  case timeSlice => exact inv_execTimeSlice h e
  case create => exact inv_execCreate h e
  case restore => exact inv_execRestore h e
  case unbind => exact inv_execUnbind h e
  case makeActive => exact inv_execMakeActive h e
  case spill => exact inv_execSpill h e
  case restoreComplete => exact inv_execRestoreComplete h e
  case reload => exact inv_execReload h e
  case recordAccept => exact inv_execRecordAccept h e
  case claimTimeout => exact inv_execClaimTimeout h e
  case admission => exact inv_execAdmission h e
  case lstart => exact inv_execLstart h e
  case launchStart => exact inv_execLaunchStart h e
  case launchCompletion => exact inv_execLaunchCompletion h e
  case launchReport => exact inv_execLaunchReport h e
  case windowClose => exact inv_execWindowClose h e
  case stepTimeout => exact inv_execStepTimeout h e
  case stop => exact inv_execStop h e
  case run => exact inv_execRun h e
  case rtick => exact inv_execRtick h e
  case step => exact inv_execStep h e
  case externalDebugPin => exact inv_execExternalDebugPin h e
  case arm => exact inv_execArm h e
  case host => exact inv_execHost h e
  case ivoryPin => exact inv_execIvoryPin h e
  case ivoryLatch => exact inv_execIvoryLatch h e
  case tinv => exact inv_execTinv h e
  case tstatDone => exact inv_execTstatDone h e
  case translationWalk => exact inv_execTranslationWalk h e
  case crossbarMessage => exact inv_execCrossbarMessage h e
  case flitReplay => exact inv_execFlitReplay h e
  case retrain => exact inv_execRetrain h e
  case retrainComplete => exact inv_execRetrainComplete h e
  case retrainAttemptFail => exact inv_execRetrainAttemptFail h e
  case up => exact inv_execUp h e
  case rt => exact inv_execRt h e
  case packetIngress => exact inv_execPacketIngress h e
  case packetAck => exact inv_execPacketAck h e
  case packetResend => exact inv_execPacketResend h e
  case remoteSignalUpdate => exact inv_execRemoteSignalUpdate h e
  case rrdReply => exact inv_execRrdReply h e
  case syncMessage => exact inv_execSyncMessage h e
  case hostAccess => exact inv_execHostAccess h e
  case lqdb q v => exact inv_execLqdb (v := v) h e
  case hcompWrite v => exact inv_execHcompWrite (v := v) h e
  case lqcfgWrite => exact inv_execLqcfgWrite h e
  case rcfgWrite => exact inv_execRcfgWrite h e
  case jcfgWrite => exact inv_execJcfgWrite h e
  case pctlWrite => exact inv_execPctlWrite h e
  case fctlWrite => exact inv_execFctlWrite h e
  case fen => exact inv_execFen h e
  case groupEntryWrite => exact inv_execGroupEntryWrite h e
  case registerWrite => exact inv_execRegisterWrite h e
  case loadFirmware f fit => exact inv_execLoadFirmware (fit := fit) h e
  case installImageKey => exact inv_execInstallImageKey h e
  case attest => exact inv_execAttest h e
  case setOwnerKeyDigest => exact inv_execSetOwnerKeyDigest h e
  case boot => exact inv_execBoot h e
  case selfTest => exact inv_execSelfTest h e
  case patrolScrub => exact inv_execPatrolScrub h e
  case powerWindow => exact inv_execPowerWindow h e
  case thermalTrip => exact inv_execThermalTrip h e
  case galrilFPortUp => exact inv_execGalrilFPortUp h e
  case galrilFPortDown => exact inv_execGalrilFPortDown h e
  case cxlLinkUp => exact inv_execCxlLinkUp h e
  case cxlLinkDown => exact inv_execCxlLinkDown h e
  case selfTestResult => exact inv_execSelfTestResult h e

theorem inv_notedOutcome {p : Word} {x : BitVec 32} {o : Next} (ho : ∀ u, o = .next u → u.Inv)
    (e : notedOutcome k b p x o = .next t) : t.Inv := by
  cases o with
  | next u => cases e; exact inv_noteWord (ho u rfl)
  | _ => cases e

theorem inv_issueTurn (h : s.Inv) (e : issueTurn s = .next t) : t.Inv := by
  unfold issueTurn at e
  split at e
  · cases e; exact h
  split at e
  · exact inv_exec h e
  split at e
  next hf => exact inv_notedOutcome (fun _ => inv_exec (inv_fetchWord h hf)) e
  · exact inv_fetchStop h e

theorem inv_runTurn {u : Turn} (h : s.Inv) (e : runTurn u s = .next t) : t.Inv := by
  cases u with
  | act i => exact inv_exec h e
  | core k =>
    unfold runTurn at e
    dsimp only at e
    split at e
    · cases e; exact inv_swapMove h
    · exact inv_issueTurn (s := { s with cur := k }) (h.same rfl) e

theorem inv_freeTurn (h : s.Inv) (e : freeTurn s = .next t) : t.Inv := by
  unfold freeTurn at e
  dsimp only at e
  split at e
  next hd => cases e; exact inv_due (inv_endGrace h) hd
  split at e
  next ht => exact inv_issueTurn (inv_turn (inv_endGrace h) ht) e
  next hn => exact absurd e (hn t)

theorem inv_settleOutcome {o : Next} (ho : ∀ u, o = .next u → u.Inv) (e : settleOutcome o = .next t) : t.Inv := by
  cases o with
  | next u => cases e; exact inv_closeSteps (ho u rfl)
  | _ => cases e

theorem inv_step (h : s.Inv) (e : step s = .next t) : t.Inv := by
  unfold step at e
  split at e
  · cases e
  split at e
  · cases e
  refine inv_settleOutcome (fun u hu => ?_) e
  split at hu
  next l _ => exact inv_runTurn (s := { s with agenda := l }) (h.same rfl) hu
  · exact inv_freeTurn h hu

end

/-- Settles O59: a limited register is written by its own entry alone, which holds it between its limits, and memory by `putByte`, which keeps its canonical form. -/
theorem stepKeepsInvariant : Obligations.StepKeepsInvariant := fun _ _ => inv_step

end Sys2Proof.Machine

namespace Sys2Proof.Machine

open Sys2Proof

/-! Elaborated one after another, as the invariant of O59 is, for the memory that parallel tasks would hold. -/
set_option Elab.async false

/-! Ports, links and CXL ports. -/

theorem resign_mem (s : State) : s.resign.mem = s.mem := by
  unfold State.resign
  split <;> rfl

theorem resign_cxl (s : State) : s.resign.cxl = s.cxl := by
  unfold State.resign
  split <;> rfl

theorem groupOpen_eq (e : GroupEntry) : groupOpen e = e.words[0].getLsbD 63 := by
  simp [groupOpen, vget, Vector.getD]

/-- The word that a write leaves in a closed entry keeps bit 63 as it was written. -/
theorem execGroupEntryWrite_eq (s : State) (g : Fin 256) (i : Fin 16) (v : Word) :
    let e : GroupEntry := lookupD ⟨Vector.replicate 16 0⟩ s.fab.groups g.val
    let y : GroupEntry := ⟨e.words.set i (v &&& groupMask i.val)⟩
    execGroupEntryWrite g i v s = if 11 ≤ i.val ∨ (groupOpen e = true ∧ (i.val ≠ 0 ∨ groupOpen y = true)) ∨ s.groupClash g.val y = true then .next s
      else .next { s with fab := { s.fab with groups := insertKey g.val y s.fab.groups } } := rfl

theorem groupOpen_set_zero {e : GroupEntry} {i : Fin 16} {v : Word} (hi : i.val = 0) :
    groupOpen ⟨e.words.set i (v &&& groupMask i.val)⟩ = v.getLsbD 63 := by
  obtain rfl : i = 0 := Fin.ext hi
  rw [groupOpen_eq]
  simp [groupMask]

theorem groupClash_of_closed {s : State} {g : Nat} {e : GroupEntry} (h : groupOpen e = false) : s.groupClash g e = false := by
  simp [State.groupClash, h]

theorem asksDown_of_none {s : State} {l : Nat} (h : ∀ o ∈ s.fab.ops, o.ask = none) : s.asksDown l = s := by
  have hm : (s.asksDown l).fab.ops = s.fab.ops := by
    unfold State.asksDown
    refine (List.map_congr_left fun o ho => ?_).trans (List.map_id _)
    simp [h o ho]
  have e : s.asksDown l = { s with fab := { s.fab with ops := (s.asksDown l).fab.ops } } := rfl
  rw [e, hm]

theorem linkDown_of_idle {s : State} {l : Fin 4} (hk : s.cores = []) (hc : s.clusters = []) (ho : ∀ o ∈ s.fab.ops, o.ask = none) :
    s.linkDown l = (((s.setLink l { s.links[l] with attempts := 3, st := 2 }).raiseMsix 5).flushOwed).dropDies := by
  unfold State.linkDown
  simp only [asksDown_of_none ho, hk, hc]
  rfl

theorem takeLane_of_waiting {s : State} {l : Fin 4} {d : Fin 2} {n : Nat} (hs : (s.links[l]).spare[d] ≠ 0)
    (hn : s.test.running.findIdx? (fun t => t.ofLink l d && !t.spare) = some n) :
    s.takeLane l d = { s.setLink l { s.links[l] with spare := (s.links[l]).spare.set d ((s.links[l]).spare[d] - 1) } with
      test := { s.test with running := s.test.running.modify n fun t => { t with spare := true } } } := by
  have ha : (s.test.running.any fun t => t.ofLink l d && !t.spare) = true := by
    obtain ⟨hlt, hp, -⟩ := List.findIdx?_eq_some_iff_getElem.1 hn
    exact List.any_eq_true.2 ⟨_, List.getElem_mem hlt, hp⟩
  unfold State.takeLane
  dsimp only
  rw [if_neg (fun h => h.elim hs fun h => by rw [ha] at h; cases h), hn]

theorem retrainComplete_plain {s : State} {l : Fin 4} (h1 : (s.links[l]).st = 1) (ht : (s.links[l]).taken = none) :
    execRetrainComplete l s = .next (s.setLink l { s.links[l] with st := 0, attempts := 0, taken := none }).flushOwed := by
  unfold execRetrainComplete
  dsimp only
  rw [if_pos h1, ht]

theorem retrainComplete_spare {s : State} {l : Fin 4} {d : Fin 2} {n : Nat} (h1 : (s.links[l]).st = 1) (ht : (s.links[l]).taken = some d)
    (hs : (s.links[l]).spare[d] ≠ 0) (hn : s.test.running.findIdx? (fun t => t.ofLink l d && !t.spare) = some n) :
    execRetrainComplete l s = .next ({ s.setLink l { s.links[l] with
        st := 0, attempts := 0, taken := none, spare := (s.links[l]).spare.set d ((s.links[l]).spare[d] - 1) } with
      test := { s.test with running := s.test.running.modify n fun t => { t with spare := true } } } : State).flushOwed := by
  unfold execRetrainComplete
  dsimp only
  rw [if_pos h1, ht]
  dsimp only
  rw [takeLane_of_waiting hs hn]
  congr 2
  simp [State.setLink]

/-- Settles O46: each operation of the ports and the links is its branch; a retrain by an unguarded spare lane is `retrainComplete_spare`, a third failed one `linkDown_of_idle`. -/
theorem portsAndLinks : Obligations.PortsAndLinks := by
  unfold Obligations.PortsAndLinks
  intro s v j g i off st spare l p n ide f bit x e mask y start
  refine ⟨rfl, fun h => if_pos h, fun h => if_neg (by simp [f] at h; simp [h]), rfl, fun hc hi hx => ?_, fun ho hw => ?_, fun ho hi hv => ?_,
    fun h => if_pos h, fun h => if_neg (by simp [f] at h; simp [h]), fun h0 => ?_, fun h2 => if_pos h2, fun h1 => ?_, ?_, ?_⟩
  · have hopen : groupOpen e = false := (groupOpen_eq e).trans hc
    refine if_neg ?_
    rintro (h | ⟨h, -⟩ | h)
    · omega
    · rw [show groupOpen e = true from h] at hopen; cases hopen
    · rw [show s.groupClash g.val y = true from h] at hx; cases hx
  · refine if_pos (.inr (.inl ⟨(groupOpen_eq e).trans ho, ?_⟩))
    by_cases hi : i.val = 0
    · exact .inr ((groupOpen_set_zero hi).trans (hw.resolve_left (not_not_intro hi)))
    · exact .inl hi
  · have hy : groupOpen y = false := (groupOpen_set_zero hi).trans hv
    refine if_neg ?_
    rintro (h | ⟨-, h | h⟩ | h)
    · omega
    · exact h hi
    · rw [show groupOpen y = true from h] at hy; cases hy
    · exact Bool.false_ne_true ((groupClash_of_closed (s := s) (g := g.val) hy).symm.trans h)
  · have hn : ¬ (s.links[l]).st ≠ 0 := fun h => h h0
    refine ⟨if_neg hn, fun hf => ?_, fun hf => ?_, if_pos h0, if_pos h0⟩
    · refine (if_neg hn).trans ?_
      rw [if_neg Bool.false_ne_true, if_neg (show ¬15 ≤ (s.links[l]).fails from Nat.not_le.2 hf)]
    · refine (if_neg hn).trans ?_
      rw [if_neg Bool.false_ne_true, if_pos hf]
      rfl
  · have hn {P : Prop} (hp : ¬P) : ¬ ((s.links[l]).st ≠ 1 ∨ P) := fun h => h.elim (fun h => h h1) hp
    refine ⟨fun ht => ?_, fun z y ht hz hy => ?_, fun ht ha => ?_, fun ht ha => ?_, fun ht ha hk hc ho => ?_⟩
    · exact retrainComplete_plain h1 ht
    · exact retrainComplete_spare h1 ht hz hy
    · exact (if_neg (hn (by rw [show (s.links[l]).taken = none from ht]; simp))).trans (if_pos ha)
    · exact (if_neg (hn (by rw [show (s.links[l]).taken = none from ht]; simp))).trans (if_neg (show ¬(s.links[l]).attempts.val < 2 from Nat.not_lt.2 ha))
    · refine ((if_neg (hn (by rw [show (s.links[l]).taken = none from ht]; simp))).trans (if_neg (show ¬(s.links[l]).attempts.val < 2 from Nat.not_lt.2 ha))).trans ?_
      rw [linkDown_of_idle hk hc ho]
  · exact ⟨_, rfl, resign_mem _, resign_cxl _⟩
  · exact ⟨_, rfl, resign_mem _, resign_cxl _⟩

end Sys2Proof.Machine

namespace Sys2Proof.Machine

open Sys2Proof

/-! Elaborated one after another, as the invariant of O59 is, for the memory that parallel tasks would hold. -/
set_option Elab.async false

/-! Reset, and the control of the package. -/

/-- Settles O60: reset lists no core and no cluster, and its registers are within their limits. -/
theorem resetState : Obligations.ResetState := by
  unfold Obligations.ResetState
  refine ⟨⟨reset_wf, by decide, by decide, by decide, by decide⟩, rfl, rfl, rfl, rfl, rfl, rfl, fun k b => ?_, fun c => rfl⟩
  fin_cases b <;> rfl

/-! The package's control: boot, firmware and the mailbox (R416 to R419). -/

theorem firmwareOk_iff {f : Firmware} : firmwareOk f = true ↔ f.keyFused = true ∧ mlDsaVerify f.key (sha3 f.bytes) f.sig = true ∧ f.counter ≤ f.svn := by
  simp [firmwareOk, and_assoc]

theorem resign_ctl (s : State) : s.resign.ctl = { s.ctl with pcsig := s.resign.ctl.pcsig } := by
  unfold State.resign
  split <;> rfl

theorem resign_boot (s : State) : s.resign.boot = s.boot := by
  unfold State.resign
  split <;> rfl

theorem runRom_mem (s : State) (f : Firmware) : (s.runRom f).mem = s.mem := by
  unfold State.runRom
  split <;> rfl

theorem runRom_ctl (s : State) (f : Firmware) : (s.runRom f).ctl = s.ctl := by
  unfold State.runRom
  split <;> rfl

theorem runRom_stage_of_ok {s : State} {f : Firmware} (h : firmwareOk f = true) :
    (s.runRom f).boot.stage = 2 ∧ (s.runRom f).boot.meas[0] = sha3 f.bytes := by
  unfold State.runRom
  rw [if_pos h]
  exact ⟨rfl, rfl⟩

theorem runRom_stage_of_not_ok {s : State} {f : Firmware} (h : firmwareOk f = false) : (s.runRom f).boot.stage = 1 := by
  unfold State.runRom
  rw [if_neg (by rw [h]; exact Bool.false_ne_true)]

theorem bootQuad_frame (s : State) (d q : Nat) : (s.bootQuad d q).mem = s.mem ∧ (s.bootQuad d q).ctl = s.ctl ∧ (s.bootQuad d q).boot = s.boot := by
  unfold State.bootQuad
  dsimp only
  repeat' split
  all_goals exact ⟨rfl, rfl, rfl⟩

theorem bootQuads_frame (l : List Nat) (s : State) :
    (l.foldl (fun s i => s.bootQuad (i / 60) (i % 60)) s).mem = s.mem ∧
    (l.foldl (fun s i => s.bootQuad (i / 60) (i % 60)) s).ctl = s.ctl ∧
    (l.foldl (fun s i => s.bootQuad (i / 60) (i % 60)) s).boot = s.boot := by
  induction l generalizing s with
  | nil => exact ⟨rfl, rfl, rfl⟩
  | cons i l ih =>
    obtain ⟨hm, hc, hb⟩ := bootQuad_frame s (i / 60) (i % 60)
    obtain ⟨hm', hc', hb'⟩ := ih (s.bootQuad (i / 60) (i % 60))
    exact ⟨hm'.trans hm, hc'.trans hc, hb'.trans hb⟩

/-- The package as the firmware leaves it before it writes QMAP. -/
def State.trained (s : State) (fit : List Nat) : State :=
  { s with
    boot := { s.boot with stage := 3 }
    links := s.links.map fun l => { l with st := 0, attempts := 0 }
    cxl := Vector.ofFn fun i => cxlTrained fit s.cxl[i] i.val
    fab := { s.fab with en := 0, up := 0 }
    ctl := { s.ctl with dup := 15, rdy := true } }

theorem runFirmware_eq (s : State) (fit : List Nat) :
    s.runFirmware fit = ((List.range 240).foldl (fun s i => s.bootQuad (i / 60) (i % 60)) (s.trained fit)).resign := rfl

/-- The firmware's part of a boot writes no memory, and leaves the package ready with its four dies up. -/
theorem runFirmware_spec (s : State) (fit : List Nat) : (s.runFirmware fit).mem = s.mem ∧ (s.runFirmware fit).boot.stage = 3 ∧
    (s.runFirmware fit).ctl.rdy = true ∧ (s.runFirmware fit).ctl.dup = 15 := by
  obtain ⟨hm, hc, hb⟩ := bootQuads_frame (List.range 240) (s.trained fit)
  rw [runFirmware_eq, resign_mem, resign_boot, resign_ctl, hm, hc, hb]
  exact ⟨rfl, rfl, rfl, rfl⟩

/-- LoadFirmware as the boot block takes it, by the block's stage. -/
theorem execLoadFirmware_asked {s : State} {f : Firmware} {fit : List Nat} (h : s.boot.asked 1 (f.bytes ++ f.key ++ f.sig) = true) :
    execLoadFirmware f fit s = if s.boot.stage = 0 ∨ s.boot.stage = 1 then
      .next { s.runRom f with boot := (s.runRom f).boot.answered (firmwareOk f) } else .next { s with boot := s.boot.answered false } := by
  unfold execLoadFirmware
  rw [h]
  rfl

/-- InstallImageKey as the boot block takes it. -/
theorem execInstallImageKey_asked {s : State} {key sig owner : List Byte} (h : s.boot.asked 2 (key ++ sig ++ owner) = true) :
    execInstallImageKey key sig owner s =
      if s.boot.stage == 3 && s.boot.ownerDigest == some (sha3 owner) && mlDsaVerify owner (sha3 key) sig then
        .next { s with
          boot := ({ s.boot with imageKey := some key, meas := s.boot.meas.set 2 (extendMeas s.boot.meas[2] (sha3 key)) } : Boot).answered true
          clusters := s.clusters.map fun e => (e.1, { e.2 with digests := [] }) }
      else .next { s with boot := s.boot.answered false } := by
  unfold execInstallImageKey
  rw [h]
  rfl

theorem execAttest_asked {s : State} {nonce : List Byte} (h : s.boot.asked 3 nonce = true) :
    execAttest nonce s = if s.boot.stage = 3 ∧ nonce.length = 32 then
      .next { s with boot := ({ s.boot with mailbox := cellsOf 0 (s.quote nonce), len := 10240 } : Boot).answered true }
      else .next { s with boot := s.boot.answered false } := by
  unfold execAttest
  rw [h]
  rfl

theorem execSetOwnerKeyDigest_asked {s : State} {digest : List Byte} (h : s.boot.asked 4 digest = true) :
    execSetOwnerKeyDigest digest s = if s.boot.stage = 3 ∧ s.boot.ownerDigest.isNone = true ∧ digest.length = 32 then
      .next { s with boot := ({ s.boot with ownerDigest := some digest } : Boot).answered true }
      else .next { s with boot := s.boot.answered false } := by
  unfold execSetOwnerKeyDigest
  rw [h]
  rfl

/-- Settles O53: each register is its entry of BAR0, and each boot and mailbox command is the branch that the block's stage and its answer choose. -/
theorem packageControl : Obligations.PackageControl := by
  unfold Obligations.PackageControl
  intro s v off f fit key sig owner nonce digest avg tj tin ok told image given
  have hok : firmwareOk f = true ↔ ok := firmwareOk_iff
  have hno : firmwareOk f = false ↔ ¬ok := by rw [← hok, Bool.not_eq_true]
  have not_asked {P : Bool} {r t : Next} (h : P = false) : (if !P then r else t) = r := if_pos (by rw [h]; rfl)
  refine ⟨fun h => congrArg Host.Outcome.next (if_pos h), rfl, rfl, rfl, ⟨fun h => ?_, fun h => ?_⟩, fun h => if_pos h, fun h => ?_, fun h => ?_,
    fun h2 ht => ?_, fun h2 ht => ?_, fun h0 h2 => ?_, fun h => not_asked h, fun h hs => ?_, fun h h0 h1 => ?_, fun h h3 ho => ?_,
    fun h => not_asked h, fun h => not_asked h, fun h => not_asked h, fun h3 => ⟨fun h => ?_, fun h => ?_, fun h => ?_⟩,
    fun h h3 hn => ?_, fun h h3 hn ho => ?_, fun h ho => ?_, ?_, rfl⟩
  · obtain ⟨he, hl, hu⟩ := h
    simp only [exec, execJcfgWrite, he, hl, hu, decide_true, Bool.and_true, if_true]
  · have hd : ((v &&& 0x800000000000001F).getLsbD 63 && decide (8 ≤ bits (v &&& 0x800000000000001F) 0 5) &&
        decide (bits (v &&& 0x800000000000001F) 0 5 ≤ 20)) = false := by
      rw [← Bool.not_eq_true]
      simpa only [Bool.and_eq_true, decide_eq_true_eq, and_assoc] using h
    simp only [exec, execJcfgWrite, hd, Bool.false_eq_true, if_false]
  · refine ⟨_, if_neg (by rw [h]; exact Bool.false_ne_true), resign_mem _, ?_⟩
    rw [resign_ctl]
  · refine ⟨s.runRom f, if_pos h, runRom_mem s f, by rw [runRom_ctl], fun ho => runRom_stage_of_ok (hok.2 ho), fun hn => runRom_stage_of_not_ok (hno.2 hn)⟩
  · refine (if_neg (by rw [h2]; decide)).trans (if_neg fun he => ht (List.isEmpty_iff.1 he.2))
  · obtain ⟨hm, hs, hr, hd⟩ := runFirmware_spec s fit
    exact ⟨s.runFirmware fit, (if_neg (by rw [h2]; decide)).trans (if_pos ⟨h2, List.isEmpty_iff.2 ht⟩), hm, hs, hr, hd⟩
  · exact (if_neg h0).trans (if_neg fun he => h2 he.1)
  · refine ⟨_, (execLoadFirmware_asked (fit := fit) h).trans (if_pos hs), runRom_mem s f, fun ho => ⟨(runRom_stage_of_ok (hok.2 ho)).1, ?_⟩,
      fun hn => ⟨runRom_stage_of_not_ok (hno.2 hn), ?_⟩⟩
    · simp only [Boot.answered, hok.2 ho, if_true]
    · simp only [Boot.answered, hno.2 hn, Bool.false_eq_true, if_false]
  · exact (execLoadFirmware_asked (fit := fit) h).trans (if_neg fun he => he.elim h0 h1)
  · cases hv : mlDsaVerify owner (sha3 key) sig with
    | true =>
      refine ⟨_, (execInstallImageKey_asked h).trans (if_pos (by rw [h3, ho, hv]; simp)), rfl, fun _ => ⟨rfl, rfl, ?_⟩, fun hf => Bool.noConfusion hf⟩
      simp [Boot.answered, extendMeas]
    | false =>
      exact ⟨told 2, (execInstallImageKey_asked h).trans (if_neg (by rw [hv]; simp)), rfl, fun hf => Bool.noConfusion hf, fun _ => rfl⟩
  · exact (execInstallImageKey_asked h).trans (if_neg (by rw [beq_eq_false_iff_ne.2 h3]; exact Bool.false_ne_true))
  · exact (execAttest_asked h).trans (if_neg fun he => h3 he.1)
  · exact (execSetOwnerKeyDigest_asked h).trans (if_neg fun he => h3 he.1)
  · exact ⟨_, (execAttest_asked h).trans (if_pos ⟨h3, hn⟩), rfl, rfl, rfl⟩
  · exact (execSetOwnerKeyDigest_asked h).trans (if_pos ⟨h3, by rw [ho]; rfl, hn⟩)
  · exact (execSetOwnerKeyDigest_asked h).trans (if_neg fun he => ho (Option.isNone_iff_eq_none.1 he.2.1))
  · intro hot clock
    have hc : (if (decide (s.ctl.env.toNat < avg.toNat) || decide (100 ≤ tj.toNat)) = true then max 1600 (s.ctl.clock - 100)
        else min 2700 (s.ctl.clock + 100)) = clock := by
      simp only [Bool.or_eq_true, decide_eq_true_eq]
      rfl
    simp only [exec, execPowerWindow, hc]

end Sys2Proof.Machine

namespace Sys2Proof.Machine

open Sys2Proof

/-! Elaborated one after another, as the invariant of O59 is, for the memory that parallel tasks would hold. -/
set_option Elab.async false

/-! One-sided operations in this package. -/

/-- The operands of a one-sided operation as a bank gives them. -/
def Bank.oneSided (x : Bank) (opc : Nat) (d : WReg) (r : Option WReg) (n : SReg) (g : Option WReg) : OneSided :=
  ⟨opc, x.ctx.s d.val, r.elim 0 fun r => x.ctx.s r.val, x.ctx.s n.val, g.elim 0 fun r => x.ctx.s r.val⟩

section
variable {s : State} {k : CoreKey} {b : Fin 2} (hq : Quiet s k b)
include hq

/-- R426: a check that fails traps. -/
theorem issueOneSided_trap {i : Instr} {opc : Nat} {d : WReg} {r : Option WReg} {n : SReg} {g : Option WReg} {t : RTy} {e : Trap}
    (h : s.oneSidedChecks i k (s.slatePhase k (s.bank k b)) ((s.bank k b).oneSided opc d r n g) t = some e) :
    issueOneSided s i opc d r n g t = .next (s.trapNow k b e) := by
  unfold Bank.oneSided at h
  unfold issueOneSided
  dsimp only
  rw [issue_quiet _ _ _ _ _ hq, h]
  rfl

/-- An operation of this package that passes its checks, and before which nothing must be performed, is served as it issues. -/
theorem issueOneSided_served {i : Instr} {opc : Nat} {d : WReg} {r : Option WReg} {n : SReg} {g : Option WReg} {t : RTy} {s1 : State}
    {land sig : Place × List (Nat × Nat)} {y : Act}
    (h : s.oneSidedChecks i k (s.slatePhase k (s.bank k b)) ((s.bank k b).oneSided opc d r n g) t = none ∧
      s.opsBefore k (s.bank k b) ((s.bank k b).oneSided opc d r n g) t = false ∧
      pkgOf (((s.bank k b).oneSided opc d r n g).remote t).1 = s.ctl.pkid.toNat ∧
      s.localOperands k b ((s.bank k b).oneSided opc d r n g) = .ok (s1, land, sig))
    (hy : s1.serveHere k b ((s.bank k b).oneSided opc d r n g) t (s1.load land.2) land sig = y) :
    issueOneSided s i opc d r n g t = .next (s.apply k b y) := by
  obtain ⟨hc, hb, hp, hl⟩ := h
  rw [← hy]
  unfold Bank.oneSided at *
  unfold issueOneSided
  dsimp only at *
  rw [issue_quiet _ _ _ _ _ hq, hc]
  dsimp only
  rw [hb, if_neg Bool.false_ne_true, if_pos hp, hl]

end

section
variable {s t u : State} {k : CoreKey} {b : Fin 2} {o : OneSided} {ty : RTy} {bs data : List Byte} {vals : List Word}
  {land sig : Place × List (Nat × Nat)}

/-- Once a packet of a payload has failed, the payload has failed. -/
theorem performCuts_failed {v : View} {va : Nat} {l : List (Nat × Nat)} {e : Cause × Nat} {r : Option (Cause × Nat)}
    (h : s.performCuts v va bs l (some e) = some (t, r)) : r = some e := by
  induction l generalizing s with
  | nil => cases h; rfl
  | cons q l ih =>
    unfold State.performCuts at h
    split at h
    · exact ih h
    split at h
    · cases h
    · cases h
    · exact ih h
    · exact ih h

/-- No payload is written at the reply address (R442). -/
theorem performCuts_reply_fails {v : View} (h : s.performCuts v replyVa bs (packetCuts replyVa 64) none = some (t, none)) : False := by
  rw [show packetCuts replyVa 64 = [(0, 64)] by decide] at h
  unfold State.performCuts at h
  rw [if_pos (Nat.le_add_right _ _)] at h
  cases performCuts_failed h

/-- A payload that has been performed was no reply. -/
theorem isReply_of_performed {v : View} {sg : Option Nat}
    (h : s.performCuts v (vaOf o.da) bs (packetCuts (vaOf o.da) o.n.toNat) none = some (t, none)) :
    isReply .write sg (vaOf o.da) o.n.toNat 1 = false := by
  rw [← Bool.not_eq_true]
  intro hr
  simp only [isReply, Bool.and_eq_true, beq_iff_eq] at hr
  obtain ⟨⟨⟨-, hva⟩, hn⟩, -⟩ := hr
  rw [hva, hn] at h
  exact performCuts_reply_fails h

/-- The view of the packets of an operation that is served here. -/
def State.hereView (s : State) (k : CoreKey) (b : Fin 2) : View := fabricView (dieOf k) (s.bank k b).id.spid s.ctl.pkid.toNat

theorem serveHere_read (ho : o.opc = 0x72) (h : s.packetRead (s.hereView k b) (vaOf o.sa) o.n.toNat = .ok t data vals) :
    s.serveHere k b o ty bs land sig = .done (((s.served (s.fabricSide k b) o.da.toNat land.1 o.n.toNat .write).1.store land.2 data).signalAdd
      (s.fabricSide k b) o.sg.toNat sig.2 sig.1 1) none none := by
  unfold State.hereView at h
  unfold State.serveHere
  dsimp only
  rw [if_pos ho, h]

theorem serveHere_add (ho : o.opc = 0x73) (h : s.perform (s.hereView k b) false s.ctl.pkid.toNat (.radd ty o.n) (vaOf o.da) [] = .ok t data vals) :
    s.serveHere k b o ty bs land sig = .done t none none := by
  unfold State.hereView at h
  unfold State.serveHere
  dsimp only
  rw [if_neg (by rw [ho]; decide), if_pos (by rw [OneSided.isAdd, ho]; rfl), h]
  dsimp only
  rw [if_neg (by rw [OneSided.signals, ho]; decide)]

theorem serveHere_addSignal (ho : o.opc = 0x75)
    (h : s.perform (s.hereView k b) false s.ctl.pkid.toNat (.radd ty o.n) (vaOf o.da) [] = .ok t data vals)
    (hs : t.packetSignal (s.hereView k b) .write (vaOf o.sg) = .ok u [] []) :
    s.serveHere k b o ty bs land sig = .done u none none := by
  unfold State.hereView at h hs
  unfold State.serveHere
  dsimp only
  rw [if_neg (by rw [ho]; decide), if_pos (by rw [OneSided.isAdd, ho]; rfl), h]
  dsimp only
  rw [if_pos (by rw [OneSided.signals, ho]; rfl), hs]

theorem serveHere_reply (ho : o.opc = 0x70) (hva : vaOf o.da = replyVa) (hn : o.n = 64) :
    s.serveHere k b o ty bs land sig = .done (s.applyRecord bs) none none := by
  unfold State.serveHere
  dsimp only
  rw [if_neg (by rw [ho]; decide), if_neg (by rw [OneSided.isAdd, ho]; decide), if_pos]
  rw [hva, hn, OneSided.signals, ho]
  rfl

theorem serveHere_write (ho : o.opc = 0x70)
    (h : s.performCuts (s.hereView k b) (vaOf o.da) bs (packetCuts (vaOf o.da) o.n.toNat) none = some (t, none)) :
    s.serveHere k b o ty bs land sig = .done t none none := by
  have hr := isReply_of_performed (sg := if o.signals then some (vaOf o.sg) else none) h
  unfold State.hereView at h
  unfold State.serveHere
  dsimp only
  rw [if_neg (by rw [ho]; decide), if_neg (by rw [OneSided.isAdd, ho]; decide), if_neg (by rw [hr]; exact Bool.false_ne_true), h]
  dsimp only
  rw [if_neg (by rw [OneSided.signals, ho]; decide)]

theorem serveHere_writeSignal (ho : o.opc = 0x71)
    (h : s.performCuts (s.hereView k b) (vaOf o.da) bs (packetCuts (vaOf o.da) o.n.toNat) none = some (t, none))
    (hs : t.packetSignal (s.hereView k b) .write (vaOf o.sg) = .ok u [] []) :
    s.serveHere k b o ty bs land sig = .done u none none := by
  have hr := isReply_of_performed (sg := if o.signals then some (vaOf o.sg) else none) h
  unfold State.hereView at h hs
  unfold State.serveHere
  dsimp only
  rw [if_neg (by rw [ho]; decide), if_neg (by rw [OneSided.isAdd, ho]; decide), if_neg (by rw [hr]; exact Bool.false_ne_true), h]
  dsimp only
  rw [if_pos (by rw [OneSided.signals, ho]; rfl), hs]

end

/-- Settles O44: each operation passes `issueOneSided_served` and is served by its branch of `serveHere`; a payload at the reply address is no write (R442). -/
theorem oneSidedOperations : Obligations.OneSidedOperations := by
  unfold Obligations.OneSidedOperations
  intro s s1 s2 s3 k b d r g n t land sig data vals hq x S own here bs v side done rwr rwrs rrd radd radds payload
  refine ⟨fun h hp => ?_, fun h hp hs => ?_, fun h hp => ?_, fun h hva hn => ?_, fun h hp hs => ?_, fun h hp => ?_, fun e => ?_⟩
  · exact issueOneSided_served hq (i := .radd d n t) (opc := 0x73) (r := none) (g := none) (t := t) h (serveHere_add rfl hp)
  · exact issueOneSided_served hq (i := .radds d n g t) (opc := 0x75) (r := none) (g := (some g)) (t := t) h (serveHere_addSignal rfl hp hs)
  · exact issueOneSided_served hq (i := .rwr d r n) (opc := 0x70) (r := (some r)) (g := none) (t := .s64) h (serveHere_write rfl hp)
  · exact issueOneSided_served hq (i := .rwr d r n) (opc := 0x70) (r := (some r)) (g := none) (t := .s64) h (serveHere_reply rfl hva hn)
  · exact issueOneSided_served hq (i := .rwrs d r n g) (opc := 0x71) (r := (some r)) (g := (some g)) (t := .s64) h (serveHere_writeSignal rfl hp hs)
  · exact issueOneSided_served hq (i := .rrd d r n g) (opc := 0x72) (r := (some r)) (g := (some g)) (t := .s64) h (serveHere_read rfl hp)
  · exact ⟨issueOneSided_trap hq (opc := 0x70) (r := some r) (g := none), issueOneSided_trap hq (opc := 0x71) (r := some r) (g := some g),
      issueOneSided_trap hq (opc := 0x72) (r := some r) (g := some g), issueOneSided_trap hq (opc := 0x73) (r := none) (g := none),
      issueOneSided_trap hq (opc := 0x75) (r := none) (g := some g)⟩

end Sys2Proof.Machine

namespace Sys2Proof.Machine

open Sys2Proof

/-! Elaborated one after another, as the invariant of O59 is, for the memory that parallel tasks would hold. -/
set_option Elab.async false

/-! The target's side (R436). -/

theorem groupKey_eq (g : GroupEntry) : vget g.words 0 1 = g.words[1] := dif_pos (by simp)

section
variable {s : State} {p : Packet}

theorem answer_mem (s : State) (p : Packet) (r : AckReply) : (s.answer p r).mem = s.mem := by
  unfold State.answer
  dsimp only
  repeat' split
  all_goals rfl

theorem answer_seen (s : State) (p : Packet) (r : AckReply) : (p.src, p.port, p.seq) ∈ (s.answer p r).fab.seen := by
  unfold State.answer
  dsimp only
  repeat' split
  all_goals exact List.mem_append_right _ (List.mem_singleton.2 rfl)

/-- A packet without a signal, and one that fails, is answered at once. -/
theorem answer_told {r : AckReply} (h : p.sigVa = none ∨ r ≠ .performed) : .ack p.src p.port p.seq r ∈ (s.answer p r).fab.out := by
  unfold State.answer
  dsimp only
  have hm {l : List OutMsg} : .ack p.src p.port p.seq r ∈ l ++ [.ack p.src p.port p.seq r] := List.mem_append_right _ (List.mem_singleton.2 rfl)
  split
  · exact hm
  next va hva =>
    have hr : (r != .performed) = true := bne_iff_ne.2 (h.resolve_left (by rw [hva]; exact Option.some_ne_none va))
    rw [hr, Bool.or_true]
    split
    · exact hm
    · exact hm

/-- The packet that completes an operation of one packet waits for the update of the signal. -/
theorem answer_completes {va : Nat} (hs : p.sigVa = some va) (ht : p.total = 1) (hn : ∀ y ∈ s.fab.inOps, ¬(y.src = p.src ∧ y.opId = p.opId)) :
    ∃ y ∈ (s.answer p .performed).fab.inOps, y.src = p.src ∧ y.opId = p.opId ∧ y.left = 0 ∧ y.failed = false ∧ y.sigVa = some va ∧
      y.last = some (p.port, p.seq) := by
  have hf : s.fab.inOps.find? (fun e => e.ofPacket p.src p.opId) = none := by
    refine List.find?_eq_none.2 fun y hy he => hn y hy ?_
    simpa [InOp.ofPacket] using he
  have e : (s.answer p .performed).fab.inOps = (s.fab.inOps.filter fun e => !e.ofPacket p.src p.opId) ++
      [⟨p.src, p.opId, p.handle, p.key, 0, false, some va, some (p.port, p.seq)⟩] := by
    unfold State.answer
    dsimp only
    rw [hs]
    dsimp only
    rw [hf, ht]
    rfl
  rw [e]
  exact ⟨_, List.mem_append_right _ (List.mem_singleton.2 rfl), rfl, rfl, rfl, rfl, rfl, rfl⟩

/-- The replies to a request are messages alone. -/
theorem reply_frame (s : State) (p : Packet) (data : List Byte) (vals : List Word) :
    (s.reply p data vals).mem = s.mem ∧ (s.reply p data vals).fab.inOps = s.fab.inOps := by
  unfold State.reply
  split
  · generalize packetCuts 0 _ = l
    induction l generalizing s with
    | nil => exact ⟨rfl, rfl⟩
    | cons c l ih => exact ih (s.say (.data p.src p.opId c.1 ((data.drop c.1).take c.2)))
  all_goals exact ⟨rfl, rfl⟩

theorem isReply_iff {op : PacketOp} {sg : Option Nat} {va n total : Nat} :
    isReply op sg va n total = true ↔ op = .write ∧ sg = none ∧ va = replyVa ∧ n = 64 ∧ total = 1 := by
  simp [isReply, and_assoc]

theorem execPacketIngress_seen (h : (p.src, p.port, p.seq) ∈ s.fab.seen) : execPacketIngress p s = .next s :=
  if_pos (.inr (.inr (List.contains_iff_mem.2 h)))

variable (hact : s.fab.up ≠ 0 ∧ p.src ≠ s.ctl.pkid.toNat ∧ (p.src, p.port, p.seq) ∉ s.fab.seen)
include hact

theorem ingress_acts : ¬(s.fab.up = 0 ∨ p.src = s.ctl.pkid.toNat ∨ s.fab.seen.contains (p.src, p.port, p.seq) = true) := by
  obtain ⟨hu, hp, hs⟩ := hact
  rintro (h | h | h)
  · exact hu h
  · exact hp h
  · exact hs (List.contains_iff_mem.1 h)

theorem execPacketIngress_closed (hg : s.groupByHandle p.handle = none) : execPacketIngress p s = .next (s.refuse p .protection 9) := by
  unfold execPacketIngress
  rw [if_neg (ingress_acts hact), hg]

/-- A packet whose entry, key and member agree: a reply is applied, any other at the reply address or above it is refused, and the rest is performed. -/
theorem execPacketIngress_agreed {i : Nat} {g : GroupEntry} (hg : s.groupByHandle p.handle = some (i, g)) (hk : g.words[1] = p.key)
    (hm : groupHas g p.src = true) : execPacketIngress p s =
      if isReply p.op p.sigVa p.va p.data.length p.total then .next ((s.applyRecord p.data).answer p .performed)
      else if replyVa ≤ p.va then .next (s.refuse p .protection 10)
      else match s.perform (fabricView (ingressDie p) (groupSpid g) p.src) true p.src p.op p.va p.data with
        | .wait => .next s
        | .held s1 => .next s1
        | .failed c d => .next (s.refuse p c d)
        | .ok s1 data vals => .next ((s1.reply p data vals).answer p .performed) := by
  unfold execPacketIngress
  rw [if_neg (ingress_acts hact), hg]
  dsimp only
  rw [if_neg (fun h => h.elim (fun h => h ((groupKey_eq g).trans hk)) fun h => Bool.false_ne_true (h.symm.trans hm))] <;> rfl

theorem execPacketIngress_performed {i : Nat} {g : GroupEntry} {t : State} {data : List Byte} {vals : List Word}
    (hg : s.groupByHandle p.handle = some (i, g)) (hk : g.words[1] = p.key) (hm : groupHas g p.src = true) (hva : p.va < replyVa)
    (hp : s.perform (fabricView (ingressDie p) (groupSpid g) p.src) true p.src p.op p.va p.data = .ok t data vals) :
    execPacketIngress p s = .next ((t.reply p data vals).answer p .performed) := by
  rw [execPacketIngress_agreed hact hg hk hm, if_neg, if_neg (Nat.not_le.2 hva), hp]
  intro hr
  have := (isReply_iff.1 hr).2.2.1
  omega

end

/-! The issuer's side (R423). -/

/-- No payload waits for room in a retry store. -/
def State.NoPayload (s : State) : Prop := ∀ o ∈ s.fab.ops, o.rest.isEmpty = true

section
variable {s : State}

/-- Where no payload waits for room, none goes on. -/
theorem pump_frame (h : s.NoPayload) : s.pump.mem = s.mem ∧ s.pump.fab = s.fab := by
  have hf : (s.fab.ops.filter fun o => !o.rest.isEmpty) = [] := by
    refine List.filter_eq_nil_iff.2 fun o ho => ?_
    rw [h o ho]
    exact Bool.false_ne_true
  unfold State.pump
  rw [hf]
  exact ⟨rfl, rfl⟩

theorem noPayload_packetDone {id : Nat} (h : s.NoPayload) : (s.packetDone id).NoPayload := by
  intro o ho
  obtain ⟨x, hx, rfl⟩ := List.mem_map.1 ho
  have := h x hx
  split <;> exact this

theorem noPayload_noReplies {id : Nat} (h : s.NoPayload) : (s.noReplies id).NoPayload := by
  intro o ho
  obtain ⟨x, hx, rfl⟩ := List.mem_map.1 ho
  have := h x hx
  split <;> exact this

theorem noPayload_sweepOps (h : s.NoPayload) : s.sweepOps.NoPayload := fun o ho => h o (List.mem_filter.1 ho).1

theorem failOp_frame (s : State) (id c d : Nat) : (s.failOp id c d).mem = s.mem ∧ (s.failOp id c d).fab.retry = s.fab.retry := by
  unfold State.failOp
  repeat' split
  all_goals exact ⟨rfl, rfl⟩

theorem noPayload_setOp {o : FabricOp} (h : s.NoPayload) (ho : o.rest.isEmpty = true) : (s.setOp o).NoPayload := by
  intro y hy
  obtain ⟨x, hx, rfl⟩ := List.mem_map.1 hy
  split
  · exact ho
  · exact h x hx

theorem noPayload_failOp {id c d : Nat} (h : s.NoPayload) : (s.failOp id c d).NoPayload := by
  unfold State.failOp
  split
  · exact h
  next o ho =>
    have hs := noPayload_setOp (o := { o with failed := some (c, d) }) h (h o (List.mem_of_find?_eq_some ho))
    split
    · exact h
    · split
      · exact hs
      · exact hs

variable {port seq : Nat} {q : RetryPkt} (hf : s.fab.retry.find? (fun y => y.port == port && y.seq == seq) = some q) (hs : q.sends ≠ 0)
include hf

theorem retry_names : q.port = port ∧ q.seq = seq := by
  simpa using List.find?_some hf

include hs

/-- The packet of a retry store that an answer concerns, once it has been sent. -/
theorem retryAt_of_sent : s.retryAt port seq = some q := by
  unfold State.retryAt
  obtain ⟨hq, l, r, he, hl⟩ := List.find?_eq_some_iff_append.1 hf
  refine List.find?_eq_some_iff_append.2 ⟨?_, l, r, he, fun x hx => ?_⟩
  · rw [hq, bne_iff_ne.2 hs]
    rfl
  · have := hl x hx
    simp only [Bool.not_eq_true', Bool.and_eq_false_iff] at this ⊢
    exact .inl this

omit hs

theorem execPacketAck_performed (hs : q.sends ≠ 0) : execPacketAck port seq .performed s = .next (s.settle q .performed) := by
  unfold execPacketAck
  rw [retryAt_of_sent hf hs]
  exact if_neg fun h => h.1 rfl

theorem execPacketResend_again (hs : q.sends ≠ 0) (hl : q.sends < s.fab.nsend.toNat) : execPacketResend port seq s =
    .next { s with fab := { s.fab with retry := s.fab.retry.map fun y => if y.port = port ∧ y.seq = seq then { y with sends := y.sends + 1 } else y } } := by
  unfold execPacketResend
  rw [retryAt_of_sent hf hs]
  exact if_pos hl

theorem execPacketResend_last (hs : q.sends ≠ 0) (hl : s.fab.nsend.toNat ≤ q.sends) (hlow : s.lowerOut q.pkt.opId = false) :
    execPacketResend port seq s = .next (s.settle q (.failed Cause.linkDown.code 0)) := by
  unfold execPacketResend
  rw [retryAt_of_sent hf hs]
  dsimp only
  rw [if_neg (Nat.not_lt.2 hl), if_neg (by rw [hlow]; exact Bool.false_ne_true)]

/-- A packet that has been performed leaves its retry store. -/
theorem settle_performed (hn : s.NoPayload) : (s.settle q .performed).mem = s.mem ∧
    (s.settle q .performed).fab.retry = s.fab.retry.filter fun y => !(y.port == port && y.seq == seq) := by
  obtain ⟨hp, hq⟩ := retry_names hf
  have h1 : State.NoPayload { s with fab := { s.fab with retry := s.fab.retry.filter fun x => !(x.port == q.port && x.seq == q.seq) } } := hn
  obtain ⟨hm, hfab⟩ := pump_frame (noPayload_sweepOps (noPayload_packetDone (id := q.pkt.opId) h1))
  unfold State.settle
  refine ⟨hm, (congrArg Fabric.retry hfab).trans ?_⟩
  rw [← hp, ← hq]
  rfl

/-- A packet of an operation, sent for the last time, leaves its retry store with the failure of its path. -/
theorem settle_down (hn : s.NoPayload) (hw : ∀ ws, q.pkt.op ≠ .report ws) (ho : ∃ y ∈ s.fab.ops, y.id = q.pkt.opId) (c d : Nat) :
    (s.settle q (.failed c d)).mem = s.mem ∧
    (s.settle q (.failed c d)).fab.retry = s.fab.retry.filter fun y => !(y.port == port && y.seq == seq) := by
  obtain ⟨hp, hq⟩ := retry_names hf
  have h1 : State.NoPayload { s with fab := { s.fab with retry := s.fab.retry.filter fun x => !(x.port == q.port && x.seq == q.seq) } } := hn
  have ha : (s.fab.ops.any fun o => o.id == q.pkt.opId) = true := by
    obtain ⟨y, hy, hi⟩ := ho
    exact List.any_eq_true.2 ⟨y, hy, beq_iff_eq.2 hi⟩
  have h2 := noPayload_noReplies (id := q.pkt.opId) (noPayload_packetDone (id := q.pkt.opId) h1)
  obtain ⟨hm, hfab⟩ := pump_frame (noPayload_sweepOps (noPayload_failOp (id := q.pkt.opId) (c := c) (d := d) h2))
  obtain ⟨hfm, hfr⟩ := failOp_frame _ q.pkt.opId c d
  unfold State.settle
  dsimp only
  split
  next hr => cases hr
  next _ _ _ _ ws _ hop => exact absurd hop (hw ws)
  next hr _ =>
    cases hr
    rw [if_pos ha]
    refine ⟨hm.trans hfm, (congrArg Fabric.retry hfab).trans (hfr.trans ?_)⟩
    rw [← hp, ← hq]
    rfl
end

/-! Signal updates (R428, R436). -/

section
variable {s : State} {e : InOp} {src op port seq va : Nat}

/-- The operation of another package leaves the list, and its last packet is answered. -/
def State.tellLast (s : State) (src op port seq : Nat) (r : AckReply) : State := (s.dropIn src op).say (.ack src port seq r)

variable (hf : s.fab.inOps.find? (fun z => z.src == src && z.opId == op) = some e) (hl : e.last = some (port, seq)) (hv : e.sigVa = some va)
include hf hl hv

theorem remoteSignalUpdate_closed (hg : s.groupByHandle e.handle = none) :
    execRemoteSignalUpdate src op s = .next (s.tellLast src op port seq (.failed Cause.protection.code 9)) := by
  unfold execRemoteSignalUpdate InOp.ofPacket
  rw [hf]
  dsimp only
  rw [hl, hv]
  dsimp only
  rw [hg]
  rfl

variable {i : Nat} {g : GroupEntry} (hg : s.groupByHandle e.handle = some (i, g))
include hg

/-- The update of a signal whose entry is open: the key and the member are checked, then the address, then the word's own checks. -/
theorem remoteSignalUpdate_open : execRemoteSignalUpdate src op s =
    if g.words[1] ≠ e.key ∨ groupHas g src = false then .next ((s.countRefused i).tellLast src op port seq (.failed Cause.protection.code 9))
    else if replyVa ≤ va then .next (s.tellLast src op port seq (.failed Cause.protection.code 10))
    else match s.packetSignal (fabricView (port / 9 % 4) (groupSpid g) src) .farWrite va with
      | .wait | .held _ => .next s
      | .failed c d => .next (s.tellLast src op port seq (.failed c.code d))
      | .ok s1 _ _ => .next (s1.tellLast src op port seq .performed) := by
  unfold execRemoteSignalUpdate InOp.ofPacket
  rw [hf]
  dsimp only
  rw [hl, hv]
  dsimp only
  rw [hg]
  dsimp only
  rw [groupKey_eq]
  rfl

theorem remoteSignalUpdate_agreed (hk : g.words[1] = e.key) (hm : groupHas g src = true) : execRemoteSignalUpdate src op s =
    if replyVa ≤ va then .next (s.tellLast src op port seq (.failed Cause.protection.code 10))
    else match s.packetSignal (fabricView (port / 9 % 4) (groupSpid g) src) .farWrite va with
      | .wait | .held _ => .next s
      | .failed c d => .next (s.tellLast src op port seq (.failed c.code d))
      | .ok s1 _ _ => .next (s1.tellLast src op port seq .performed) := by
  rw [remoteSignalUpdate_open hf hl hv hg, if_neg (fun h => h.elim (fun h => h hk) fun h => Bool.false_ne_true (h.symm.trans hm))]

end

/-! Replies of an RRD (R427). -/

section
variable {s s1 : State} {o : FabricOp} {op off : Nat} {bs : List Byte}
  (hf : s.fab.ops.find? (fun z => z.id == op) = some o) (hopc : o.opc = 0x72) (hfar : s.farLeft [op] = true) (hask : o.ask = none) (hbs : bs ≠ [])
  (hle : off + bs.length ≤ o.amount.toNat)
  (hw : s.writeAt ⟨o.core, o.spid, o.sid, .fabric (pkgOf o.sa)⟩ (o.da.toNat + off) 1 bs = .ok s1)
include hf hopc hfar hask hbs hle hw

theorem rrdReply_more (hdue : bs.length < o.due) :
    execRrdReply op off bs s = .next ((s1.setOp { o with due := o.due - bs.length }).sweepOps) := by
  unfold execRrdReply
  rw [hf]
  dsimp only
  rw [if_neg (by simp [hopc, hfar, hbs]; omega), if_neg (by simp [hask]), hw]
  dsimp only
  rw [if_pos (.inl (by omega))]

theorem rrdReply_last {pl : Place} {ps : List (Nat × Nat)} (hdue : bs.length = o.due) (hok : o.failed = none) (hp : s1.place o.core o.sig.toNat 8 = some pl)
    (hc : s1.targetChecks ⟨o.core, o.spid, o.sid, .fabric (pkgOf o.sa)⟩ pl 8 .atomic = .ok ps) :
    execRrdReply op off bs s =
      .next (((s1.setOp { o with due := 0 }).signalAdd ⟨o.core, o.spid, o.sid, .fabric (pkgOf o.sa)⟩ o.sig.toNat ps pl 1).sweepOps) := by
  unfold execRrdReply
  rw [hf]
  dsimp only
  rw [if_neg (by simp [hopc, hfar, hbs]; omega), if_neg (by simp [hask]), hw]
  dsimp only
  rw [hdue, Nat.sub_self, if_neg (by simp [hok]), hp]
  dsimp only
  rw [hc]

end

/-- Settles O45: a packet goes by `execPacketIngress_agreed` once its entry agrees, an acknowledgement and a last resend by `settle_performed` and `settle_down`,
a signal's update by `remoteSignalUpdate_open`. -/
theorem fabricPackets : Obligations.FabricPackets := by
  unfold Obligations.FabricPackets
  intro s s1 p i g q o e port seq src op off va bs data vals pl ps act
  refine ⟨execPacketIngress_seen, fun ha hg => ?_, fun ha hg hk hm hva hp => ?_, fun ha hg hk hm hva => ⟨fun hr => ?_, fun hr => ?_⟩,
    fun hf hs hn => ⟨?_, fun hl => ?_, fun hl hlow hw ho => ?_⟩, fun hf hl hv => ⟨fun hg => ?_, fun hg => ⟨fun hx => ?_, fun hk hm hva => ?_, fun hk hm hva => ⟨fun hp => ?_, fun c d hp => ?_⟩⟩⟩,
    fun hf hopc hfar hask hbs hle => ?_⟩
  · rw [show exec (.packetIngress p) s = _ from execPacketIngress_closed ha hg]
    exact ⟨_, rfl, answer_mem .., answer_seen .., answer_told (.inr AckReply.noConfusion)⟩
  · obtain ⟨hr, hi⟩ := reply_frame s1 p data vals
    refine ⟨_, execPacketIngress_performed ha hg hk hm hva hp, (answer_mem ..).trans hr, answer_seen .., fun hs => answer_told (.inl hs), fun hs ht hn => ?_⟩
    exact answer_completes hs ht (hi ▸ hn)
  · refine ⟨_, (execPacketIngress_agreed ha hg hk hm).trans (if_pos (isReply_iff.2 hr)), answer_mem .., answer_told (.inl hr.2.1)⟩
  · refine ⟨_, (execPacketIngress_agreed ha hg hk hm).trans ((if_neg (hr ∘ isReply_iff.1)).trans (if_pos hva)), answer_mem .., answer_told (.inr AckReply.noConfusion)⟩
  · obtain ⟨hm, hr⟩ := settle_performed hf hn
    exact ⟨_, execPacketAck_performed hf hs, hm, hr⟩
  · exact execPacketResend_again hf hs hl
  · obtain ⟨hm, hr⟩ := settle_down hf hn hw ho Cause.linkDown.code 0
    exact ⟨_, execPacketResend_last hf hs hl hlow, hm, hr⟩
  · exact remoteSignalUpdate_closed hf hl hv hg
  · exact (remoteSignalUpdate_open hf hl hv hg).trans (if_pos hx)
  · exact (remoteSignalUpdate_agreed hf hl hv hg hk hm).trans (if_pos hva)
  · exact (remoteSignalUpdate_agreed hf hl hv hg hk hm).trans ((if_neg (Nat.not_le.2 hva)).trans (by rw [hp]; rfl))
  · exact (remoteSignalUpdate_agreed hf hl hv hg hk hm).trans ((if_neg (Nat.not_le.2 hva)).trans (by rw [hp]; rfl))
  · intro w hw
    exact ⟨rrdReply_more hf hopc hfar hask hbs hle hw, rrdReply_last hf hopc hfar hask hbs hle hw⟩

end Sys2Proof.Machine

namespace Sys2Proof.Machine

open Sys2Proof

/-! Elaborated one after another, as the invariant of O59 is, for the memory that parallel tasks would hold. -/
set_option Elab.async false

/-! The commands of the orthogonal accumulator (R287 to R293). -/

/-- An accumulator of a cluster replaced. -/
def State.putOq (s : State) (c : ClusterKey) (n : Fin 2) (q : Oq) : State := s.setClu c ((s.clu c).setOq n q)

section
variable {s s1 s2 s3 : State} {c : ClusterKey} {i : Nat} {m : Cmd} {bs : List Byte}

theorem engineStep_fails {o : Op} {f : State → Cmd → StepR} {cause : Cause} {d : Nat} (hr : s.RunsStep c i m o) (hf : f s m = .error (.trap cause d)) :
    engineStep s c i o f = .next (s.stepFails c m cause) :=
  stepWith_fails hr (by rw [hf]; rfl)

theorem execQinit_step (hr : s.RunsStep c i m .qinit) : execQinit c i s = .next ((s.putOq c (CmdWords.oq m.words)
    ⟨true, CmdWords.prec m.words == 1, polOf (CmdWords.pol m.words), CmdWords.cap m.words, CmdWords.rows m.words, 0, [], [],
      BitVec.ofNat 5 (CmdWords.p2 m.words), m.words[1], 0, 0⟩).stepDone c m m) :=
  engineStep_done hr rfl

/-! QACC (R288, R291). -/

theorem execQacc_room (hr : s.RunsStep c i m .qacc) (hk : ((s.clu c).oqAt (CmdWords.oq m.words)).k ≠ ((s.clu c).oqAt (CmdWords.oq m.words)).cap)
    (hp : m.pch < 2) : execQacc c i s = .next (s.stepDone c m m) := by
  refine engineStep_done hr ?_
  have hfull := decide_eq_false hk
  obtain h | h : m.pch = 0 ∨ m.pch = 1 := by omega
  all_goals
    simp only [h, hfull]
    rfl

theorem execQacc_append (hr : s.RunsStep c i m .qacc) (hp : m.pch = 2) (q : Oq) (hq : (s.clu c).oqAt (CmdWords.oq m.words) = q)
    (he : s.engineRead m.view (CmdWords.p1 m.words) (q.rows * q.e) q.e = .ok (bs, s1)) :
    execQacc c i s = .next ((s1.putOq c (CmdWords.oq m.words) (q.append (elementsOfBytes q.e bs q.rows) (m.words[2].toNat % 2 ^ (8 * q.e)))).stepDone c m m) := by
  subst hq
  refine engineStep_done hr ?_
  simp only [hp, he]
  rfl

theorem execQacc_full (hr : s.RunsStep c i m .qacc) (hk : ((s.clu c).oqAt (CmdWords.oq m.words)).k = ((s.clu c).oqAt (CmdWords.oq m.words)).cap)
    (hp : m.pch = 0) (hpol : ((s.clu c).oqAt (CmdWords.oq m.words)).pol = .trap) : execQacc c i s = .next (s.stepFails c m .orthFull) := by
  refine engineStep_fails (d := 0) hr ?_
  simp only [hp, hk, hpol]
  rfl

/-! QRCP (R290). -/

theorem execQrcp_none (hr : s.RunsStep c i m .qrcp) (hk : ((s.clu c).oqAt (CmdWords.oq m.words)).k = 0) : execQrcp c i s = .next (s.stepDone c m m) := by
  refine engineStep_done hr ?_
  dsimp only
  exact if_pos hk

theorem execQrcp_block (hr : s.RunsStep c i m .qrcp) (q : Oq) (hq : (s.clu c).oqAt (CmdWords.oq m.words) = q) (hk : q.k ≠ 0) (hp : m.pch = 0)
    (hw : s.engineWrite m.view q.cursor.toNat 16 (q.block (q.tgt.getLsbD 4)) = .ok s1) : execQrcp c i s =
      .next ((s1.putOq c (CmdWords.oq m.words) { q with cursor := q.cursor + BitVec.ofNat 64 q.blockSize, seq := q.seq + 1 }).stepDone c m m) := by
  subst hq
  refine engineStep_done hr ?_
  dsimp only
  rw [if_neg hk, if_pos hp, writeBlock, hw]
  rfl

theorem execQrcp_empties (hr : s.RunsStep c i m .qrcp) (q : Oq) (hq : (s.clu c).oqAt (CmdWords.oq m.words) = q) (hk : q.k ≠ 0) (hp : m.pch ≠ 0)
    (ht : q.tgt.getLsbD 4 = false) : execQrcp c i s = .next ((s.putOq c (CmdWords.oq m.words) q.clear).stepDone c m m) := by
  subst hq
  refine engineStep_done hr ?_
  dsimp only
  rw [if_neg hk, if_neg hp, ht]
  rfl

/-! QSAVE and QLOAD (R293). -/

/-- An accumulator without a reflector has no vector in its record. -/
theorem recordPieces_none {q : Oq} (h : q.k = 0) (p : Nat) : q.recordPieces p = [] := by
  rw [Oq.recordPieces, h]
  rfl

theorem execQsave_none (hr : s.RunsStep c i m .qsave) (q : Oq) (hq : (s.clu c).oqAt (CmdWords.oq m.words) = q) (hk : q.k = 0)
    (hw : s.engineWrite m.view (CmdWords.p1 m.words) 8 q.header = .ok s1) : execQsave c i s = .next (s1.stepDone c m m) := by
  subst hq
  refine engineStep_done hr ?_
  dsimp only
  rw [hw, recordPieces_none hk]
  rfl

variable (hr : s.RunsStep c i m .qload) (he : s.engineRead m.view (CmdWords.p1 m.words) 64 8 = .ok (bs, s1))
include hr he

theorem execQload_off (ho : headerOff bs = true) : execQload c i s = .next ((s1.putOq c (CmdWords.oq m.words) Oq.reset).stepDone c m m) := by
  refine engineStep_done hr ?_
  dsimp only
  rw [he]
  exact if_pos ho

theorem execQload_none (ho : headerOff bs = false) (hv : headerValid bs = true) (hk : (headerOq bs).k = 0) :
    execQload c i s = .next ((s1.putOq c (CmdWords.oq m.words) (headerOq bs)).stepDone c m m) := by
  have hz : { headerOq bs with k := 0, v := [], t := [] } = headerOq bs := by
    rw [← hk]
    rfl
  rw [← hz]
  refine engineStep_done hr ?_
  dsimp only
  rw [he]
  dsimp only [bind, Except.bind]
  rw [ho, hv, recordPieces_none hk, hk]
  rfl

theorem execQload_invalid (ho : headerOff bs = false) (hv : headerValid bs = false) : execQload c i s = .next (s.stepFails c m .illegalCmd) := by
  refine engineStep_fails (d := 0) hr ?_
  dsimp only
  rw [he]
  dsimp only [bind, Except.bind]
  rw [ho, hv]
  rfl

end
/-! The apply forms (R285, R289). -/

/-- The first vector of a step, where the step before has read it. -/
def Cmd.keptVectors (m : Cmd) (q : Oq) (lo : Nat) : List (Nat × List Word) :=
  (m.ahead.filter fun a => a.1 == lo).toList.map fun a => (lo, elementsOfBytes q.e a.2 q.rows)

section
variable {s s1 s2 s3 : State} {c : ClusterKey} {i : Nat} {m : Cmd} {o : Op} {right tr : Bool} {vs : List (Nat × List Word)} {places : List (Nat × Nat)}

theorem keptVectors_eq (m : Cmd) (q : Oq) (lo : Nat) : m.keptVectors q lo = match m.ahead with
    | some (n, bs) => if n = lo then [(lo, elementsOfBytes q.e bs q.rows)] else []
    | none => [] := by
  unfold Cmd.keptVectors
  cases m.ahead with
  | none => rfl
  | some a =>
    obtain ⟨n, bs⟩ := a
    by_cases h : n = lo
    · simp [h]
    · simp [h]

theorem chk_bind_of_ok {α β : Type} {x : Chk α} {y : α} {f : α → Chk β} (h : x = .ok y) : (x >>= f) = f y := by
  rw [h]
  rfl

theorem applyStep_none (hr : s.RunsStep c i m o) (hk : ((s.clu c).oqAt (CmdWords.oq m.words)).k = 0) :
    engineStep s c i o (applyStep c right tr) = .next (s.stepDone c m m) :=
  engineStep_done hr (if_pos hk)

/-- A step of an apply form over an accumulator q that holds a reflector: the vectors are read, those of this step become what `Oq.apply` makes of them, and of
those the last waits where it ends amid a word (R190). -/
theorem applyStep_some (hr : s.RunsStep c i m o) (q : Oq) (hq : (s.clu c).oqAt (CmdWords.oq m.words) = q) (hk : q.k ≠ 0) :
    let w : CmdWords := m.words
    let lo := m.pch * cdiv w.ncol 256
    let hi := lo + min (cdiv w.ncol 256) (w.ncol - lo)
    let halves : Bool := !right && q.f32 && hi % 2 == 1 && decide (hi < w.ncol)
    let kept := m.keptVectors q lo
    let ns := (List.range (hi - lo + if halves then 1 else 0)).map fun j => lo + j
    let rs := ((kept ++ vs).filter fun e => decide (e.1 < hi)).map fun e => (e.1, q.apply tr (e.2.map fun y => y.toNat))
    let out := rs.map fun e => (e.1, e.2.1.map fun y => BitVec.ofNat 64 y.1)
    let waits (e : Nat × List Word) : Bool := halves && e.1 + 1 == hi
    let lag := (out.filter waits).flatMap fun e => applyRuns w q right e.1 e.2
    readVectors m.view w q right (ns.drop kept.length) s = .ok (vs, s1) → writeLag m.view q.e m.lag s1 = .ok s2 →
    writeVectors m.view w q right (out.filter fun e => !waits e) s2 = .ok s3 → s3.runPlaces m.view lag = .ok places →
    engineStep s c i o (applyStep c right tr) =
      .next ((s3.putOq c w.oq (q.orStatus (rs.foldl (fun a e => a ||| allFlags e.2.1 ||| e.2.2) 0))).stepDone c m { m with
        lag := lag, lagAt := places, lagPch := if lag.isEmpty then m.lagPch else m.pch
        ahead := (((kept ++ vs).filter fun e => !decide (e.1 < hi)).head?).map fun e => (e.1, e.2.flatMap q.elBytes) }) := by
  intro w lo hi halves kept ns rs out waits lag hread hlag hwrite hplaces
  refine stepWith_done hr ?_
  have hstep : applyStep c right tr s m = .ok (s3.putOq c w.oq (q.orStatus (rs.foldl (fun a e => a ||| allFlags e.2.1 ||| e.2.2) 0)), { m with
        lag := lag, lagAt := places, lagPch := if lag.isEmpty then m.lagPch else m.pch
        ahead := (((kept ++ vs).filter fun e => !decide (e.1 < hi)).head?).map fun e => (e.1, e.2.flatMap q.elBytes) }) := by
    subst hq
    unfold applyStep
    extract_lets q' g lo' hi' halves' kept' ns'
    rw [if_neg hk]
    have hkept : kept' = kept := (keptVectors_eq m _ lo).symm
    rw [hkept]
    refine (chk_bind_of_ok hread).trans ?_
    simp only [List.partition_eq_filter_filter]
    refine (chk_bind_of_ok hlag).trans ?_
    refine (chk_bind_of_ok hwrite).trans ?_
    exact (chk_bind_of_ok hplaces).trans rfl
  rw [hstep]
  rfl

end
/-- Settles O41: each command is its step on the accumulator, QINIT's included; an apply form over a reflector is `applyStep_some`. -/
theorem orthogonalCommands : Obligations.OrthogonalCommands := by
  unfold Obligations.OrthogonalCommands
  intro s s1 s2 s3 c i m bs vs places w v n q runs after put pol applies
  have happly {op : Instr} {o : Op} {right tr : Bool} (he : exec op s = engineStep s c i o (applyStep c right tr)) : applies op o right tr :=
    ⟨fun hr hk => he.trans (applyStep_none hr hk), fun hr hk => by
      intro ncol g lo hi halves kept ns rs out waits lag hread hlag hwrite hplaces
      exact he.trans (applyStep_some hr q rfl hk hread hlag hwrite hplaces)⟩
  exact ⟨fun hr => execQinit_step hr, fun hr => execQacc_room hr, fun hr _ hp => execQacc_append hr hp q rfl, fun hr hk hp hpol => execQacc_full hr hk hp hpol,
    happly rfl, happly rfl, happly rfl, happly rfl, fun hr => execQrcp_none hr, fun hr hk hp => execQrcp_block hr q rfl hk hp,
    fun hr hk hp => execQrcp_empties hr q rfl hk hp, fun hr hw hk _ _ => execQsave_none hr q rfl hk hw, fun hr he ho => execQload_off hr he ho,
    fun hr he ho hv hk => execQload_none hr he ho hv hk, fun hr he ho hv => execQload_invalid hr he ho hv⟩

end Sys2Proof.Machine

namespace Sys2Proof.Machine

open Sys2Proof

/-! Elaborated one after another, as the invariant of O59 is, for the memory that parallel tasks would hold. -/
set_option Elab.async false

/-! The frames of O50: what leaves the launches, and what leaves the launch queues too. -/

/-- s and t hold the same launches and commands, the same allowance, mode, journal size and control registers. -/
structure LaunchFrame (s t : State) : Prop where
  launches : t.disp.launches = s.disp.launches
  inuse : t.disp.inuse = s.disp.inuse
  tree : t.disp.tree = s.disp.tree
  jcfg : t.jrn.jcfg = s.jrn.jcfg
  ctl : t.ctl = s.ctl
  cmds : ∀ c, (t.clu c).cmds = (s.clu c).cmds

namespace LaunchFrame

variable {s t u : State}

theorem refl : LaunchFrame s s := ⟨rfl, rfl, rfl, rfl, rfl, fun _ => rfl⟩

theorem trans (a : LaunchFrame s t) (b : LaunchFrame t u) : LaunchFrame s u :=
  ⟨b.launches.trans a.launches, b.inuse.trans a.inuse, b.tree.trans a.tree, b.jcfg.trans a.jcfg, b.ctl.trans a.ctl, fun c => (b.cmds c).trans (a.cmds c)⟩

theorem foldl {α : Type} {f : State → α → State} (hf : ∀ s a, LaunchFrame s (f s a)) (l : List α) (s : State) : LaunchFrame s (l.foldl f s) :=
  List.foldlRecOn l f (motive := LaunchFrame s) refl fun t h a _ => h.trans (hf t a)

theorem ite (p : Prop) [Decidable p] (ht : LaunchFrame s t) (hu : LaunchFrame s u) : LaunchFrame s (if p then t else u) := by
  split <;> assumption

theorem journals (a : LaunchFrame s t) : t.journals = s.journals := by
  unfold State.journals
  rw [a.jcfg, a.tree]

end LaunchFrame

/-- s and t hold the same launch queues besides. -/
structure QueueFrame (s t : State) : Prop extends LaunchFrame s t where
  queues : t.disp.queues = s.disp.queues

namespace QueueFrame

variable {s t u : State}

theorem refl : QueueFrame s s := ⟨.refl, rfl⟩

theorem trans (a : QueueFrame s t) (b : QueueFrame t u) : QueueFrame s u := ⟨a.toLaunchFrame.trans b.toLaunchFrame, b.queues.trans a.queues⟩

theorem foldl {α : Type} {f : State → α → State} (hf : ∀ s a, QueueFrame s (f s a)) (l : List α) (s : State) : QueueFrame s (l.foldl f s) :=
  List.foldlRecOn l f (motive := QueueFrame s) refl fun t h a _ => h.trans (hf t a)

/-- An update that leaves dispatch, the journal, the control registers and the clusters. -/
theorem same (hd : t.disp = s.disp) (hj : t.jrn = s.jrn) (hc : t.ctl = s.ctl) (hx : t.clusters = s.clusters) : QueueFrame s t where
  launches := by rw [hd]
  inuse := by rw [hd]
  tree := by rw [hd]
  jcfg := by rw [hj]
  ctl := hc
  cmds c := by rw [State.clu, hx]; rfl
  queues := by rw [hd]

theorem of_access (a : AccessFrame s t) : QueueFrame s t where
  launches := by rw [a.state]
  inuse := by rw [a.state]
  tree := by rw [a.state]
  jcfg := by rw [a.state]
  ctl := by rw [a.state]
  cmds := a.cmds
  queues := by rw [a.state]

theorem setClu {c : ClusterKey} {x : Cluster} (h : x.cmds = (s.clu c).cmds) : QueueFrame s (s.setClu c x) where
  launches := rfl
  inuse := rfl
  tree := rfl
  jcfg := rfl
  ctl := rfl
  cmds d := by
    by_cases hd : d = c
    · rw [hd, clu_setClu_same, h]
    · rw [clu_setClu_other _ _ _ _ hd]
  queues := rfl

theorem ite (p : Prop) [Decidable p] (ht : QueueFrame s t) (hu : QueueFrame s u) : QueueFrame s (if p then t else u) := by
  split <;> assumption

end QueueFrame

section
variable {s t : State}

theorem queueFrame_setCore (s : State) (k : CoreKey) (x : Core) : QueueFrame s (s.setCore k x) := .same rfl rfl rfl rfl
theorem queueFrame_setBank (s : State) (k : CoreKey) (b : Fin 2) (x : Bank) : QueueFrame s (s.setBank k b x) := .same rfl rfl rfl rfl
theorem queueFrame_put (s : State) (loc : Nat) (bs : List Byte) : QueueFrame s (s.put loc bs) := .of_access (accessFrame_put s loc bs)
theorem queueFrame_raiseMsix (s : State) (n : Nat) : QueueFrame s (s.raiseMsix n) := .same rfl rfl rfl rfl
theorem queueFrame_setFab (s : State) (x : Fabric) : QueueFrame s { s with fab := x } := .same rfl rfl rfl rfl

theorem queueFrame_sendEgress (s : State) : QueueFrame s s.sendEgress := .same rfl rfl rfl rfl

theorem queueFrame_mapClu (s : State) (c : ClusterKey) {f : Cluster → Cluster} (h : ∀ x, (f x).cmds = x.cmds) : QueueFrame s (s.mapClu c f) :=
  .setClu (h _)

/-! What the device owes, and the journal. -/

theorem queueFrame_farSend {k : CoreKey} {grp : Option (BitVec 16 × Word)} {pl : Place} {op : PacketOp} {bs : List Byte} {n : Nat}
    (h : s.farSend k grp pl op bs = .ok (n, t)) : QueueFrame s t := by
  unfold State.farSend at h
  split at h
  · obtain ⟨j, -, h⟩ := chk_bind_ok h
    simp only at h
    split at h
    · cases h
      exact .same rfl rfl rfl rfl
    · cases h
  · cases h

theorem queueFrame_makeOwed {o : Owed} (h : s.makeOwed o = .ok t) : QueueFrame s t := by
  unfold State.makeOwed at h
  extract_lets v far at h
  have hfar : ∀ op bs u, far op bs = .ok (some u) → QueueFrame s u := by
    intro op bs u hu
    simp only [far] at hu
    split at hu
    · obtain ⟨-, -, hu⟩ := chk_bind_ok hu
      obtain ⟨r, hr, hu⟩ := chk_bind_ok hu
      cases hu
      exact queueFrame_farSend hr
    · cases hu
  split at h
  · obtain ⟨-, -, h⟩ := chk_bind_ok h
    cases h
    exact (queueFrame_put s _ _).trans (queueFrame_raiseMsix _ _)
  · obtain ⟨r, hr, h⟩ := chk_bind_ok h
    cases r with
    | some u => cases h; exact hfar _ _ _ hr
    | none => exact .of_access (accessFrame_writeAt h)
  · obtain ⟨r, hr, h⟩ := chk_bind_ok h
    cases r with
    | some u => cases h; exact hfar _ _ _ hr
    | none => exact .of_access (accessFrame_addAt h)

theorem queueFrame_owe (s : State) (o : Owed) : QueueFrame s (s.owe o) := by
  unfold State.owe
  split
  · exact .same rfl rfl rfl rfl
  · split
    · next h => exact queueFrame_makeOwed h
    · exact .same rfl rfl rfl rfl
    · exact .refl

theorem queueFrame_flushFrom (l : List Owed) (s : State) : QueueFrame s (s.flushFrom l) := by
  induction l generalizing s with
  | nil => exact .same rfl rfl rfl rfl
  | cons o l ih =>
    unfold State.flushFrom
    split
    · next h => exact (queueFrame_makeOwed h).trans (ih _)
    · exact .same rfl rfl rfl rfl
    · exact ih s

theorem queueFrame_dispatchOwe (s : State) (sp : BitVec 20) (p : Word) (a : OwedAct) : QueueFrame s (s.dispatchOwe sp p a) :=
  .ite _ (queueFrame_owe _ _) .refl

theorem queueFrame_dispatchWrite (s : State) (sp : BitVec 20) (p x : Word) : QueueFrame s (s.dispatchWrite sp p x) := queueFrame_dispatchOwe _ _ _ _

theorem queueFrame_dispatchSignal (s : State) (sp : BitVec 20) (p : Word) : QueueFrame s (s.dispatchSignal sp p) := queueFrame_dispatchOwe _ _ _ _

theorem queueFrame_journal (s : State) (t : Word) (ln : BitVec 16) (q tr idx : Nat) (w : Word) : QueueFrame s (s.journal t ln q tr idx w) := by
  unfold State.journal
  extract_lets w2 bs
  refine .ite _ (.trans (t := { s with jrn := { s.jrn with jseq := s.jrn.jseq + 1 } }) ⟨⟨rfl, rfl, rfl, rfl, rfl, fun _ => rfl⟩, rfl⟩ (queueFrame_owe _ _)) .refl

/-- A journal that is not used takes no record. -/
theorem recordWaits_of_not_journals (h : s.journals = false) : s.recordWaits = false := by
  unfold State.recordWaits
  rw [h]
  rfl

/-! Event slots and rings. -/

theorem queueFrame_setRing (s : State) (c : ClusterKey) (i : Nat) (r : Ring) : QueueFrame s (s.setRing c i r) := .setClu rfl

theorem queueFrame_setSlot (s : State) (h : Home) (n : Nat) (e : EvSlot) : QueueFrame s (s.setSlot h n e) := by
  cases h
  · exact .setClu rfl
  · exact .same rfl rfl rfl rfl
  · exact .same rfl rfl rfl rfl

theorem queueFrame_setStrand (s : State) (w : StrandAt) (x : Bank) : QueueFrame s (s.setStrand w x) := by
  cases w <;> exact .same rfl rfl rfl rfl

theorem queueFrame_setRegionWord (s : State) (w : StrandAt) (i : Nat) (x : Word) : QueueFrame s (s.setRegionWord w i x) := by
  unfold State.setRegionWord
  split
  · exact queueFrame_put _ _ _
  · exact queueFrame_setStrand _ _ _

theorem queueFrame_setEntry (s : State) (w : StrandAt) (i : Nat) (e : Offer) : QueueFrame s (s.setEntry w i e) := by
  unfold State.setEntry
  split
  · exact queueFrame_setStrand _ _ _
  · exact (queueFrame_setRegionWord _ _ _ _).trans (queueFrame_setRegionWord _ _ _ _)

theorem queueFrame_mapEntries (s : State) (w : StrandAt) (p : Offer → Bool) (f : Offer → Offer) : QueueFrame s (s.mapEntries w p f) :=
  .foldl (fun _ _ => .ite _ (queueFrame_setEntry _ _ _ _) .refl) _ _

theorem launchFrame_freeSlot (s : State) (h : Home) (n : Nat) : LaunchFrame s (s.freeSlot h n) := by
  unfold State.freeSlot
  extract_lets e hd s1 src s2
  have h1 : LaunchFrame s s1 := by
    refine .foldl (fun s who => ?_) _ _
    split
    · exact .refl
    · exact (QueueFrame.ite _ (((queueFrame_mapEntries _ _ _ _).trans (queueFrame_setStrand _ _ _)).trans (queueFrame_setStrand _ _ _)) .refl).toLaunchFrame
  exact (h1.trans (t := s1) (u := s2) ⟨rfl, rfl, rfl, rfl, rfl, fun _ => rfl⟩).trans (queueFrame_setSlot _ _ _ _).toLaunchFrame

theorem queueFrame_skidPc (s : State) (k : CoreKey) (b : Fin 2) : QueueFrame s (s.skidPc k b) := by
  unfold State.skidPc
  extract_lets
  exact .ite _ (.setClu rfl) .refl

theorem queueFrame_report (s : State) (kind : Nat) (server sid : Word) (who : StrandId) (ptr : Word) (spid : BitVec 20)
    (words : List Word) : QueueFrame s (s.report kind server sid who ptr spid words) := .same rfl rfl rfl rfl

theorem queueFrame_enterTrap (s : State) (k : CoreKey) (b : Fin 2) (r : TrapRec) : QueueFrame s (s.enterTrap k b r) := by
  unfold State.enterTrap
  extract_lets
  split
  · exact ((queueFrame_report _ _ _ _ _ _ _ _).trans (queueFrame_setBank _ _ _ _)).trans (queueFrame_skidPc _ _ _)
  · split
    · exact (queueFrame_setBank _ _ _ _).trans (queueFrame_skidPc _ _ _)
    · exact ((queueFrame_report _ _ _ _ _ _ _ _).trans (queueFrame_setBank _ _ _ _)).trans (queueFrame_skidPc _ _ _)

theorem queueFrame_raise (s : State) (k : CoreKey) (b : Fin 2) (r : TrapRec) : QueueFrame s (s.raise k b r) :=
  .ite _ (queueFrame_enterTrap _ _ _ _) (queueFrame_setBank _ _ _ _)

theorem queueFrame_fuseTrap (s : State) (j cause : Nat) (o : FuseOffer) : QueueFrame s (s.fuseTrap j cause o) := by
  unfold State.fuseTrap
  split
  · exact .ite _ .refl ((queueFrame_setBank _ _ _ _).trans (queueFrame_raise _ _ _ _))
  · exact .refl

theorem queueFrame_planesBack (s : State) (d pq : Nat) : QueueFrame s (s.planesBack d pq) := .foldl (fun _ _ => queueFrame_setCore _ _ _) _ _

theorem queueFrame_setQuad (s : State) (d pq : Nat) (x : Quad) : QueueFrame s (s.setQuad d pq x) := .same rfl rfl rfl rfl

theorem queueFrame_fusionFails (s : State) (d pq j cause : Nat) : QueueFrame s (s.fusionFails d pq j cause) := by
  unfold State.fusionFails
  extract_lets
  exact .ite _ .refl (((queueFrame_planesBack _ _ _).trans (queueFrame_setQuad _ _ _ _)).trans (.foldl (fun _ _ => queueFrame_fuseTrap _ _ _ _) _ _))

theorem queueFrame_endGone (s : State) (d pq : Nat) : QueueFrame s (s.endGone d pq) := by
  unfold State.endGone
  extract_lets
  split
  · exact queueFrame_fusionFails _ _ _ _ _
  · exact .refl

theorem queueFrame_writeRcfg (s : State) (c : ClusterKey) (i : Nat) (v : Word) : QueueFrame s (s.writeRcfg c i v) := by
  unfold State.writeRcfg
  extract_lets
  exact .ite _ (((queueFrame_setRing _ _ _ _).trans (.of_access (accessFrame_store _ _ _))).trans (.of_access (accessFrame_store _ _ _)))
    (queueFrame_setRing _ _ _ _)

theorem queueFrame_launchRings (s : State) (l : RecLists) (c : ClusterKey) (on : Bool) : QueueFrame s (s.launchRings l c on) :=
  .foldl (fun _ _ => ((queueFrame_setRing _ _ _ _).trans (queueFrame_writeRcfg _ _ _ _)).trans (queueFrame_endGone _ _ _)) _ _

/-! The boundary of a tick. -/

theorem launchFrame_accept (s : State) (q : Fin 16) (ws : List Word) (lists : RecLists) (why : Option Nat) : LaunchFrame s (s.accept q ws lists why) := by
  unfold State.accept
  extract_lets x idx r s1 s2 s3
  have h2 : QueueFrame s s2 := .trans (t := s1) (queueFrame_journal _ _ _ _ _ _ _) (.ite _ (queueFrame_journal _ _ _ _ _ _ _) .refl)
  exact (h2.toLaunchFrame.trans (u := { s3 with disp := { s3.disp with order := s3.disp.order + 1 } })
    ⟨rfl, rfl, rfl, rfl, rfl, fun _ => rfl⟩).trans (queueFrame_dispatchWrite _ _ _ _).toLaunchFrame

theorem launchFrame_examine (s : State) (q : Fin 16) : LaunchFrame s (s.examine q) := by
  have htake : ∀ sp p ws lists why, LaunchFrame s ((s.dispatchWrite sp p 0).accept q ws lists why) := fun _ _ _ _ _ =>
    (queueFrame_dispatchWrite _ _ _ _).toLaunchFrame.trans (launchFrame_accept _ _ _ _ _)
  unfold State.examine
  extract_lets x p take
  split
  · exact .refl
  split
  · exact .refl
  next b0 _ =>
    extract_lets w0
    split
    · exact .ite _ ⟨rfl, rfl, rfl, rfl, rfl, fun _ => rfl⟩ .refl
    split
    · exact .refl
    · exact htake _ _ _ _ _
    next b _ =>
      extract_lets ws
      split
      · exact htake _ _ _ _ _
      · split
        · exact htake _ _ _ _ _
        · exact .refl

theorem queueFrame_draw (s : State) : QueueFrame s s.draw.2 := .same rfl rfl rfl rfl

theorem queueFrame_linkSnap (s : State) (l : Fin 4) : QueueFrame s (s.linkSnap l) := .same rfl rfl rfl rfl

theorem queueFrame_ivoryLatch (s : State) : QueueFrame s s.ivoryLatch := by
  unfold State.ivoryLatch
  split
  · extract_lets pk s1 s2 src s3
    have h1 : QueueFrame s s1 := by
      refine List.foldlRecOn s.liveClusters _ (motive := QueueFrame s) .refl fun t h c _ => h.trans (.setClu rfl)
    have h2 : QueueFrame s1 s2 := .foldl queueFrame_linkSnap _ _
    have h3 : QueueFrame s2 s3 := .same rfl rfl rfl rfl
    exact ((h1.trans h2).trans h3).trans (queueFrame_raiseMsix _ _)
  · exact .refl

/-- A launch that starts, and each of its number. -/
def Launch.startIf (ln : BitVec 16) (no : Nat) (m : Launch) : Launch := if m.ln = ln then { m with started := true, startNo := no } else m

theorem startIf_ln (ln : BitVec 16) (no : Nat) (m : Launch) : (m.startIf ln no).ln = m.ln := by
  unfold Launch.startIf
  split <;> rfl

theorem startIf_lstart (ln : BitVec 16) (no : Nat) (m : Launch) : (m.startIf ln no).lstart = m.lstart := by
  unfold Launch.startIf
  split <;> rfl

theorem startIf_started (ln : BitVec 16) (no : Nat) (m : Launch) : (m.startIf ln no).started = true ↔ m.started = true ∨ ln = m.ln := by
  unfold Launch.startIf
  split
  · next h => exact ⟨fun _ => .inr h.symm, fun _ => rfl⟩
  · next h => exact ⟨.inl, fun hs => hs.resolve_right fun e => h e.symm⟩

theorem startLaunch_launches (s : State) (l : Launch) :
    (s.startLaunch l).disp.launches = s.disp.launches.map (Launch.startIf l.ln s.disp.order) := by
  unfold State.startLaunch
  extract_lets s1 s2 s3
  have h1 : QueueFrame s s1 := .foldl (fun s c => queueFrame_mapClu s c (f := fun x => x.release? l.ln) fun _ => rfl) _ _
  have h2 : QueueFrame s1 s2 := .foldl (fun _ _ => queueFrame_setCore _ _ _) _ _
  rw [(queueFrame_journal _ _ _ _ _ _ _).launches]
  change (s2.mapLaunch l.ln _).disp.launches = _
  rw [mapLaunch_launches, (h1.trans h2).launches]
  rfl

/-- After some launches have started, those that stand are those of before, and the started ones are those that had and those of these numbers. -/
theorem startLaunch_foldl (l : List Launch) (s : State) : ∀ m ∈ (l.foldl State.startLaunch s).disp.launches,
    ∃ n ∈ s.disp.launches, n.ln = m.ln ∧ n.lstart = m.lstart ∧ (m.started = true ↔ n.started = true ∨ ∃ x ∈ l, x.ln = m.ln) := by
  induction l generalizing s with
  | nil => exact fun m hm => ⟨m, hm, rfl, rfl, by simp⟩
  | cons x l ih =>
    intro m hm
    obtain ⟨n, hn, hln, hls, hst⟩ := ih (s.startLaunch x) m hm
    rw [startLaunch_launches] at hn
    obtain ⟨y, hy, rfl⟩ := List.mem_map.1 hn
    rw [startIf_ln] at hln
    rw [startIf_lstart] at hls
    refine ⟨y, hy, hln, hls, ?_⟩
    simp only [hst, startIf_started, hln, or_assoc, List.mem_cons, exists_eq_or_imp]

/-- The state in which a tick's boundary starts the launches. -/
def State.beforeStart (s : State) : State :=
  (List.finRange 16).foldl State.examine (({ s with tick := s.tick + 1, fab := s.fab.tick } : State).ivoryLatch.sendEgress).flushOwed

theorem tickBoundary_eq (s : State) : s.tickBoundary = { s.beforeStart.startLaunches with tick := s.tick + 1 } := rfl

theorem launchFrame_beforeStart (s : State) : LaunchFrame s s.beforeStart := by
  have h0 : QueueFrame s { s with tick := s.tick + 1, fab := s.fab.tick } := .same rfl rfl rfl rfl
  have h1 := (h0.trans (queueFrame_ivoryLatch _)).trans (queueFrame_sendEgress _)
  exact (h1.trans (queueFrame_flushFrom _ _)).toLaunchFrame.trans (.foldl launchFrame_examine _ _)

/-- The launches after a boundary: those of before, of which none starts but one named by LSTART. -/
theorem startLaunches_mem (s : State) : ∀ m ∈ s.startLaunches.disp.launches,
    m.started = true → ∃ n ∈ s.disp.launches, n.ln = m.ln ∧ (n.started = true ∨ n.lstart = true) := by
  unfold State.startLaunches
  split
  · exact fun m hm hs => ⟨m, hm, rfl, .inl hs⟩
  · intro m hm hs
    obtain ⟨n, hn, hln, -, hst⟩ := startLaunch_foldl _ _ m hm
    rcases hst.1 hs with h | ⟨x, hx, hxl⟩
    · exact ⟨n, hn, hln, .inl h⟩
    · obtain ⟨hx, hp⟩ := List.mem_filter.1 hx
      exact ⟨x, hx, hxl, .inr (Bool.and_eq_true_iff.1 hp).1⟩

/-- Every launch that LSTART has named starts where the inlet is not too warm and the journal does not wait. -/
theorem startLaunches_all {s : State} (hw : s.ctl.tin.toNat ≤ 45) (hj : s.recordWaits = false) : ∀ m ∈ s.startLaunches.disp.launches,
    m.lstart = true → m.started = true := by
  unfold State.startLaunches
  rw [if_neg (by simp [hj, hw])]
  intro m hm hl
  obtain ⟨n, hn, hln, hls, hst⟩ := startLaunch_foldl _ _ m hm
  refine hst.2 ?_
  cases h : n.started with
  | true => exact .inl rfl
  | false => exact .inr ⟨n, List.mem_filter.2 ⟨hn, by rw [hls, hl, h]; rfl⟩, hln⟩

/-! Acceptance (R365, R366). -/

/-- The record that joins a queue. -/
def State.accepted (s : State) (q : Fin 16) (ws : List Word) (lists : RecLists) (why : Option Nat) : QRec :=
  ⟨(s.queue q).acc.toNat, ws, lists, s.disp.order, why, false, none, none, s.tick⟩

theorem accept_queue (s : State) (q : Fin 16) (ws : List Word) (lists : RecLists) (why : Option Nat) :
    (s.accept q ws lists why).disp.queues[q] =
      { s.queue q with acc := (s.queue q).acc + 1, recs := (s.queue q).recs ++ [s.accepted q ws lists why], emptySince := none } := by
  unfold State.accept
  extract_lets x idx r s1 s2 s3
  rw [(queueFrame_dispatchWrite _ _ _ _).queues]
  exact Vector.getElem_set_self _

theorem queueFrame_queue {s t : State} (h : QueueFrame s t) (q : Fin 16) : t.queue q = s.queue q := by
  unfold State.queue
  rw [h.queues]

/-- Where dispatch looks at a slot, an enabled queue whose journal does not wait takes a record whose first word can be read and is not 0. -/
theorem examine_take {s : State} {q : Fin 16} {b0 : List Byte} (hen : (s.queue q).en = true) (hw : s.recordWaits = false)
    (hr : s.dispatchRead (s.queue q).spid (s.queue q).slotPtr 8 8 = .ok b0) (h0 : leWord b0 ≠ 0) :
    let take (ws : List Word) (whole : Bool) (lists : ReadLists) : State :=
      (s.dispatchWrite (s.queue q).spid (s.queue q).slotPtr 0).accept q ws lists.kept (s.refusal ws whole lists (s.queue q).acc.toNat)
    s.examine q = match s.dispatchRead (s.queue q).spid (s.queue q).slotPtr 256 8 with
      | .error .wait => s
      | .error (.trap _ _) => take [leWord b0] false .none
      | .ok b =>
        let ws := wordsOf b 32
        if recVer ws ≠ 1 then take ws true .none
        else match s.readLists ws with
          | .ok lists => take ws true lists
          | .error _ => s := by
  intro take
  unfold State.examine
  dsimp only
  rw [hen, hw, if_neg (by decide), hr]
  exact if_neg h0

/-- What a queue holds after dispatch has taken a record. -/
def State.Takes (s t : State) (q : Fin 16) (ws : List Word) (whole : Bool) (lists : ReadLists) : Prop :=
  ∃ y, t.disp.queues[q].recs = (s.queue q).recs ++ [y] ∧ t.disp.queues[q].acc = (s.queue q).acc + 1 ∧ y.words = ws ∧ y.lists = lists.kept ∧
    y.idx = (s.queue q).acc.toNat ∧ y.refused = s.refusal ws whole lists (s.queue q).acc.toNat

theorem takes_accept (s : State) (q : Fin 16) (sp : BitVec 20) (p : Word) (ws : List Word) (whole : Bool) (lists : ReadLists) :
    s.Takes ((s.dispatchWrite sp p 0).accept q ws lists.kept (s.refusal ws whole lists (s.queue q).acc.toNat)) q ws whole lists := by
  have hq := queueFrame_queue (queueFrame_dispatchWrite s sp p 0) q
  unfold State.Takes
  rw [accept_queue, hq]
  exact ⟨_, rfl, rfl, rfl, rfl, by rw [State.accepted, hq], rfl⟩

theorem recordAccept_takes {s : State} {q : Fin 16} {ws : List Word} {whole : Bool} {lists : ReadLists}
    (he : s.examine q = (s.dispatchWrite (s.queue q).spid (s.queue q).slotPtr 0).accept q ws lists.kept (s.refusal ws whole lists (s.queue q).acc.toNat)) :
    ∃ t y, execRecordAccept q s = .next t ∧ t.disp.queues[q].recs = (s.queue q).recs ++ [y] ∧ t.disp.queues[q].acc = (s.queue q).acc + 1 ∧
      y.words = ws ∧ y.lists = lists.kept ∧ y.idx = (s.queue q).acc.toNat ∧ y.refused = s.refusal ws whole lists (s.queue q).acc.toNat := by
  obtain ⟨y, hy⟩ := takes_accept s q (s.queue q).spid (s.queue q).slotPtr ws whole lists
  exact ⟨_, y, congrArg Host.Outcome.next he, hy⟩

/-! Admission (R376). -/

theorem queueFrame_allocSlot (s : State) (h : Home) (n : Nat) (kind : EvKind) (l : List StrandId) : QueueFrame s (s.allocSlot h n kind l) :=
  queueFrame_setSlot _ _ _ _

/-- A launch as it is admitted. -/
def admitted (q : Fin 16) (ln : BitVec 16) (r : QRec) (places : List Position) (slots : List SlotChoice) : Launch :=
  ⟨ln, q, r.idx, r.words, r.lists, places, slots, [], false, false, [], 0, 0, r.order, 0, [], clustersOf places, 0⟩

theorem execAdmission_admits {s : State} {q : Fin 16} {ln : BitVec 16} {r : QRec} {places : List Position} {slots : List SlotChoice}
    (hdcc : s.dccRuns = true) (hh : s.head? q = some r) (hen : (s.queue q).en = true) (hs : s.startable (s.queue q) r = true)
    (ho : s.outranked q r = false) (hl : s.launch? ln = none) (hp : s.placesOk r.words r.lists places = true)
    (hsl : s.slotsOk r.lists places slots = true) :
    ∃ t, execAdmission q ln places slots s = .next t ∧ t.disp.inuse = s.disp.inuse + recTok r.words ∧
      t.disp.launches = s.disp.launches ++ [admitted q ln r places slots] := by
  unfold execAdmission State.byDcc
  rw [if_pos hdcc]
  dsimp only
  rw [hh]
  dsimp only
  rw [if_pos (by simp [hen, hs, ho, hl, hp, hsl])]
  refine ⟨_, rfl, ?_⟩
  have hslots (u : State) := QueueFrame.foldl (fun s (c : SlotChoice) =>
    queueFrame_allocSlot s c.home c.slot (kindOf (bits (r.lists.events.getD c.entry 0) 59 3)) []) slots u
  have hrings (u : State) := QueueFrame.foldl (fun s c => queueFrame_launchRings s r.lists c true) (clustersOf places) u
  exact ⟨((hslots _).trans (hrings _)).inuse, ((hslots _).trans (hrings _)).launches⟩

/-! Completion (R380). -/

/-- The launches, the allowance and the mode after an operation that may count stops of launches, but takes none from the list. -/
structure CountFrame (s t : State) : Prop where
  names : t.disp.launches.map Launch.ln = s.disp.launches.map Launch.ln
  inuse : t.disp.inuse = s.disp.inuse
  tree : t.disp.tree = s.disp.tree

namespace CountFrame

variable {s t u : State}

theorem refl : CountFrame s s := ⟨rfl, rfl, rfl⟩

theorem trans (a : CountFrame s t) (b : CountFrame t u) : CountFrame s u :=
  ⟨b.names.trans a.names, b.inuse.trans a.inuse, b.tree.trans a.tree⟩

theorem foldl {α : Type} {f : State → α → State} (hf : ∀ s a, CountFrame s (f s a)) (l : List α) (s : State) : CountFrame s (l.foldl f s) :=
  List.foldlRecOn l f (motive := CountFrame s) refl fun t h a _ => h.trans (hf t a)

theorem of_launch (a : LaunchFrame s t) : CountFrame s t := ⟨by rw [a.launches], a.inuse, a.tree⟩

theorem ite (p : Prop) [Decidable p] (ht : CountFrame s t) (hu : CountFrame s u) : CountFrame s (if p then t else u) := by
  split <;> assumption

end CountFrame

theorem countFrame_dropOne (s : State) (c : ClusterKey) (m : Cmd) : CountFrame s (s.dropOne c m) := by
  refine ⟨?_, rfl, rfl⟩
  change ((s.disp.launches.map _).map Launch.ln) = _
  rw [List.map_map]
  refine List.map_congr_left fun l _ => ?_
  dsimp only [Function.comp]
  split <;> rfl

theorem countFrame_discardCmd (s : State) (c : ClusterKey) (m : Cmd) : CountFrame s (s.discardCmd c m) := by
  refine .foldl (fun s d => ?_) _ _
  split
  · exact ⟨rfl, rfl, rfl⟩
  · exact countFrame_dropOne _ _ _

theorem countFrame_launchGone (s : State) (ln : BitVec 16) (c : ClusterKey) : CountFrame s (s.launchGone ln c) := by
  unfold State.launchGone
  extract_lets s1
  exact .trans (t := s1) (.foldl (fun _ _ => .ite _ (countFrame_discardCmd _ _ _) .refl) _ _) ⟨rfl, rfl, rfl⟩

/-- No command of a launch is a member of a gang. -/
def State.NoGang (s : State) (ln : BitVec 16) : Prop := ∀ c, ∀ m ∈ (s.clu c).cmds, m.who.ln = ln → m.gang = none

/-- t holds what s does but for the launch ln, none of whose commands is a member of a gang. -/
structure OnlyLaunch (ln : BitVec 16) (s t : State) : Prop where
  live : (t.disp.launches.filter fun m => m.ln != ln) = s.disp.launches.filter fun m => m.ln != ln
  alone : t.NoGang ln

theorem noGang_setClu {s : State} {ln : BitVec 16} {c : ClusterKey} {x : Cluster} (h : s.NoGang ln) (hx : ∀ m ∈ x.cmds, m.who.ln = ln → m.gang = none) :
    (s.setClu c x).NoGang ln := by
  intro d
  by_cases hd : d = c
  · rw [hd, clu_setClu_same]
    exact hx
  · rw [clu_setClu_other _ _ _ _ hd]
    exact h d

/-- The stop counted for a launch is no other launch's. -/
theorem filter_countStop (s : State) (ln : BitVec 16) :
    ((s.countStop ln).disp.launches.filter fun m => m.ln != ln) = s.disp.launches.filter fun m => m.ln != ln := by
  unfold State.countStop
  dsimp only
  induction s.disp.launches with
  | nil => rfl
  | cons m l ih =>
    by_cases h : m.ln = ln
    · simpa [h] using ih
    · simpa [h] using ih

theorem discardOne_cmds (x : Cluster) (m : Cmd) : (x.discardOne m).cmds = x.cmds.filter fun d => d.id != m.id := by
  simp [Cluster.discardOne, Cluster.dropCmd]

/-- A command of a launch that is no member of a gang is discarded: no other launch counts a stop. -/
theorem onlyLaunch_discardCmd {s : State} {c : ClusterKey} {m : Cmd} (h : s.NoGang m.who.ln) (hg : m.gang = none) :
    OnlyLaunch m.who.ln s (s.discardCmd c m) := by
  have hd : (s.clu c).discards m = [m] := by
    unfold Cluster.discards
    rw [hg]
  unfold State.discardCmd
  rw [hd, List.foldl_cons, List.foldl_nil]
  split
  · refine ⟨rfl, noGang_setClu h fun y hy hy' => ?_⟩
    obtain ⟨z, hz, rfl⟩ := List.mem_map.1 hy
    by_cases hi : z.id = m.id
    · rw [if_pos hi]
      exact hg
    · rw [if_neg hi] at hy' ⊢
      exact h c z hz hy'
  · constructor
    · exact filter_countStop _ _
    · refine noGang_setClu h fun y hy => ?_
      rw [discardOne_cmds] at hy
      exact h c y (List.mem_filter.1 hy).1

theorem onlyLaunch_launchGone {s : State} {ln : BitVec 16} (c : ClusterKey) (h : s.NoGang ln) : OnlyLaunch ln s (s.launchGone ln c) := by
  unfold State.launchGone
  extract_lets s1
  have h1 : OnlyLaunch ln s s1 := by
    refine List.foldlRecOn _ _ (motive := OnlyLaunch ln s) ⟨rfl, h⟩ fun t ht m hm => ?_
    obtain ⟨hin, hw⟩ := List.mem_filter.1 hm
    obtain rfl : m.who.ln = ln := beq_iff_eq.1 hw
    split
    · obtain ⟨hl, ha⟩ := onlyLaunch_discardCmd (c := c) ht.alone (h c m hin rfl)
      exact ⟨hl.trans ht.live, ha⟩
    · exact ht
  exact ⟨h1.live, noGang_setClu h1.alone fun m hm => h1.alone c m hm⟩

/-- A value that is looked up is the default, or stands in the list. -/
theorem lookupD_mem {α : Type} (d : α) (l : List (Nat × α)) (n : Nat) : lookupD d l n = d ∨ ∃ e ∈ l, e.2 = lookupD d l n := by
  induction l with
  | nil => exact .inl rfl
  | cons e l ih =>
    unfold lookupD
    split
    · exact .inr ⟨e, List.mem_cons_self, rfl⟩
    · exact ih.imp_right fun ⟨y, hy, h⟩ => ⟨y, List.mem_cons_of_mem _ hy, h⟩

theorem noGang_of_clusters {s : State} {ln : BitVec 16} (h : ∀ e ∈ s.clusters, ∀ m ∈ e.2.cmds, m.who.ln = ln → m.gang = none) : s.NoGang ln := by
  intro c m hm
  rcases lookupD_mem Cluster.reset s.clusters c with hc | ⟨e, he, hc⟩
  · rw [State.clu, hc] at hm
    exact absurd hm List.not_mem_nil
  · exact h e he m (hc ▸ hm)

theorem LaunchFrame.noGang {s t : State} {ln : BitVec 16} (a : LaunchFrame s t) (h : s.NoGang ln) : t.NoGang ln := fun c => by
  rw [a.cmds c]
  exact h c

/-- What a launch that is done gives back before it leaves the list (R380). -/
def State.givenBack (s : State) (l : Launch) : State := l.ringsAt.foldl (fun s c => s.launchRings l.lists c false) (l.slots.foldl (fun s c => s.freeSlot c.home c.slot) s)

/-- The state of `givenBack` once no cluster holds anything of the launch. -/
def State.clearedOf (s : State) (l : Launch) : State := ((s.givenBack l).clusters.map (·.1)).foldl (fun s c => s.launchGone l.ln c) (s.givenBack l)

theorem launchFrame_givenBack (s : State) (l : Launch) : LaunchFrame s (s.givenBack l) := by
  unfold State.givenBack
  have hrings (u : State) := QueueFrame.foldl (fun s c => queueFrame_launchRings s l.lists c false) l.ringsAt u
  exact (LaunchFrame.foldl (fun s (c : SlotChoice) => launchFrame_freeSlot s c.home c.slot) l.slots s).trans (hrings _).toLaunchFrame

theorem countFrame_clearedOf (s : State) (l : Launch) : CountFrame s (s.clearedOf l) :=
  (CountFrame.of_launch (launchFrame_givenBack s l)).trans (.foldl (fun _ _ => countFrame_launchGone _ _ _) _ _)

theorem onlyLaunch_clearedOf {s : State} {l : Launch} (h : s.NoGang l.ln) : OnlyLaunch l.ln s (s.clearedOf l) := by
  have hg := launchFrame_givenBack s l
  refine List.foldlRecOn _ _ (motive := OnlyLaunch l.ln s) ⟨by rw [hg.launches], hg.noGang h⟩ fun t ht c _ => ?_
  obtain ⟨hl, ha⟩ := onlyLaunch_launchGone c ht.alone
  exact ⟨hl.trans ht.live, ha⟩

/-- Where the mode is not TREE, the launch gives its allowance back and leaves the list. -/
theorem finishLaunch_disp {s : State} (l : Launch) (ht : s.disp.tree = false) :
    (s.finishLaunch l).disp.inuse = s.disp.inuse - recTok l.words ∧
    (s.finishLaunch l).disp.launches = (s.clearedOf l).disp.launches.filter fun m => m.ln != l.ln := by
  have hc := countFrame_clearedOf s l
  unfold State.finishLaunch
  extract_lets left stops out s1 s2 s3 x word live src s4
  have hs : s3 = s.clearedOf l := rfl
  have ht4 : s4.disp.tree = false := hc.tree.trans ht
  rw [if_neg (by rw [ht4]; exact Bool.false_ne_true)]
  exact ⟨congrArg (· - recTok l.words) hc.inuse, rfl⟩

theorem launch_ln {s : State} {ln : BitVec 16} {l : Launch} (h : s.launch? ln = some l) : l.ln = ln := by
  simpa using List.find?_some h

theorem launchCompletion_done {s : State} {ln : BitVec 16} {l : Launch} (hl : s.launch? ln = some l) (hd : s.launchDone l = true) :
    execLaunchCompletion ln s = .next (s.finishLaunch l) := by
  unfold execLaunchCompletion
  rw [hl]
  dsimp only
  rw [if_pos hd]

theorem launchCompletion_early {s : State} {ln : BitVec 16} {l : Launch} (hl : s.launch? ln = some l) (hd : s.launchDone l = false) :
    execLaunchCompletion ln s = .next s := by
  unfold execLaunchCompletion
  rw [hl]
  dsimp only
  rw [if_neg (by rw [hd]; exact Bool.false_ne_true)]

/-! LQCFG (R364). -/

/-- Each launch of t is one of s, as far as its number, its queue and its start go. -/
def LaunchesFrom (s t : State) : Prop :=
  ∀ m ∈ t.disp.launches, ∃ n ∈ s.disp.launches, n.ln = m.ln ∧ n.q = m.q ∧ n.started = m.started

namespace LaunchesFrom

variable {s t u : State}

theorem refl : LaunchesFrom s s := fun m hm => ⟨m, hm, rfl, rfl, rfl⟩

theorem trans (a : LaunchesFrom s t) (b : LaunchesFrom t u) : LaunchesFrom s u := by
  intro m hm
  obtain ⟨n, hn, hln, hq, hst⟩ := b m hm
  obtain ⟨y, hy, hln', hq', hst'⟩ := a n hn
  exact ⟨y, hy, hln'.trans hln, hq'.trans hq, hst'.trans hst⟩

theorem foldl {α : Type} {f : State → α → State} (hf : ∀ s a, LaunchesFrom s (f s a)) (l : List α) (s : State) : LaunchesFrom s (l.foldl f s) :=
  List.foldlRecOn l f (motive := LaunchesFrom s) refl fun t h a _ => h.trans (hf t a)

theorem of_launch (a : LaunchFrame s t) : LaunchesFrom s t := by
  unfold LaunchesFrom
  rw [a.launches]
  exact refl

end LaunchesFrom

theorem launchesFrom_endStrand (s : State) (a : StrandAt) (kill : Bool) : LaunchesFrom s (s.endStrand a kill) := by
  intro m hm
  unfold State.endStrand at hm
  rw [mapLaunch_launches] at hm
  obtain ⟨n, hn, rfl⟩ := List.mem_map.1 hm
  have hn : n ∈ s.disp.launches := by
    cases a with
    | bank k b => simpa only [emptied_disp, state_setBank_disp, leaveAll_disp, letGo_disp] using hn
    | saved k i => simpa only [state_setCore_disp, leaveAll_disp, letGo_disp] using hn
  refine ⟨n, hn, ?_⟩
  split <;> exact ⟨rfl, rfl, rfl⟩

/-- A launch that is torn down leaves the list, and every other stays. -/
theorem tearDown_launches (s : State) (l : Launch) : ∀ m ∈ (s.tearDown l).disp.launches,
    m.ln ≠ l.ln ∧ ∃ n ∈ s.disp.launches, n.ln = m.ln ∧ n.q = m.q ∧ n.started = m.started := by
  intro m hm
  unfold State.tearDown at hm
  extract_lets s1 s2 s3 at hm
  obtain ⟨hm, hln⟩ := List.mem_filter.1 hm
  have h1 : LaunchesFrom s s1 := by
    refine .foldl (fun s w => ?_) _ _
    split
    · exact launchesFrom_endStrand _ _ _
    · exact .refl
  have h2 : LaunchFrame s1 s2 := .foldl (fun s (c : SlotChoice) => launchFrame_freeSlot s c.home c.slot) l.slots s1
  have h3 : QueueFrame s2 s3 := .foldl (fun s c => (queueFrame_launchRings s l.lists c false).trans
    (queueFrame_mapClu _ c (f := fun x => x.release? l.ln) fun _ => rfl)) l.ringsAt s2
  exact ⟨bne_iff_ne.1 hln, h1.trans (.of_launch (h2.trans h3.toLaunchFrame)) m hm⟩

theorem tearDown_foldl (l : List Launch) (s : State) : ∀ m ∈ (l.foldl State.tearDown s).disp.launches,
    (∀ x ∈ l, m.ln ≠ x.ln) ∧ ∃ n ∈ s.disp.launches, n.ln = m.ln ∧ n.q = m.q ∧ n.started = m.started := by
  induction l generalizing s with
  | nil => exact fun m hm => ⟨fun x hx => absurd hx List.not_mem_nil, m, hm, rfl, rfl, rfl⟩
  | cons x l ih =>
    intro m hm
    obtain ⟨hne, n, hn, hln, hq, hst⟩ := ih (s.tearDown x) m hm
    obtain ⟨hx, y, hy, hln', hq', hst'⟩ := tearDown_launches s x n hn
    refine ⟨fun z hz => ?_, y, hy, hln'.trans hln, hq'.trans hq, hst'.trans hst⟩
    rcases List.mem_cons.1 hz with rfl | hz
    · exact hln ▸ hx
    · exact hne z hz

/-- Of a queue whose launches that have not started are torn down, every launch left has started. -/
theorem started_of_tornDown {s : State} {q : Fin 16} {m : Launch}
    (hm : m ∈ ((s.disp.launches.filter fun l => l.q == q && !l.started).foldl State.tearDown s).disp.launches) (hq : m.q = q) : m.started = true := by
  obtain ⟨hne, n, hn, hln, hnq, hst⟩ := tearDown_foldl _ _ m hm
  cases h : m.started with
  | true => rfl
  | false => exact absurd hln.symm (hne n (List.mem_filter.2 ⟨hn, by rw [hnq, hq, hst, h]; simp⟩))

/-- A record of a queue that is disabled is refused, has an outcome, or its launch has started. -/
theorem refuse_cases (t : Word) (l : List Launch) (r : QRec) :
    (QRec.refuse t ((l.filter Launch.started).map Launch.ln) r).refused ≠ none ∨ (QRec.refuse t ((l.filter Launch.started).map Launch.ln) r).outcome ≠ none ∨
    ∃ m ∈ l, (QRec.refuse t ((l.filter Launch.started).map Launch.ln) r).ln = some m.ln ∧ m.started = true := by
  unfold QRec.refuse
  split
  · exact .inl (Option.some_ne_none _)
  next h =>
    cases hr : r.refused with
    | some _ => exact .inl (Option.some_ne_none _)
    | none =>
      cases ho : r.outcome with
      | some _ => exact .inr (.inl (Option.some_ne_none _))
      | none =>
        cases hn : r.ln with
        | none => simp [hr, ho, hn] at h
        | some n =>
          obtain ⟨m, hm, hst, hln⟩ : ∃ m ∈ l, m.started = true ∧ m.ln = n := by simpa [hr, ho, hn, and_assoc] using h
          exact .inr (.inr ⟨m, hm, by rw [hln], hst⟩)

theorem execLqcfgWrite_enable (s : State) (q : Fin 16) {v : Word} (h : (v &&& 0xFE0000FFFFFFFFFF).getLsbD 63 = true) :
    execLqcfgWrite q v s = .next (s.setQueue q { s.queue q with
      lqcfg := if 4 ≤ bits (v &&& 0xFE0000FFFFFFFFFF) 57 4 ∧ bits (v &&& 0xFE0000FFFFFFFFFF) 57 4 ≤ 12 then v &&& 0xFE0000FFFFFFFFFF
        else setBits (v &&& 0xFE0000FFFFFFFFFF) 63 1 0
      acc := 0, rep := 0, emptySince := none }) := by
  unfold execLqcfgWrite
  dsimp only
  rw [if_pos h]
  simp only [Bool.and_eq_true, decide_eq_true_eq]

/-- The state in which a queue that is disabled refuses its records: its launches that have not started are gone. -/
def State.tornDown (s : State) (q : Fin 16) : State := (s.disp.launches.filter fun l => l.q == q && !l.started).foldl State.tearDown s

theorem execLqcfgWrite_disable (s : State) (q : Fin 16) {v : Word} (h : (v &&& 0xFE0000FFFFFFFFFF).getLsbD 63 = false) :
    execLqcfgWrite q v s = .next ((s.tornDown q).setQueue q { (s.tornDown q).queue q with
      lqcfg := v &&& 0xFE0000FFFFFFFFFF
      recs := ((s.tornDown q).queue q).recs.map (QRec.refuse s.tick (((s.tornDown q).disp.launches.filter Launch.started).map Launch.ln))
      emptySince := none }) := by
  unfold execLqcfgWrite
  dsimp only
  rw [if_neg (by rw [h]; exact Bool.false_ne_true)]
  rfl

/-! Reports (R381). -/

theorem launchReport_leaves {s : State} {q : Fin 16} {r : QRec} {rs : List QRec} (hr : (s.queue q).recs = r :: rs) (ht : s.disp.tree = false)
    (ho : ∀ n, r.ln = some n → s.launchOut n = false) (hd : r.refused ≠ none ∨ r.outcome ≠ none) :
    ∃ t, execLaunchReport q s = .next t ∧ t.disp.queues[q].recs = rs ∧ t.disp.queues[q].rep = (s.queue q).rep + 1 := by
  have hout : (s.disp.tree || r.ln.elim false s.launchOut) = false := by
    rw [ht, Bool.false_or]
    cases hn : r.ln with
    | none => rfl
    | some n => exact ho n hn
  unfold execLaunchReport
  dsimp only
  rw [hr]
  dsimp only
  split
  · next h =>
    cases hrf : r.refused with
    | some n => simp [hrf] at h
    | none =>
      cases hoc : r.outcome with
      | some o => simp [hrf, hoc] at h
      | none => exact absurd hd (by simp [hrf, hoc])
  · next w tr _ =>
    rw [hout, if_neg Bool.false_ne_true]
    refine ⟨_, rfl, ?_⟩
    have h1 : QueueFrame s (if recCpl r.words = 0 ∨ r.refused = some 13 then s
        else (s.dispatchWrite (recSpid r.words) (recCpl r.words) w).dispatchSignal (recSpid r.words) (recCpl r.words + 8)) :=
      .ite _ .refl ((queueFrame_dispatchWrite _ _ _ _).trans (queueFrame_dispatchSignal _ _ _))
    have h2 := h1.trans (.ite (r.refused = some 13) .refl (queueFrame_journal _ r.since (r.ln.getD 0) q.val tr r.idx w))
    refine ⟨congrArg Queue.recs (Vector.getElem_set_self _), (congrArg Queue.rep (Vector.getElem_set_self _)).trans ?_⟩
    exact congrArg (fun y => Queue.rep y + 1) (queueFrame_queue h2 q)

theorem launchReport_waits {s : State} {q : Fin 16} {r : QRec} {rs : List QRec} {n : BitVec 16} (hr : (s.queue q).recs = r :: rs)
    (hn : r.ln = some n) (ho : s.launchOut n = true) : execLaunchReport q s = .next s := by
  unfold execLaunchReport
  dsimp only
  rw [hr]
  dsimp only
  split
  · rfl
  · rw [hn]
    exact if_pos (by simp [ho])

/-! LSTART (R378). -/

theorem execLstart_none {s : State} {ln : BitVec 16} (h : s.launch? ln = none) : execLstart ln s = .next { s with disp := { s.disp with lstart := ln } } := by
  unfold execLstart
  rw [h]

theorem execLstart_marks {s : State} {ln : BitVec 16} {l : Launch} (h : s.launch? ln = some l) (hc : l.created.length = l.places.length)
    (hs : l.lstart = false) (hl : l.lists.loads = []) : execLstart ln s =
      .next { s with disp := { s.disp with lstart := ln, launches := s.disp.launches.map fun m => if m.ln = ln then { m with lstart := true } else m } } := by
  unfold execLstart State.loadAll
  rw [h]
  dsimp only
  rw [if_pos ⟨hc, hs⟩, hl]
  rfl

theorem execLaunchStart_warm {s : State} (h : 45 < s.ctl.tin.toNat) : execLaunchStart s = .next s := by
  unfold execLaunchStart
  rw [if_neg fun hc => by omega]

/-- At a boundary where the inlet is not too warm, every launch that LSTART has named starts, and no other; time goes on where one was named. -/
theorem launchStart_cool {s : State} (hw : s.ctl.tin.toNat ≤ 45) : ∃ t, execLaunchStart s = .next t ∧
    (s.journals = false → ∀ m ∈ t.disp.launches, m.lstart = true → m.started = true) ∧
    (∀ m ∈ t.disp.launches, m.started = true → ∃ n ∈ s.disp.launches, n.ln = m.ln ∧ (n.started = true ∨ n.lstart = true)) ∧
    ((∃ m ∈ s.disp.launches, m.lstart = true ∧ m.started = false) → t.tick = s.tick + 1) := by
  unfold execLaunchStart
  refine ⟨_, rfl, ?_⟩
  have hf := launchFrame_beforeStart s
  cases ha : s.disp.launches.any fun l => l.lstart && !l.started with
  | true =>
    rw [if_pos ⟨hw, rfl⟩, tickBoundary_eq]
    refine ⟨fun hj => startLaunches_all (by rw [hf.ctl]; exact hw) (recordWaits_of_not_journals (hf.journals.trans hj)), fun m hm hs => ?_, fun _ => rfl⟩
    rw [← hf.launches]
    exact startLaunches_mem _ m hm hs
  | false =>
    have hall : ∀ m ∈ s.disp.launches, m.lstart = true → m.started = true := by simpa using ha
    rw [if_neg (by simp)]
    refine ⟨fun _ => hall, fun m hm hs => ⟨m, hm, rfl, .inl hs⟩, fun ⟨m, hm, hl, hs⟩ => ?_⟩
    rw [hall m hm hl] at hs
    cases hs

theorem names_filter {l l' : List Launch} (ln : BitVec 16) (h : l'.map Launch.ln = l.map Launch.ln) :
    (l'.filter fun m => m.ln != ln).map Launch.ln = (l.filter fun m => m.ln != ln).map Launch.ln := by
  have e (l : List Launch) : (l.filter fun m => m.ln != ln).map Launch.ln = (l.map Launch.ln).filter fun n => n != ln := by
    rw [List.filter_map]
    rfl
  rw [e, e, h]

theorem execClaimTimeout_refuses {s : State} {q : Fin 16} {t0 : Nat} {b0 bs : List Byte} (hen : (s.queue q).en = true) (hw : s.recordWaits = false)
    (ht : (s.queue q).emptySince = some t0) (hc : (s.queue q).cto ≠ 0) (hle : t0 + (s.queue q).cto ≤ s.tick.toNat)
    (hb : s.dispatchRead (s.queue q).spid (s.queue q).lqb 8 8 = .ok b0) (hlt : (s.queue q).acc.toNat < leNat b0)
    (hs : s.dispatchRead (s.queue q).spid (s.queue q).slotPtr 8 8 = .ok bs) (h0 : leNat bs = 0) :
    execClaimTimeout q s = .next ((s.dispatchWrite (s.queue q).spid (s.queue q).slotPtr 0).accept q [] ⟨[], [], [], []⟩ (some 13)) := by
  unfold execClaimTimeout
  dsimp only
  rw [ht, hb, hs]
  exact if_pos ⟨hen, hw, hc, hle, hlt, h0⟩

end

/-- Settles O50: dispatch takes a record by `examine_take`; launches start by `launchStart_cool`, leave by `finishLaunch_disp`, and are torn down by `tearDown_foldl`. -/
theorem dispatching : Obligations.Dispatching := by
  unfold Obligations.Dispatching
  intro s q v ln l r rs places slots b0 bs x slot sp
  refine ⟨rfl, fun hen => ?_, fun hw => ?_, fun lists hen hw hr h0 => ?_, fun t0 hen hw ht hc hle hb hlt hs h0 => ?_, fun hd => ?_,
    fun hd hh hen hs ho hl hp hsl => ?_, execLstart_none, execLstart_marks, execLaunchStart_warm, fun hw => ?_, fun hl hd ht => ?_,
    launchCompletion_early, launchReport_leaves, fun n => launchReport_waits, rfl, execLqcfgWrite_enable s q, fun hv => ?_⟩
  · exact congrArg Host.Outcome.next (if_pos (by rw [show (s.queue q).en = false from hen]; rfl))
  · exact congrArg Host.Outcome.next (if_pos (by rw [hw, Bool.or_true]))
  · have he := examine_take hen hw hr h0
    refine ⟨fun hb => ⟨fun hv hl => ?_, fun hv hl => ?_⟩, fun cause info hb hl => ?_⟩
    · refine recordAccept_takes (he.trans ?_)
      rw [show s.dispatchRead (s.queue q).spid (s.queue q).slotPtr 256 8 = _ from hb, hl]
      exact if_pos hv
    · refine recordAccept_takes (he.trans ?_)
      rw [show s.dispatchRead (s.queue q).spid (s.queue q).slotPtr 256 8 = _ from hb]
      dsimp only
      rw [if_neg (not_not_intro hv), hl]
    · refine recordAccept_takes (he.trans ?_)
      rw [show s.dispatchRead (s.queue q).spid (s.queue q).slotPtr 256 8 = _ from hb, hl]
  · have hq := queueFrame_queue (queueFrame_dispatchWrite s (s.queue q).spid (s.queue q).slotPtr 0) q
    refine ⟨_, State.accepted (s.dispatchWrite (s.queue q).spid (s.queue q).slotPtr 0) q [] ⟨[], [], [], []⟩ (some 13),
      execClaimTimeout_refuses hen hw ht hc hle hb hlt hs h0, ?_⟩
    rw [accept_queue, hq]
    exact ⟨rfl, rfl, rfl⟩
  · exact if_neg (by rw [hd]; exact Bool.false_ne_true)
  · exact execAdmission_admits hd hh hen hs ho hl hp hsl
  · exact launchStart_cool hw
  · have ht' := finishLaunch_disp l ht
    obtain rfl := launch_ln hl
    refine ⟨_, launchCompletion_done hl hd, ht'.1, ?_, fun hg => ht'.2.trans (onlyLaunch_clearedOf (noGang_of_clusters hg)).live⟩
    rw [ht'.2]
    exact names_filter _ (countFrame_clearedOf s l).names
  · refine ⟨_, execLqcfgWrite_disable s q hv, congrArg Queue.lqcfg (Vector.getElem_set_self _), fun y hy => ?_, fun m hm hq => started_of_tornDown hm hq⟩
    rw [show ((s.tornDown q).setQueue q _).disp.queues[q] = _ from Vector.getElem_set_self _] at hy
    obtain ⟨r, -, rfl⟩ := List.mem_map.1 hy
    exact refuse_cases _ _ r

end Sys2Proof.Machine

namespace Sys2Proof.Machine

open Sys2Proof

/-! Elaborated one after another, as the invariant of O59 is, for the memory that parallel tasks would hold. -/
set_option Elab.async false

/-! HFREE over memory that is not in canonical form (R361, R364). -/

/-- A heap of two blocks of 128 bytes with a state area of one byte used, in which the strand at boot frees the first block. -/
def freedHeap : Heap := ⟨0x40020000, false, 7, 6, 0x8000000000022000, 256, [(0x40021000, 64)]⟩

/-- The strand at boot, with a pointer to the descriptor and one to the heap's first block, which is allocated. Memory holds the byte of that state behind a
cell of a larger address, so that it is not in canonical form. -/
def unsortedHeap : State :=
  let s := { State.reset.bootStrand with boot := { State.reset.boot with stage := 3 } }
  let x := s.bank 0 0
  let desc := leBytes 8 0x8000000000000706 ++ leBytes 8 0x8000000000022000 ++ leBytes 8 256 ++ leBytes 8 0x8000000000021000
  { s.setBank 0 0 { x with ctx := (x.ctx.setS 1 0x8000000000020000).setS 2 0x8000000000022000 } with
    mem := (2 ^ 60, 1) :: putBytes (putBytes s.mem 0x40020000 desc) 0x40021000 [2] }

/-- The state of the block that HFREE of `unsortedHeap` leaves, or 0 where it does not go on. -/
def freedState : Nat := match exec (.hfree 1 2 0) unsortedHeap with
  | .next t => t.blockSt freedHeap 7 0
  | _ => 0

theorem quiet_unsortedHeap : Quiet unsortedHeap 0 0 := by unfold Quiet; decide +kernel

/-- The byte that HFREE writes is 0, which leaves the cell behind the larger address as it stands. -/
theorem freedState_eq : freedState = 2 := by decide +kernel

theorem heapAt_unsortedHeap : unsortedHeap.heapAt (unsortedHeap.view 0 0) 0x8000000000020000 (.virt 0x20000) = .ok freedHeap := by
  have h : (unsortedHeap.heapAt (unsortedHeap.view 0 0) 0x8000000000020000 (.virt 0x20000)).toOption = some freedHeap := by decide +kernel
  cases hx : unsortedHeap.heapAt (unsortedHeap.view 0 0) 0x8000000000020000 (.virt 0x20000) with
  | error e => rw [hx] at h; cases h
  | ok x => rw [hx] at h; exact congrArg Except.ok (Option.some.inj h)

theorem pointer_unsortedHeap : (unsortedHeap.bank 0 0).ctx.s 1 = 0x8000000000020000 := by decide +kernel

/-- Refutes O43: HFREE of `unsortedHeap` meets every hypothesis of its clause, and the block's state stays 2. The statement nowhere asks for memory in canonical
form, without which a byte that is written need not be the byte that is read. -/
theorem not_foldsAndHeap : ¬ Obligations.FoldsAndHeap := by
  intro h
  obtain ⟨-, -, -, hheap, -⟩ := h unsortedHeap 0 0 1 2 0 0 .f64 0 ⟨0, 0, 0, [], [], [], [], none⟩ freedHeap (.virt 0x20000)
  obtain ⟨-, -, hfree⟩ := hheap quiet_unsortedHeap (by decide +kernel) (by decide +kernel) (by decide +kernel) (by decide +kernel) (by decide +kernel)
    (by rw [show (unsortedHeap.bank 0 0).ctx.s (1 : SReg).val = _ from pointer_unsortedHeap]; exact heapAt_unsortedHeap)
  obtain ⟨-, hblock, -⟩ := hfree (by decide +kernel)
  obtain ⟨y, hy, -, -, hst, -⟩ := hblock 7 (by decide +kernel) (by decide +kernel) (by decide +kernel) (by decide +kernel) (by decide +kernel)
    (by decide +kernel) (by decide +kernel) (by decide +kernel)
  have hleft : y.blockSt freedHeap 7 0 = 2 := by
    have hf := freedState_eq
    unfold freedState at hf
    rw [hy] at hf
    exact hf
  exact absurd (hleft.symm.trans hst) (by decide)

end Sys2Proof.Machine
